-- ==== Sys2Proof/Word.lean ====
section
/-! DEFINITION. The word types and the numbering of units (00_scope.md; 01_six_levels.md R13). -/

namespace Sys2Proof

/-- One byte. -/
abbrev Byte := BitVec 8
/-- A register of the register bus, or an F32 word (R7, R147). -/
abbrev Word := BitVec 32
/-- A scalar register or an instruction word (R212, R214). -/
abbrev Dword := BitVec 64
/-- A device address, or the extended address of an instruction or descriptor memory byte (R15). -/
abbrev Addr := Nat

abbrev CoreId := Fin 1024
abbrev ClusterId := Fin 128
abbrev TowerId := Fin 8
abbrev JobId := Fin 16
abbrev ObjId := Fin 65536
abbrev StackId := Fin 16
abbrev PortId := Fin 16
abbrev LinkId := Fin 32
abbrev GroupId := Fin 64
abbrev PhysId := Fin 136
abbrev LogId := Fin 128
abbrev FnId := Fin 17
abbrev ConvId := Fin 9
abbrev LineId := Fin 4

end Sys2Proof
end

