-- ==== Sys2Proof/Syntax.lean ====
section
/-! DEFINITION. The commands of the block: one constructor of Instr per row of spec/opcode_table.json, with the
operands the model gives the row (log 1). What comes from outside the part (pins, flits, host bytes) and what
physics decides (analogue results, verify levels, test outcomes) is an operand (logs 7, 8, 13). -/

namespace Sys2Proof

/-- The five issue queues of a core (R210). -/
inductive Queue where
  | engine | array | vector | dma | programmer
  deriving DecidableEq, Repr

/-- The severity a stack reports with a 32-byte burst (R263). -/
inductive Severity where
  | clean | corrected | uncorrectable
  deriving DecidableEq, Repr

/-- The HBM bursts that a command reads whose severity is not clean (R263; log 8). -/
abbrev Bursts := List (Nat × Severity)

/-- The two acts of QUEUE_START: the sequencer hands the word at its PC to its queue, or a queue starts its
oldest instruction not yet started (R210, R245; log 5). -/
inductive QStep where
  | issue
  | start (q : Queue) (bursts : Bursts)
  deriving DecidableEq, Repr

/-- What memory outside the device answers while a command runs: bytes of host memory at outbound addresses and the
outcome of the completion (R354, R360), and the HBM bursts it reads whose severity is not clean (R263; log 8). -/
structure HostIn where
  cells : List (Nat × Byte)
  err : Bool
  ep : Bool
  bursts : Bursts
  deriving DecidableEq, Repr

/-- A command stream: a function's registers or its ring (R388). -/
structure Stream where
  fn : FnId
  ring : Bool
  deriving DecidableEq, Repr

/-- A command of a stream for which firmware reads host memory. -/
structure CmdIn where
  stream : Stream
  host : HostIn
  deriving DecidableEq, Repr

/-- One analogue reading of a slot: by how much the signals of the columns or rows, and of the 8 check columns, deviate from
what cells, widths and trims give, in 1/16 LSB (log 7). -/
structure Reading where
  y : List Int
  chk : List Int
  deriving DecidableEq, Repr

/-- One read with what follows it: its spill read (R84), and for a transposed group the minor slot and its spill
(R76); unused parts are empty. -/
structure ReadObs where
  first : Reading
  spill : Reading
  minor : Reading
  minorSpill : Reading
  deriving DecidableEq, Repr

/-- Parity failures that reads of accumulator tiles meet while a command runs: the tile, and how many of its reads go
well before (R145). -/
abbrev TileFaults := List (Fin 256 × Nat)

/-- The read in flight a resolution is about, the oldest read of one physical array (R82), and what its delivery meets in
the accumulator memory and in HBM (R145, R263). -/
structure ReadSel where
  phys : PhysId
  parity : TileFaults
  bursts : Bursts
  deriving DecidableEq, Repr

/-- What a verify read of a cell gives: row, cell column, level in sixteenths (R35). The reads of one cell stand in their
order; a pre-read not given finds the level the cell had, a read after a pulse the target (log 7). -/
structure CellObs where
  row : Fin 512
  col : Fin 520
  level : Nat
  deriving DecidableEq, Repr

/-- The three scrubbed memories of a core (R425). -/
inductive ScrubMem where
  | scratch | imem | desc
  deriving DecidableEq, Repr

/-- An exact contribution to a tile element: a finite value n x 2^e, or a non-finite one (R131, R135). -/
inductive Contrib where
  | fin (n : Int) (e : Int)
  | negZero
  | inf (neg : Bool)
  | nan
  | poisoned
  deriving DecidableEq, Repr

/-- A contribution as it comes to the tile port: for tensor `tid`; `parity`: the read of its element meets a parity
failure (R131, R145). -/
structure TileTerm where
  tid : Fin 4096
  value : Contrib
  parity : Bool
  deriving DecidableEq, Repr

/-- A core whose work runs, and the failures its reads meet: of accumulator tiles, of the words of its scratchpad operands
at the addresses `words`, and of HBM bursts (R126, R145, R263, R424). -/
structure CoreRun where
  core : CoreId
  parity : TileFaults
  words : List Nat
  bursts : Bursts
  deriving DecidableEq, Repr

/-- A job, a collective group or a link that a command is about, and the HBM bursts its work reads that are not clean. -/
structure JobRun where
  job : JobId
  bursts : Bursts
  deriving DecidableEq, Repr
structure GroupRun where
  group : GroupId
  bursts : Bursts
  deriving DecidableEq, Repr
structure LinkRun where
  link : LinkId
  bursts : Bursts
  deriving DecidableEq, Repr

/-- What one column group of a calibration run ends with (R93): the codes found, the samples c_j − e_j of RESID and the row
residuals of RESID_T in 1/16 LSB (R100). -/
structure CalObs where
  slope : BitVec 8
  codes : List (Nat × Nat)
  samples : List Int
  rows : List Int
  deriving DecidableEq, Repr

/-- What a reference trace measures: REFV as the code of channel 21 against the bandgap, whether the open-wire currents
find a pin open, and the trims (R90, R91, R468, R475). -/
structure TraceObs where
  refv : BitVec 14
  openWire : Bool
  vrd : BitVec 10
  vts : BitVec 10
  deriving DecidableEq, Repr

/-- The kinds of trim that end codes are judged for (R92, R95). -/
inductive TrimKind where
  | gain | offset | row
  deriving DecidableEq, Repr

/-- A trim that the first run of a field at bring-up ends with (R95, R417): core, position, the cell column or row
comparator, code. -/
structure FirstTrim where
  core : CoreId
  pos : LogId
  kind : TrimKind
  ix : Fin 520
  code : BitVec 7
  deriving DecidableEq, Repr

/-- The outcome of the test content in a window (R430); `begins`: the core is taken and its window goes on (R239). -/
inductive TestObs where
  | begins
  | pass
  | engines (mask : BitVec 64)
  | core
  deriving DecidableEq, Repr

/-- Who makes a memory access (R268, R276): `unit` is a unit of the device that serves no one job. -/
inductive Who where
  | job (j : JobId)
  | pf
  | firmware
  | unit
  deriving DecidableEq, Repr

/-- The hint of a descriptor (R240, R270). -/
inductive Hint where
  | normal | stream | keep | lastuse
  deriving DecidableEq, Repr

/-- An access on its way from a tower's stop to a home slice; `parity` says the line's parity failed, `severity` what
the stack reports for each burst of the line or grain, clean where the list ends. -/
structure LAccess where
  who : Who
  src : TowerId
  addr : Nat
  write : Option (List Byte)
  hint : Hint
  parity : Bool
  severity : List Severity
  deriving DecidableEq, Repr

/-- A flit header and payload as received in order on a link (R309). -/
structure Flit where
  ftype : BitVec 4
  vclass : BitVec 2
  lane : Bool
  poison : Bool
  seq : BitVec 12
  dst : BitVec 6
  src : BitVec 6
  jfid : BitVec 16
  wpar : BitVec 16
  payload : List Byte
  deriving DecidableEq, Repr

/-- A segment message as reassembled from its COLL flits (R323). -/
structure SegMsg where
  group : GroupId
  opIndex : Nat
  gather : Bool
  shard : Nat
  segment : Nat
  empty : Bool
  contributors : BitVec 64
  scales : List Byte
  data : List Byte
  poison : Bool
  deriving DecidableEq, Repr

/-- CTRL flit fields (R312). -/
structure Ctrl where
  ackSeq : BitVec 12
  nak : Bool
  credits : List (BitVec 16)
  deriving DecidableEq, Repr

/-- HANDSHAKE flit fields (R314). -/
structure Hand where
  devId : Dword
  pos : BitVec 6
  port : BitVec 4
  split : Bool
  half : Bool
  jfid : BitVec 16
  version : BitVec 16
  credits : List Nat
  seen : Bool
  deriving DecidableEq, Repr

/-- Why a flit is rejected (R312); `corrected`: a codeword was, and nothing is rejected (R333; log 167). -/
inductive RejectCause where
  | fec | parity | seq | corrected
  deriving DecidableEq, Repr

/-- Eye figures of one lane: width in 1/1024 UI, height in 0.1 mV (R103). -/
structure Eye where
  width : Nat
  height : Nat
  deriving DecidableEq, Repr

/-- TWIN control flit fields (R342). -/
structure TwinCtl where
  stream : Nat
  streams : Nat
  result : Nat
  copy : Nat
  pieces : Nat
  shardBytes : Nat
  step : Nat
  history : Bool
  lengths : List Nat
  src : BitVec 6
  jfid : BitVec 16
  deriving DecidableEq, Repr

/-- What host software sets in a function's configuration space (R348, R351, R369): the Command register's Memory Space
Enable, SR-IOV's VF Enable, VF Memory Space Enable and NumVFs, the sizes of payloads and read requests as powers above 128
bytes, ECRC generation and checking, the completion time-out, the power state, and the AER status; `identity` is read only
(R409; log 169). -/
inductive CfgField where
  | identity | memEnable | vfEnable | vfMemEnable | numVfs | maxPayload | maxReadRequest | ecrcGenerate | ecrcCheck
  | completionTimeout | powerState | aerStatus
  deriving DecidableEq, Repr

/-- The PCI Express identity and SR-IOV settings of the configuration image (R409). -/
structure PcieId where
  vendor : BitVec 16
  device : BitVec 16
  totalVfs : Fin 17
  deriving DecidableEq, Repr

/-- A request that arrives at a BAR of a function (R350, R352), or with `cfg` at its configuration space (R412). -/
structure BarReq where
  fn : FnId
  cfg : Option CfgField
  bar : Nat
  offset : Nat
  len : Nat
  write : Option (List Byte)
  ep : Bool
  ecrcBad : Bool
  bursts : Bursts
  deriving DecidableEq, Repr

/-- The verdict of checks outside the model (R411, R441, R489): an image's magic, whose value the spec does not give, its
signature under the vendor key and under the owner key in force, and its measurement. -/
structure Verdict where
  magicOk : Bool
  vendorOk : Bool
  ownerOk : Bool
  measure : BitVec 512
  deriving DecidableEq, Repr

/-- What the boot ROM finds in one slot of the NOR device (R410, R411): whether its read completes, its 64-byte header, and
the verdict. -/
structure SlotObs where
  readable : Bool
  header : List Byte
  verdict : Verdict
  deriving DecidableEq, Repr

/-- A port that the board configuration image lists for bring-up training (R409, R418): split, variant, the expected
partner of each link as in FAB_PORT_CFG, and credits per lane. -/
structure PortCfg where
  port : PortId
  split : Bool
  copper : Bool
  partner0 : BitVec 16
  partner1 : BitVec 16
  credits : Nat × Nat × Nat
  deriving DecidableEq, Repr

/-- What BOOT finds (R409 to R414, R489, R492): the NOR device and bytes 0 to 5 of its directory, the slots, the lock
region, Campion pairs that failed, the PUF check, and what the configuration image holds. -/
structure BootObs where
  spiOk : Bool
  dir : List Byte
  lockOk : Bool
  cfgA : SlotObs
  cfgB : SlotObs
  fwA : SlotObs
  fwB : SlotObs
  pairFail : Fin 3
  pufOk : Bool
  ident : PcieId
  cap : Nat
  ports : List PortCfg
  deriving DecidableEq, Repr

/-- The pins as PWR_OK rises: NWL_POS, and PERST# and SYS_RST_N where they are low (R297, R406, R423). -/
structure PowerOn where
  pos : BitVec 6
  perst : Bool
  sysRst : Bool
  deriving DecidableEq, Repr

/-- One conversion's outcome: the code at the sample instant (R467). -/
structure ConvObs where
  code : BitVec 14
  bufError : Bool
  deriving DecidableEq, Repr

/-- An island lost (R431). -/
abbrev IslandId := Fin 25

/-- How a link's training ends (R308). -/
inductive TrainObs where
  | trained (eyes : List Eye)
  | failed
  deriving DecidableEq, Repr

/-- How an outbound request of a Bindweed entry ends (R360); `ep`: the host bytes that came with the EP bit set. -/
structure BwObs where
  hostErr : Bool
  ep : List (Nat × Nat)
  moved : Nat
  cells : List (Nat × Byte)
  bursts : Bursts
  deriving DecidableEq, Repr

/-- Levels of TMS and TDI at a rising TCK, or TRST_N low (R510). -/
inductive TapIn where
  | trst
  | tck (tms : Bool) (tdi : Bool)
  deriving DecidableEq, Repr

/-- The commands of the block. -/
inductive Instr where
  /-- NOP (R223): Issues and does nothing for one cycle. -/
  | nop (c : CoreId)
  /-- ADD (R217): Writes the 64-bit sum of srcA and b to dst. -/
  | add (c : CoreId)
  /-- SUB (R217): Writes the 64-bit difference of srcA and b to dst. -/
  | sub (c : CoreId)
  /-- MUL (R217): Writes the low 64 bits of the product of srcA and b to dst. -/
  | mul (c : CoreId)
  /-- AND (R217): Writes the bitwise AND of srcA and b to dst. -/
  | andI (c : CoreId)
  /-- OR (R217): Writes the bitwise OR of srcA and b to dst. -/
  | orI (c : CoreId)
  /-- XOR (R217): Writes the bitwise XOR of srcA and b to dst. -/
  | xor (c : CoreId)
  /-- SHL (R217): Shifts srcA left by b[5:0] into dst. -/
  | shl (c : CoreId)
  /-- SHR (R217): Shifts srcA logically right by b[5:0] into dst. -/
  | shr (c : CoreId)
  /-- SRA (R217): Shifts srcA arithmetically right by b[5:0] into dst. -/
  | sra (c : CoreId)
  /-- MIN (R217): Writes the signed minimum of srcA and b to dst. -/
  | minI (c : CoreId)
  /-- MAX (R217): Writes the signed maximum of srcA and b to dst. -/
  | maxI (c : CoreId)
  /-- CMPEQ (R217): Writes 1 to dst if srcA equals b, else 0. -/
  | cmpeq (c : CoreId)
  /-- CMPLT (R217): Writes 1 to dst if srcA is less than b as signed values, else 0. -/
  | cmplt (c : CoreId)
  /-- CMPLTU (R217): Writes 1 to dst if srcA is less than b as unsigned values, else 0. -/
  | cmpltu (c : CoreId)
  /-- INS32 (R217): Replaces bits 63:32 of srcA with imm and writes the result to dst. -/
  | ins32 (c : CoreId)
  /-- LD (R218): Loads 8 to 64 bits from scratchpad, descriptor memory or a DA into a register, with alignment, address and poison faults. -/
  | ld (c : CoreId) (h : HostIn)
  /-- ST (R218): Stores 8 to 64 bits to scratchpad, descriptor memory or a DA; posted in space 2. -/
  | st (c : CoreRun)
  /-- MFS (R222): Reads a special register selected by imm into a scalar register. -/
  | mfs (c : CoreId)
  /-- MTS (R222): Writes a writable special register such as a token counter. -/
  | mts (c : CoreId)
  /-- DSET (R221): Writes a descriptor slot as valid with an entry index. -/
  | dset (c : CoreId)
  /-- BR (R223): Branches relative or absolute, popping any loop whose body the target leaves. -/
  | br (c : CoreId)
  /-- LOOP (R224): Pushes a hardware loop of L words repeated n times. -/
  | loop (c : CoreId)
  /-- CALL (R223): Pushes PC + 1 and branches. -/
  | call (c : CoreId)
  /-- RET (R223): Pops the return stack into PC. -/
  | ret (c : CoreId)
  /-- HALT (R223): Stops issue on the core. -/
  | halt (c : CoreId)
  /-- CORE_HALTED (R223): After HALT, the core becomes HALTED once every queue has completed its instructions. -/
  | coreHalted (c : CoreId)
  /-- SYW_TOKEN (R225): Holds the sequencer until a token counter reaches v. -/
  | sywToken (c : CoreId)
  /-- SYW_GE (R225): Registers a wait until an object count is at least v. -/
  | sywGe (c : CoreId)
  /-- SYW_EQ (R225): Registers a wait until an object count equals v. -/
  | sywEq (c : CoreId)
  /-- SYW_RESUME (R225): Issue resumes 2 cycles after the wait condition is seen at the core. -/
  | sywResume (c : CoreId)
  /-- LONG_WAIT (R225): A SYW exceeds SEQ_CFG.wait_limit; long_wait is set and the wait continues. -/
  | longWait (c : CoreId)
  /-- SYS_SIGNAL (R226): Sends SIGNAL(+n) to a local object, or by Stolud message to another package. -/
  | sysSignal (c : CoreId)
  /-- SYS_RESET (R226): Sends RESET to a local object. -/
  | sysReset (c : CoreId)
  /-- SYS_ARRIVE (R226): Sends ARRIVE to a local object. -/
  | sysArrive (c : CoreId)
  /-- SYS_AFTER_SEND (R226): Sends a deferred SYS operation once every earlier instruction of the named queues has completed. -/
  | sysAfterSend (c : CoreId)
  /-- FENCE (R227): Holds the sequencer until the masked queues complete and, with vis, their writes are visible. -/
  | fence (c : CoreId)
  /-- FENCE_RESUME (R227): Issue resumes 1 cycle after the fence's last condition is met. -/
  | fenceResume (c : CoreId)
  /-- QUEUE_START (R245): A queue starts an instruction, fetches and validates its descriptors and parameter block, faulting at issue on failure. -/
  | queueStart (c : CoreId) (k : QStep)
  /-- MMA (R108): Runs a matrix product as passes of stationary B blocks on the mesh or the lanes into accumulator tiles. -/
  | mma (c : CoreRun)
  /-- ARD (R66): Issues forward array reads of selected row groups and adds or replaces results in tiles. -/
  | ard (c : CoreRun)
  /-- ART (R76): Issues transposed array reads, driving column groups and sensing row lines. -/
  | art (c : CoreRun)
  /-- APG_LOAD (R254): Loads a logical array from master weights and column scales. -/
  | apgLoad (c : CoreRun) (obs : List CellObs)
  /-- APG_TRANSFER (R52): Scans a master tile and enqueues weights whose target moved by at least theta. -/
  | apgTransfer (c : CoreRun)
  /-- PRELOAD_BIAS (R130): Writes whole tiles from one bias row, leaving them PRELOADED. -/
  | preloadBias (c : CoreRun)
  /-- PRELOAD_RESID (R130): Writes whole tiles from a 16 by 16 source, leaving them PRELOADED. -/
  | preloadResid (c : CoreRun)
  /-- MUPD (R170): Applies an F32 update to F32X master weights with 39-bit rounding. -/
  | mupd (c : CoreRun)
  /-- WFLUSH (R175): Flushes all watcher cache entries into the statistics region. -/
  | wflush (c : CoreRun)
  /-- WSTEP (R177): Closes a step: updates norms and amax history, clears the other bank and switches banks. -/
  | wstep (c : CoreRun)
  /-- WCHECK (R182): Judges a layer's open-step norm and escalates its level if a jump is found. -/
  | wcheck (c : CoreRun)
  /-- WPROBE (R187): Rebuilds the amax history from probe-pass counts and sets hist_state REBUILT. -/
  | wprobe (c : CoreRun)
  /-- SCALEGEN (R185): Writes SF8 scales derived from the amax history for a tensor id. -/
  | scalegen (c : CoreRun)
  /-- VOP_ADD (R256): Elementwise a + b into dC. -/
  | vopAdd (c : CoreRun)
  /-- VOP_SUB (R256): Elementwise a − b into dC. -/
  | vopSub (c : CoreRun)
  /-- VOP_MUL (R256): Elementwise a × b into dC. -/
  | vopMul (c : CoreRun)
  /-- VOP_FMA (R256): Elementwise a × b + c with one rounding into dC. -/
  | vopFma (c : CoreRun)
  /-- VOP_MAX (R256): Elementwise maximum into dC. -/
  | vopMax (c : CoreRun)
  /-- VOP_MIN (R256): Elementwise minimum into dC. -/
  | vopMin (c : CoreRun)
  /-- CVT (R256): Converts a into dC's format. -/
  | cvt (c : CoreRun)
  /-- SFU (R167): Evaluates a special function elementwise. -/
  | sfu (c : CoreRun)
  /-- SCALE (R256): Multiplies a by 2^shift into dC. -/
  | scale (c : CoreRun)
  /-- COLSUM (R256): Writes column sums of dA into dC. -/
  | colsum (c : CoreRun)
  /-- SOFTMAX_BWD (R204): Two-pass VRED2 computing the soft-maximum backward step per row. -/
  | softmaxBwd (c : CoreRun)
  /-- NORM_BWD (R205): Two-pass VRED2 computing the normalisation backward step per row. -/
  | normBwd (c : CoreRun)
  /-- DRN (R258): Drains tiles through an epilogue into an output tensor and leaves them EMPTY. -/
  | drn (c : CoreRun)
  /-- DMA_COPY (R260): Copies a tensor, moving scales or tails with the elements. -/
  | dmaCopy (c : CoreId) (h : HostIn)
  /-- DMA_TRANSPOSE (R122): Moves a 2-D tile between HBM or Landing and scratchpad, writing its transpose. -/
  | dmaTranspose (c : CoreId) (h : HostIn)
  /-- DMA_CONVERT (R260): Converts a tensor into another format with one rounding. -/
  | dmaConvert (c : CoreId) (h : HostIn)
  /-- DMA_TRANSPOSE_CONVERT (R123): Transposes and converts into a narrow or block format in one move. -/
  | dmaTransposeConvert (c : CoreId) (h : HostIn)
  /-- INSTRUCTION_COMPLETE (R232): A queue instruction completes, counts its token in issue order and writes sD and pD. -/
  | instructionComplete (c : CoreId) (q : Queue) (failed : Dword)
  /-- DESC_STORE_RELEASE (R220): A held store or DMA write into a descriptor entry takes effect once earlier instructions have fetched it. -/
  | descStoreRelease (c : CoreId)
  /-- READ_RESOLVE (R80): An array read's checks pass, repeat, or end DOUBTFUL, and the result is delivered. -/
  | readResolve (c : CoreId) (sel : ReadSel) (obs : List ReadObs)
  /-- BANISTER_REFEREE (R438): Banister recomputes a DOUBTFUL read from master weights and delivers a verdict. -/
  | banisterReferee (c : CoreId) (sel : ReadSel)
  /-- TILE_CONTRIBUTION (R131): A contribution is added to a tile element with one rounding. -/
  | tileContribution (c : CoreId) (tile : Fin 256) (i : Fin 16) (j : Fin 16) (grad : Bool) (v : TileTerm)
  /-- TILE_SCRUB (R145): The background scrub reads every non-EMPTY tile element, poisoning tiles on parity failure. -/
  | tileScrub (c : CoreId) (tile : Fin 256) (i : Fin 16) (j : Fin 16) (bad : Bool)
  /-- MEMORY_SCRUB (R425): The core scrub reads scratchpad, instruction and descriptor memory, marking failing words poisoned. -/
  | memoryScrub (c : CoreId) (m : ScrubMem) (w : Nat) (bad : Bool)
  /-- SYNC_OBJECT_SCRUB (R292): The scrub reads synchronisation objects and poisons any that fail parity. -/
  | syncObjectScrub (o : ObjId) (bad : Bool)
  /-- PROGRAM_BATCH (R47): The programmer writes and verifies a batch of up to 64 cells in rounds. -/
  | programBatch (c : CoreRun) (rounds : List (List Nat))
  /-- PROGRAM_BURST (R55): The programmer writes an array in a burst of at most 4 rounds, then yields to waiting reads. -/
  | programBurst (c : CoreRun) (rounds : List (List Nat))
  /-- SPARE_SWITCH (R51): When a spare's load finishes, the remap entry switches between two read slots and the old array is retired. -/
  | spareSwitch (c : CoreRun) (l : LogId) (obs : List CellObs)
  /-- FENCED_SPARE_LOAD (R19): A fenced array's position is loaded onto a spare, releasing waiting array instructions. -/
  | fencedSpareLoad (c : CoreRun) (l : LogId) (obs : List CellObs)
  /-- REFRESH_TIMER (R61): An array's refresh interval expires and a refresh starts. -/
  | refreshTimer (c : CoreId) (a : PhysId)
  /-- ARRAY_REFRESH_RUN (R61): A refresh recomputes targets batch by batch and rewrites drifted cells. -/
  | arrayRefreshRun (c : CoreRun) (a : PhysId) (rounds : List (List Nat))
  /-- WEAR_LOG_WRITE (R45): Firmware writes the wear log after a retirement or rotation, or every 10 minutes. -/
  | wearLogWrite
  /-- FIELD_DUE (R96): A field's temperature moves by more than ΔT_cal and it becomes due for calibration. -/
  | fieldDue (t : TowerId) (core : Fin 128)
  /-- CAL_GROUP (R93): A calibration controller runs one column group of an array's run, copying trims at the end of group 9. -/
  | calGroup (c : CoreId) (obs : CalObs)
  /-- RETRACE (R90): A tower re-traces its references, pausing field runs. -/
  | retrace (t : TowerId) (obs : TraceObs)
  /-- TRACE_RETRY (R91): After a runtime reference fault, the tower retries a re-trace every 100 ms. -/
  | traceRetry (t : TowerId) (obs : TraceObs)
  /-- CAL_STARVED (R98): A field due for more than 1 s without completing sets starved. -/
  | calStarved (c : CoreId)
  /-- TEST_WINDOW (R428): Teasel takes a core at a test point and runs the test pack, passing or fencing it. -/
  | testWindow (c : CoreRun) (obs : TestObs)
  /-- FORCED_WINDOW (R428): With no test point by 100 ms before the period ends, Teasel forces a window and tiles are lost. -/
  | forcedWindow (c : CoreRun) (obs : TestObs)
  /-- LANDING_ACCESS (R270): An access reaches its home slice and is served by hint handling. -/
  | landingAccess (a : LAccess)
  /-- LANDING_FILL (R272): A line fill from HBM completes into the slice. -/
  | landingFill (who : Who) (addr : Nat) (hint : Hint) (sev : List Severity)
  /-- FINE_GRAIN (R274): A 64-byte grain probes the home slice and goes to the controller on a miss. -/
  | fineGrain (a : LAccess)
  /-- HBM_ADMIT (R277): A waiting request is admitted once its partition bucket holds its cost. -/
  | hbmAdmit (t : TowerId) (half : Fin 2) (j : JobId) (idle : Bool) (cycles : Nat)
  /-- PATROL_SCRUB (R279): The patrol scrub reads bursts of its stack and builds the candidate list. -/
  | patrolScrub (k : StackId) (addr : Nat) (sev : Severity) (last : Bool)
  /-- HBM_TEMP_READ (R263): The controller reads the stack temperature every 1 ms. -/
  | hbmTempRead (k : StackId) (temp : BitVec 8)
  /-- HBM_REFRESH (R263): The controller issues a per-bank refresh. -/
  | hbmRefresh (k : StackId)
  /-- GALLERY_REPLAY (R285): A hop whose word fails parity is replayed from the sending stop. -/
  | galleryReplay (t : TowerId)
  /-- SIGNAL (R287): The home arbiter adds n to an object's count. -/
  | signal (o : ObjId) (port : Fin 12) (n : Word)
  /-- RESET (R287): The home arbiter writes an object's count to 0. -/
  | reset (o : ObjId) (port : Fin 12)
  /-- ARRIVE (R287): The home arbiter adds 1 to an object's count. -/
  | arrive (o : ObjId) (port : Fin 12)
  /-- COMPLETION (R300): The home arbiter subtracts target from a barrier's arrive object and signals done. -/
  | completion (b : LineId)
  /-- WAIT_REGISTER (R288): A wait registers at the home arbiter and is evaluated. -/
  | waitRegister (c : CoreId)
  /-- NEWEL_STATE_REPORT (R302): An arbiter's count report crosses into CK_NWL and may release a barrier line. -/
  | newelStateReport (b : LineId)
  /-- BARRIER_COMPLETION (R300): An edge samples a bound NWL_BAR line high; the device records a completion and drives the line low. -/
  | barrierCompletion (b : LineId)
  /-- NWL_TRIG_FALL (R303): A falling NWL_TRIG is one snapshot trigger. -/
  | nwlTrigFall
  /-- FENCE_REQUEST (R303): Two consecutive low samples of NWL_FENCE form a fence request acted on per fence_act. -/
  | fenceRequest
  /-- NWL_CLK_LOST (R298): The NWL_CLK loss detector fires and Newel outputs hold. -/
  | nwlClkLost
  /-- NWL_CLK_RETURN (R298): The Newel interface resumes on the first edge after the clock returns. -/
  | nwlClkReturn
  /-- NWL_BIND_WRITE (R299): Host software binds a Newel line to a barrier, or is refused. -/
  | nwlBindWrite (b : LineId) (second : Bool) (v : Word)
  /-- NWL_FENCE_HOLD (R303): Writing fence_hold drives or releases NWL_FENCE. -/
  | nwlFenceHold (hold : Bool)
  /-- SIG_FLIT (R316): A SIG flit is received and delivered, forwarded or dropped. -/
  | sigFlit (l : LinkId) (f : Flit)
  /-- COLL_FLIT (R323): A COLL flit of a segment message is received and checked. -/
  | collFlit (l : LinkId) (f : Flit) (bursts : Bursts)
  /-- CTRL_FLIT (R312): A CTRL flit returns acknowledgements and credits, or a NAK that starts a replay. -/
  | ctrlFlit (l : LinkId) (f : Ctrl)
  /-- CTRL_FLIT_SEND (R312): A receiver sends a CTRL flit after 32 accepted flits or within 100 ns of an unacknowledged one. -/
  | ctrlFlitSend (l : LinkId)
  /-- FLIT_REJECT (R312): A flit failing FEC, parity or sequence is discarded and a NAK is sent. -/
  | flitReject (l : LinkId) (why : RejectCause)
  /-- PROTO (R310): A flit of a reserved type is discarded. -/
  | proto (l : LinkId) (f : Flit)
  /-- HANDSHAKE (R314): A HANDSHAKE flit is received and the link may become UP or fail. -/
  | handshake (l : LinkId) (f : Hand)
  /-- HANDSHAKE_SEND (R314): Each end sends a HANDSHAKE flit every 100 µs. -/
  | handshakeSend (l : LinkId)
  /-- NO_PARTNER (R314): No valid HANDSHAKE within 10 ms fails the link. -/
  | noPartner (l : LinkId)
  /-- REPLAY_EXHAUSTED (R313): A flit resent 8 times without acknowledgement takes the link DOWN. -/
  | replayExhausted (l : LinkId)
  /-- LINK_DOWN (R313): 1 ms without ack_seq advancing takes the link DOWN and loses its replay buffer. -/
  | linkDown (l : LinkId)
  /-- EYE_MEASURE (R308): The eye monitor measures every lane every 10 s while the link is up. -/
  | eyeMeasure (l : LinkId) (eyes : List Eye)
  /-- COLL_START (R319): A group's start wait releases and the engine runs the next operation record. -/
  | collStart (g : GroupRun)
  /-- COLL_DEADLINE (R326): An operation deadline expires and the rank or a child becomes an empty contributor. -/
  | collDeadline (g : GroupId) (child : Option Bool)
  /-- COLL_LATE_START (R326): A late start release holds or drops the contribution under the straggler policy. -/
  | collLateStart (g : GroupId)
  /-- OP_TIMEOUT (R329): An operation not completed within op_timeout ends TIMEOUT. -/
  | opTimeout (g : GroupId)
  /-- COLL_COMPLETE (R319): An operation completes, writes its record and signals done. -/
  | collComplete (g : GroupRun)
  /-- TWIN_GATE (R339): The mover's gate wait releases at a twin point and it resumes the job or starts a copy. -/
  | twinGate (j : JobId)
  /-- TWIN_COPY (R340): The mover streams the shard to the partner over the named links. -/
  | twinCopy (j : JobRun)
  /-- TWIN_DATA (R340): The partner receives a shard piece and writes it into the slot. -/
  | twinData (l : LinkRun) (f : Flit)
  /-- OPEN (R342): A TWIN OPEN flit begins a stream at the partner. -/
  | openTwin (l : LinkId) (f : Flit)
  /-- CLOSE (R340): A TWIN CLOSE flit ends a stream; the last one leads to the header write and COMMIT. -/
  | closeTwin (l : LinkRun) (f : Flit)
  /-- COMMIT (R340): On COMMIT the mover records the committed copy and resumes the job. -/
  | commitTwin (l : LinkId) (f : Flit)
  /-- ABORT (R346): A TWIN ABORT flit fails the copy and the partial slot is discarded. -/
  | abortTwin (l : LinkId) (f : Flit)
  /-- PULL (R345): A PULL makes the partner stream its matching valid slot back. -/
  | pullTwin (l : LinkRun) (f : Flit)
  /-- TWIN_OPEN_TIMEOUT (R346): No answer to OPEN within 10 ms fails the copy with NO_PARTNER. -/
  | twinOpenTimeout (j : JobId)
  /-- TWIN_STREAM_TIMEOUT (R346): No flit of an open copy for 100 ms discards the partial slot. -/
  | twinStreamTimeout (src : BitVec 6) (jfid : BitVec 16)
  /-- INBOUND_REQUEST (R352): A host BAR request is served or refused as Unsupported Request. -/
  | inboundRequest (r : BarReq)
  /-- FLR_VF (R355): A Function Level Reset of a VF halts its job and cancels its commands and entries. -/
  | flrVf (j : JobId)
  /-- FLR_PF (R355): A Function Level Reset of the PF does so for every job and resets the PF mailbox. -/
  | flrPf
  /-- PCIE_LINK_DOWN (R349): The PCI Express link goes down, ending outbound requests with host error. -/
  | pcieLinkDown
  /-- BINDWEED_PUSH (R357): Bindweed's push wait releases and it reads the next entry. -/
  | bindweedPush (j : JobRun)
  /-- PREFETCH_START (R359): A PREFETCH becomes eligible as progress advances and starts. -/
  | prefetchStart (j : JobId)
  /-- BINDWEED_ENTRY_DONE (R360): An entry completes with its status and signals its done object. -/
  | bindweedEntryDone (j : JobId) (k : Nat) (obs : BwObs)
  /-- MBX_DOORBELL (R386): Writing the doorbell submits the register command, or is ignored while busy. -/
  | mbxDoorbell (f : FnId)
  /-- MBX_RING_TAIL (R387): Host software advances the ring tail, submitting entries. -/
  | mbxRingTail (f : FnId) (v : Word)
  /-- MBX_CPL_HEAD (R387): Host software advances the completion head, freeing completion room. -/
  | mbxCplHead (f : FnId) (v : Word)
  /-- MBX_RING_ENABLE (R387): Setting or clearing the ring enable starts the ring or moves it through STOPPING. -/
  | mbxRingEnable (f : FnId) (v : Word)
  /-- COMMAND_START (R389): Firmware starts a command from the streams by rotating arbitration and checks it. -/
  | commandStart (s : Stream) (h : HostIn)
  /-- COMMAND_BOUND (R390): A wait command reaching its bound responds PARTIAL and continues in background. -/
  | commandBound (s : Stream)
  /-- LOCKSTEP_MISMATCH (R381): The active Campion pair fails its compare and the spare pair takes over. -/
  | lockstepMismatch
  /-- DEV_QUERY (R395): Returns a page of device identity and state. -/
  | devQuery (s : Stream)
  /-- JOB_CREATE (R396): Creates a job and maps its statistics region. -/
  | jobCreate (s : Stream)
  /-- JOB_DESTROY (R397): Halts and tears down a job and leaves it NONE. -/
  | jobDestroy (s : Stream)
  /-- JOB_ASSIGN_CLUSTERS_ASSIGN (R398): Assigns clusters to a job atomically, clearing them first. -/
  | jobAssignClustersAssign (s : Stream)
  /-- JOB_ASSIGN_CLUSTERS_RELEASE (R398): Releases clusters from a job atomically, clearing them. -/
  | jobAssignClustersRelease (s : Stream)
  /-- MEM_MAP (R399): Creates an HBM or host-window mapping for the job. -/
  | memMap (s : Stream)
  /-- MEM_UNMAP (R399): Removes a mapping, invalidating its Landing lines. -/
  | memUnmap (s : Stream)
  /-- PART_SET_RATE (R284): Sets a partition's bandwidth regulator fields on named stacks. -/
  | partSetRate (s : Stream)
  /-- PROG_LOAD (R400): Loads or clears program images on named cores. -/
  | progLoad (x : CmdIn)
  /-- LAUNCH (R401): Starts every core of the job that holds an image. -/
  | launch (s : Stream)
  /-- HALT_JOB (R402): Stops every launched core of the job at its next boundary. -/
  | haltJob (s : Stream)
  /-- JOB_IDLE (R394): The job becomes IDLE once every launched core is HALTED or FAULTED. -/
  | jobIdle (j : JobId)
  /-- ARRAY_PROGRAM (R403): Loads arrays of one core from master weights without a program. -/
  | arrayProgram (x : CmdIn) (obs : List (Nat × CellObs))
  /-- ARRAY_TRANSFER_POLICY (R404): Writes PRG_POLICY theta and batch_atomic for the job's cores. -/
  | arrayTransferPolicy (s : Stream)
  /-- ARRAY_REFRESH (R404): Starts refreshes of a range of arrays. -/
  | arrayRefresh (f : FnId) (ring : Bool)
  /-- CAL_RUN (R104): Queues calibration at a scope, or a re-trace. -/
  | calRun (s : Stream)
  /-- CAL_POLICY (R104): Sets auto calibration and ΔT_cal for towers. -/
  | calPolicy (s : Stream)
  /-- CAL_QUALITY (R104): Writes array or lane quality records to a buffer. -/
  | calQuality (s : Stream)
  /-- FAB_PORT_CFG_PORT (R332): Configures a port's split, variant, job-fabric ids, partners and credits. -/
  | fabPortCfgPort (s : Stream)
  /-- FAB_PORT_CFG_ROUTE (R332): Writes one route table entry. -/
  | fabPortCfgRoute (s : Stream)
  /-- FAB_TRAIN_TRAIN (R332): Trains a port and runs the handshake. -/
  | fabTrainTrain (s : Stream)
  /-- FAB_TRAIN_TAKE_DOWN (R332): Takes a port's links down. -/
  | fabTrainTakeDown (s : Stream)
  /-- FAB_TRAIN_RETRAIN (R332): Retrains a port. -/
  | fabTrainRetrain (s : Stream)
  /-- COLL_GROUP_CREATE (R318): Creates a collective group at this rank. -/
  | collGroupCreate (s : Stream)
  /-- COLL_GROUP_DESTROY (R329): Destroys a group, aborting its operation and dropping deferrals. -/
  | collGroupDestroy (s : Stream)
  /-- STRAGGLER_POLICY (R325): Sets the job's straggler policy, deadline and op_timeout. -/
  | stragglerPolicy (s : Stream)
  /-- TWIN_CFG_SOURCE (R337): Configures a job as twin-copy source. -/
  | twinCfgSource (s : Stream)
  /-- TWIN_CFG_HOLD (R338): Configures a hold area for a source. -/
  | twinCfgHold (s : Stream)
  /-- TWIN_CFG_REMOVE (R347): Removes a SOURCE or a HOLD configuration. -/
  | twinCfgRemove (s : Stream)
  /-- TWIN_CFG_QUERY (R347): Returns the committed copy and twin points since. -/
  | twinCfgQuery (s : Stream)
  /-- TWIN_COPY_NOW (R339): Makes the next twin point due. -/
  | twinCopyNow (s : Stream)
  /-- TWIN_RESTORE (R345): Pulls a committed copy back from the partner into the job's regions. -/
  | twinRestore (s : Stream)
  /-- TEST_PACK_LOAD (R441): Verifies and installs a test pack. -/
  | testPackLoad (s : Stream) (h : HostIn) (v : Verdict)
  /-- TEST_SCHEDULE_SET (R443): Sets the test period and enables or disables the schedule. -/
  | testScheduleSet (s : Stream)
  /-- TEST_NOW (R443): Runs a window on a named core at its next test point. -/
  | testNow (s : Stream) (obs : TestObs)
  /-- TEST_SCHEDULE_FENCE (R443): Fences a named core, engine or array. -/
  | testScheduleFence (s : Stream)
  /-- FENCE_QUERY_FENCES (R443): Writes records of current fences. -/
  | fenceQueryFences (s : Stream)
  /-- FENCE_QUERY_NOTIFY (R443): Writes job notification records. -/
  | fenceQueryNotify (s : Stream)
  /-- READMIT (R432): Tests a fenced unit and returns it to service if it passes. -/
  | readmit (s : Stream) (obs : List (Nat × TestObs))
  /-- CTR_ACCESS_GRANT (R459): Makes the job's dump region readable by the job. -/
  | ctrAccessGrant (s : Stream)
  /-- CTR_ACCESS_REVOKE (R459): Removes the job's reach to its dump region. -/
  | ctrAccessRevoke (s : Stream)
  /-- CTR_DUMP_ENABLE (R458): Allocates and enables a job dump region. -/
  | ctrDumpEnable (s : Stream)
  /-- CTR_DUMP_DISABLE (R458): Disables and frees a job dump region. -/
  | ctrDumpDisable (s : Stream)
  /-- SNAP_ARM (R462): Arms Yarrow with sources, scope and destination. -/
  | snapArm (s : Stream)
  /-- SNAP_DISARM (R462): Disarms Yarrow. -/
  | snapDisarm (s : Stream)
  /-- SNAP_TRIGGER_NOW (R462): Triggers a snapshot at once with cause 5. -/
  | snapTriggerNow (s : Stream)
  /-- SENSOR_CFG_CONVERTER (R480): Configures a converter's trigger, sync, alarm, delay and timer. -/
  | sensorCfgConverter (s : Stream)
  /-- SENSOR_CFG_SEQUENCE (R480): Writes regular or injected sequence entries. -/
  | sensorCfgSequence (s : Stream)
  /-- SENSOR_CFG_BUFFER (R480): Allocates, sets or removes a converter's result buffer. -/
  | sensorCfgBuffer (s : Stream)
  /-- SENSOR_CFG_ALARM (R480): Sets the thermal alarm thresholds. -/
  | sensorCfgAlarm (s : Stream)
  /-- ATTEST_REPORT (R493): Signs and writes an attestation report. -/
  | attestReport (s : Stream) (sig : List Byte)
  /-- FW_UPDATE_FIRMWARE (R494): Verifies and writes a firmware image to the slot not booted. -/
  | fwUpdateFirmware (s : Stream) (h : HostIn) (v : Verdict)
  /-- FW_UPDATE_CONFIGURATION (R494): Verifies and writes a configuration image to the slot not booted. -/
  | fwUpdateConfiguration (s : Stream) (h : HostIn) (v : Verdict)
  /-- FW_UPDATE_OWNER (R491): Verifies and applies an owner enrolment record. -/
  | fwUpdateOwner (s : Stream) (h : HostIn) (v : Verdict)
  /-- FW_UPDATE_RAISE (R494): Raises the minimum security versions to those running. -/
  | fwUpdateRaise (s : Stream)
  /-- HBM_REPAIR_QUERY (R280): Returns repair capacity and candidate rows of a stack. -/
  | hbmRepairQuery (s : Stream)
  /-- HBM_REPAIR_APPLY (R281): Applies a soft or hard row repair. -/
  | hbmRepairApply (s : Stream)
  /-- OFFLOAD_CFG_ENABLE (R356): Enables a job's Bindweed queue. -/
  | offloadCfgEnable (s : Stream)
  /-- OFFLOAD_CFG_DISABLE (R356): Disables a job's queue, cancelling entries not started. -/
  | offloadCfgDisable (s : Stream)
  /-- POWER_CAP_SET (R486): Sets the package cap and tower ceilings. -/
  | powerCapSet (s : Stream)
  /-- SORREL_CUT (R452): Every dump period Sorrel takes a cut and writes device and job records. -/
  | sorrelCut
  /-- CUT_SKIPPED (R453): A period expiring during a cut skips the next cut. -/
  | cutSkipped
  /-- HEALTH_MONITOR_WINDOW (R461): A counter monitor's window ends and it compares the increase with its threshold. -/
  | healthMonitorWindow (m : Fin 272)
  /-- YARROW_TRIGGER (R463): A snapshot source fires and Yarrow latches every block and writes a record. -/
  | yarrowTrigger (cause : Fin 4) (detail : Nat)
  /-- OBS_CNT_LO_READ (R451): Reading OBS_CNT_LO returns the low word and latches the high word. -/
  | obsCntLoRead
  /-- OBS_FREEZE (R460): Writing freeze stops or restarts every counter. -/
  | obsFreeze (freeze : Bool)
  /-- SNS_REGULAR_TRIGGER (R472): A regular trigger starts the regular sequence, or is dropped if it is running. -/
  | snsRegularTrigger (k : ConvId)
  /-- SNS_URGENT_TRIGGER (R473): An urgent trigger starts the injected sequence after the conversion in progress. -/
  | snsUrgentTrigger (k : ConvId) (src : BitVec 4)
  /-- SNS_CONVERSION (R467): A conversion completes and its result is written and buffered. -/
  | snsConversion (k : ConvId) (obs : ConvObs)
  /-- INJ_NOW (R473): Writing inj_now fires a software urgent trigger. -/
  | injNow (k : ConvId)
  /-- REG_NOW (R472): Writing reg_now fires a software regular trigger. -/
  | regNow (k : ConvId)
  /-- POWER_INTERVAL (R485): Every 20 µs the power manager estimates power and steps frequencies and the slot gate. -/
  | powerInterval (estimate : Nat)
  /-- POWER_BIAS_CORRECT (R485): Every 1 ms the estimate's bias is corrected against measured board power. -/
  | powerBiasCorrect
  /-- FREQ_GLIDE (R484): The tower PLL glides by one code per 100 ns. -/
  | freqGlide (t : TowerId)
  /-- VOLTAGE_RAMP_DONE (R484): A commanded voltage ramp completes and the operating-point change proceeds. -/
  | voltageRampDone (t : TowerId) (portError : Bool)
  /-- THERMAL_HOLD_RAISE (R487): 1 ms after a hold ends, and every ms after, the tower's F rises by one code. -/
  | thermalHoldRaise (t : TowerId)
  /-- THERMTRIP (R488): A diode reaches the trip point; THERMTRIP_N goes low and every clock stops. -/
  | thermtrip (t : TowerId)
  /-- CLOCK_LOSS_TOWER (R28): CK_COREt or CK_ARRt is lost and the tower is fenced. -/
  | clockLossTower (t : TowerId) (arr : Bool)
  /-- CLOCK_LOSS_ISLAND (R431): Another island loses its clock with the consequences of its row. -/
  | clockLossIsland (i : IslandId)
  /-- REGISTER_BUS_TIMEOUT (R371): An access to a stopped island ends with a bus error within 2 µs. -/
  | registerBusTimeout (addr : Nat) (write : Bool)
  /-- BLOCK_ENABLE (R375): Writing enable 1 moves a DISABLED block to ENABLED, or is ignored in STOPPING. -/
  | blockEnable (addr : Nat) (second : Bool)
  /-- BLOCK_DISABLE (R375): Writing enable 0 moves an ENABLED block to STOPPING. -/
  | blockDisable (addr : Nat) (second : Bool)
  /-- BLOCK_STOPPED (R375): A STOPPING block finishes its stopping work and becomes DISABLED. -/
  | blockStopped (addr : Nat) (second : Bool)
  /-- REGISTER_WRITE (R8): A write to a register with no row of its own applies its access-type rules. -/
  | registerWrite (addr : Nat) (v : Word)
  /-- REFRESH_NOW (R63): Writing refresh_now starts a refresh of the selected array or sets refresh_reject. -/
  | refreshNow (c : CoreId)
  /-- TRACE_NOW (R105): Writing trace_now starts a re-trace. -/
  | traceNow (t : TowerId)
  /-- RUN_ARRAY (R105): Writing run_array queues the selected array for calibration. -/
  | runArray (c : CoreId)
  /-- RUN_FIELD (R105): Writing run_field queues the whole field for calibration. -/
  | runField (c : CoreId)
  /-- SYN_OP_SIGNAL (R304): Writing SYN_OP.signal adds SYN_ARG to the selected object at port 8. -/
  | synOpSignal (t : TowerId)
  /-- SYN_OP_RESET (R304): Writing SYN_OP.reset resets the selected object. -/
  | synOpReset (t : TowerId)
  /-- PRG_EVENT_READ (R63): Reading PRG_EVENT returns and clears its events. -/
  | prgEventRead (c : CoreId)
  /-- ARC_EVENT_READ (R87): Reading ARC_EVENT returns and clears its events. -/
  | arcEventRead (c : CoreId)
  /-- CAL_EVENT_READ (R105): Reading CAL_EVENT returns and clears its events. -/
  | calEventRead (t : TowerId)
  /-- ENG_EVENT_READ (R127): Reading ENG_EVENT returns and clears its events. -/
  | engEventRead (c : CoreId)
  /-- ENG_ACC_EVENT_READ (R146): Reading ENG_ACC_EVENT returns and clears its events. -/
  | engAccEventRead (c : CoreId)
  /-- WCH_EVENT_READ (R189): Reading WCH_EVENT returns and clears its events. -/
  | wchEventRead (c : CoreId)
  /-- VEC_EVENT_READ (R208): Reading VEC_EVENT returns and clears its events. -/
  | vecEventRead (c : CoreId)
  /-- VEC_TILE_HOLD_READ (R208): Reading VEC_TILE_HOLD returns and clears the hold cycle count. -/
  | vecTileHoldRead (c : CoreId)
  /-- SEQ_EVENT_READ (R239): Reading SEQ_EVENT returns and clears its events. -/
  | seqEventRead (c : CoreId)
  /-- DMA_EVENT_READ (R262): Reading DMA_EVENT returns and clears its events. -/
  | dmaEventRead (c : CoreId)
  /-- LND_EVENT_READ (R283): Reading LND_EVENT returns and clears its events. -/
  | lndEventRead (t : TowerId)
  /-- HBM_EVENT_READ (R284): Reading HBM_EVENT returns and clears its events. -/
  | hbmEventRead (k : StackId)
  /-- HBM_ECC_CNT_READ (R284): Reading HBM_ECC_CNT returns and clears its counts. -/
  | hbmEccCntRead (k : StackId)
  /-- HBM_PART_WAIT_READ (R284): Reading HBM_PART_WAIT returns and clears the wait cycles. -/
  | hbmPartWaitRead (k : StackId)
  /-- GAL_EVENT_READ (R285): Reading GAL_EVENT returns and clears its events. -/
  | galEventRead (t : TowerId)
  /-- GAL_REPLAY_CNT_READ (R285): Reading GAL_REPLAY_CNT returns and clears the replay count. -/
  | galReplayCntRead (t : TowerId)
  /-- SYN_EVENT_READ (R304): Reading SYN_EVENT returns and clears its events. -/
  | synEventRead (t : TowerId)
  /-- NWL_EVENT_READ (R305): Reading NWL_EVENT returns and clears its events. -/
  | nwlEventRead
  /-- FAB_EVENT_READ (R333): Reading FAB_EVENT returns and clears its events. -/
  | fabEventRead (p : PortId)
  /-- FAB_REPLAY_CNT_READ (R333): Reading FAB_REPLAY_CNT returns and clears its counts. -/
  | fabReplayCntRead (p : PortId)
  /-- FAB_FEC_CNT_READ (R333): Reading FAB_FEC_CNT returns and clears its counts. -/
  | fabFecCntRead (p : PortId)
  /-- COL_EVENT_READ (R334): Reading COL_EVENT returns and clears its events. -/
  | colEventRead
  /-- PCI_EVENT_READ (R362): Reading PCI_EVENT returns and clears its events. -/
  | pciEventRead
  /-- PWR_ISL_LOST_READ (R380): Reading PWR_ISL_LOST returns and clears lost-island bits. -/
  | pwrIslLostRead
  /-- PWR_BUS_EVENT_READ (R380): Reading PWR_BUS_EVENT returns and clears its events. -/
  | pwrBusEventRead
  /-- PWR_BUS_MAXSTALL_READ (R380): Reading PWR_BUS_MAXSTALL returns and clears the longest stall. -/
  | pwrBusMaxstallRead
  /-- MBX_EVENT_READ (R382): Reading MBX_EVENT returns and clears its events. -/
  | mbxEventRead (f : FnId)
  /-- PWR_RESET_CAUSE_READ (R423): Reading PWR_RESET_CAUSE returns and clears its cause bits. -/
  | pwrResetCauseRead
  /-- TSL_EVENT_READ (R445): Reading TSL_EVENT returns and clears its events. -/
  | tslEventRead
  /-- TSL_C_REF_READ (R446): Reading TSL_C_REF returns and clears the verdict counts. -/
  | tslCRefRead (c : CoreId)
  /-- OBS_EVENT_READ (R466): Reading OBS_EVENT returns and clears its events. -/
  | obsEventRead
  /-- OBS_HM_STAT_READ (R466): Reading OBS_HMm_STAT returns and clears fired. -/
  | obsHmStatRead (m : Fin 272)
  /-- SNS_EVENT_READ (R481): Reading SNS_EVENT returns and clears its events. -/
  | snsEventRead (k : ConvId)
  /-- PWR_EVENT_READ (R497): Reading PWR_EVENT returns and clears its events. -/
  | pwrEventRead
  /-- PWR_OK_RISE (R407): PWR_OK rises; NWL_POS is sampled and reset holds while the PLLs lock. -/
  | pwrOkRise (x : PowerOn)
  /-- PWR_OK_FALL (R422): PWR_OK falls and the device takes a power-on reset. -/
  | pwrOkFall
  /-- PERST_ASSERT (R406): PERST# goes low and the device takes a warm reset. -/
  | perstAssert
  /-- SYS_RST_ASSERT (R406): SYS_RST_N goes low and the device takes a warm reset. -/
  | sysRstAssert
  /-- RESET_RELEASE (R407): The first CK_CTL cycle with no reset condition starts BOOT. -/
  | resetRelease
  /-- BOOT_END (R414): Firmware is verified and started; configuration space goes live and MEMORY starts. -/
  | bootEnd (obs : BootObs)
  /-- MEMORY_END (R416): Every stack is trained or out of service and CALIBRATION starts. -/
  | memoryEnd (inService : BitVec 16) (wearA : Bool) (wearB : Bool)
  /-- CALIBRATION_END (R417): The full trace and first field runs end and FABRIC starts. -/
  | calibrationEnd (obs : List TraceObs) (trims : List FirstTrim)
  /-- READY (R419): Listed ports are UP or failed; firmware enables schedules and blocks and enters READY. -/
  | ready
  /-- FAILED (R420): Bring-up cannot continue and the device enters FAILED. -/
  | failed (cause : Fin 6)
  /-- FAB_TRAINING_DONE (R308): A port's link training, with its end-of-training eye measurement and single retrain, ends with the link going to handshake or FAILED with TRAIN_FAIL or EYE_LOW. -/
  | fabTrainingDone (l : LinkId) (obs : TrainObs)
  /-- PCIE_LINK_UP (R349): The PCI Express link finishes training or retraining, at a new rate or width, and held mailbox responses are released. -/
  | pcieLinkUp (width : Fin 6) (speed : Fin 7) (flit : Bool)
  /-- CONFIGURATION_REQUEST (R415): A host configuration request is answered with Request Retry Status during BOOT or FAILED cause 3, and completed normally afterwards. -/
  | configurationRequest
  /-- REFERENCE_SETTLED (R469): A Cowslip reference finishes settling after the block is enabled and its ref_settled bit sets, so later conversions no longer carry unsettled. -/
  | referenceSettled (k : ConvId) (r : Fin 3)
  /-- SNAPSHOT_RECORD_WRITTEN (R464): Yarrow finishes writing a snapshot record, raises the PF health interrupt, sets snap_done and ends the arming unless rearm is set. -/
  | snapshotRecordWritten
  /-- CUT_RECORDS_WRITTEN (R453): Sorrel finishes writing a cut's records, updates OBS_DUMP_SEQ and becomes free to take the next cut. -/
  | cutRecordsWritten
  /-- TEST_ACCESS_PORT (R510): The IEEE 1149.1 test access port advances on TCK and TRST_N, running IDCODE, BYPASS or EXTEST. -/
  | testAccessPort (i : TapIn)
  /-- ILLEGAL_INSTRUCTION (R216): The sequencer issues an all-zero word or an unassigned opcode and raises the illegal-instruction fault. -/
  | illegalInstruction (c : CoreId)
  deriving DecidableEq, Repr

end Sys2Proof
end

