-- ==== Sys2Proof/Config.lean ====
section
/-! DEFINITION. What the spec leaves open as a value: constants without a body, which no proof can see (log 9). -/

namespace Sys2Proof

/-- Which of the results inside the error bound of R167 a special function returns for an F32 input, where R168 gives
no exact result: fn is 0 exp, 1 log, 2 reciprocal, 3 reciprocal square root, 4 tanh, 5 erf (log 9). -/
opaque Config.sfuChoice : Nat → Word → Nat

/-- An unspecified byte: the number of the draw, counted in State, and the byte's place in it (log 9). -/
opaque Config.freeByte : Nat → Nat → Byte

/-- A fresh unspecified bit: which of two outcomes the spec allows happens (logs 9 and 14). -/
opaque Config.freeBit : Nat → Bool

/-- An unspecified number: the number of the draw and the place in it (log 9). -/
opaque Config.freeNat : Nat → Nat → Nat

/-- A bit of IDCODE that the spec does not give (24_package_pins.md R510; log 9). -/
opaque Config.idBit : Nat → Bool

/-- The device identity derived from the PUF (23_power_security_management.md R492; log 9). -/
opaque Config.devId : Dword

/-- The device's attestation measurement bytes that no command gives the model (R493; log 9). -/
opaque Config.measureByte : Nat → Byte

/-- The identity that the boot ROM presents where no image gives one (19_bring_up.md R420; log 9). -/
opaque Config.defaultIdentity : Word

/-- Security version of the base test pack of the firmware (R441; log 9). -/
opaque Config.basePackSec : Word

/-- Spare rows of a kind (0 soft, 1 hard) that a bank of a pseudo-channel of a stack has (R280, R281; log 9):
stack, pseudo-channel, bank, kind. -/
opaque Config.hbmSpares : Nat → Nat → Nat → Nat → Nat

end Sys2Proof
end

