-- ==== Sys2Proof/Machine/Tab.lean ====
section
/-! DEFINITION. Sparse tables keyed by a number, kept in rising order of key: the shape of every register file,
table and set of like units in State. A key that is not listed holds the table's default. -/

namespace Sys2Proof.Machine

/-- A sparse table. -/
abbrev Tab (α : Type) := List (Nat × α)

/-- The value at a key, or the default. -/
def tget {α : Type} (t : Tab α) (d : α) (k : Nat) : α :=
  match t with
  | [] => d
  | (k', v) :: r => if k = k' then v else tget r d k

/-- Sets the value at a key. -/
def tput {α : Type} (t : Tab α) (k : Nat) (v : α) : Tab α :=
  match t with
  | [] => [(k, v)]
  | (k', v') :: r =>
    if k < k' then (k, v) :: (k', v') :: r
    else if k = k' then (k, v) :: r
    else (k', v') :: tput r k v

/-- Takes a key out of the table. -/
def tdel {α : Type} (t : Tab α) (k : Nat) : Tab α := t.filter fun p => p.1 != k

/-- Changes the value at a key. -/
def tupd {α : Type} (t : Tab α) (d : α) (k : Nat) (f : α → α) : Tab α := tput t k (f (tget t d k))

/-- Is the key listed? -/
def thas {α : Type} (t : Tab α) (k : Nat) : Bool := t.any fun p => p.1 == k

/-- Sorted sets of numbers. -/
def sadd (s : List Nat) (k : Nat) : List Nat :=
  match s with
  | [] => [k]
  | x :: r => if k < x then k :: x :: r else if k = x then x :: r else x :: sadd r k

def sdel (s : List Nat) (k : Nat) : List Nat := s.filter fun x => x != k

/-- The numbers a, a+1, …, a+n−1. -/
def span (a n : Nat) : List Nat := (List.range n).map fun i => a + i

/-- The list with element k changed. -/
def lupd {α : Type} (l : List α) (k : Nat) (f : α → α) : List α := l.modify k f

end Sys2Proof.Machine
end

