-- ==== Sys2Proof/Machine/Regs.lean ====
section
/-! DEFINITION. The register blocks and registers of the block map (17_registers_islands.md R379 and the register
tables of every chapter): places, access masks and reset values, and the RC status events. -/

namespace Sys2Proof.Machine

/-- A register block; a block with instances of two kinds has two names. -/
inductive Blk where
  | seq | eng | wch | vec | dma | syn | arc | prg | cal | calf | lnd | gal | hbm | fab | fabr | tslc | obst | snst | pwrt | mbx | pci | nwl | col | tsl | obs | obsp | sns | pwr
  deriving DecidableEq, Repr

/-- Clock island a block lives in (R379): the tower's core or array clock, or a package island. -/
inductive BlkIsland where
  | core | arr | fixed (n : Nat)
  deriving DecidableEq, Repr

/-- The place of a block: tower block or package block, its number, the instances of each, their stride and base. -/
structure BlkInfo where
  tower : Bool
  num : Nat
  count : Nat
  stride : Nat
  base : Nat
  island : BlkIsland
  deriving DecidableEq, Repr

def blkInfo (b : Blk) : BlkInfo :=
  match b with
  | .seq => ⟨true, 0x00, 128, 0x100, 0x0, .core⟩
  | .eng => ⟨true, 0x01, 128, 0x100, 0x0, .core⟩
  | .wch => ⟨true, 0x02, 128, 0x100, 0x0, .core⟩
  | .vec => ⟨true, 0x03, 128, 0x100, 0x0, .core⟩
  | .dma => ⟨true, 0x04, 128, 0x100, 0x0, .core⟩
  | .syn => ⟨true, 0x05, 1, 0, 0x0, .core⟩
  | .arc => ⟨true, 0x08, 128, 0x1000, 0x0, .arr⟩
  | .prg => ⟨true, 0x09, 128, 0x1000, 0x0, .arr⟩
  | .cal => ⟨true, 0x0A, 1, 0, 0x0, .arr⟩
  | .calf => ⟨true, 0x0A, 128, 0x40, 0x1000, .arr⟩
  | .lnd => ⟨true, 0x10, 1, 0, 0x0, .fixed 17⟩
  | .gal => ⟨true, 0x11, 1, 0, 0x0, .fixed 17⟩
  | .hbm => ⟨true, 0x12, 2, 0x1000, 0x0, .fixed 16⟩
  | .fab => ⟨true, 0x13, 2, 0x1000, 0x0, .fixed 18⟩
  | .fabr => ⟨true, 0x13, 1, 0, 0x2000, .fixed 18⟩
  | .tslc => ⟨true, 0x18, 128, 0x10, 0x0, .fixed 20⟩
  | .obst => ⟨true, 0x19, 32, 0x10, 0x100, .fixed 24⟩
  | .snst => ⟨true, 0x1A, 1, 0, 0x0, .fixed 21⟩
  | .pwrt => ⟨true, 0x1B, 1, 0, 0x0, .fixed 20⟩
  | .mbx => ⟨false, 0x00, 17, 0x1000, 0x0, .fixed 20⟩
  | .pci => ⟨false, 0x01, 1, 0, 0x0, .fixed 19⟩
  | .nwl => ⟨false, 0x02, 1, 0, 0x0, .fixed 23⟩
  | .col => ⟨false, 0x03, 1, 0, 0x0, .fixed 18⟩
  | .tsl => ⟨false, 0x04, 1, 0, 0x0, .fixed 20⟩
  | .obs => ⟨false, 0x05, 1, 0, 0x0, .fixed 24⟩
  | .obsp => ⟨false, 0x05, 16, 0x10, 0x100, .fixed 24⟩
  | .sns => ⟨false, 0x06, 1, 0, 0x0, .fixed 21⟩
  | .pwr => ⟨false, 0x07, 1, 0, 0x0, .fixed 20⟩

/-- A register, by the name of its chapter's table (the block's name stands in front; OBST, SNST, PWRT, TSLC, CALF,
FABR and OBSP are the tower or per-unit parts of OBS, SNS, PWR, TSL, CAL, FAB and OBS). -/
inductive Reg where
  | seqCtrl | seqStatus | seqCfg | seqEvent | seqEventPeek | seqFaultCode
  | seqFaultPc | seqFaultWordLo | seqFaultWordHi | engCtrl | engStatus | engCfg
  | engEvent | engEventPeek | engFencedLo | engFencedHi | engAccEvent | engAccEventPeek
  | engAccSel | engAccTile | engAccStatus | wchCtrl | wchStatus | wchCfg
  | wchEvent | wchEventPeek | wchEsc | wchRegionLo | wchRegionHi | vecCtrl
  | vecStatus | vecEvent | vecEventPeek | vecTileHold | dmaCtrl | dmaStatus
  | dmaEvent | dmaEventPeek | synCtrl | synStatus | synEvent | synEventPeek
  | synSel | synCount | synArg | synOp | arcCtrl | arcStatus
  | arcCfg | arcCheckCfg | arcEvent | arcEventPeek | arcSel | arcArrStat
  | prgCtrl | prgStatus | prgCfg | prgPolicy | prgWearLimit | prgRefreshCfg
  | prgRotateLimit | prgEvent | prgEventPeek | prgSel | prgArrStat | prgWearIdx
  | prgDriftLast | prgRemap | calCtrl | calStatus | calPolicy | calRefTrim
  | calEvent | calEventPeek | calFStatus | calFTemp | calFSel | calFArr
  | calFColtrim | calFReq | lndCtrl | lndStatus | lndEvent | lndEventPeek
  | lndOwnerLo | lndOwnerHi | lndOwnerValid | galCtrl | galStatus | galEvent
  | galEventPeek | galReplayCnt | hbmCtrl | hbmStatus | hbmCfg | hbmEvent
  | hbmEventPeek | hbmEccCnt | hbmTemp | hbmPartSel | hbmPartRate | hbmPartWait
  | fabCtrl | fabStatus | fabCfg | fabEvent | fabEventPeek | fabReplayCnt
  | fabFecCnt | fabPartner0 | fabPartner1 | fabLaneSel | fabLaneEye | fabRoute
  | tslCStat | tslCRef | obstHmSrc | obstHmThr | obstHmWin | obstHmStat
  | snstCtrl | snstStatus | snstCfg | snstTimer | snstEvent | snstEventPeek
  | snstDelay | snstAlarm | snstBufLo | snstBufHi | snstBufLen | snstBufWidx
  | snstReg | snstInj | snstLast | snstAvg | pwrTPoint | mbxCmd
  | mbxDoorbell | mbxRsp | mbxStat | mbxIrqEn | mbxEvent | mbxEventPeek
  | mbxRingCfg | mbxRingBaseLo | mbxRingBaseHi | mbxRingTail | mbxRingHead | mbxCplTail
  | mbxCplHead | pciCtrl | pciStatus | pciEvent | pciEventPeek | pciBwSel
  | pciBwStat | nwlCtrl | nwlStatus | nwlCfg | nwlEvent | nwlEventPeek
  | nwlBindA | nwlBindB | colCtrl | colStatus | colEvent | colEventPeek
  | colGrpSel | colGrpStat | colDeferred | colDropped | tslCtrl | tslStatus
  | tslPeriod | tslRefCfg | tslEvent | tslEventPeek | tslPackVer | obsCtrl
  | obsStatus | obsDumpPeriod | obsFreeze | obsEvent | obsEventPeek | obsDumpBaseLo
  | obsDumpBaseHi | obsDumpRecs | obsDumpSeqLo | obsDumpSeqHi | obsSel | obsCntLo
  | obsCntHi | obspHmSrc | obspHmThr | obspHmWin | obspHmStat | snsCtrl
  | snsStatus | snsCfg | snsTimer | snsEvent | snsEventPeek | snsDelay
  | snsAlarm | snsBufLo | snsBufHi | snsBufLen | snsBufWidx | snsReg
  | snsInj | snsLast | pwrCtrl | pwrStatus | pwrCap | pwrEst
  | pwrEvent | pwrEventPeek | pwrIslRun | pwrIslLost | pwrIslLostPeek | pwrBusEvent
  | pwrBusEventPeek | pwrBusMaxstall | pwrBootStat | pwrBootTime0 | pwrBootTime1 | pwrResetCause
  | pwrResetCausePeek | pwrTlmTime | pwrTlmBoard | pwrTlm
  deriving DecidableEq, Repr

/-- The place, the access masks of R8 and the reset value of a register. `peek` names the register it is a view of. -/
structure RegInfo where
  blk : Blk
  off : Nat
  count : Nat := 1
  step : Nat := 4
  rw : Word := 0
  wd : Word := 0
  w1s : Word := 0
  rc : Word := 0
  ro : Word := 0
  reset : Word := 0
  peek : Option Reg := none
  deriving DecidableEq, Repr

def regInfo (r : Reg) : RegInfo :=
  match r with
  | .seqCtrl => { blk := .seq, off := 0x00, rw := 0x1 }
  | .seqStatus => { blk := .seq, off := 0x04, ro := 0x3FFF0703 }
  | .seqCfg => { blk := .seq, off := 0x08, wd := 0xFFFFFFFF, reset := 0xDBBA000 }
  | .seqEvent => { blk := .seq, off := 0x10, rc := 0x1F }
  | .seqEventPeek => { blk := .seq, off := 0x14, peek := some .seqEvent }
  | .seqFaultCode => { blk := .seq, off := 0x20, ro := 0xFF }
  | .seqFaultPc => { blk := .seq, off := 0x24, ro := 0x3FFF }
  | .seqFaultWordLo => { blk := .seq, off := 0x28, ro := 0xFFFFFFFF }
  | .seqFaultWordHi => { blk := .seq, off := 0x2C, ro := 0xFFFFFFFF }
  | .engCtrl => { blk := .eng, off := 0x00, rw := 0x1 }
  | .engStatus => { blk := .eng, off := 0x04, ro := 0x7F1F, reset := 0x4000 }
  | .engCfg => { blk := .eng, off := 0x08, wd := 0x1, reset := 0x1 }
  | .engEvent => { blk := .eng, off := 0x10, rc := 0x3FE }
  | .engEventPeek => { blk := .eng, off := 0x14, peek := some .engEvent }
  | .engFencedLo => { blk := .eng, off := 0x18, ro := 0xFFFFFFFF }
  | .engFencedHi => { blk := .eng, off := 0x1C, ro := 0xFFFFFFFF }
  | .engAccEvent => { blk := .eng, off := 0x40, rc := 0xFF }
  | .engAccEventPeek => { blk := .eng, off := 0x44, peek := some .engAccEvent }
  | .engAccSel => { blk := .eng, off := 0x48, rw := 0xFF }
  | .engAccTile => { blk := .eng, off := 0x4C, ro := 0x3F77 }
  | .engAccStatus => { blk := .eng, off := 0x50, ro := 0x7FFFFFF }
  | .wchCtrl => { blk := .wch, off := 0x00, rw := 0x1 }
  | .wchStatus => { blk := .wch, off := 0x04, ro := 0xFFFF0F }
  | .wchCfg => { blk := .wch, off := 0x08, wd := 0x3, reset := 0x3 }
  | .wchEvent => { blk := .wch, off := 0x10, rc := 0xFFF }
  | .wchEventPeek => { blk := .wch, off := 0x14, peek := some .wchEvent }
  | .wchEsc => { blk := .wch, off := 0x18, ro := 0xFFFFFFFF }
  | .wchRegionLo => { blk := .wch, off := 0x20, ro := 0xFFF00000 }
  | .wchRegionHi => { blk := .wch, off := 0x24, ro := 0xFFFF }
  | .vecCtrl => { blk := .vec, off := 0x00, rw := 0x1 }
  | .vecStatus => { blk := .vec, off := 0x04, ro := 0xFF000F }
  | .vecEvent => { blk := .vec, off := 0x10, rc := 0x7F }
  | .vecEventPeek => { blk := .vec, off := 0x14, peek := some .vecEvent }
  | .vecTileHold => { blk := .vec, off := 0x18, rc := 0xFFFFFFFF }
  | .dmaCtrl => { blk := .dma, off := 0x00, rw := 0x1 }
  | .dmaStatus => { blk := .dma, off := 0x04, ro := 0xFF001F }
  | .dmaEvent => { blk := .dma, off := 0x10, rc := 0x1FF }
  | .dmaEventPeek => { blk := .dma, off := 0x14, peek := some .dmaEvent }
  | .synCtrl => { blk := .syn, off := 0x00, rw := 0x1 }
  | .synStatus => { blk := .syn, off := 0x04, ro := 0xFFFF0003 }
  | .synEvent => { blk := .syn, off := 0x10, rc := 0x1F }
  | .synEventPeek => { blk := .syn, off := 0x14, peek := some .synEvent }
  | .synSel => { blk := .syn, off := 0x20, rw := 0x1FFF }
  | .synCount => { blk := .syn, off := 0x24, ro := 0xFFFFFFFF }
  | .synArg => { blk := .syn, off := 0x28, rw := 0xFFFFFFFF }
  | .synOp => { blk := .syn, off := 0x2C, w1s := 0x3 }
  | .arcCtrl => { blk := .arc, off := 0x00, rw := 0x1 }
  | .arcStatus => { blk := .arc, off := 0x04, ro := 0xFFFF0007 }
  | .arcCfg => { blk := .arc, off := 0x08, wd := 0x1F, reset := 0x1B }
  | .arcCheckCfg => { blk := .arc, off := 0x0C, rw := 0xFFFFFF, reset := 0x20018 }
  | .arcEvent => { blk := .arc, off := 0x10, rc := 0xFFF }
  | .arcEventPeek => { blk := .arc, off := 0x14, peek := some .arcEvent }
  | .arcSel => { blk := .arc, off := 0x20, rw := 0x7F }
  | .arcArrStat => { blk := .arc, off := 0x24, ro := 0xFFFF00BF, reset := 0x80 }
  | .prgCtrl => { blk := .prg, off := 0x00, rw := 0x1, w1s := 0x2 }
  | .prgStatus => { blk := .prg, off := 0x04, ro := 0xFFFFFF0F, reset := 0x800 }
  | .prgCfg => { blk := .prg, off := 0x08, wd := 0x1FF, reset := 0x110 }
  | .prgPolicy => { blk := .prg, off := 0x0C, rw := 0x1FF, reset := 0x10 }
  | .prgWearLimit => { blk := .prg, off := 0x10, rw := 0xFFFFFF, reset := 0x2328 }
  | .prgRefreshCfg => { blk := .prg, off := 0x14, rw := 0xFFFFFFFF, reset := 0x4000818 }
  | .prgRotateLimit => { blk := .prg, off := 0x18, rw := 0xFFFF, reset := 0x2000 }
  | .prgEvent => { blk := .prg, off := 0x20, rc := 0x7FFF }
  | .prgEventPeek => { blk := .prg, off := 0x24, peek := some .prgEvent }
  | .prgSel => { blk := .prg, off := 0x30, rw := 0xFF }
  | .prgArrStat => { blk := .prg, off := 0x34, ro := 0xFF0FFFFF, reset := 0x18000000 }
  | .prgWearIdx => { blk := .prg, off := 0x38, ro := 0xFFFFFFFF }
  | .prgDriftLast => { blk := .prg, off := 0x3C, ro := 0xFFFF }
  | .prgRemap => { blk := .prg, off := 0x100, count := 32, ro := 0xFFFFFFFF }
  | .calCtrl => { blk := .cal, off := 0x00, rw := 0x3, w1s := 0x4, reset := 0x2 }
  | .calStatus => { blk := .cal, off := 0x04, ro := 0xFF000F }
  | .calPolicy => { blk := .cal, off := 0x08, rw := 0xFF, reset := 0x30 }
  | .calRefTrim => { blk := .cal, off := 0x0C, ro := 0x3FF03FF, reset := 0x2000200 }
  | .calEvent => { blk := .cal, off := 0x10, rc := 0x7FE }
  | .calEventPeek => { blk := .cal, off := 0x14, peek := some .calEvent }
  | .calFStatus => { blk := .calf, off := 0x00, ro := 0xFF0F, reset := 0x1 }
  | .calFTemp => { blk := .calf, off := 0x04, ro := 0xFFFFFFFF }
  | .calFSel => { blk := .calf, off := 0x08, rw := 0x7FF007F }
  | .calFArr => { blk := .calf, off := 0x0C, ro := 0xFFFFFF03, reset := 0x80FFFF01 }
  | .calFColtrim => { blk := .calf, off := 0x10, ro := 0xFF3F, reset := 0x4000 }
  | .calFReq => { blk := .calf, off := 0x14, w1s := 0x3 }
  | .lndCtrl => { blk := .lnd, off := 0x00, rw := 0x1 }
  | .lndStatus => { blk := .lnd, off := 0x04, ro := 0xFFFF0003 }
  | .lndEvent => { blk := .lnd, off := 0x10, rc := 0x3F }
  | .lndEventPeek => { blk := .lnd, off := 0x14, peek := some .lndEvent }
  | .lndOwnerLo => { blk := .lnd, off := 0x18, ro := 0xFFFFFFFF }
  | .lndOwnerHi => { blk := .lnd, off := 0x1C, ro := 0xFFFFFFFF }
  | .lndOwnerValid => { blk := .lnd, off := 0x20, ro := 0xFFFF }
  | .galCtrl => { blk := .gal, off := 0x00, rw := 0x1 }
  | .galStatus => { blk := .gal, off := 0x04, ro := 0xFFFF0003 }
  | .galEvent => { blk := .gal, off := 0x10, rc := 0xF }
  | .galEventPeek => { blk := .gal, off := 0x14, peek := some .galEvent }
  | .galReplayCnt => { blk := .gal, off := 0x18, rc := 0xFFFFFFFF }
  | .hbmCtrl => { blk := .hbm, off := 0x00, rw := 0x1 }
  | .hbmStatus => { blk := .hbm, off := 0x04, ro := 0xFF00000F }
  | .hbmCfg => { blk := .hbm, off := 0x08, wd := 0xFFFF, reset := 0x418 }
  | .hbmEvent => { blk := .hbm, off := 0x10, rc := 0x3F }
  | .hbmEventPeek => { blk := .hbm, off := 0x14, peek := some .hbmEvent }
  | .hbmEccCnt => { blk := .hbm, off := 0x18, rc := 0xFFFFFFFF }
  | .hbmTemp => { blk := .hbm, off := 0x1C, ro := 0xFF }
  | .hbmPartSel => { blk := .hbm, off := 0x20, rw := 0xF }
  | .hbmPartRate => { blk := .hbm, off := 0x24, rw := 0xFFFFFFFF, reset := 0x100FFFF }
  | .hbmPartWait => { blk := .hbm, off := 0x28, rc := 0xFFFFFFFF }
  | .fabCtrl => { blk := .fab, off := 0x00, rw := 0x1 }
  | .fabStatus => { blk := .fab, off := 0x04, ro := 0xFF0003 }
  | .fabCfg => { blk := .fab, off := 0x08, wd := 0x7 }
  | .fabEvent => { blk := .fab, off := 0x10, rc := 0xFFF }
  | .fabEventPeek => { blk := .fab, off := 0x14, peek := some .fabEvent }
  | .fabReplayCnt => { blk := .fab, off := 0x18, rc := 0xFFFFFFFF }
  | .fabFecCnt => { blk := .fab, off := 0x1C, rc := 0xFFFFFFFF }
  | .fabPartner0 => { blk := .fab, off := 0x20, ro := 0xFFFFBF0F }
  | .fabPartner1 => { blk := .fab, off := 0x24, ro := 0xFFFFBF0F }
  | .fabLaneSel => { blk := .fab, off := 0x28, rw := 0x7 }
  | .fabLaneEye => { blk := .fab, off := 0x2C, ro := 0xFFFF83FF }
  | .fabRoute => { blk := .fabr, off := 0x00, count := 64, ro := 0xC000001F }
  | .tslCStat => { blk := .tslc, off := 0x00, ro := 0xFFFF001F, reset := 0xFFFF0000 }
  | .tslCRef => { blk := .tslc, off := 0x04, rc := 0xFFFFFFFF }
  | .obstHmSrc => { blk := .obst, off := 0x00, rw := 0xFFFF80FF, reset := 0x28000000 }
  | .obstHmThr => { blk := .obst, off := 0x04, rw := 0xFFFFFFFF, reset := 0xFFFFFFFF }
  | .obstHmWin => { blk := .obst, off := 0x08, rw := 0xFFFF, reset := 0x3E8 }
  | .obstHmStat => { blk := .obst, off := 0x0C, rc := 0x1, ro := 0xFFFFFF00 }
  | .snstCtrl => { blk := .snst, off := 0x00, rw := 0x1, w1s := 0x6 }
  | .snstStatus => { blk := .snst, off := 0x04, ro := 0x3F7B }
  | .snstCfg => { blk := .snst, off := 0x08, wd := 0x1F }
  | .snstTimer => { blk := .snst, off := 0x0C, wd := 0xFFFFF, reset := 0x3E8 }
  | .snstEvent => { blk := .snst, off := 0x10, rc := 0x7FF }
  | .snstEventPeek => { blk := .snst, off := 0x14, peek := some .snstEvent }
  | .snstDelay => { blk := .snst, off := 0x18, rw := 0xFFF }
  | .snstAlarm => { blk := .snst, off := 0x1C, rw := 0x3FFF3FFF, reset := 0x29C02A40 }
  | .snstBufLo => { blk := .snst, off := 0x20, wd := 0xFFFFFF00 }
  | .snstBufHi => { blk := .snst, off := 0x24, wd := 0xFFFF }
  | .snstBufLen => { blk := .snst, off := 0x28, wd := 0xFFFFFFFF }
  | .snstBufWidx => { blk := .snst, off := 0x2C, ro := 0xFFFFFFFF }
  | .snstReg => { blk := .snst, off := 0x40, count := 16, wd := 0xFF80F01F }
  | .snstInj => { blk := .snst, off := 0x80, count := 4, wd := 0xFF80F01F }
  | .snstLast => { blk := .snst, off := 0x100, count := 32, ro := 0x8000FFFF }
  | .snstAvg => { blk := .snst, off := 0x180, count := 16, ro := 0x8000FFFF }
  | .pwrTPoint => { blk := .pwrt, off := 0x00, rw := 0x3F00, ro := 0xFFFF003F, reset := 0xC5A02424 }
  | .mbxCmd => { blk := .mbx, off := 0x00, count := 16, rw := 0xFFFFFFFF }
  | .mbxDoorbell => { blk := .mbx, off := 0x40, w1s := 0x1 }
  | .mbxRsp => { blk := .mbx, off := 0x80, count := 16, ro := 0xFFFFFFFF }
  | .mbxStat => { blk := .mbx, off := 0xC0, ro := 0xF3F }
  | .mbxIrqEn => { blk := .mbx, off := 0xC4, rw := 0x3 }
  | .mbxEvent => { blk := .mbx, off := 0xC8, rc := 0x7F }
  | .mbxEventPeek => { blk := .mbx, off := 0xCC, peek := some .mbxEvent }
  | .mbxRingCfg => { blk := .mbx, off := 0x100, rw := 0x1, wd := 0xF00, reset := 0x400 }
  | .mbxRingBaseLo => { blk := .mbx, off := 0x104, wd := 0xFFFFF000 }
  | .mbxRingBaseHi => { blk := .mbx, off := 0x108, wd := 0xFFFF }
  | .mbxRingTail => { blk := .mbx, off := 0x10C, rw := 0xFFF }
  | .mbxRingHead => { blk := .mbx, off := 0x110, ro := 0xFFF }
  | .mbxCplTail => { blk := .mbx, off := 0x114, ro := 0xFFF }
  | .mbxCplHead => { blk := .mbx, off := 0x118, rw := 0xFFF }
  | .pciCtrl => { blk := .pci, off := 0x00, rw := 0x3 }
  | .pciStatus => { blk := .pci, off := 0x04, ro := 0xFF800F }
  | .pciEvent => { blk := .pci, off := 0x10, rc := 0x7F }
  | .pciEventPeek => { blk := .pci, off := 0x14, peek := some .pciEvent }
  | .pciBwSel => { blk := .pci, off := 0x18, rw := 0xF }
  | .pciBwStat => { blk := .pci, off := 0x1C, ro := 0xFFFF0007 }
  | .nwlCtrl => { blk := .nwl, off := 0x00, rw := 0x3 }
  | .nwlStatus => { blk := .nwl, off := 0x04, ro := 0x3F33FF, reset := 0x300 }
  | .nwlCfg => { blk := .nwl, off := 0x08, wd := 0x3, reset := 0x1 }
  | .nwlEvent => { blk := .nwl, off := 0x10, rc := 0x7F }
  | .nwlEventPeek => { blk := .nwl, off := 0x14, peek := some .nwlEvent }
  | .nwlBindA => { blk := .nwl, off := 0x20, count := 4, step := 8, rw := 0xFFFFFFFF }
  | .nwlBindB => { blk := .nwl, off := 0x24, count := 4, step := 8, rw := 0x8000FFFF }
  | .colCtrl => { blk := .col, off := 0x00, rw := 0x1 }
  | .colStatus => { blk := .col, off := 0x04, ro := 0x7FFF03 }
  | .colEvent => { blk := .col, off := 0x10, rc := 0xFF }
  | .colEventPeek => { blk := .col, off := 0x14, peek := some .colEvent }
  | .colGrpSel => { blk := .col, off := 0x20, rw := 0x3F }
  | .colGrpStat => { blk := .col, off := 0x24, ro := 0xFF03FFFF }
  | .colDeferred => { blk := .col, off := 0x28, ro := 0xFFFFFFFF }
  | .colDropped => { blk := .col, off := 0x2C, ro := 0xFFFFFFFF }
  | .tslCtrl => { blk := .tsl, off := 0x00, rw := 0x3, reset := 0x2 }
  | .tslStatus => { blk := .tsl, off := 0x04, ro := 0xFFFFE00F }
  | .tslPeriod => { blk := .tsl, off := 0x08, rw := 0xFFFF, reset := 0x3E8 }
  | .tslRefCfg => { blk := .tsl, off := 0x0C, rw := 0xFFFFFFFF, reset := 0xA030040 }
  | .tslEvent => { blk := .tsl, off := 0x10, rc := 0x3FF }
  | .tslEventPeek => { blk := .tsl, off := 0x14, peek := some .tslEvent }
  | .tslPackVer => { blk := .tsl, off := 0x18, ro := 0xFFFFFFFF }
  | .obsCtrl => { blk := .obs, off := 0x00, rw := 0x3 }
  | .obsStatus => { blk := .obs, off := 0x04, ro := 0xF3 }
  | .obsDumpPeriod => { blk := .obs, off := 0x08, wd := 0xFFFFFFFF, reset := 0x3E8 }
  | .obsFreeze => { blk := .obs, off := 0x0C, rw := 0x1 }
  | .obsEvent => { blk := .obs, off := 0x10, rc := 0x7F }
  | .obsEventPeek => { blk := .obs, off := 0x14, peek := some .obsEvent }
  | .obsDumpBaseLo => { blk := .obs, off := 0x18, wd := 0xFFFFFF00 }
  | .obsDumpBaseHi => { blk := .obs, off := 0x1C, wd := 0xFFFF }
  | .obsDumpRecs => { blk := .obs, off := 0x20, wd := 0xFFFF, reset := 0x2 }
  | .obsDumpSeqLo => { blk := .obs, off := 0x24, ro := 0xFFFFFFFF }
  | .obsDumpSeqHi => { blk := .obs, off := 0x28, ro := 0xFFFFFFFF }
  | .obsSel => { blk := .obs, off := 0x30, rw := 0xFFF000FF }
  | .obsCntLo => { blk := .obs, off := 0x34, ro := 0xFFFFFFFF }
  | .obsCntHi => { blk := .obs, off := 0x38, ro := 0xFFFFFFFF }
  | .obspHmSrc => { blk := .obsp, off := 0x00, rw := 0xFFFF80FF, reset := 0x28000000 }
  | .obspHmThr => { blk := .obsp, off := 0x04, rw := 0xFFFFFFFF, reset := 0xFFFFFFFF }
  | .obspHmWin => { blk := .obsp, off := 0x08, rw := 0xFFFF, reset := 0x3E8 }
  | .obspHmStat => { blk := .obsp, off := 0x0C, rc := 0x1, ro := 0xFFFFFF00 }
  | .snsCtrl => { blk := .sns, off := 0x00, rw := 0x1, w1s := 0x6 }
  | .snsStatus => { blk := .sns, off := 0x04, ro := 0x3F7B }
  | .snsCfg => { blk := .sns, off := 0x08, wd := 0x7 }
  | .snsTimer => { blk := .sns, off := 0x0C, wd := 0xFFFFF, reset := 0x3E8 }
  | .snsEvent => { blk := .sns, off := 0x10, rc := 0x7FF }
  | .snsEventPeek => { blk := .sns, off := 0x14, peek := some .snsEvent }
  | .snsDelay => { blk := .sns, off := 0x18, rw := 0xFFF }
  | .snsAlarm => { blk := .sns, off := 0x1C, rw := 0x3FFF3FFF, reset := 0x29C02A40 }
  | .snsBufLo => { blk := .sns, off := 0x20, wd := 0xFFFFFF00 }
  | .snsBufHi => { blk := .sns, off := 0x24, wd := 0xFFFF }
  | .snsBufLen => { blk := .sns, off := 0x28, wd := 0xFFFFFFFF }
  | .snsBufWidx => { blk := .sns, off := 0x2C, ro := 0xFFFFFFFF }
  | .snsReg => { blk := .sns, off := 0x40, count := 16, wd := 0xFF80F01F }
  | .snsInj => { blk := .sns, off := 0x80, count := 4, wd := 0xFF80F01F }
  | .snsLast => { blk := .sns, off := 0x100, count := 32, ro := 0x8000FFFF }
  | .pwrCtrl => { blk := .pwr, off := 0x00, rw := 0x1 }
  | .pwrStatus => { blk := .pwr, off := 0x04, ro := 0xFFFFFC03, reset := 0x8000 }
  | .pwrCap => { blk := .pwr, off := 0x08, rw := 0xFFF, reset := 0x866 }
  | .pwrEst => { blk := .pwr, off := 0x0C, ro := 0xFFF }
  | .pwrEvent => { blk := .pwr, off := 0x10, rc := 0x1F }
  | .pwrEventPeek => { blk := .pwr, off := 0x14, peek := some .pwrEvent }
  | .pwrIslRun => { blk := .pwr, off := 0x400, ro := 0x1FFFFFF }
  | .pwrIslLost => { blk := .pwr, off := 0x404, rc := 0x1FFFFFF }
  | .pwrIslLostPeek => { blk := .pwr, off := 0x408, peek := some .pwrIslLost }
  | .pwrBusEvent => { blk := .pwr, off := 0x410, rc := 0x7 }
  | .pwrBusEventPeek => { blk := .pwr, off := 0x414, peek := some .pwrBusEvent }
  | .pwrBusMaxstall => { blk := .pwr, off := 0x418, rc := 0xFFFF }
  | .pwrBootStat => { blk := .pwr, off := 0x500, ro := 0xFF001F3F }
  | .pwrBootTime0 => { blk := .pwr, off := 0x504, ro := 0xFFFFFFFF }
  | .pwrBootTime1 => { blk := .pwr, off := 0x508, ro := 0xFFFFFFFF }
  | .pwrResetCause => { blk := .pwr, off := 0x510, rc := 0x7, reset := 0x1 }
  | .pwrResetCausePeek => { blk := .pwr, off := 0x514, peek := some .pwrResetCause }
  | .pwrTlmTime => { blk := .pwr, off := 0x600, count := 2, rw := 0xFFFFFFFF }
  | .pwrTlmBoard => { blk := .pwr, off := 0x608, rw := 0xFFFFFFFF }
  | .pwrTlm => { blk := .pwr, off := 0x60C, count := 61, ro := 0xFFFFFFFF }

/-- The registers of a block, by its name. -/
def regsOf (b : Blk) : List Reg :=
  match b with
  | .seq => [.seqCtrl, .seqStatus, .seqCfg, .seqEvent, .seqEventPeek, .seqFaultCode, .seqFaultPc, .seqFaultWordLo, .seqFaultWordHi]
  | .eng => [.engCtrl, .engStatus, .engCfg, .engEvent, .engEventPeek, .engFencedLo, .engFencedHi, .engAccEvent, .engAccEventPeek, .engAccSel, .engAccTile, .engAccStatus]
  | .wch => [.wchCtrl, .wchStatus, .wchCfg, .wchEvent, .wchEventPeek, .wchEsc, .wchRegionLo, .wchRegionHi]
  | .vec => [.vecCtrl, .vecStatus, .vecEvent, .vecEventPeek, .vecTileHold]
  | .dma => [.dmaCtrl, .dmaStatus, .dmaEvent, .dmaEventPeek]
  | .syn => [.synCtrl, .synStatus, .synEvent, .synEventPeek, .synSel, .synCount, .synArg, .synOp]
  | .arc => [.arcCtrl, .arcStatus, .arcCfg, .arcCheckCfg, .arcEvent, .arcEventPeek, .arcSel, .arcArrStat]
  | .prg => [.prgCtrl, .prgStatus, .prgCfg, .prgPolicy, .prgWearLimit, .prgRefreshCfg, .prgRotateLimit, .prgEvent, .prgEventPeek, .prgSel, .prgArrStat, .prgWearIdx, .prgDriftLast, .prgRemap]
  | .cal => [.calCtrl, .calStatus, .calPolicy, .calRefTrim, .calEvent, .calEventPeek]
  | .calf => [.calFStatus, .calFTemp, .calFSel, .calFArr, .calFColtrim, .calFReq]
  | .lnd => [.lndCtrl, .lndStatus, .lndEvent, .lndEventPeek, .lndOwnerLo, .lndOwnerHi, .lndOwnerValid]
  | .gal => [.galCtrl, .galStatus, .galEvent, .galEventPeek, .galReplayCnt]
  | .hbm => [.hbmCtrl, .hbmStatus, .hbmCfg, .hbmEvent, .hbmEventPeek, .hbmEccCnt, .hbmTemp, .hbmPartSel, .hbmPartRate, .hbmPartWait]
  | .fab => [.fabCtrl, .fabStatus, .fabCfg, .fabEvent, .fabEventPeek, .fabReplayCnt, .fabFecCnt, .fabPartner0, .fabPartner1, .fabLaneSel, .fabLaneEye]
  | .fabr => [.fabRoute]
  | .tslc => [.tslCStat, .tslCRef]
  | .obst => [.obstHmSrc, .obstHmThr, .obstHmWin, .obstHmStat]
  | .snst => [.snstCtrl, .snstStatus, .snstCfg, .snstTimer, .snstEvent, .snstEventPeek, .snstDelay, .snstAlarm, .snstBufLo, .snstBufHi, .snstBufLen, .snstBufWidx, .snstReg, .snstInj, .snstLast, .snstAvg]
  | .pwrt => [.pwrTPoint]
  | .mbx => [.mbxCmd, .mbxDoorbell, .mbxRsp, .mbxStat, .mbxIrqEn, .mbxEvent, .mbxEventPeek, .mbxRingCfg, .mbxRingBaseLo, .mbxRingBaseHi, .mbxRingTail, .mbxRingHead, .mbxCplTail, .mbxCplHead]
  | .pci => [.pciCtrl, .pciStatus, .pciEvent, .pciEventPeek, .pciBwSel, .pciBwStat]
  | .nwl => [.nwlCtrl, .nwlStatus, .nwlCfg, .nwlEvent, .nwlEventPeek, .nwlBindA, .nwlBindB]
  | .col => [.colCtrl, .colStatus, .colEvent, .colEventPeek, .colGrpSel, .colGrpStat, .colDeferred, .colDropped]
  | .tsl => [.tslCtrl, .tslStatus, .tslPeriod, .tslRefCfg, .tslEvent, .tslEventPeek, .tslPackVer]
  | .obs => [.obsCtrl, .obsStatus, .obsDumpPeriod, .obsFreeze, .obsEvent, .obsEventPeek, .obsDumpBaseLo, .obsDumpBaseHi, .obsDumpRecs, .obsDumpSeqLo, .obsDumpSeqHi, .obsSel, .obsCntLo, .obsCntHi]
  | .obsp => [.obspHmSrc, .obspHmThr, .obspHmWin, .obspHmStat]
  | .sns => [.snsCtrl, .snsStatus, .snsCfg, .snsTimer, .snsEvent, .snsEventPeek, .snsDelay, .snsAlarm, .snsBufLo, .snsBufHi, .snsBufLen, .snsBufWidx, .snsReg, .snsInj, .snsLast]
  | .pwr => [.pwrCtrl, .pwrStatus, .pwrCap, .pwrEst, .pwrEvent, .pwrEventPeek, .pwrIslRun, .pwrIslLost, .pwrIslLostPeek, .pwrBusEvent, .pwrBusEventPeek, .pwrBusMaxstall, .pwrBootStat, .pwrBootTime0, .pwrBootTime1, .pwrResetCause, .pwrResetCausePeek, .pwrTlmTime, .pwrTlmBoard, .pwrTlm]

/-- The RC status events: each a bit of an event register. -/
inductive Ev where
  | seqEarlyEnable | seqCfgIgnored | seqMultiFault | seqLongWait | seqDescHold
  | engEarlyEnable | engCfgIgnored | engBankConflict | engPoisonIn | engKZero
  | engMakeup | engLanePreempt | engRouted | engShadowStall | engAccTileRange
  | engAccScrubFound | engAccParityPoison | engAccClassMix | engAccGradPoison | engAccGradReplay
  | engAccActOverflow | engAccAlias | wchEarlyEnable | wchCfgIgnored | wchStepMismatch
  | wchScaleSat | wchRegionPoison | wchLateFlush | wchJump | wchEscUnable
  | wchEscExhausted | wchEscLayer | wchEscTile | wchProbeDone | vecEarlyEnable
  | vecHeritageOp | vecSfuNan | vecAuxPoison | vecPoisonOut | vecGradDrain
  | vecTileWait | dmaEarlyEnable | dmaPartFailed | dmaPoisonIn | dmaDescHold
  | dmaImemWrite | dmaConverted | dmaTransposed | dmaFinePath | dmaOutbound
  | synEarlyEnable | synRemoteDrop | synRemoteReject | synParityPoison | synWrap
  | arcEarlyEnable | arcCfgIgnored | arcUnavailable | arcNonfiniteIn | arcZeroSkip
  | arcClipLost | arcSpill | arcSidePath | arcDoubtful | arcAveraged
  | arcTSat | arcColSat | prgMasterPoison | prgRefreshReject | prgRefreshDone
  | prgEarlyEnable | prgCfgIgnored | prgThetaClamped | prgQueueFull | prgSplitBatch
  | prgSaturated | prgUncompensated | prgNoSpare | prgRotatedDrift | prgRotatedWear
  | prgRetiredWeak | prgWeakCell | calEarlyEnable | calStarved | calDtClamped
  | calTempRetrigger | calResidRotate | calResidHigh | calTrimLimit | calRefFault
  | calTraceDone | calRunDone | lndEarlyEnable | lndDirtyPoison | lndCleanRefetch
  | lndKeepBlock | lndNoSegment | lndLastuseDirty | galEarlyEnable | galHeld
  | galPoisonFwd | galReplay | hbmEarlyEnable | hbmCfgIgnored | hbmCandidate
  | hbmScrubDone | hbmUncorrectable | hbmCorrected | fabEarlyEnable | fabCfgIgnored
  | fabProto | fabMisroute | fabNoRoute | fabJfidReject | fabReplayStorm
  | fabLinkDown | fabEyeLow | fabHandshakeFail | fabFecUncorr | fabParityReplay
  | snstEarlyEnable | snstCfgIgnored | snstEntryBad | snstUnsettled | snstBufError
  | snstAlarm | snstOpenWire | snstInjOverrun | snstRegOverrun | snstWrap
  | snstHalf | mbxIndexBad | mbxEarlyEnable | mbxCfgIgnored | mbxRingError
  | mbxCplFull | mbxDbIgnored | mbxCmdIgnored | pciEarlyEnable | pciFlr
  | pciBwInvalid | pciHostError | pciEpIn | pciUrIn | pciLinkDown
  | nwlEarlyEnable | nwlCfgIgnored | nwlBindReject | nwlClkLost | nwlFenceSeen
  | nwlTrigSeen | nwlCompletion | colEarlyEnable | colPoisonIn | colCollReject
  | colDropped | colDeferred | colEmptySent | colOpAbort | colOpTimeout
  | tslEarlyEnable | tslPackRejected | tslNotifyLost | tslRefereePoison | tslArrayFenced
  | tslRefereeCheck | tslRefereeArray | tslTilesLost | tslForced | tslTestFail
  | obsEarlyEnable | obsCfgIgnored | obsMonitorFired | obsSnapMissed | obsSnapDone
  | obsCutSkipped | obsRegionWrap | snsEarlyEnable | snsCfgIgnored | snsEntryBad
  | snsUnsettled | snsBufError | snsAlarm | snsOpenWire | snsInjOverrun
  | snsRegOverrun | snsWrap | snsHalf | pwrEarlyEnable | pwrLockRefused
  | pwrVrError | pwrCapUnmet | pwrHold | pwrBusPortFull | pwrBusUnaligned
  | pwrBusLostTarget
  deriving DecidableEq, Repr

/-- The register and the bit of an event. -/
def evInfo (e : Ev) : Reg × Nat :=
  match e with
  | .seqEarlyEnable => (.seqEvent, 4)
  | .seqCfgIgnored => (.seqEvent, 3)
  | .seqMultiFault => (.seqEvent, 2)
  | .seqLongWait => (.seqEvent, 1)
  | .seqDescHold => (.seqEvent, 0)
  | .engEarlyEnable => (.engEvent, 9)
  | .engCfgIgnored => (.engEvent, 8)
  | .engBankConflict => (.engEvent, 7)
  | .engPoisonIn => (.engEvent, 6)
  | .engKZero => (.engEvent, 5)
  | .engMakeup => (.engEvent, 4)
  | .engLanePreempt => (.engEvent, 3)
  | .engRouted => (.engEvent, 2)
  | .engShadowStall => (.engEvent, 1)
  | .engAccTileRange => (.engAccEvent, 7)
  | .engAccScrubFound => (.engAccEvent, 6)
  | .engAccParityPoison => (.engAccEvent, 5)
  | .engAccClassMix => (.engAccEvent, 4)
  | .engAccGradPoison => (.engAccEvent, 3)
  | .engAccGradReplay => (.engAccEvent, 2)
  | .engAccActOverflow => (.engAccEvent, 1)
  | .engAccAlias => (.engAccEvent, 0)
  | .wchEarlyEnable => (.wchEvent, 11)
  | .wchCfgIgnored => (.wchEvent, 10)
  | .wchStepMismatch => (.wchEvent, 9)
  | .wchScaleSat => (.wchEvent, 8)
  | .wchRegionPoison => (.wchEvent, 7)
  | .wchLateFlush => (.wchEvent, 6)
  | .wchJump => (.wchEvent, 5)
  | .wchEscUnable => (.wchEvent, 4)
  | .wchEscExhausted => (.wchEvent, 3)
  | .wchEscLayer => (.wchEvent, 2)
  | .wchEscTile => (.wchEvent, 1)
  | .wchProbeDone => (.wchEvent, 0)
  | .vecEarlyEnable => (.vecEvent, 6)
  | .vecHeritageOp => (.vecEvent, 5)
  | .vecSfuNan => (.vecEvent, 4)
  | .vecAuxPoison => (.vecEvent, 3)
  | .vecPoisonOut => (.vecEvent, 2)
  | .vecGradDrain => (.vecEvent, 1)
  | .vecTileWait => (.vecEvent, 0)
  | .dmaEarlyEnable => (.dmaEvent, 8)
  | .dmaPartFailed => (.dmaEvent, 7)
  | .dmaPoisonIn => (.dmaEvent, 6)
  | .dmaDescHold => (.dmaEvent, 5)
  | .dmaImemWrite => (.dmaEvent, 4)
  | .dmaConverted => (.dmaEvent, 3)
  | .dmaTransposed => (.dmaEvent, 2)
  | .dmaFinePath => (.dmaEvent, 1)
  | .dmaOutbound => (.dmaEvent, 0)
  | .synEarlyEnable => (.synEvent, 4)
  | .synRemoteDrop => (.synEvent, 3)
  | .synRemoteReject => (.synEvent, 2)
  | .synParityPoison => (.synEvent, 1)
  | .synWrap => (.synEvent, 0)
  | .arcEarlyEnable => (.arcEvent, 11)
  | .arcCfgIgnored => (.arcEvent, 10)
  | .arcUnavailable => (.arcEvent, 9)
  | .arcNonfiniteIn => (.arcEvent, 8)
  | .arcZeroSkip => (.arcEvent, 7)
  | .arcClipLost => (.arcEvent, 6)
  | .arcSpill => (.arcEvent, 5)
  | .arcSidePath => (.arcEvent, 4)
  | .arcDoubtful => (.arcEvent, 3)
  | .arcAveraged => (.arcEvent, 2)
  | .arcTSat => (.arcEvent, 1)
  | .arcColSat => (.arcEvent, 0)
  | .prgMasterPoison => (.prgEvent, 14)
  | .prgRefreshReject => (.prgEvent, 13)
  | .prgRefreshDone => (.prgEvent, 12)
  | .prgEarlyEnable => (.prgEvent, 11)
  | .prgCfgIgnored => (.prgEvent, 10)
  | .prgThetaClamped => (.prgEvent, 9)
  | .prgQueueFull => (.prgEvent, 8)
  | .prgSplitBatch => (.prgEvent, 7)
  | .prgSaturated => (.prgEvent, 6)
  | .prgUncompensated => (.prgEvent, 5)
  | .prgNoSpare => (.prgEvent, 4)
  | .prgRotatedDrift => (.prgEvent, 3)
  | .prgRotatedWear => (.prgEvent, 2)
  | .prgRetiredWeak => (.prgEvent, 1)
  | .prgWeakCell => (.prgEvent, 0)
  | .calEarlyEnable => (.calEvent, 10)
  | .calStarved => (.calEvent, 9)
  | .calDtClamped => (.calEvent, 8)
  | .calTempRetrigger => (.calEvent, 7)
  | .calResidRotate => (.calEvent, 6)
  | .calResidHigh => (.calEvent, 5)
  | .calTrimLimit => (.calEvent, 4)
  | .calRefFault => (.calEvent, 3)
  | .calTraceDone => (.calEvent, 2)
  | .calRunDone => (.calEvent, 1)
  | .lndEarlyEnable => (.lndEvent, 5)
  | .lndDirtyPoison => (.lndEvent, 4)
  | .lndCleanRefetch => (.lndEvent, 3)
  | .lndKeepBlock => (.lndEvent, 2)
  | .lndNoSegment => (.lndEvent, 1)
  | .lndLastuseDirty => (.lndEvent, 0)
  | .galEarlyEnable => (.galEvent, 3)
  | .galHeld => (.galEvent, 2)
  | .galPoisonFwd => (.galEvent, 1)
  | .galReplay => (.galEvent, 0)
  | .hbmEarlyEnable => (.hbmEvent, 5)
  | .hbmCfgIgnored => (.hbmEvent, 4)
  | .hbmCandidate => (.hbmEvent, 3)
  | .hbmScrubDone => (.hbmEvent, 2)
  | .hbmUncorrectable => (.hbmEvent, 1)
  | .hbmCorrected => (.hbmEvent, 0)
  | .fabEarlyEnable => (.fabEvent, 11)
  | .fabCfgIgnored => (.fabEvent, 10)
  | .fabProto => (.fabEvent, 9)
  | .fabMisroute => (.fabEvent, 8)
  | .fabNoRoute => (.fabEvent, 7)
  | .fabJfidReject => (.fabEvent, 6)
  | .fabReplayStorm => (.fabEvent, 5)
  | .fabLinkDown => (.fabEvent, 4)
  | .fabEyeLow => (.fabEvent, 3)
  | .fabHandshakeFail => (.fabEvent, 2)
  | .fabFecUncorr => (.fabEvent, 1)
  | .fabParityReplay => (.fabEvent, 0)
  | .snstEarlyEnable => (.snstEvent, 10)
  | .snstCfgIgnored => (.snstEvent, 9)
  | .snstEntryBad => (.snstEvent, 8)
  | .snstUnsettled => (.snstEvent, 7)
  | .snstBufError => (.snstEvent, 6)
  | .snstAlarm => (.snstEvent, 5)
  | .snstOpenWire => (.snstEvent, 4)
  | .snstInjOverrun => (.snstEvent, 3)
  | .snstRegOverrun => (.snstEvent, 2)
  | .snstWrap => (.snstEvent, 1)
  | .snstHalf => (.snstEvent, 0)
  | .mbxIndexBad => (.mbxEvent, 6)
  | .mbxEarlyEnable => (.mbxEvent, 5)
  | .mbxCfgIgnored => (.mbxEvent, 4)
  | .mbxRingError => (.mbxEvent, 3)
  | .mbxCplFull => (.mbxEvent, 2)
  | .mbxDbIgnored => (.mbxEvent, 1)
  | .mbxCmdIgnored => (.mbxEvent, 0)
  | .pciEarlyEnable => (.pciEvent, 6)
  | .pciFlr => (.pciEvent, 5)
  | .pciBwInvalid => (.pciEvent, 4)
  | .pciHostError => (.pciEvent, 3)
  | .pciEpIn => (.pciEvent, 2)
  | .pciUrIn => (.pciEvent, 1)
  | .pciLinkDown => (.pciEvent, 0)
  | .nwlEarlyEnable => (.nwlEvent, 6)
  | .nwlCfgIgnored => (.nwlEvent, 5)
  | .nwlBindReject => (.nwlEvent, 4)
  | .nwlClkLost => (.nwlEvent, 3)
  | .nwlFenceSeen => (.nwlEvent, 2)
  | .nwlTrigSeen => (.nwlEvent, 1)
  | .nwlCompletion => (.nwlEvent, 0)
  | .colEarlyEnable => (.colEvent, 7)
  | .colPoisonIn => (.colEvent, 6)
  | .colCollReject => (.colEvent, 5)
  | .colDropped => (.colEvent, 4)
  | .colDeferred => (.colEvent, 3)
  | .colEmptySent => (.colEvent, 2)
  | .colOpAbort => (.colEvent, 1)
  | .colOpTimeout => (.colEvent, 0)
  | .tslEarlyEnable => (.tslEvent, 9)
  | .tslPackRejected => (.tslEvent, 8)
  | .tslNotifyLost => (.tslEvent, 7)
  | .tslRefereePoison => (.tslEvent, 6)
  | .tslArrayFenced => (.tslEvent, 5)
  | .tslRefereeCheck => (.tslEvent, 4)
  | .tslRefereeArray => (.tslEvent, 3)
  | .tslTilesLost => (.tslEvent, 2)
  | .tslForced => (.tslEvent, 1)
  | .tslTestFail => (.tslEvent, 0)
  | .obsEarlyEnable => (.obsEvent, 6)
  | .obsCfgIgnored => (.obsEvent, 5)
  | .obsMonitorFired => (.obsEvent, 4)
  | .obsSnapMissed => (.obsEvent, 3)
  | .obsSnapDone => (.obsEvent, 2)
  | .obsCutSkipped => (.obsEvent, 1)
  | .obsRegionWrap => (.obsEvent, 0)
  | .snsEarlyEnable => (.snsEvent, 10)
  | .snsCfgIgnored => (.snsEvent, 9)
  | .snsEntryBad => (.snsEvent, 8)
  | .snsUnsettled => (.snsEvent, 7)
  | .snsBufError => (.snsEvent, 6)
  | .snsAlarm => (.snsEvent, 5)
  | .snsOpenWire => (.snsEvent, 4)
  | .snsInjOverrun => (.snsEvent, 3)
  | .snsRegOverrun => (.snsEvent, 2)
  | .snsWrap => (.snsEvent, 1)
  | .snsHalf => (.snsEvent, 0)
  | .pwrEarlyEnable => (.pwrEvent, 4)
  | .pwrLockRefused => (.pwrEvent, 3)
  | .pwrVrError => (.pwrEvent, 2)
  | .pwrCapUnmet => (.pwrEvent, 1)
  | .pwrHold => (.pwrEvent, 0)
  | .pwrBusPortFull => (.pwrBusEvent, 2)
  | .pwrBusUnaligned => (.pwrBusEvent, 1)
  | .pwrBusLostTarget => (.pwrBusEvent, 0)

/-- The blocks that share a tower block number or package block number (R379). -/
def blksAt (tower : Bool) (num : Nat) : List Blk :=
  [.seq, .eng, .wch, .vec, .dma, .syn, .arc, .prg, .cal, .calf, .lnd, .gal, .hbm, .fab, .fabr, .tslc, .obst, .snst, .pwrt, .mbx, .pci, .nwl, .col, .tsl, .obs, .obsp, .sns, .pwr].filter fun b => (blkInfo b).tower == tower && (blkInfo b).num == num

/-- The DA of a block instance: unit u counts the instances of all towers in order (R379). -/
def blkBase (b : Blk) (u : Nat) : Nat :=
  let i := blkInfo b
  if i.tower then 0x200000000000 + (u / i.count) * 0x10000000 + i.num * 0x100000 + i.base + (u % i.count) * i.stride
  else 0x200080000000 + i.num * 0x100000 + i.base + u * i.stride

/-- The DA of register r of unit u, element k. -/
def regAddr (r : Reg) (u k : Nat) : Nat :=
  let i := regInfo r
  blkBase i.blk u + i.off + k * i.step

/-- Where a register access lands: register, unit and element. -/
structure RegAt where
  reg : Reg
  unit : Nat
  elem : Nat
  deriving DecidableEq, Repr

/-- Does block offset `o` (below +0x8_0000) name element k of register r in an instance of its block? -/
def regMatch (r : Reg) (o : Nat) : Option (Nat × Nat) :=
  let i := regInfo r
  let b := blkInfo i.blk
  if o < b.base then none else
    let x := o - b.base
    let inst := if b.stride = 0 then 0 else x / b.stride
    let y := if b.stride = 0 then x else x % b.stride
    if inst < b.count ∧ i.off ≤ y ∧ (y - i.off) % i.step = 0 ∧ (y - i.off) / i.step < i.count then
      some (inst, (y - i.off) / i.step)
    else none

/-- What a DA of the register range names: a populated block or none, and the register at the offset (R16, R367, R372).
`mirror` tells an access through the non-clearing mirror. -/
structure BusTarget where
  tower : Option Nat
  num : Nat
  at? : Option RegAt
  mirror : Bool
  deriving DecidableEq, Repr

def busTarget (da : Nat) : Option BusTarget :=
  if da < 0x200000000000 ∨ 0x200080000000 + 0x10000000 ≤ da then none else
    let x := da - 0x200000000000
    let t := x / 0x10000000
    let num := x / 0x100000 % 256
    let o := x % 0x80000
    let tow := decide (t < 8)
    let secBlk := t = 8 ∧ num = 8
    let bs := blksAt tow num
    if bs = [] ∧ ¬ secBlk then none
    else
      let hit := (bs.flatMap regsOf).findSome? fun r =>
        (regMatch r o).map fun p => (⟨r, (if tow then t * (blkInfo (regInfo r).blk).count else 0) + p.1, p.2⟩ : RegAt)
      some ⟨if tow then some t else none, num, hit, decide (0x80000 ≤ x % 0x100000)⟩

end Sys2Proof.Machine
end

