-- ==== Sys2Proof/Machine/Num.lean ====
section
/-! DEFINITION. Number formats, exact values and rounding (07_formats.md R147 to R163; 06_accumulation.md R131, R135). -/

namespace Sys2Proof.Machine

/-- An exact value: a NaN, an infinity, or (−1)^neg × m × 2^e (a zero keeps its sign). -/
inductive Val where
  | nan
  | inf (neg : Bool)
  | num (neg : Bool) (m : Nat) (e : Int)
  deriving DecidableEq, Repr

/-- The format codes of R241. -/
inductive Fmt where
  | f32 | bf16 | f16 | e4m3 | e5m2 | e2m1 | int4 | int3 | tern | sf8 | f32x | f16s | bit
  | be4m3 | be2m1 | bint4 | bint3 | btern | raw8 | raw16 | raw32
  deriving DecidableEq, Repr

/-- The floating-point field layout of R147. `top` is the code of the largest finite magnitude, `infc` the code of
infinity, `nanc` the canonical NaN. -/
structure FFmt where
  w : Nat
  m : Nat
  bias : Nat
  top : Nat
  infc : Option Nat
  nanc : Option Nat
  deriving DecidableEq, Repr

def ffF32 : FFmt := ⟨32, 23, 127, 0x7F7FFFFF, some 0x7F800000, some 0x7FC00000⟩
def ffBF16 : FFmt := ⟨16, 7, 127, 0x7F7F, some 0x7F80, some 0x7FC0⟩
def ffF16 : FFmt := ⟨16, 10, 15, 0x7BFF, some 0x7C00, some 0x7E00⟩
def ffE5M2 : FFmt := ⟨8, 2, 15, 0x7B, some 0x7C, some 0x7E⟩
def ffE4M3 : FFmt := ⟨8, 3, 7, 0x7E, none, some 0x7F⟩
def ffE2M1 : FFmt := ⟨4, 1, 1, 7, none, none⟩

/-- The value of a code (R147, R148). -/
def ffDecode (f : FFmt) (c : Nat) : Val :=
  let s := c.testBit (f.w - 1)
  let g := c % 2 ^ (f.w - 1)
  if g ≤ f.top then
    let x := g >>> f.m
    let r := g % 2 ^ f.m
    if x = 0 then .num s r (1 - (f.bias : Int) - f.m)
    else .num s (2 ^ f.m + r) ((x : Int) - f.bias - f.m)
  else if f.infc = some g then .inf s else .nan

/-- ⌊log2 (n ÷ d)⌋ for positive n and d. -/
def log2q (n d : Nat) : Int :=
  let l : Int := (Nat.log2 n : Int) - Nat.log2 d
  let ge := if 0 ≤ l then decide (d * 2 ^ l.toNat ≤ n) else decide (d ≤ n * 2 ^ (-l).toNat)
  if ge then l else l - 1

/-- Rounds a quotient of naturals to a natural: to nearest with ties to even, or toward zero. -/
def roundNat (rtz : Bool) (n d : Nat) : Nat :=
  let q := n / d
  let r := n % d
  if rtz then q else if 2 * r > d ∨ (2 * r = d ∧ q % 2 = 1) then q + 1 else q

/-- Rounds n ÷ d × 2^sh to a natural. -/
def roundScaled (rtz : Bool) (n d : Nat) (sh : Int) : Nat :=
  if 0 ≤ sh then roundNat rtz (n * 2 ^ sh.toNat) d else roundNat rtz n (d * 2 ^ (-sh).toNat)

/-- The magnitude code of n ÷ d × 2^e in a floating-point format, without an upper limit (R151). -/
def ffRound (f : FFmt) (rtz : Bool) (n d : Nat) (e : Int) : Nat :=
  if n = 0 then 0 else
    let emin : Int := 1 - (f.bias : Int)
    let q := max (log2q n d + e) emin - f.m
    let k := roundScaled rtz n d (e - q)
    k + (q - (emin - f.m)).toNat * 2 ^ f.m

/-- What a conversion gives (R151): the code, and which watcher counts it. `poison` marks the whole word. -/
structure Conv where
  code : Nat
  nonfinite : Bool := false
  saturated : Bool := false
  flushed : Bool := false
  poison : Bool := false
  deriving DecidableEq, Repr

def signBit (f : FFmt) (neg : Bool) : Nat := if neg then 2 ^ (f.w - 1) else 0

/-- Conversion of v ÷ d into a floating-point format (R151). -/
def ffConv (f : FFmt) (rtz : Bool) (v : Val) (d : Nat) : Conv :=
  match v with
  | .nan => match f.nanc with
    | some c => { code := c, nonfinite := true }
    | none => { code := 0, nonfinite := true, poison := true }
  | .inf s => match f.infc, f.nanc with
    | some c, _ => { code := signBit f s + c, nonfinite := true }
    | none, some c => { code := c, nonfinite := true }
    | none, none => { code := 0, nonfinite := true, poison := true }
  | .num s n e =>
    let c := ffRound f rtz n d e
    if c ≤ f.top then { code := signBit f s + c, flushed := n != 0 && c == 0 }
    else match f.infc with
      | some i => { code := signBit f s + (if rtz then f.top else i), saturated := true }
      | none => { code := signBit f s + f.top, saturated := true }

/-- Conversion of v ÷ d into a two's complement integer of `bits` bits saturating at ± top (R149, R151). -/
def intConv (bits top : Nat) (rtz : Bool) (v : Val) (d : Nat) : Conv :=
  match v with
  | .nan => { code := 0, nonfinite := true, poison := true }
  | .inf _ => { code := 0, nonfinite := true, poison := true }
  | .num s n e =>
    let k := roundScaled rtz n d e
    let k' := min k top
    { code := if s && k' != 0 then 2 ^ bits - k' else k', saturated := k > top, flushed := n != 0 && k == 0 }

/-- Conversion of v ÷ d into an element format (R151). A format that is no element format takes the F32 rules. -/
def convert (f : Fmt) (rtz : Bool) (v : Val) (d : Nat) : Conv :=
  match f with
  | .bf16 => ffConv ffBF16 rtz v d
  | .f16 | .f16s => ffConv ffF16 rtz v d
  | .e4m3 | .be4m3 => ffConv ffE4M3 rtz v d
  | .e5m2 => ffConv ffE5M2 rtz v d
  | .e2m1 | .be2m1 => ffConv ffE2M1 rtz v d
  | .int4 | .bint4 => intConv 4 7 rtz v d
  | .int3 | .bint3 => intConv 3 3 rtz v d
  | .tern | .btern => intConv 2 1 rtz v d
  | .f32 | .f32x | .sf8 | .bit | .raw8 | .raw16 | .raw32 => ffConv ffF32 rtz v d

/-- A two's complement code as a value. -/
def intDecode (bits c : Nat) : Val :=
  if c.testBit (bits - 1) then .num true (2 ^ bits - c % 2 ^ bits) 0 else .num false (c % 2 ^ bits) 0

/-- The value of an SF8 code, as (8 + f, e − 18); code 0x00 is zero (R152). -/
def sf8 (c : Nat) : Nat × Int := if c % 256 = 0 then (0, 0) else (8 + c % 8, ((c / 8 % 32 : Nat) : Int) - 18)

/-- The value of an element code, without its block or chunk scale (R147, R149). -/
def decode (f : Fmt) (c : Nat) : Val :=
  match f with
  | .f32 | .f32x => ffDecode ffF32 c
  | .bf16 => ffDecode ffBF16 c
  | .f16 | .f16s => ffDecode ffF16 c
  | .e4m3 | .be4m3 => ffDecode ffE4M3 c
  | .e5m2 => ffDecode ffE5M2 c
  | .e2m1 | .be2m1 => ffDecode ffE2M1 c
  | .int4 | .bint4 => intDecode 4 c
  | .int3 | .bint3 => intDecode 3 c
  | .tern | .btern => if c % 4 = 2 then .num false 0 0 else intDecode 2 c
  | .sf8 => .num false (sf8 c).1 (sf8 c).2
  | .bit => .num false (c % 2) 0
  | .raw8 | .raw16 | .raw32 => .num false c 0

/-- Element bits (R241). -/
def fmtBits (f : Fmt) : Nat :=
  match f with
  | .f32 | .f32x | .raw32 => 32
  | .bf16 | .f16 | .f16s | .raw16 => 16
  | .e4m3 | .e5m2 | .sf8 | .be4m3 | .raw8 => 8
  | .e2m1 | .int4 | .be2m1 | .bint4 => 4
  | .int3 | .bint3 => 3
  | .tern | .btern => 2
  | .bit => 1

def isBlock (f : Fmt) : Bool :=
  match f with
  | .be4m3 | .be2m1 | .bint4 | .bint3 | .btern => true
  | _ => false

/-- The largest encodable magnitude of a block format's element format (R154). -/
def eMax (f : Fmt) : Nat :=
  match f with
  | .be4m3 => 448 | .be2m1 => 6 | .bint4 => 7 | .bint3 => 3 | .btern => 1
  | _ => 0

/-- An element format in the sense of DRN and VOP outputs (R256, R258). -/
def isElement (f : Fmt) : Bool :=
  match f with
  | .f32 | .bf16 | .f16 | .e4m3 | .e5m2 | .e2m1 | .int4 | .int3 | .tern => true
  | _ => false

def fmtOfCode (c : Nat) : Option Fmt :=
  match c with
  | 0x01 => some .f32 | 0x02 => some .bf16 | 0x03 => some .f16 | 0x04 => some .e4m3 | 0x05 => some .e5m2
  | 0x06 => some .e2m1 | 0x07 => some .int4 | 0x08 => some .int3 | 0x09 => some .tern | 0x0A => some .sf8
  | 0x0B => some .f32x | 0x0C => some .f16s | 0x0D => some .bit
  | 0x10 => some .be4m3 | 0x11 => some .be2m1 | 0x12 => some .bint4 | 0x13 => some .bint3 | 0x14 => some .btern
  | 0x18 => some .raw8 | 0x19 => some .raw16 | 0x1A => some .raw32
  | _ => none

/-! Exact arithmetic on values. -/

def vneg (v : Val) : Val :=
  match v with
  | .nan => .nan
  | .inf s => .inf (!s)
  | .num s n e => .num (!s) n e

/-- A signed integer × 2^e as a value; zero is +0. -/
def vofInt (n : Int) (e : Int) : Val := .num (decide (n < 0)) n.natAbs e

def vsgn (neg : Bool) (n : Nat) : Int := if neg then -(n : Int) else n

/-- Exact sum of two dyadic numbers n1 × 2^e1 + n2 × 2^e2, as a mantissa at the smaller exponent. -/
def dyAdd (n1 e1 n2 e2 : Int) : Int × Int :=
  let e := min e1 e2
  (n1 * 2 ^ (e1 - e).toNat + n2 * 2 ^ (e2 - e).toNat, e)

/-- The exact sum, with the zeros and infinities of IEEE 754 (R135). -/
def vadd (a b : Val) : Val :=
  match a, b with
  | .nan, _ => .nan
  | _, .nan => .nan
  | .inf s, .inf t => if s = t then .inf s else .nan
  | .inf s, .num .. => .inf s
  | .num .., .inf t => .inf t
  | .num s m e, .num t n f =>
    if m = 0 ∧ n = 0 then .num (s && t) 0 0
    else let r := dyAdd (vsgn s m) e (vsgn t n) f; vofInt r.1 r.2

def vsub (a b : Val) : Val := vadd a (vneg b)

def vmul (a b : Val) : Val :=
  match a, b with
  | .nan, _ => .nan
  | _, .nan => .nan
  | .inf s, .inf t => .inf (s != t)
  | .inf s, .num t n _ => if n = 0 then .nan else .inf (s != t)
  | .num s m _, .inf t => if m = 0 then .nan else .inf (s != t)
  | .num s m e, .num t n f => .num (s != t) (m * n) (e + f)

/-- Multiplication by 2^k. -/
def vscale (v : Val) (k : Int) : Val :=
  match v with
  | .num s n e => .num s n (e + k)
  | _ => v

def visNan (v : Val) : Bool := match v with | .nan => true | _ => false
def visFinite (v : Val) : Bool := match v with | .num .. => true | _ => false
def visZero (v : Val) : Bool := match v with | .num _ n _ => n == 0 | _ => false
def vabs (v : Val) : Val := match v with | .num _ n e => .num false n e | .inf _ => .inf false | .nan => .nan
def vneg? (v : Val) : Bool := match v with | .num s _ _ => s | .inf s => s | .nan => false

/-- a < b for values that are no NaN; the zeros are equal. -/
def vlt (a b : Val) : Bool :=
  match a, b with
  | .nan, _ => false
  | _, .nan => false
  | .inf s, .inf t => s && !t
  | .inf s, .num .. => s
  | .num .., .inf t => !t
  | .num s m e, .num t n f => decide ((dyAdd (vsgn s m) e (-(vsgn t n)) f).1 < 0)

def vle (a b : Val) : Bool := !visNan a && !visNan b && !vlt b a

/-- Maximum and minimum of R256: NaN if either is NaN, and +0 is greater than −0. -/
def vmax (a b : Val) : Val :=
  if visNan a || visNan b then .nan
  else if visZero a && visZero b then (if vneg? a then b else a)
  else if vlt a b then b else a

def vmin (a b : Val) : Val :=
  if visNan a || visNan b then .nan
  else if visZero a && visZero b then (if vneg? a then a else b)
  else if vlt b a then b else a

/-! F32 words. -/

def ofF32 (w : Word) : Val := ffDecode ffF32 w.toNat

/-- One rounding of v ÷ d to F32, to nearest with ties to even. -/
def toF32d (v : Val) (d : Nat) : Word := BitVec.ofNat 32 (ffConv ffF32 false v d).code
def toF32 (v : Val) : Word := toF32d v 1

def f32Nan : Word := 0x7FC00000
def f32One : Word := 0x3F800000
def f32Two : Word := 0x40000000
def f32Half : Word := 0x3F000000

/-- Subnormals to zero of the same sign (R165). -/
def ftz (w : Word) : Word := if w &&& 0x7F800000 = 0 then w &&& 0x80000000 else w

def ftzIf (h : Bool) (w : Word) : Word := if h then ftz w else w

/-- F32 operations with one rounding; `h` selects the flushing of heritage mode (R519). -/
def f32Op2 (h : Bool) (op : Val → Val → Val) (a b : Word) : Word :=
  ftzIf h (toF32 (op (ofF32 (ftzIf h a)) (ofF32 (ftzIf h b))))

def f32Add (h : Bool) : Word → Word → Word := f32Op2 h vadd
def f32Sub (h : Bool) : Word → Word → Word := f32Op2 h vsub
def f32Mul (h : Bool) : Word → Word → Word := f32Op2 h vmul
def f32Fma (h : Bool) (a b c : Word) : Word :=
  ftzIf h (toF32 (vadd (vmul (ofF32 (ftzIf h a)) (ofF32 (ftzIf h b))) (ofF32 (ftzIf h c))))

/-- Exact division of values with one rounding; 0 ÷ 0 and ∞ ÷ ∞ are NaN. -/
def f32DivVal (a b : Val) : Word :=
  match a, b with
  | .nan, _ => f32Nan
  | _, .nan => f32Nan
  | .inf s, .num t _ _ => toF32 (.inf (s != t))
  | .inf _, .inf _ => f32Nan
  | .num s _ _, .inf t => toF32 (.num (s != t) 0 0)
  | .num s m e, .num t n f =>
    if n = 0 then (if m = 0 then f32Nan else toF32 (.inf (s != t)))
    else toF32d (.num (s != t) m (e - f)) n

/-- A finite value as an exact integer multiple of 2^−unit, toward zero when it is finer. -/
def vfix (v : Val) (unit : Nat) : Int :=
  match v with
  | .num s n e => vsgn s (if 0 ≤ e + unit then n * 2 ^ (e + unit).toNat else n / 2 ^ (-(e + unit)).toNat)
  | _ => 0

/-- The smallest SF8 code with a ≤ value × num × 2^ex (R156, R163); none when no code qualifies. -/
def sf8Smallest (a : Val) (num : Nat) (ex : Int) : Option Nat :=
  ((List.range 254).map fun i => i + 1).find? fun c => vle a (.num false ((sf8 c).1 * num) ((sf8 c).2 + ex))

/-- v ÷ SF8 value of a non-zero code, ready to be rounded: the value over the denominator 8 + f. -/
def overSf8 (v : Val) (c : Nat) : Val × Nat := (vscale v (-(sf8 c).2), (sf8 c).1)

/-- A finite value rounded to an integer, to nearest with ties to even. -/
def vround (v : Val) (d : Nat) : Int :=
  match v with
  | .num s n e => vsgn s (roundScaled false n d e)
  | _ => 0

/-- ⌊√n⌋ by binary digits from bit k down. -/
def isqrt (n : Nat) : Nat → Nat
  | 0 => 0
  | k + 1 =>
    let r := isqrt (n / 4) k
    if (2 * r + 1) * (2 * r + 1) ≤ n then 2 * r + 1 else 2 * r

end Sys2Proof.Machine
end

