-- ==== Sys2Proof/Machine/State.lean ====
section
/-! DEFINITION. The state of the block as plain data, its reset value, and the reasons a step could stop. Each field
names the rule of spec/ that gives it. -/

namespace Sys2Proof.Machine

/-- The reasons a command could end in a fault. No command of this block raises one: the device reports its faults as
effects on the state (20_faults.md). Safe. -/
inductive Fault where
  /-- Raised by nobody. -/
  | none
  deriving DecidableEq, Repr

/-- The reasons a command could be refused. -/
inductive Refusal where
  /-- Raised by an arm of exec that has no meaning yet. Safe: no claim about such a command can be proved. -/
  | notModelled (mnemonic : String)
  deriving DecidableEq, Repr

/-- The states of a block with an enable (17_registers_islands.md R375). -/
inductive BlkState where
  | disabled | enabled | stopping
  deriving DecidableEq, Repr

/-- How the last register or bus access was answered (R351, R371, R415); `waiting`: a request is held (R285). -/
inductive RespStatus where
  | none | ok | unsupported | aborted | busError | retry | waiting
  deriving DecidableEq, Repr

/-- The answer to the last register or bus access (the model's output field). -/
structure Resp where
  status : RespStatus
  data : List Byte
  poison : Bool
  deriving DecidableEq, Repr

/-! ### The core (10_oanoine_control.md) -/

/-- `run` of SEQ_STATUS (R239). -/
inductive RunState where
  | idle | running | waiting | halted | faulted
  deriving DecidableEq, Repr

/-- One entry of the loop stack (R212, R224). -/
structure LoopEnt where
  first : Nat
  last : Nat
  count : Nat
  deriving DecidableEq, Repr

/-- Where an issued queue instruction stands (R210, R232, R233): `done` waits only to count its token. -/
inductive Phase where
  | queued | started | ran | done
  deriving DecidableEq, Repr

/-- An issued queue instruction: what it took at issue (R221, R229), the entries fetched at start (R245; 64 bytes
each, little-endian; f1 to f3 are the optional extra entries), and its results. -/
structure QInstr where
  seq : Nat
  q : Queue
  pc : Nat
  word : Dword
  eA : Option Nat
  eB : Option Nat
  eC : Option Nat
  eP : Option Nat
  x : Dword
  phase : Phase
  fA : Nat
  fB : Nat
  fC : Nat
  fP : Nat
  f1 : Nat
  f2 : Nat
  conf : Nat
  aux : List Nat
  auxPoi : Bool
  sres : Dword
  pres : Bool
  deriving DecidableEq, Repr

/-- A SYW in progress (R225, R288): `reg`: an object's home arbiter has registered it (R304); `seen` stays once the
condition held; the PC and the word of the SYW are what a fault
of the wait records (R236). -/
structure SywWait where
  token : Nat
  obj : Option ObjId
  eq : Bool
  v : Word
  reg : Bool
  seen : Bool
  since : Nat
  pc : Nat
  word : Dword
  deriving DecidableEq, Repr

/-- A FENCE in progress (R227): the earlier instructions it waits for. -/
structure FenceWait where
  seqs : List Nat
  mask : Nat
  vis : Bool
  deriving DecidableEq, Repr

/-- A SYS operation that waits for its queues (R226); `pkg` of a local one is the own position. -/
structure Deferred where
  seqs : List Nat
  mode : Nat
  obj : Nat
  n : Word
  remote : Bool
  pkg : Nat
  deriving DecidableEq, Repr

/-- A scalar store or DMA write into descriptor memory held under R220 and R261. -/
structure HeldStore where
  off : Nat
  bytes : List Byte
  deriving DecidableEq, Repr

/-- The program image a core holds (R237, R238). -/
structure Image where
  job : JobId
  entry : Nat
  regs : List Byte
  deriving DecidableEq, Repr

/-- The architectural state and the queues of a core (R210, R212). `faultSeq` is the issue number of the fault that
SEQ_FAULT records; `lost` the issue numbers and tokens of instructions that never complete (R233); `launchAt` the cycle
stamp of the last LAUNCH; `stale` holds, by word index, what instruction memory
held before a DMA rewrote it and no FENCE followed (R211). -/
structure Core where
  run : RunState
  halting : Bool
  pc : Nat
  s : Tab Dword
  a : Tab (BitVec 48)
  p : BitVec 8
  d : Tab (BitVec 10)
  tc : Tab Word
  loops : List LoopEnt
  rets : List Nat
  q : List QInstr
  seq : Nat
  syw : Option SywWait
  fence : Option FenceWait
  defer : List Deferred
  held : Option HeldStore
  image : Option Image
  launchAt : Nat
  faultSeq : Option Nat
  lost : List (Nat × Nat)
  stale : Tab Dword
  deriving DecidableEq, Repr

/-! ### Tiles, banks and the watcher of a core (05, 06, 08) -/

/-- One operand element as the engine sees it (R116, R126, R157): absent, poisoned, or a value with the factor
sm × 2^se of its block scale (a block of code 0x00 is `zeroBlk`). -/
inductive OpEl where
  | absent
  | poisoned
  | zeroBlk
  | el (v : Val) (sm : Nat) (se : Int)
  deriving DecidableEq, Repr

/-- The MMA recorded against a tile (R181): its entries and addends. -/
structure MmaRec where
  fA : Nat
  fB : Nat
  fC : Nat
  fP : Nat
  f1 : Nat
  f2 : Nat
  x : Dword
  deriving DecidableEq, Repr

/-- An accumulator tile (R128, R129): `st` 0 EMPTY, 1 PRELOADED, 2 ACTIVE; `tag` counts steps of 8; `lastq` as
ENG_ACC_TILE; `pre` and `recs` are what an escalation replays, `arr` an array contribution, `more` a fifth MMA (R181). `fail` is the
model's own: while a command runs, the reads of the tile still good before one meets a parity failure (log 152). -/
structure Tile where
  st : Nat
  grad : Bool
  tag : Nat
  poison : Bool
  els : Tab Word
  lastq : Nat
  pre : Option (Nat × Nat × Nat × Dword)
  recs : List MmaRec
  arr : Bool
  more : Bool
  gpoi : Bool
  fail : Option Nat
  deriving DecidableEq, Repr

/-- The live stationary banks (R113): the K span, the columns and the elements, column by column. -/
structure Banks where
  span : Nat
  cols : Nat
  els : List OpEl
  deriving DecidableEq, Repr

/-- A watcher record (R174). -/
structure WRec where
  elements : Nat
  zero : Nat
  flushed : Nat
  satElem : Nat
  satBlock : Nat
  nonfinite : Nat
  nonfBlock : Nat
  amax : Word
  sumsq : Nat
  flags : Nat
  deriving DecidableEq, Repr

/-- A watcher cache entry with the step it was counted in (R175). -/
structure WEnt where
  id : Nat
  step : Nat
  cnt : WRec
  deriving DecidableEq, Repr

/-- The accumulator memory, the banks, the vector hold and the watcher of a core. `cache` is in order of last use;
`spent` holds the TILE budget spent per tensor id in step `spentStep` (R181). -/
structure Acc where
  tiles : Tab Tile
  banks : Option Banks
  cache : List WEnt
  armed : Bool
  spent : Tab Nat
  spentStep : Nat
  fencedEng : BitVec 64
  deriving DecidableEq, Repr

/-! ### Arrays, programmer and calibration (02, 03, 04) -/

/-- An exception list entry (R42). -/
structure Exc where
  check : Bool
  uncomp : Bool
  level : Nat
  col : Nat
  row : Nat
  deriving DecidableEq, Repr

/-- One bank of trims of an array (R92); `seed` numbers the codes that the first runs of bring-up left open (R417). -/
structure Trims where
  seed : Option Nat
  gain : Tab Nat
  offset : Tab Int
  row : Tab Int
  slope : Nat
  deriving DecidableEq, Repr

/-- A physical array (R34, R42, R63, R87, R92, R105, R440). `role` as PRG_ARR_STAT; `cells` holds measured levels in
sixteenths at row × 520 + cell column (log 15); `loadAt` is the time of the last load or refresh in µs. -/
structure Arr where
  role : Nat
  fenced : Bool
  fenceCause : Nat
  degraded : Bool
  loaded : Bool
  logical : Nat
  scales : Tab Nat
  exc : List Exc
  master : Nat
  image : Nat
  job : Option JobId
  eMaj : Nat
  eMin : Nat
  interval : Option Nat
  driftLast : Nat
  loadAt : Nat
  cells : Tab Nat
  live : Trims
  staged : Trims
  cal : Nat
  checkStrikes : List Nat
  arrayStrikes : List Nat
  deriving DecidableEq, Repr

/-- What calibration and reads left of an array position's figures (R87, R105). -/
structure ArrStat where
  resid : Nat
  residT : Nat
  trimLimit : Bool
  neverRun : Bool
  suspect : Bool
  devMax : Nat
  lastConf : Nat
  refreshedForResid : Bool
  runs : Nat
  deriving DecidableEq, Repr

/-- A weight entry of the transfer queue (R54), or a weight that a refresh reached (R61): its array, target and whether
its batch has started; its stage and the major differences left to try (R49); the major difference last written, the
minor difference of its image record, and M_eff once known; `image`: the target is the record's, which stays (R514);
`retry`: a cell of it became weak in this write, whose further cells are no drift that the refresh found (R62). -/
structure XEnt where
  phys : Nat
  row : Nat
  col : Nat
  v : Int
  sat : Bool
  started : Bool
  stage : Nat
  tries : List Int
  dW : Int
  dOld : Int
  mE : Option Int
  image : Bool
  refresh : Bool
  retry : Bool
  deriving DecidableEq, Repr

/-- A cell of the batch in progress (R47): cell column, target level, measured level in sixteenths, pulse step and
direction. -/
structure BCell where
  row : Nat
  col : Nat
  target : Nat
  level : Nat
  step : Nat
  up : Option Bool
  pulsed : Bool
  deriving DecidableEq, Repr

/-- The batch in progress: its array, the weights it serves, the significance, and the rounds run (R46, R55); whether it
runs its bursts back to back (R63). -/
structure Batch where
  phys : Nat
  cells : List BCell
  wts : List XEnt
  major : Bool
  rnd : Nat
  atomic : Bool
  deriving DecidableEq, Repr

/-- The refresh in progress (R61): its array, its next step (2,048 weight groups, then 64 column batches of check cells),
and the drifted cells found. -/
structure Refr where
  phys : Nat
  next : Nat
  drifted : Nat
  deriving DecidableEq, Repr

/-- A move of a position to a spare (R51), or the load of a spare for a fenced array (R19). -/
structure Move where
  logical : Nat
  old : Nat
  new : Nat
  fenced : Bool
  deriving DecidableEq, Repr

/-- A read slot of a FULL or threshold read (R64 to R84): the widths, scale and side-path excesses of one row group
or column group. -/
structure Rd where
  seq : Nat
  phys : Nat
  logical : Nat
  trans : Bool
  group : Nat
  mode : Nat
  g : Nat
  gMin : Nat
  lo : Int
  hi : Int
  sx : Nat
  p : List Int
  spill : Option (List Int)
  side : List (Nat × Word)
  masterBase : Nat
  tile : Nat
  pitch : Nat
  row : Nat
  cls : Bool
  nan : Bool
  poison : Bool
  doubt : Option (List Int × List Int)
  deriving DecidableEq, Repr

/-- The array side of a core: remap table, transfer queue, batch, moves, reads in flight, the refresh in progress and the
array that `refresh_now` waits for (R44, R54, R61, R63, R82). -/
structure Bank where
  remap : Tab Nat
  xq : List XEnt
  batch : Option Batch
  moves : List Move
  reads : List Rd
  refreshQ : List Nat
  refresh : Option Refr
  nowFor : Option Nat
  deriving DecidableEq, Repr

/-- A calibration field (R96 to R98): physical arrays due and since when, the array of the last group, whether a run is
in progress and a further one queued, temperatures in 1/16 °C. -/
structure Field where
  due : List Nat
  dueAt : Nat
  cur : Nat
  running : Bool
  again : Bool
  starved : Bool
  tNow : Int
  tLast : Int
  deriving DecidableEq, Repr

/-- A tower's reference chain (R89 to R91) and its fence (R28); `traced`: its full trace passed; `traceT`: the mean of
its diodes at its last trace, in 1/16 °C; `traceAt`: the time of its last trace in µs. -/
structure Tower where
  vrd : BitVec 10
  vts : BitVec 10
  valid : Bool
  traced : Bool
  fault : Bool
  busy : Bool
  traceT : Int
  traceAt : Nat
  fenced : Bool
  fenceCause : Nat
  deriving DecidableEq, Repr

/-- Why Teasel takes a core for a window: at a test point, at a boundary late in the period (R428), for TEST_NOW (R443). -/
inductive WindowKind where
  | point
  | forced
  | now
  deriving DecidableEq, Repr

/-- Teasel's view of a core (R428, R430, R446): its fence and the causes of R443, engines that a FENCE names and the
next window fences (R115), its last window, and the window in progress: the core is UNDER TEST (R239). -/
structure TCore where
  fenced : Bool
  cause : Nat
  engCause : Tab Nat
  engPend : BitVec 64
  result : Nat
  forced : Bool
  lastAt : Option Nat
  under : Option WindowKind
  deriving DecidableEq, Repr

/-- Teasel (R428, R441, R444): since when the schedule runs, and the active pack: its version, whether it replaces the
base pack, and its measurement. -/
structure Teasel where
  schedAt : Nat
  packVer : Word
  packLoaded : Bool
  packMeasure : BitVec 512
  deriving DecidableEq, Repr

/-! ### Memory side (12) -/

/-- A Landing line (R267, R270): its DA, dirty, high retention, stamp of last use, the HBM bytes where they differ from
the line's, and the words of bursts that are poisoned in HBM and not in the line (R272, R278). -/
structure LLine where
  da : Nat
  dirty : Bool
  high : Bool
  stamp : Nat
  back : Option (List Host.Cell)
  backPoi : List Nat
  deriving DecidableEq, Repr

/-- A request that waits: an access, whether it is a grain of the fine path, and for one that the host sent over PCI
Express its EP bit (R352). -/
structure LReq where
  acc : LAccess
  grain : Bool
  host : Option Bool
  deriving DecidableEq, Repr

/-- What one access of a work does on its way (R267, R276, R285): the tower it goes to (none: the host), the stack and
pseudo-channel that serve it, unless a line does; whose it is, who pays, its tokens; whether it is a write-back, reads
bursts of its line, or writes; the range. -/
structure Touch where
  home : Option Nat
  stack : Option (Nat × Nat)
  who : Option JobId
  pay : Option JobId
  cost : Nat
  wback : Bool
  read : Bool
  write : Bool
  addr : Nat
  len : Nat
  deriving DecidableEq, Repr

/-- The Landing slices (R267 to R272): lines by slice × 393,216 + set × 16 + way, the stamp of the next use, the frames
never allocated again (R430), the requests that wait at their source for a DISABLED stop (R285), and the clusters whose way
is being written back (R269, R283). `log` is the model's
own: the accesses of a work that is looked at before it is done; none otherwise (log 43). -/
structure Landing where
  lines : Tab LLine
  clock : Nat
  dead : List Nat
  held : List LReq
  flushing : List Nat
  log : Option (List Touch)
  deriving DecidableEq, Repr

/-- A candidate row for repair (R279, R280). -/
structure Cand where
  pc : Nat
  bank : Nat
  row : Nat
  corr : Nat
  uncorr : Nat
  repaired : Bool
  soft : Bool
  deriving DecidableEq, Repr

/-- A stack (R263, R276 to R281): in service, by partition the token buckets in 1/256 token and what work took beyond them
(log 45), HBM_PART_RATE and HBM_PART_WAIT, the partitions whose work waits for tokens, the candidates, corrected bursts of
rows in the present scrub period, the pseudo-channel under repair, and the requests that wait for tokens or for the repair,
in order. -/
structure Stack where
  inService : Bool
  tokens : Tab Nat
  debt : Tab Nat
  rates : Tab Word
  waits : Tab Word
  short : List Nat
  cands : List Cand
  corrRows : Tab Nat
  temp : Nat
  hot : Bool
  repair : Option Nat
  queue : List LReq
  deriving DecidableEq, Repr

/-! ### Jobs (18 R394 to R402, 20 R435, 21 R457) -/

/-- States of a job (R394). -/
inductive JobState where
  | none | idle | running | halting
  deriving DecidableEq, Repr

/-- A mapping (R399): start, length, host window or HBM. -/
structure MapEnt where
  da : Nat
  len : Nat
  host : Bool
  deriving DecidableEq, Repr

/-- A notification record (R435). -/
structure Note where
  seq : Nat
  us : Nat
  reason : Nat
  detail : Nat
  core : Nat
  tid : Nat
  tile : Nat
  bitmap : Dword
  deriving DecidableEq, Repr

/-- A job's dump region (R458, R459). -/
structure JobDump where
  da : Nat
  slot : Nat
  maxClusters : Nat
  records : Nat
  index : Nat
  granted : Bool
  deriving DecidableEq, Repr

/-- A job (R394, R396). `base` holds the counters of its clusters at their assignment (R457). -/
structure Job where
  state : JobState
  global : Bool
  tower : Nat
  jfid : BitVec 16
  maps : List MapEnt
  stat : Nat
  notes : List Note
  noteSeq : Nat
  dump : Option JobDump
  base : Tab Nat
  policy : Nat
  deadline : Nat
  opTimeout : Nat
  deriving DecidableEq, Repr

/-! ### The fabric, collective operations and twin copies (14, 15) -/

/-- A sequenced flit on its way, with the tower whose core sent it and how often it was sent again (R294, R313). -/
structure TxFlit where
  f : Flit
  tower : Nat
  tries : Nat
  deriving DecidableEq, Repr

/-- A COLL message that arrives on a lane of a link (R323): its bytes so far, whether a flit of it was poisoned, and whether
one of it was discarded. -/
structure CollAsm where
  lane : Bool
  bytes : List Byte
  poison : Bool
  lost : Bool
  deriving DecidableEq, Repr

/-- A link (R307 to R315): `st` as FAB_STATUS, `result` as FAB_TRAIN reports it, what firmware configured (R332), the
handshake, and the link layer: sequence numbers, replay buffer, flits waiting for credit, credit counts by channel
(used, returned by the partner, given back), NAK state (1 owed, 2 sent), whether FAB_TRAIN has retrained it (R308),
when `ack_seq` last advanced, and the times of recent replays. -/
structure Link where
  st : Nat
  result : Nat
  jfid : BitVec 16
  any : Bool
  pos : Nat
  port : Nat
  since : Nat
  good : Nat
  seen : Bool
  partner : Option Hand
  txSeq : Nat
  rxSeq : Nat
  sent : List TxFlit
  wait : List TxFlit
  base : Nat
  used : Tab Nat
  back : Tab Nat
  given : Tab Nat
  owe : Nat
  nak : Nat
  retrained : Bool
  ackAt : Nat
  replays : List Nat
  asm : List CollAsm
  ctrlOut : Option Ctrl
  handOut : Option Hand
  deriving DecidableEq, Repr

/-- A route table entry (R316). -/
structure Route where
  link : Nat
  dateline : Bool
  valid : Bool
  deriving DecidableEq, Repr

/-- An operation of a collective group in progress (R319 to R329): its record, whether it is INVALID, whether its
start wait was released and whether this rank is an empty contributor, when its deadline runs from, when this rank began
it, when its start wait was released, from which its time-out runs (R329),
the policy in force, whether held contributions were added, late child slots and those that have begun, reduce
messages handled by segment, segments gathered, messages waiting for others, segments whose sum left this rank, and
the contributors of what was written so far. -/
structure CollOp where
  rec_ : Nat
  bad : Bool
  started : Bool
  empty : Bool
  firstUs : Nat
  startUs : Nat
  relUs : Option Nat
  policy : Nat
  deadline : Nat
  timeout : Nat
  plusOwn : Bool
  plusKids : List Nat
  lateKids : List Nat
  kidSeen : List Nat
  red : Tab Nat
  gat : List Nat
  parts : List (Nat × SegMsg)
  up : List Nat
  mask : Option (BitVec 64)
  deriving DecidableEq, Repr

/-- A collective group at this rank (R318). `k` numbers the next operation (R319), `rel` the last whose wait on
`start` was released (R288), `owe` the late operations whose contribution has not come (R326), `heldOwn` and `heldKids` the
records whose contributions are deferred, those of children with the numbers of their operations (R328), `heard` when the
first segment of an operation, by its index, arrived (R325), and `last` the operation that ended last. -/
structure Group where
  job : JobId
  tree : Bool
  heritage : Bool
  ranks : Nat
  rank : Nat
  next : List Nat
  prev : List Nat
  parent : Option Nat
  kids : List (Option Nat)
  start : ObjId
  done : ObjId
  target : Nat
  ring : Nat
  work : Nat
  nMax : Nat
  k : Nat
  rel : Nat
  op : Option CollOp
  waiting : List (Nat × SegMsg)
  last : Option CollOp
  owe : List (Nat × Nat × Nat)
  heldOwn : Option Nat
  heldKids : Tab (Nat × Nat)
  heard : Tab Nat
  deferred : Nat
  dropped : Nat
  deriving DecidableEq, Repr

/-- A twin copy in progress (R340): `sent` once its stream left. -/
structure TwinCopy where
  number : Nat
  step : Nat
  sent : Bool
  at_ : Nat
  deriving DecidableEq, Repr

/-- A job's SOURCE configuration (R337, R339, R347): `points` twin points passed, `rel` those whose wait on `gate` was
released (R288), `now` a TWIN_COPY_NOW pending. -/
structure TwinSrc where
  links : List Nat
  partner : Nat
  history : Bool
  enabled : Bool
  every : Nat
  gate : ObjId
  resume : ObjId
  gateTarget : Nat
  regions : List (Nat × Nat)
  points : Nat
  rel : Nat
  now : Bool
  lastNumber : Nat
  committed : Option (Nat × Nat)
  lastResult : Nat
  since : Nat
  copy : Option TwinCopy
  deriving DecidableEq, Repr

/-- A HOLD area (R337, R338). -/
structure TwinHold where
  src : Nat
  jfid : BitVec 16
  single : Bool
  da : Nat
  len : Nat
  deriving DecidableEq, Repr

/-- A copy that arrives into a hold area, or a restore that arrives into a job's regions (R340, R345): the OPEN of its
stream 0 or the first that came, where it writes, the link of each stream open, pieces received by stream, streams
opened and closed, and the time of its last flit. `job` is set for a restore. -/
structure TwinIn where
  src : Nat
  jfid : BitVec 16
  job : Option JobId
  slot : Nat
  number : Nat
  step : Nat
  bytes : Nat
  history : Bool
  streams : Nat
  lengths : List Nat
  links : Tab Nat
  got : Tab Nat
  closed : List Nat
  lastUs : Nat
  deriving DecidableEq, Repr

/-- A restore asked for by TWIN_RESTORE (R345) and how it ended. -/
structure TwinRest where
  links : List Nat
  partner : Nat
  orig : Nat
  jfid : BitVec 16
  regions : List (Nat × Nat)
  running : Bool
  result : Nat
  number : Nat
  step : Nat
  history : Bool
  deriving DecidableEq, Repr

/-- The fabric of the package: links, lane eyes by port × 8 + lane as (width, height), routes by position, credits per
lane by port as configured, collective groups, the twin mover's configurations and copies, and when ports were told to stop
(R331). -/
structure Fabric where
  links : Tab Link
  eyes : Tab (Nat × Nat)
  routes : Tab Route
  credits : Tab (Nat × Nat × Nat)
  groups : Tab Group
  twins : Tab TwinSrc
  holds : List TwinHold
  ins : List TwinIn
  rests : Tab TwinRest
  stopAt : Tab Nat
  deriving DecidableEq, Repr

/-! ### PCI Express and Bindweed (16) -/

/-- A Bindweed entry that was read (R357): its number since ENABLE, its 64 bytes, whether it started, when, and
whether the link went down while it was in flight (R349). -/
structure BwEnt where
  k : Nat
  raw : Nat
  started : Bool
  at_ : Nat
  cut : Bool
  deriving DecidableEq, Repr

/-- The offload queue of a job (R356); `rel` is the last entry whose wait on `push` was released (R357). -/
structure BwQ where
  push : ObjId
  progress : ObjId
  lead : Nat
  qda : Nat
  wbase : Nat
  wlen : Nat
  next : Nat
  rel : Nat
  pushed : Nat
  ents : List BwEnt
  closing : Bool
  deriving DecidableEq, Repr

/-- An error that AER logs (R351, R352, R371). -/
inductive AerErr where
  | unsupported | abort | ecrc
  deriving DecidableEq, Repr

/-- A memory request on the outbound link: its requester (0 the PF, j + 1 the VF of job j), and its range (R354). -/
structure OutTlp where
  fn : Nat
  write : Bool
  addr : Nat
  len : Nat
  deriving DecidableEq, Repr

/-- The PCI Express port (R348 to R354): link, MSI-X tables as dwords by function × 4,096 + vector × 4 + dword,
pending bits by function × 1,024 + vector, messages sent by vector; what host software configured (log 169): Memory Space
Enable of the PF, VF Enable, VF Memory Space Enable, NumVFs, payload and read request sizes, ECRC generation and checking,
completion time-out, functions in D3hot, and the errors AER logged by function; the identity of the configuration image, and
the requests of the last outbound access. -/
structure Pci where
  width : Nat
  speed : Nat
  flit : Bool
  mem : Bool
  vfOn : Bool
  vfMem : Bool
  numVfs : Nat
  mps : Nat
  mrrs : Nat
  ecrcGen : Bool
  ecrcCheck : Bool
  cto : Nat
  d3 : List Nat
  aer : List (Nat × AerErr)
  ident : Option PcieId
  out : List OutTlp
  msix : Tab Word
  msixPend : List Nat
  msixSent : Tab Nat
  bw : Tab BwQ
  deriving DecidableEq, Repr

/-! ### Newel (13 R295 to R303) and observation (21) -/

/-- An operation on a synchronisation object (R287), or what a poisoned remote SIGNAL does to it (log 136). -/
inductive ObjOp where
  | signal (n : Word)
  | reset
  | arrive
  | completion (line : Nat) (target : Word)
  | poison
  deriving DecidableEq, Repr

/-- An operation held at a port of a home arbiter, whether it came from SYN_OP, and the job-fabric id of a remote SIGNAL
(R290, R294, R304). -/
structure PortOp where
  port : Nat
  obj : ObjId
  op : ObjOp
  bus : Bool
  jfid : Option (BitVec 16)
  deriving DecidableEq, Repr

/-- A count of a bound `arrive` object on its way to the Newel interface (R302); `sub` marks the count that the line's
own completion left (R300). -/
structure LineReport where
  line : Nat
  count : Word
  sub : Bool
  deriving DecidableEq, Repr

/-- A completion that an edge recorded, with the binding it completed (R300). -/
structure LineDone where
  line : Nat
  arrive : Nat
  target : Nat
  done : Nat
  deriving DecidableEq, Repr

/-- The Newel interface: sampled levels, outputs, reported counts of the `arrive` objects by line, reports on their way,
completions to send, lines held until the count after a subtraction is reported, and the NWL_FENCE former. -/
structure Newel where
  pos : BitVec 6
  barIn : BitVec 4
  trigIn : Bool
  fenceIn : Bool
  barOut : BitVec 4
  trigPull : Bool
  clkLost : Bool
  rep : Tab Word
  flight : List LineReport
  toSend : List LineDone
  holdSub : List Nat
  fenceArmed : Bool
  deriving DecidableEq, Repr

/-- An arming of Yarrow (R462). -/
structure Arm where
  system : Bool
  sources : Nat
  rearm : Bool
  obj : Nat
  mon : Nat
  da : Nat
  len : Nat
  deriving DecidableEq, Repr

/-- A health monitor's running window (R461). -/
structure MonWin where
  startUs : Nat
  startCnt : Nat
  firedAt : Option Nat
  deriving DecidableEq, Repr

/-- Sorrel and Yarrow: the latched high word, the number of the last cut taken and of the last completed one, when a
period last expired, the records of the cut being written with the job each belongs to (none: the device), whether a
cut was skipped since, the device region's slot, arming, pending triggers, the record being written, whether
Yarrow was armed again since its trigger, and the monitors. -/
structure Obs where
  cntHi : Word
  seq : Nat
  doneSeq : Nat
  lastCut : Nat
  cutBusy : Bool
  recs : List (Option JobId × Nat × List Byte)
  skipped : Bool
  slot : Nat
  arm : Option Arm
  trigs : List (Nat × Nat)
  snap : Option (Nat × List Byte)
  rearmed : Bool
  snapNum : Nat
  mons : Tab MonWin
  deriving DecidableEq, Repr

/-! ### Campion and the mailboxes (18) -/

/-- A command in execution (R383, R389): its 64 bytes, the time of acceptance, its place in the order of start, whether
it passed its commit point and only waits (R381, R390), and what it remembers meanwhile. -/
structure Cmd where
  raw : Nat
  since : Nat
  order : Nat
  committed : Bool
  memo : List Nat
  deriving DecidableEq, Repr

/-- A command stream (R386 to R388): of the registers `busy`, `rsp_valid` and the time of acceptance; of the ring the
phase of the completions; the command in execution, and a response held while the PCI Express link is down (R349). -/
structure FwStream where
  busy : Bool
  rspValid : Bool
  since : Nat
  phase : Bool
  cmd : Option Cmd
  held : Option (List Byte)
  bg : List Cmd
  deriving DecidableEq, Repr

/-- Campion (R381, R389): pairs that failed, the base of the arbitration of starts, the number of the next start, and
the streams by 2f + s. -/
structure Campion where
  failed : Nat
  base : Nat
  next : Nat
  streams : Tab FwStream
  deriving DecidableEq, Repr

/-! ### Cowslip (22) -/

/-- A place in a sequence: injected or regular, entry, channel (R470). -/
structure SnsPos where
  inj : Bool
  ent : Nat
  chan : Nat
  deriving DecidableEq, Repr

/-- A converter (R467 to R477): the conversion in progress, where the regular sequence goes on, the sources of the
injected run in progress and of the trigger that waits, the alarm with the diodes that read below `lo` since one did
not, the running means' results, the settled references, and a buffer in HBM. -/
structure Adc where
  now : Option SnsPos
  reg : Option SnsPos
  src : Nat
  held : Nat
  alarm : Bool
  low : List Nat
  means : Tab (List Nat)
  settled : BitVec 3
  buf : Option (Nat × Nat)
  deriving DecidableEq, Repr

/-! ### Power, security, pins and the test access port (19, 23, 24) -/

/-- A tower's operating point (R482 to R487): F, where it goes, the commanded voltage and the one before it, a ramp in
progress, thermally held, not yet back at its ceiling after a hold, when the hold ended or F last rose, and below its
ceiling because of the cap. -/
structure PTower where
  f : Nat
  goal : Nat
  mv : Nat
  mvOld : Nat
  ramp : Bool
  held : Bool
  cooling : Bool
  since : Nat
  capped : Bool
  deriving DecidableEq, Repr

/-- The power manager (R485 to R487): the towers, the slot gate, the estimate, its bias, when the BMC last wrote the
board power, and whether a tower was capped or held in the present millisecond. -/
structure Power where
  tw : Tab PTower
  gate : Nat
  est : Nat
  bias : Int
  boardAt : Option Nat
  capMs : Bool
  holdMs : Bool
  deriving DecidableEq, Repr

/-- The security block (R411, R441, R489 to R494): versions and measurements of what runs, and the PUF check. -/
structure Sec where
  cfgVer : Word
  fwVer : Word
  packSec : Word
  cfgMeasure : BitVec 512
  fwMeasure : BitVec 512
  pufFail : Bool
  deriving DecidableEq, Repr

/-- The reset inputs, THERMTRIP_N and the SPI pins (R406, R407, R410 to R412, R488): PWR_OK is high, the device is in reset,
it tripped, SYS_RST_N holds it in reset, the time before which reset cannot be released, and the read command with which the
device drives the SPI pins (none: high impedance). -/
structure Pins where
  powered : Bool
  held : Bool
  trip : Bool
  sysRst : Bool
  relAt : Nat
  spi : Option Byte
  deriving DecidableEq, Repr

/-- The test access port (R510): state, instruction, the shift register and TDO. -/
structure Tap where
  st : Nat
  ir : Nat
  shift : List Bool
  tdo : Bool
  deriving DecidableEq, Repr

/-- The units of the base dies that run without a job: Campion, converters, power manager, security block, reset
inputs and test access port, and what the board configuration image gave: the default cap and the listed ports. -/
structure Sys where
  camp : Campion
  convs : Tab Adc
  pwr : Power
  sec : Sec
  pins : Pins
  tap : Tap
  cap0 : Nat
  ports : List PortCfg
  deriving DecidableEq, Repr

/-! ### The whole device -/

/-- Everything of the part but what outlives a power cycle and the queue of commands. -/
structure Chip where
  /-- Draws of free values (log 9; the model's own field). -/
  free : Nat
  /-- Microseconds since reset release (R435, R454). -/
  us : Nat
  /-- Cycles of each island since reset release (R363, R455). -/
  isl : Tab Nat
  /-- Islands running (R366, R380). -/
  islRun : BitVec 25
  /-- Device phase (R412): 0 BOOT to 5 FAILED. -/
  phase : Nat
  /-- Bytes by DA, and above 2^48 instruction and descriptor memory of the cores (R15, R211, R213). -/
  mem : List Host.Cell
  /-- Poisoned granules, by their first address (R278, R433). -/
  poi : List Nat
  /-- Registers by DA, where they differ from reset (R7, R379). -/
  regs : Tab Word
  /-- States of the blocks with an enable, by the DA of the CTRL register (R375). -/
  blks : Tab BlkState
  /-- The last answer to a register or bus access. -/
  resp : Resp
  /-- The 100,928 counters, in the order of R456. -/
  cnts : Tab Nat
  /-- The cores (R212). -/
  cores : Tab Core
  /-- Tiles, banks and watchers of the cores. -/
  accs : Tab Acc
  /-- Array side of the cores. -/
  banks : Tab Bank
  /-- Physical arrays, core × 136 + array (R42). -/
  arrs : Tab Arr
  /-- Figures of the array positions, core × 136 + physical array (R87, R105). -/
  stats : Tab ArrStat
  /-- Calibration fields of the cores (R96). -/
  fields : Tab Field
  /-- Towers (R28, R89). -/
  towers : Tab Tower
  /-- Teasel's state of the cores (R446). -/
  tcores : Tab TCore
  tsl : Teasel
  /-- Owner of each cluster (R22). -/
  clus : Tab JobId
  /-- Synchronisation objects (R286), and those poisoned (R292). -/
  objs : Tab Word
  objPoi : List Nat
  /-- Operations held at the ports of blocks that are not ENABLED (R304). -/
  ports : List PortOp
  /-- Fabric, collective groups and twin copies (R306 to R347). -/
  fab : Fabric
  /-- The Newel interface (R295) and observation (R447). -/
  nwl : Newel
  obs : Obs
  /-- The Landing cache (R267). -/
  land : Landing
  /-- Layers in GLOBAL mode (R265). -/
  globalLayers : List Nat
  /-- The stacks (R263). -/
  stks : Tab Stack
  /-- The jobs (R394). -/
  jobs : Tab Job
  /-- The PCI Express port and Bindweed (R349, R356). -/
  pci : Pci
  /-- Campion, Cowslip, power, security, pins (18, 19, 22 to 24). -/
  sys : Sys
  deriving DecidableEq, Repr

/-- What the wear log keeps of a physical array (R45). -/
structure WearArr where
  retired : Bool
  exc : List Exc
  eMaj : Nat
  eMin : Nat
  deriving DecidableEq, Repr

/-- What the wear log keeps of a core (R45). -/
structure WearCore where
  remap : Tab Nat
  arrs : Tab WearArr
  deriving DecidableEq, Repr

/-- What outlives resets: the lock region's minimum security versions (configuration, firmware, test pack), the keys of
the used owner slots, the voltage–frequency table by tower × 64 + F and the repair data of on-die memories (R409, R490), the wear log's two copies and which is
the newer (R45, R416), the soft repairs that the newer and the older copy hold and the hard repairs by stack, pseudo-channel, bank and row (R281), and the
preferred slots of the NOR device's directory (R410). -/
structure NonVol where
  minVer : List Word
  owners : List (List Byte)
  vf : Tab Nat
  dieRepair : List Byte
  wear : Tab WearCore
  wearOld : Tab WearCore
  wearNewB : Bool
  soft : List (Nat × Nat × Nat × Nat)
  softOld : List (Nat × Nat × Nat × Nat)
  hard : List (Nat × Nat × Nat × Nat)
  preferFwB : Bool
  preferCfgB : Bool
  deriving DecidableEq, Repr

/-- The state: the chip, what outlives resets, and the commands that wait. -/
structure State where
  chip : Chip
  nv : NonVol
  pending : List Instr
  deriving DecidableEq, Repr

/-! ### Reset -/

/-- The chip at the release of a power-on reset: BOOT starts (R407, R421). The islands that BOOT needs run (log 26);
the positions of NWL_POS read 0 (log 10). -/
def Chip.reset : Chip :=
  { free := 0, us := 0, isl := [], islRun := 0x1580000, phase := 0, mem := [], poi := [], regs := [], blks := []
    resp := { status := .none, data := [], poison := false }
    cnts := [], cores := [], accs := [], banks := [], arrs := [], stats := [], fields := [], towers := [], tcores := []
    tsl := { schedAt := 0, packVer := 0, packLoaded := false, packMeasure := 0 }
    clus := [], objs := [], objPoi := [], ports := []
    fab := { links := [], eyes := [], routes := [], credits := [], groups := [], twins := [], holds := [], ins := []
             rests := [], stopAt := [] }
    nwl := { pos := 0, barIn := 0, trigIn := true, fenceIn := true, barOut := 0, trigPull := false, clkLost := false
             rep := [], flight := [], toSend := [], holdSub := [], fenceArmed := false }
    obs := { cntHi := 0, seq := 0, doneSeq := 0, lastCut := 0, cutBusy := false, recs := [], skipped := false
             slot := 0, arm := none, trigs := [], snap := none, rearmed := false, snapNum := 0, mons := [] }
    land := { lines := [], clock := 0, dead := [], held := [], flushing := [], log := none }
    globalLayers := [], stks := [], jobs := []
    pci := { width := 0, speed := 0, flit := false, mem := false, vfOn := false, vfMem := false, numVfs := 0, mps := 0
             mrrs := 2, ecrcGen := false, ecrcCheck := false, cto := 0, d3 := [], aer := [], ident := none, out := []
             msix := [], msixPend := [], msixSent := [], bw := [] }
    sys := { camp := { failed := 0, base := 0, next := 0, streams := [] }, convs := []
             pwr := { tw := [], gate := 16, est := 0, bias := 0, boardAt := none, capMs := false, holdMs := false }
             sec := { cfgVer := 0, fwVer := 0, packSec := 0, cfgMeasure := 0, fwMeasure := 0, pufFail := false }
             pins := { powered := true, held := false, trip := false, sysRst := false, relAt := 0, spi := some 0x6C }
             tap := { st := 15, ir := 1, shift := [], tdo := false }
             cap0 := 2150, ports := [] } }

/-- A device whose lock region holds no raised version and no owner, and whose wear log is empty (log 10). -/
def NonVol.fresh : NonVol :=
  { minVer := [0, 0, 0], owners := [], vf := [], dieRepair := [], wear := [], wearOld := [], wearNewB := false, soft := [], softOld := [], hard := [], preferFwB := false
    preferCfgB := false }

/-- The machine right after reset, with no command waiting. -/
def State.reset : State := { chip := Chip.reset, nv := NonVol.fresh, pending := [] }

end Sys2Proof.Machine
end

