-- ==== Sys2Proof/Machine/Ops.lean ====
section
/-! DEFINITION. The named operations over the state: units and their reset values, registers and events, counters,
memory and poison, Landing, reach, notifications and interrupts, core faults. -/

namespace Sys2Proof.Machine

/-! ### Units -/

/-- A core before its first LAUNCH (R212, R239; log 11). -/
def coreReset : Core :=
  { run := .idle, halting := false, pc := 0, s := [], a := [], p := 1, d := [], tc := [], loops := [], rets := [],
    q := [], seq := 0, syw := none, fence := none, defer := [], held := none, image := none, launchAt := 0,
    faultSeq := none, lost := [], stale := [] }

/-- An EMPTY tile (R129). -/
def tileEmpty : Tile :=
  { st := 0, grad := false, tag := 0, poison := false, els := [], lastq := 0, pre := none, recs := [], arr := false,
    more := false, gpoi := false, fail := none }

def accReset : Acc :=
  { tiles := [], banks := none, cache := [], armed := false, spent := [], spentStep := 0, fencedEng := 0 }

def bankReset : Bank :=
  { remap := [], xq := [], batch := none, moves := [], reads := [], refreshQ := [], refresh := none, nowFor := none }

/-- Trims at reset (R92, R105). -/
def trimsReset : Trims := { seed := none, gain := [], offset := [], row := [], slope := 128 }

/-- Physical array a of core g at reset (R14, R44, R63). -/
def arrReset (g a : Nat) : Arr :=
  { role := if a < 128 then 0 else if a = 135 ∧ g < 8 then 3 else 1, fenced := false, fenceCause := 0,
    degraded := false, loaded := false, logical := if a < 128 then a else 0, scales := [], exc := [], master := 0,
    image := 0, job := none, eMaj := 0, eMin := 0, interval := none, driftLast := 0, loadAt := 0, cells := [],
    live := trimsReset, staged := trimsReset, cal := 0, checkStrikes := [], arrayStrikes := [] }

/-- Figures of an array at reset (R87, R105). -/
def statReset : ArrStat :=
  { resid := 255, residT := 255, trimLimit := false, neverRun := true, suspect := false, devMax := 0, lastConf := 0,
    refreshedForResid := false, runs := 0 }

/-- A field at reset: due (R105), with every position to run. -/
def fieldReset : Field :=
  { due := List.range 128, dueAt := 0, cur := 0, running := false, again := false, starved := false, tNow := 0,
    tLast := 0 }

def towerReset : Tower :=
  { vrd := 0x200, vts := 0x200, valid := false, traced := false, fault := false, busy := false,
    traceT := 0, traceAt := 0, fenced := false, fenceCause := 0 }

def tcoreReset : TCore :=
  { fenced := false, cause := 0, engCause := [], engPend := 0, result := 0, forced := false, lastAt := none, under := none }

def stackReset : Stack :=
  { inService := false, tokens := [], debt := [], rates := [], waits := [], short := [], cands := [], corrRows := [], temp := 0, hot := false,
    repair := none, queue := [] }

def jobReset : Job :=
  { state := .none, global := false, tower := 0, jfid := 0, maps := [], stat := 0, notes := [], noteSeq := 1,
    dump := none, base := [], policy := 0, deadline := 0, opTimeout := 100 }

def coreOf (ch : Chip) (g : Nat) : Core := tget ch.cores coreReset g
def setCore (ch : Chip) (g : Nat) (k : Core) : Chip := { ch with cores := tput ch.cores g k }
def updCore (ch : Chip) (g : Nat) (f : Core → Core) : Chip := setCore ch g (f (coreOf ch g))
def accOf (ch : Chip) (g : Nat) : Acc := tget ch.accs accReset g
def setAcc (ch : Chip) (g : Nat) (k : Acc) : Chip := { ch with accs := tput ch.accs g k }
def updAcc (ch : Chip) (g : Nat) (f : Acc → Acc) : Chip := setAcc ch g (f (accOf ch g))
def bankOf (ch : Chip) (g : Nat) : Bank := tget ch.banks bankReset g
def setBank (ch : Chip) (g : Nat) (k : Bank) : Chip := { ch with banks := tput ch.banks g k }
def updBank (ch : Chip) (g : Nat) (f : Bank → Bank) : Chip := setBank ch g (f (bankOf ch g))
def arrOf (ch : Chip) (g a : Nat) : Arr := tget ch.arrs (arrReset g a) (g * 136 + a)
def setArr (ch : Chip) (g a : Nat) (x : Arr) : Chip := { ch with arrs := tput ch.arrs (g * 136 + a) x }
def updArr (ch : Chip) (g a : Nat) (f : Arr → Arr) : Chip := setArr ch g a (f (arrOf ch g a))
def statOf (ch : Chip) (g a : Nat) : ArrStat := tget ch.stats statReset (g * 136 + a)
def updStat (ch : Chip) (g a : Nat) (f : ArrStat → ArrStat) : Chip :=
  { ch with stats := tput ch.stats (g * 136 + a) (f (statOf ch g a)) }
def fieldOf (ch : Chip) (g : Nat) : Field := tget ch.fields fieldReset g
def updField (ch : Chip) (g : Nat) (f : Field → Field) : Chip :=
  { ch with fields := tput ch.fields g (f (fieldOf ch g)) }
def towerOf (ch : Chip) (t : Nat) : Tower := tget ch.towers towerReset t
def updTower (ch : Chip) (t : Nat) (f : Tower → Tower) : Chip :=
  { ch with towers := tput ch.towers t (f (towerOf ch t)) }
def tcoreOf (ch : Chip) (g : Nat) : TCore := tget ch.tcores tcoreReset g
def updTcore (ch : Chip) (g : Nat) (f : TCore → TCore) : Chip :=
  { ch with tcores := tput ch.tcores g (f (tcoreOf ch g)) }
def stackOf (ch : Chip) (k : Nat) : Stack := tget ch.stks stackReset k
def updStack (ch : Chip) (k : Nat) (f : Stack → Stack) : Chip :=
  { ch with stks := tput ch.stks k (f (stackOf ch k)) }
def jobOf (ch : Chip) (j : Nat) : Job := tget ch.jobs jobReset j
def updJob (ch : Chip) (j : Nat) (f : Job → Job) : Chip := { ch with jobs := tput ch.jobs j (f (jobOf ch j)) }

/-- The job that holds a cluster (R22). -/
def owner (ch : Chip) (cl : Nat) : Option JobId := (ch.clus.find? fun p => p.1 == cl).map Prod.snd
def coreJob (ch : Chip) (g : Nat) : Option JobId := owner ch (g / 8)
def clustersOf (ch : Chip) (j : JobId) : List Nat := (ch.clus.filter fun p => p.2 == j).map Prod.fst
def coresOfCluster (cl : Nat) : List Nat := span (cl * 8) 8
def coresOfJob (ch : Chip) (j : JobId) : List Nat := (clustersOf ch j).flatMap coresOfCluster
def jobExists (ch : Chip) (j : Nat) : Bool := decide ((jobOf ch j).state ≠ .none)

/-! ### Registers and events (R8, R365) -/

/-- Bits hi..lo of a word. -/
def fld (w : Word) (hi lo : Nat) : Nat := w.toNat / 2 ^ lo % 2 ^ (hi + 1 - lo)
def bit (n : Nat) (k : Nat) : Bool := n.testBit k
def b2n (b : Bool) : Nat := if b then 1 else 0

/-- The stored value of register r of unit u, element k. -/
def regGet (ch : Chip) (r : Reg) (u : Nat) (k : Nat := 0) : Word := tget ch.regs (regInfo r).reset (regAddr r u k)
def regSet (ch : Chip) (r : Reg) (u : Nat) (v : Word) (k : Nat := 0) : Chip :=
  { ch with regs := tput ch.regs (regAddr r u k) v }
def regFld (ch : Chip) (r : Reg) (u hi lo : Nat) : Nat := fld (regGet ch r u) hi lo
/-- Sets bits hi..lo of a stored register. -/
def regPut (ch : Chip) (r : Reg) (u hi lo v : Nat) (k : Nat := 0) : Chip :=
  let w := (regGet ch r u k).toNat
  let m := 2 ^ (hi + 1 - lo)
  regSet ch r u (BitVec.ofNat 32 (w - w / 2 ^ lo % m * 2 ^ lo + v % m * 2 ^ lo)) k
/-- Saturating increase of a stored field. -/
def regSat (ch : Chip) (r : Reg) (u hi lo n : Nat) : Chip :=
  regPut ch r u hi lo (min (2 ^ (hi + 1 - lo) - 1) (regFld ch r u hi lo + n))

/-- The state of a block instance (R375); `second` is the second enable of the PCI block. -/
def blkKey (b : Blk) (u : Nat) (second : Bool) : Nat := blkBase b u + b2n second
def blkGet (ch : Chip) (b : Blk) (u : Nat) (second : Bool := false) : BlkState :=
  tget ch.blks .disabled (blkKey b u second)
def blkSet (ch : Chip) (b : Blk) (u : Nat) (second : Bool) (v : BlkState) : Chip :=
  { ch with blks := tput ch.blks (blkKey b u second) v }
def enabled (ch : Chip) (b : Blk) (u : Nat) : Bool := decide (blkGet ch b u = .enabled)
def blkCode (b : BlkState) : Nat := match b with | .disabled => 0 | .enabled => 1 | .stopping => 2

def islandRuns (ch : Chip) (i : Nat) : Bool := ch.islRun.getLsbD i

/-! Counters (21 R447, R449). -/

def cntPkg (i : Nat) : Nat := i
def cntTower (t i : Nat) : Nat := 192 + 48 * t + i
def cntCluster (cl i : Nat) : Nat := 576 + 16 * cl + i
def cntCore (g i : Nat) : Nat := 2624 + 96 * g + i

/-- Counters run: not frozen (R460) and CK_OBS running (R431). -/
def counting (ch : Chip) : Bool := !(regGet ch .obsFreeze 0).getLsbD 0 && islandRuns ch 24

/-- Adds n to counter k, mod 2^64. -/
def count (ch : Chip) (k n : Nat) : Chip :=
  if counting ch then { ch with cnts := tput ch.cnts k ((tget ch.cnts 0 k + n) % 2 ^ 64) } else ch

/-- A core counter (R449). -/
def countCore (ch : Chip) (g i n : Nat) : Chip := count ch (cntCore g i) n

/-- The counter that follows an event (R449): its index among the core's counters, or its place in the record. -/
def evCounter (e : Ev) (u : Nat) : Option (Bool × Nat) :=
  let core (i : Nat) := some (true, i)
  let at_ (k : Nat) := some (false, k)
  let (r, b) := evInfo e
  match r with
  | .arcEvent => if b ≤ 9 then core b else none
  | .prgEvent => if b ≤ 8 then core (13 + b) else if b = 12 then core 22 else none
  | .engEvent => if 1 ≤ b ∧ b ≤ 7 then core (24 + b) else none
  | .engAccEvent => core (36 + b)
  | .wchEvent => if b ≤ 9 then core (44 + b) else none
  | .seqEvent => if b ≤ 2 then core (54 + b) else none
  | .lndEvent => if b = 1 then at_ (cntTower u 4) else if b = 0 then at_ (cntTower u 5) else none
  | .hbmEvent =>
    let s (i : Nat) := at_ (cntTower (u / 2) (8 + 12 * (u % 2) + i))
    match b with | 0 => s 3 | 1 => s 4 | 2 => s 5 | 3 => s 6 | _ => none
  | .fabEvent =>
    let p (i : Nat) := at_ (cntTower (u / 2) (32 + 8 * (u % 2) + i))
    match b with | 4 => p 5 | 6 => p 6 | 8 => p 7 | _ => none
  | .pciEvent => match b with | 0 => at_ 132 | 1 => at_ 130 | 2 => at_ 131 | _ => none
  | .tslEvent => if b = 7 then at_ 138 else none
  | .nwlEvent => match b with | 0 => at_ 139 | 1 => at_ 140 | 2 => at_ 141 | 3 => at_ 142 | _ => none
  | .obsEvent => match b with | 1 => at_ 147 | 2 => at_ 145 | 3 => at_ 146 | _ => none
  | _ => none

/-- An event occurs: its RC bit is set and its counter, if it has one, counts (R365, R448). -/
def raise (ch : Chip) (e : Ev) (u : Nat) : Chip :=
  let rb := evInfo e
  let ch1 := regSet ch rb.1 u (regGet ch rb.1 u ||| BitVec.ofNat 32 (2 ^ rb.2))
  match evCounter e u with
  | some (true, i) => countCore ch1 u i 1
  | some (false, k) => count ch1 k 1
  | none => ch1

/-- n occurrences of an event. -/
def raiseN (ch : Chip) (e : Ev) (u n : Nat) : Chip :=
  if n = 0 then ch else
  let ch1 := raise ch e u
  match evCounter e u with
  | some (true, i) => countCore ch1 u i (n - 1)
  | some (false, k) => count ch1 k (n - 1)
  | none => ch1

def raiseIf (c : Bool) (ch : Chip) (e : Ev) (u : Nat) : Chip := if c then raise ch e u else ch

/-- A draw of a free value (log 9). -/
def draw (ch : Chip) : Nat × Chip := (ch.free, { ch with free := ch.free + 1 })

/-! ### Memory (R15, R16) -/

def hbmEnd : Nat := 0xC000000000
def outBase : Nat := 0x800000000000
def scratchBase (g : Nat) : Nat := 0x100000000000 + (g / 128) * 0x100000000 + (g % 128) * 0x400000
def scratchLen : Nat := 0x300000
def imemBase (g : Nat) : Nat := 0x1000000000000 + g * 0x100000
def descBase (g : Nat) : Nat := 0x1000000000000 + g * 0x100000 + 0x40000

/-- What a byte that was never written reads as (log 6). -/
def memDefault : Byte := 0

def mget (m : List Host.Cell) (a : Nat) : Byte := tget m memDefault a

/-- Writes one byte; the canonical form lists no byte equal to the default. -/
def mset (m : List Host.Cell) (a : Nat) (v : Byte) : List Host.Cell :=
  if v = memDefault then tdel m a else tput m a v

def mwrite (m : List Host.Cell) (a : Nat) (bs : List Byte) : List Host.Cell :=
  match bs with
  | [] => m
  | b :: r => mwrite (mset m a b) (a + 1) r

/-- The canonical form of memory: addresses strictly rising, no byte equal to what an unlisted address reads as. -/
def Memory.wf (m : List Host.Cell) : Bool :=
  match m with
  | [] => true
  | (_, v) :: [] => v != memDefault
  | (a, v) :: (b, w) :: r => decide (a < b) && v != memDefault && Memory.wf ((b, w) :: r)

def leBytes (v n : Nat) : List Byte := (List.range n).map fun i => BitVec.ofNat 8 (v / 256 ^ i)
def leNat (bs : List Byte) : Nat := bs.foldr (fun b r => b.toNat + 256 * r) 0

def rdBytes (ch : Chip) (a n : Nat) : List Byte := (List.range n).map fun i => mget ch.mem (a + i)
def rdNat (ch : Chip) (a n : Nat) : Nat := leNat (rdBytes ch a n)
def wrRaw (ch : Chip) (a : Nat) (bs : List Byte) : Chip := { ch with mem := mwrite ch.mem a bs }

/-! ### Where an HBM address lives (R265, R266) -/

def towerOfDa (a : Nat) : Nat := a / 0x1800000000
def layerOfDa (a : Nat) : Nat := a % 0x1800000000 / 0x400000000

/-- Stack and stack line of an HBM address. -/
def stackLine (ch : Chip) (a : Nat) : Nat × Nat :=
  let t := towerOfDa a
  let i := layerOfDa a
  let o := a % 0x1800000000 % 0x400000000
  if ch.globalLayers.contains i then
    let g := (t * 0x400000000 + o) / 256
    ((g % 16) ^^^ (g / 2 ^ 10 % 16) ^^^ (g / 2 ^ 20 % 16), i * 0x2000000 + g / 16)
  else
    let g := o / 256
    (2 * t + ((g % 2) ^^^ (g / 2 ^ 8 % 2) ^^^ (g / 2 ^ 16 % 2)), i * 0x2000000 + g / 2)

/-- Pseudo-channel, bank, row of a stack line (R266). -/
def lineGeo (l : Nat) : Nat × Nat × Nat :=
  let q := l / 64
  ((l % 64) ^^^ (l / 4096 % 64), q / 4 % 64, q / 256)

/-! ### Landing lines (R267, R278, R433) -/

def landSet (sl : Nat × Nat) : Nat := (2 * sl.2 + sl.1 % 2) % 24576
def landKey (slice set way : Nat) : Nat := slice * 393216 + set * 16 + way

/-- The way that holds a line, if any. -/
def landFind (ch : Chip) (slice set line : Nat) : Option (Nat × LLine) :=
  (List.range 16).findSome? fun w =>
    ((ch.land.lines.find? fun p => p.1 == landKey slice set w).bind fun p =>
      if p.2.da = line then some (w, p.2) else none)

/-- The line of an address is held at its home slice. -/
def lineHeld (ch : Chip) (addr : Nat) : Bool :=
  let line := addr / 256 * 256
  let sl := stackLine ch line
  enabled ch .lnd (sl.1 / 2) && (landFind ch (sl.1 / 2) (landSet sl) line).isSome

/-! ### Poison marks (R16, R278, R433)

A mark stands for a 32-bit word. In HBM it covers a burst, whose words are marked and cleared together; in scratchpad, the
other memories and the words of a Landing line it covers the word alone. -/

def wordOf (a : Nat) : Nat := a - a % 4
/-- The words that a range of bytes touches. -/
def wordsOf (a n : Nat) : List Nat :=
  if n = 0 then [] else (List.range ((a + n - 1) / 4 - a / 4 + 1)).map fun i => (a / 4 + i) * 4

/-- Length of the poison granule of an address. -/
def granLen (ch : Chip) (a : Nat) : Nat := if decide (a < hbmEnd) && !lineHeld ch a then 32 else 4
def gran (ch : Chip) (a : Nat) : Nat := a - a % granLen ch a

/-- The words of the granules that a range of bytes touches. -/
def grans (ch : Chip) (a n : Nat) : List Nat :=
  (wordsOf a n).flatMap fun w =>
    if granLen ch w = 4 then [w]
    else if w % 32 = 0 ∨ w = wordOf a then wordsOf (gran ch w) 32 else []

/-- The poison part of a scratchpad window (R16). -/
def poisonWindow (a : Nat) : Bool :=
  decide (0x100000000000 ≤ a ∧ a < 0x100000000000 + 8 * 0x100000000 ∧ a % 0x100000000 < 0x20000000 ∧
    0x300000 ≤ a % 0x400000)

/-- An HBM access while CK_MEM or CK_GAL is lost ends poisoned (R431). -/
def hbmLost (ch : Chip) (a : Nat) : Bool :=
  decide (a < hbmEnd) && decide (4 ≤ ch.phase) && (!islandRuns ch 16 || !islandRuns ch 17)

/-- Is any byte of a range delivered poisoned? -/
def anyPoi (ch : Chip) (a n : Nat) : Bool :=
  (wordsOf a n).any fun w => ch.poi.contains w || poisonWindow w || hbmLost ch w

def markPoi (ch : Chip) (a n : Nat) : Chip := { ch with poi := (grans ch a n).foldl sadd ch.poi }

/-- A clean write of n bytes at a clears the marks of the granules it covers whole. -/
def clearPoi (ch : Chip) (a n : Nat) : Chip :=
  let whole (w : Nat) : Bool := decide (a ≤ gran ch w ∧ gran ch w + granLen ch w ≤ a + n)
  { ch with poi := ch.poi.filter fun w => !((wordsOf a n).contains w && whole w) }

/-- A write of bytes: clean, or with poison marks. -/
def wrMem (ch : Chip) (a : Nat) (bs : List Byte) (poison : Bool) : Chip :=
  let ch1 := wrRaw ch a bs
  if poison then markPoi ch1 a bs.length else clearPoi ch1 a bs.length

def wrNat (ch : Chip) (a n v : Nat) : Chip := wrMem ch a (leBytes v n) false

/-- A range whose bytes are no longer defined: free values, without marks (log 9). -/
def freeRange (ch : Chip) (a n : Nat) : Chip :=
  let d := draw ch
  let fresh := ((List.range n).map fun i => (a + i, Config.freeByte d.1 i)).filter fun c => c.2 != memDefault
  { d.2 with
    mem := (ch.mem.filter fun c => decide (c.1 < a)) ++ fresh ++ ch.mem.filter fun c => decide (a + n ≤ c.1)
    poi := ch.poi.filter fun g => !(decide (a ≤ g) && decide (g < a + n)) }

/-- Zeroes a range, and its marks (R398 to R400). -/
def zeroRange (ch : Chip) (a n : Nat) : Chip :=
  { ch with
    mem := ch.mem.filter fun c => !(decide (a ≤ c.1) && decide (c.1 < a + n))
    poi := ch.poi.filter fun g => !(decide (a ≤ g) && decide (g < a + n)) }

/-! ### Landing (R267 to R274) -/

def landPut (ch : Chip) (k : Nat) (l : LLine) : Chip :=
  { ch with land := { ch.land with lines := tput ch.land.lines k l, clock := ch.land.clock + 1 } }
def landDel (ch : Chip) (k : Nat) : Chip := { ch with land := { ch.land with lines := tdel ch.land.lines k } }

/-- The HBM bytes of a line before it becomes dirty. -/
def lineCells (ch : Chip) (line : Nat) : List Host.Cell :=
  ch.mem.filter fun c => decide (line ≤ c.1) && decide (c.1 < line + 256)
def linePoi (ch : Chip) (line : Nat) : List Nat :=
  ch.poi.filter fun g => decide (line ≤ g) && decide (g < line + 256)

/-- Marks a held line dirty, keeping the HBM bytes under it and their marks. -/
def landDirty (ch : Chip) (l : LLine) : LLine :=
  match l.back with
  | some _ => { l with dirty := true }
  | none => { l with dirty := true, back := some (lineCells ch l.da), backPoi := (linePoi ch l.da).foldl sadd l.backPoi }

/-- Invalidation without write-back: what HBM holds under a line is what the address then reads (R270). -/
def landDrop (ch : Chip) (k : Nat) (l : LLine) : Chip :=
  match l.back with
  | some cells =>
    let ch1 := zeroRange ch l.da 256
    landDel { ch1 with
      mem := cells.foldl (fun m c => mset m c.1 c.2) ch1.mem
      poi := l.backPoi.foldl sadd ch1.poi } k
  | none => landDel { ch with poi := l.backPoi.foldl sadd ch.poi } k

/-- The line leaves its frame: a dirty line is written back, which marks the whole burst of a poisoned word (R278). -/
def landEvict (ch : Chip) (k : Nat) (l : LLine) : Chip :=
  if l.dirty then
    landDel { ch with poi := (linePoi ch l.da).foldl (fun p w => (wordsOf (w / 32 * 32) 32).foldl sadd p) ch.poi } k
  else landDrop ch k l

/-! ### Bandwidth regulators (R276, R277) -/

def partRate (ch : Chip) (k j : Nat) : Word := tget (stackOf ch k).rates 0x0100FFFF j
def rateOpen (w : Word) : Bool := w.extractLsb' 0 16 == 0xFFFF
def bucketDepth (w : Word) : Nat := max 1 (fld w 30 16) * 8 * 256

/-- A partition of a stack gets a rate: the bucket keeps its tokens, clipped to the new depth (R284), and an unlimited one
owes and waits for nothing. -/
def setRate (x : Stack) (j : Nat) (w : Word) : Stack :=
  { x with
    rates := tput x.rates j w, tokens := tput x.tokens j (min (bucketDepth w) (tget x.tokens 0 j))
    debt := if rateOpen w then tdel x.debt j else x.debt, short := if rateOpen w then sdel x.short j else x.short }

/-- Traffic of a job at a stack is charged to its bucket, in tokens, and what the bucket lacks is owed; firmware and the
physical function are not regulated. -/
def charge (ch : Chip) (k : Nat) (who : Option JobId) (tokens : Nat) : Chip :=
  match who with
  | none => ch
  | some j =>
    if rateOpen (partRate ch k j.val) then ch
    else updStack ch k fun x =>
      let have_ := tget x.tokens 0 j.val
      let x1 := { x with tokens := tput x.tokens j.val (have_ - tokens * 256) }
      if have_ < tokens * 256 then { x1 with debt := tput x.debt j.val (tget x.debt 0 j.val + (tokens * 256 - have_)) } else x1

/-- Notes an access of a work that is looked at before it is done (log 43). -/
def noteTouch (ch : Chip) (t : Touch) : Chip :=
  match ch.land.log with
  | some l => { ch with land := { ch.land with log := some (t :: l) } }
  | none => ch

/-- The stack of a line serves an access of `len` bytes at `a`: it is counted, as a read 0, a write 1 or a grain 2 (R449,
tower counters 8 to 10 and 20 to 22), and paid for. -/
def stackServes (ch : Chip) (who pay : Option JobId) (a len kind cost : Nat) (wback read write : Bool) : Chip :=
  let sl := stackLine ch a
  noteTouch (charge (count ch (cntTower (sl.1 / 2) (8 + 12 * (sl.1 % 2) + kind)) 1) sl.1 pay cost)
    ⟨some (sl.1 / 2), some (sl.1, (lineGeo sl.2).1), who, pay, cost, wback, read, write, a, len⟩

/-- The ways of a slice that a job owns (R268). -/
def ownWays (ch : Chip) (slice : Nat) (j : JobId) : List Nat :=
  (List.range 16).filter fun w => owner ch (slice * 16 + w) == some j

/-- The victim way for an allocation (R271): a free way, else the least recently used line of normal retention, else
for KEEP the least recently used line. -/
def landVictim (ch : Chip) (slice set : Nat) (ways : List Nat) (keep : Bool) : Option Nat :=
  let live := ways.filter fun w => !ch.land.dead.contains (landKey slice set w)
  let held (w : Nat) : Option LLine := (ch.land.lines.find? fun p => p.1 == landKey slice set w).map Prod.snd
  match live.find? fun w => (held w).isNone with
  | some w => some w
  | none =>
    let best (ok : LLine → Bool) : Option (Nat × Nat) :=
      live.foldl (fun (b : Option (Nat × Nat)) w =>
        match held w with
        | some l => if ok l then
            (match b with
              | some (_, st) => if l.stamp < st then some (w, l.stamp) else b
              | none => some (w, l.stamp))
          else b
        | none => b) none
    match best fun l => !l.high with
    | some (w, _) => some w
    | none => if keep then (best fun _ => true).map Prod.fst else none

/-- One access to a line at its home slice, before its data moves (R268, R270, R271): the effect on Landing. `who` owns the
ways, and `pay` is charged for what the stack does (R276). -/
def landTouchBy (ch : Chip) (who pay : Option JobId) (hint : Hint) (line : Nat) (write whole grain : Bool) : Chip :=
  let sl := stackLine ch line
  let slice := sl.1 / 2
  let set := landSet sl
  let direct (c : Chip) : Chip :=
    stackServes c who pay line 256 (if grain then 2 else if write then 1 else 0) (if grain then 2 else 8) false
      (!(write && whole)) write
  if ¬ enabled ch .lnd slice then direct ch else
  match landFind ch slice set line with
  | some (w, l) =>
    let k := landKey slice set w
    let cl := slice * 16 + w
    let ch0 := noteTouch ch ⟨some slice, none, who, pay, 0, false, false, write, line, 256⟩
    let ch1 := count (count ch0 (cntTower slice 0) 1) (cntCluster cl 9) 1
    let ch1 := if grain then count ch1 (cntTower slice 7) 1 else ch1
    let l1 := { (if write then landDirty ch1 l else l) with stamp := ch1.land.clock, high := l.high || hint == .keep }
    if hint = .lastuse ∧ ¬ write then
      landDrop (count (raiseIf l.dirty ch1 .lndLastuseDirty slice) (cntCluster cl 13) 1) k l
    else landPut ch1 k l1
  | none =>
    let ch1 := count ch (cntTower slice 1) 1
    let noAlloc := grain || hint == .stream || (hint == .lastuse && !write)
    match who with
    | none => direct ch1
    | some j =>
      let ways := ownWays ch1 slice j
      if ways = [] then direct (raise ch1 .lndNoSegment slice)
      else if noAlloc then direct ch1
      else
        let keep := hint == .keep
        match landVictim ch1 slice set ways keep with
        | none =>
          if ways.all fun w => ch1.land.dead.contains (landKey slice set w) then direct ch1
          else direct (count (raise ch1 .lndKeepBlock slice) (cntCluster (slice * 16 + ways.headD 0) 12) 1)
        | some w =>
          let k := landKey slice set w
          let cl := slice * 16 + w
          let ch2 := match ch1.land.lines.find? fun p => p.1 == k with
            | some p =>
              let c := if p.2.dirty then
                  stackServes (count (count ch1 (cntTower slice 3) 1) (cntCluster cl 11) 1) who (owner ch1 cl) p.2.da 256 1 8
                    true false true
                else ch1
              landEvict c k p.2
            | none => ch1
          let ch3 := count ch2 (cntCluster cl 10) 1
          let ch4 := if write && whole then ch3
            else stackServes (count ch3 (cntTower slice 2) 1) who pay line 256 0 8 false true write
          let l0 : LLine := ⟨line, false, keep, ch4.land.clock, none, []⟩
          landPut ch4 k (if write then landDirty ch4 l0 else l0)

def landTouch (ch : Chip) (who : Option JobId) (hint : Hint) (line : Nat) (write whole grain : Bool) : Chip :=
  landTouchBy ch who who hint line write whole grain

/-- The tower whose scratchpad windows hold an address; none where no tower's do. -/
def scratchTower (a : Nat) : Option Nat :=
  if 0x100000000000 ≤ a ∧ a < 0x100000000000 + 8 * 0x100000000 then some ((a - 0x100000000000) / 0x100000000) else none

/-- The accesses to a range: of HBM each line is touched in turn; others only cross the network on their way. -/
def landRangeBy (ch : Chip) (who pay : Option JobId) (hint : Hint) (a n : Nat) (write : Bool) : Chip :=
  if n = 0 then ch
  else if hbmEnd ≤ a then
    (if a < 2 ^ 48 then noteTouch ch ⟨scratchTower a, none, who, pay, 0, false, false, write, a, n⟩ else ch)
  else
    (List.range ((a + n - 1) / 256 - a / 256 + 1)).foldl (fun c i =>
      let line := (a / 256 + i) * 256
      landTouchBy c who pay hint line write (decide (a ≤ line ∧ line + 256 ≤ a + n)) false) ch
def landRange (ch : Chip) (who : Option JobId) (hint : Hint) (a n : Nat) (write : Bool) : Chip :=
  landRangeBy ch who who hint a n write

/-- A run on the fine path: every 64-byte grain it touches probes its home slice (R273, R274). -/
def landGrains (ch : Chip) (who : Option JobId) (a n : Nat) (write : Bool) : Chip :=
  if hbmEnd ≤ a ∨ n = 0 then ch else
    (List.range ((a + n - 1) / 64 - a / 64 + 1)).foldl (fun c i =>
      let at_ := (a / 64 + i) * 64
      landTouch (count c (cntTower ((stackLine c at_).1 / 2) 6) 1) who .stream (at_ / 256 * 256) write false true) ch

/-- Invalidates every line of a range without write-back (R399). -/
def landInvalidate (ch : Chip) (a n : Nat) : Chip :=
  (ch.land.lines.filter fun p => decide (a ≤ p.2.da) && decide (p.2.da < a + n)).foldl
    (fun c p => landDrop c p.1 p.2) ch

/-- Writes back and invalidates the way of a cluster (R269). -/
def landFlushWay (ch : Chip) (cl : Nat) : Chip :=
  let mine := ch.land.lines.filter fun p => decide (p.1 / 393216 = cl / 16) && decide (p.1 % 16 = cl % 16)
  let dirty := mine.filter fun p => p.2.dirty
  let ch0 := dirty.foldl (fun c p => stackServes c none (owner c cl) p.2.da 256 1 8 true false true) ch
  let ch1 := count (count ch0 (cntTower (cl / 16) 3) dirty.length) (cntCluster cl 11) dirty.length
  mine.foldl (fun c p => landEvict c p.1 p.2) ch1

/-! ### Reach (R29) -/

/-- Every byte of a range lies in one of the mappings, which may follow one another (R246 asks one region of an operand
only; log 29). -/
def mapsCover (fuel : Nat) (l : List MapEnt) (a n : Nat) : Bool :=
  match fuel with
  | 0 => n == 0
  | fuel + 1 =>
    match l.find? fun m => decide (m.da ≤ a ∧ a < m.da + m.len) with
    | some m => if a + n ≤ m.da + m.len then true else mapsCover fuel l (m.da + m.len) (a + n - (m.da + m.len))
    | none => n == 0

/-- A range lies in the job's mappings: those of HBM, those of host windows, or both. -/
def inJobMaps (ch : Chip) (j : Nat) (ok : Bool → Bool) (a n : Nat) : Bool :=
  let l := (jobOf ch j).maps.filter fun m => ok m.host
  mapsCover l.length l a n

/-- The regions a job reaches: own scratchpad windows, mappings, and its granted dump region for reads. A read may
reach the poison part of a window (R16, R246). -/
def reaches (ch : Chip) (j : JobId) (lo hi : Nat) (write : Bool) : Bool :=
  let inR (b n : Nat) : Bool := decide (b ≤ lo) && decide (hi < b + n)
  ((coresOfJob ch j).any fun g => inR (scratchBase g) (if write then scratchLen else 0x400000)) ||
  ((jobOf ch j).maps.any fun m => inR m.da m.len) ||
  (match (jobOf ch j).dump with
    | some d => !write && d.granted && inR d.da (d.slot * d.records)
    | none => false)

def inOwnScratch (g lo hi : Nat) (write : Bool) : Bool :=
  decide (scratchBase g ≤ lo) && decide (hi < scratchBase g + (if write then scratchLen else 0x400000))

/-- An address range lies wholly in memory that exists (R15). -/
def daExists (a : Nat) : Bool :=
  decide (a < hbmEnd) ||
  decide (0x100000000000 ≤ a ∧ a < 0x100000000000 + 8 * 0x100000000 ∧ a % 0x100000000 < 0x20000000) ||
  decide (outBase ≤ a ∧ a < 0x1000000000000)

/-! ### Interrupts and notifications (R353, R435) -/

/-- Raises MSI-X vector v of function f (R353): a masked vector becomes pending; a pending one is raised only once. -/
def msix (ch : Chip) (f v : Nat) : Chip :=
  let ctl := tget ch.pci.msix 1 (f * 4096 + v * 4 + 3)
  if ctl.getLsbD 0 then { ch with pci := { ch.pci with msixPend := sadd ch.pci.msixPend (f * 1024 + v) } }
  else count { ch with pci := { ch.pci with
    msixSent := tput ch.pci.msixSent (f * 1024 + v) (tget ch.pci.msixSent 0 (f * 1024 + v) + 1) } } 133 1

/-- The health interrupt of the physical function. -/
def health (ch : Chip) : Chip := msix ch 0 2

/-- Campion and Teasel run: CK_CTL does (R431). -/
def ctlRuns (ch : Chip) : Bool := islandRuns ch 20

/-- Firmware appends a notification to the ring of job j (R435), while Campion's clock runs (R431). -/
def notify (ch : Chip) (j reason detail core tid tile : Nat) (bm : Dword) : Chip :=
  if ¬ ctlRuns ch then ch else
  let jb := jobOf ch j
  let n : Note := { seq := jb.noteSeq, us := ch.us, reason := reason, detail := detail, core := core, tid := tid,
                    tile := tile, bitmap := bm }
  let full := decide (256 ≤ jb.notes.length)
  let ch1 := updJob ch j fun b =>
    { b with notes := (if full then b.notes.drop 1 else b.notes) ++ [n], noteSeq := b.noteSeq + 1 }
  let ch2 := count (raiseIf full ch1 .tslNotifyLost 0) (cntPkg (8 * j + 6)) 1
  msix (msix ch2 (j + 1) 2) 0 (3 + j)

/-! ### Halts and faults of cores (R24, R236) -/

/-- A launched core that still runs stops issuing at its next boundary (R24, R402). -/
def haltCore (ch : Chip) (g : Nat) : Chip :=
  updCore ch g fun k =>
    if k.run = .running ∨ k.run = .waiting then { k with halting := true, run := .running, syw := none, fence := none }
    else k

/-- NWL runs: ENABLED, with its clock (R298). -/
def nwlRuns (ch : Chip) : Bool := enabled ch .nwl 0 && !ch.nwl.clkLost && islandRuns ch 23

/-- A snapshot source fires (R462, R463): with scope package it triggers Yarrow; with scope system the device pulls
NWL_TRIG instead, where the interface runs (R295, R298). Causes: 2 object, 3 monitor, 4 fault. -/
def fireSource (ch : Chip) (cause detail : Nat) : Chip :=
  match ch.obs.arm with
  | none => ch
  | some m =>
    let on := bit m.sources (cause - 1) &&
      (if cause = 2 then m.obj == detail else if cause = 3 then m.mon == detail else true)
    if ¬ on then ch
    else if m.system then { ch with nwl := { ch.nwl with trigPull := ch.nwl.trigPull || nwlRuns ch } }
    else { ch with obs := { ch.obs with trigs := ch.obs.trigs ++ [(cause, detail)] } }

/-- A fence of R430, a FAULTED core or consumed poison: what the fault source of a snapshot watches (R462). -/
def faultMark (ch : Chip) (g : Nat) : Chip := fireSource ch 4 g

/-- Poison was consumed on core g: its cluster halts and the job is told (R24, R434). -/
def haltCluster (ch : Chip) (g : Nat) : Chip :=
  let cl := g / 8
  let ch1 := (coresOfCluster cl).foldl haltCore ch
  let ch2 := count ch1 (cntCluster cl 8) 1
  match owner ch cl with
  | some j => notify ch2 j.val 2 9 g 0 0 0
  | none => ch2

/-- What a core's window leaves, passed or failed (R428, R446). -/
def windowOver (ch : Chip) (g : Nat) (passed : Bool) : Chip :=
  match (tcoreOf ch g).under with
  | none => ch
  | some k =>
    let ch1 := raiseIf (!passed) (count (countCore ch g 81 1) (cntPkg 137) 1) .tslTestFail 0
    updTcore ch1 g fun x =>
      { x with under := none, result := if passed then 1 else 2, forced := k == .forced, lastAt := some ch.us }

/-- A core is fenced by Teasel while it runs (R431): it stops at its next boundary and its program does not resume (R21,
R430); the window of a core under test fails (R444). -/
def fenceCore (ch : Chip) (g cause : Nat) : Chip :=
  if (tcoreOf ch g).fenced ∨ ¬ ctlRuns ch then ch
  else
    let ch1 := faultMark (haltCore (updTcore (windowOver ch g false) g fun x =>
      { x with fenced := true, cause := cause }) g) g
    match coreJob ch1 g with
    | some j => notify ch1 j.val 11 0 g 0 0 0
    | none => ch1

/-- A launched job stops: its cores at their next boundary (R402). -/
def haltJobCores (ch : Chip) (j : JobId) : Chip :=
  let ch1 := (coresOfJob ch j).foldl haltCore ch
  updJob ch1 j.val fun b => if b.state = .running then { b with state := .halting } else b

/-- Every issued instruction has completed. -/
def queuesDone (k : Core) : Bool := k.q.all fun i => i.phase == .done

/-- A core with a fault enters FAULTED once its queues have completed what was issued (R236). -/
def enterFaulted (ch : Chip) (g : Nat) : Chip :=
  let k := coreOf ch g
  if k.faultSeq.isSome ∧ (k.run = .running ∨ k.run = .waiting) ∧ queuesDone k then
    faultMark (updCore ch g fun k => { k with run := .faulted, halting := false }) g
  else ch

/-- A fault of core g with its code, the PC and word of the instruction, and its issue number (R236). The sequencer
issues nothing more; the core is FAULTED once its queues have completed what was issued. -/
def faultCore (ch : Chip) (g code pc : Nat) (w : Dword) (seq : Nat) : Chip :=
  let k := coreOf ch g
  let first := match k.faultSeq with | some q => decide (seq < q) | none => true
  let ch1 := if first then
      regSet (regSet (regSet (regSet ch .seqFaultCode g (BitVec.ofNat 32 code)) .seqFaultPc g (BitVec.ofNat 32 pc))
        .seqFaultWordLo g (w.extractLsb' 0 32)) .seqFaultWordHi g (w.extractLsb' 32 32)
    else ch
  let ch2 := raiseIf k.faultSeq.isSome ch1 .seqMultiFault g
  let ch3 := updCore ch2 g fun k =>
    { k with run := if queuesDone k then .faulted else .running, halting := false, syw := none, fence := none,
             faultSeq := if first then some seq else k.faultSeq }
  let ch4 := raiseIf (code == 6) ch3 .arcUnavailable g
  let ch5 := if code = 9 ∨ queuesDone k then faultMark ch4 g else ch4
  if code = 9 then haltCluster ch5 g
  else match coreJob ch g with
    | some j => if k.faultSeq.isSome then ch5 else notify ch5 j.val 1 code g 0 0 0
    | none => ch5

/-- The device runs: powered, out of reset and not tripped (R407, R488). -/
def live (ch : Chip) : Bool := ch.sys.pins.powered && !ch.sys.pins.held && !ch.sys.pins.trip

/-- A meaning that touches the chip alone; a device that does not run does nothing (log 3). -/
def onChip (s : State) (f : Chip → Chip) : Host.Outcome State Fault Refusal :=
  .next (if live s.chip then { s with chip := f s.chip } else s)

end Sys2Proof.Machine
end

