-- ==== Sys2Proof/Machine/Operands.lean ====
section
/-! DEFINITION. Instruction words, register operands, descriptors, parameter fields and element addresses
(10_oanoine_control.md R212 to R236; 11_tensor_descriptors.md R240 to R249). -/

namespace Sys2Proof.Machine

/-! ### Instruction words (R214 to R216, R228, R230) -/

/-- What an instruction word names. -/
inductive Op where
  | nop | add | sub | mul | andI | orI | xor | shl | shr | sra | minI | maxI | cmpeq | cmplt | cmpltu | ins32
  | ld | st | mfs | mts | dset | br | loop | call | ret | halt
  | sywToken | sywGe | sywEq | sysSignal | sysReset | sysArrive | fence
  | mma | ard | art | apgLoad | apgTransfer
  | preloadBias | preloadResid | mupd | wflush | wstep | wcheck | wprobe | scalegen
  | vopAdd | vopSub | vopMul | vopFma | vopMax | vopMin | cvt | sfu | scale | colsum
  | softmaxBwd | normBwd | drn | dmaCopy | dmaTranspose | dmaConvert | dmaTransposeConvert
  deriving DecidableEq, Repr

/-- Bits hi..lo of an instruction word. -/
def wb (w : Dword) (hi lo : Nat) : Nat := w.toNat / 2 ^ lo % 2 ^ (hi + 1 - lo)

/-- A register specifier names a register (R213). -/
def specOk (r : Nat) : Bool := decide (r < 0x38)
def specSA (r : Nat) : Bool := decide (r < 0x30)

/-- Format S: bit 32 is reserved and the specifiers are registers; `regs` are the fields the instruction uses. -/
def fmtS (w : Dword) (regs : List Nat) (op : Op) : Option Op :=
  if wb w 32 32 = 0 ∧ regs.all specOk then some op else none

/-- The second operand of format S is a register unless imm_sel is set. -/
def srcBs (w : Dword) : List Nat := if wb w 33 33 = 1 then [] else [wb w 39 34]

def fmtC (w : Dword) (regs : List Nat) (op : Op) : Option Op :=
  if wb w 44 32 = 0 ∧ regs.all specOk then some op else none

/-- Format Q: the fields of R228 that are reserved must be 0. Each flag tells that the field is in use. -/
def fmtQ (w : Dword) (b c p x sd pd : Bool) (flagMax : Nat) (op : Op) : Option Op :=
  let z (used : Bool) (hi lo : Nat) : Bool := used || wb w hi lo == 0
  if z b 42 37 && z c 36 31 && z p 30 25 && z x 24 20 && z sd 19 15 && z pd 14 12 && decide (wb w 3 0 ≤ flagMax) then
    some op
  else none

/-- The instruction a word holds; none is an illegal instruction (R215, R216, R228, R230). R228 marks no field of a VOP
reserved, so a field its `fn` does not use is ignored (log 30). -/
def decodeWord (w : Dword) : Option Op :=
  let dst := wb w 51 46
  let a := wb w 45 40
  let alu := fun (op : Op) => fmtS w (dst :: a :: srcBs w) op
  let fn := wb w 11 4
  match wb w 63 56 with
  | 0x01 => fmtS w [] .nop
  | 0x10 => alu .add | 0x11 => alu .sub | 0x12 => alu .mul | 0x13 => alu .andI | 0x14 => alu .orI
  | 0x15 => alu .xor | 0x16 => alu .shl | 0x17 => alu .shr | 0x18 => alu .sra | 0x19 => alu .minI
  | 0x1A => alu .maxI | 0x1B => alu .cmpeq | 0x1C => alu .cmplt | 0x1D => alu .cmpltu
  | 0x1E => if wb w 33 33 = 1 then alu .ins32 else none
  | 0x20 => if wb w 35 32 = 0 ∧ wb w 39 38 ≠ 3 ∧ specOk dst ∧ specSA a then some .ld else none
  | 0x21 => if wb w 35 32 = 0 ∧ wb w 39 38 ≠ 3 ∧ specOk dst ∧ specSA a then some .st else none
  | 0x22 => fmtS w [dst] .mfs
  | 0x23 => fmtS w [a] .mts
  | 0x24 => fmtS w [a] .dset
  | 0x30 => fmtC w (if wb w 45 45 = 1 then [] else [dst]) .br
  | 0x31 => fmtC w (if wb w 45 45 = 1 then [] else [dst]) .loop
  | 0x32 => fmtC w [] .call
  | 0x33 => fmtC w [] .ret
  | 0x34 => fmtC w [] .halt
  | 0x40 =>
    if wb w 33 32 ≠ 0 ∨ ¬ specOk a ∨ ¬ specOk (wb w 39 34) then none
    else match wb w 51 49 with
      | 0 => if wb w 48 46 = 0 then none else some .sywToken
      | 1 => some .sywGe
      | 2 => some .sywEq
      | _ => none
  | 0x41 =>
    if wb w 8 0 ≠ 0 ∨ ¬ specOk (wb w 43 38) ∨ ¬ specOk (wb w 37 32) then none
    else match wb w 51 49 with
      | 0 => some .sysSignal
      | 1 => some .sysReset
      | 2 => some .sysArrive
      | _ => none
  | 0x42 => if wb w 45 0 = 0 then some .fence else none
  | 0x50 => if fn = 0 then fmtQ w true true true true false false 0 .mma else none
  | 0x60 => if fn = 0 then fmtQ w true true true true true false 0 .ard else none
  | 0x61 => if fn = 0 then fmtQ w true true true true true false 0 .art else none
  | 0x70 => match fn with
    | 1 => fmtQ w false false true true false false 0 .apgLoad
    | 2 => fmtQ w false false true true false false 0 .apgTransfer
    | _ => none
  | 0x80 => match fn with
    | 0x01 => some .preloadBias
    | 0x02 => some .preloadResid
    | 0x10 => some .mupd
    | 0x20 => some .wflush
    | 0x21 => some .wstep
    | 0x22 => some .wcheck
    | 0x23 => some .wprobe
    | 0x24 => some .scalegen
    | 0x40 => some .vopAdd
    | 0x41 => some .vopSub
    | 0x42 => some .vopMul
    | 0x43 => some .vopFma
    | 0x44 => some .vopMax
    | 0x45 => some .vopMin
    | 0x46 => some .cvt
    | 0x47 => some .sfu
    | 0x48 => some .scale
    | 0x50 => some .colsum
    | _ => none
  | 0x81 => match fn with
    | 1 => fmtQ w true true true true false false 1 .softmaxBwd
    | 2 => fmtQ w true true true true false false 1 .normBwd
    | _ => none
  | 0x82 => if fn = 0 then fmtQ w false true true true false false 0 .drn else none
  | 0x90 => match fn with
    | 0 => fmtQ w false true true true false false 1 .dmaCopy
    | 1 => fmtQ w false true true true false false 1 .dmaTranspose
    | 2 => fmtQ w false true true true false false 1 .dmaConvert
    | 3 => fmtQ w false true true true false false 1 .dmaTransposeConvert
    | _ => none
  | _ => none

/-- The queue an instruction goes to (R210); none for the instructions the sequencer executes itself. -/
def queueOf (op : Op) : Option Queue :=
  match op with
  | .mma => some .engine
  | .ard | .art => some .array
  | .apgLoad | .apgTransfer => some .programmer
  | .preloadBias | .preloadResid | .mupd | .wflush | .wstep | .wcheck | .wprobe | .scalegen
  | .vopAdd | .vopSub | .vopMul | .vopFma | .vopMax | .vopMin | .cvt | .sfu | .scale | .colsum
  | .softmaxBwd | .normBwd | .drn => some .vector
  | .dmaCopy | .dmaTranspose | .dmaConvert | .dmaTransposeConvert => some .dma
  | _ => none

def queueDepth (q : Queue) : Nat :=
  match q with | .engine => 16 | .array => 64 | .vector => 32 | .dma => 32 | .programmer => 16

/-- The bit of a queue in `after` and `mask` (R226, R227). -/
def queueBit (q : Queue) : Nat :=
  match q with | .engine => 0 | .array => 1 | .vector => 2 | .dma => 3 | .programmer => 4

/-- The block that serves a queue, and the fault of issuing to it while it is not ENABLED (R126, R208, R262, R86);
the programmer queue holds its entries while PRG is not ENABLED (R57). -/
def queueBlk (q : Queue) : Option (Blk × Nat) :=
  match q with
  | .engine => some (.eng, 7) | .vector => some (.vec, 7) | .dma => some (.dma, 7) | .array => some (.arc, 6)
  | .programmer => none

/-! ### Register operands (R212, R213) -/

/-- Reads the register a specifier names; s0 reads 0 and p0 reads 1. -/
def rdReg (k : Core) (r : Nat) : Dword :=
  if r = 0 then 0
  else if r < 0x20 then tget k.s 0 r
  else if r < 0x30 then (tget k.a 0 (r - 0x20)).setWidth 64
  else if r = 0x30 then 1
  else if k.p.getLsbD (r - 0x30) then 1 else 0

/-- Writes a register; writes to s0 and p0 are discarded, an address register keeps bits 47:0 and a predicate bit 0. -/
def wrReg (k : Core) (r : Nat) (v : Dword) : Core :=
  if r = 0 ∨ r = 0x30 then k
  else if r < 0x20 then { k with s := tput k.s r v }
  else if r < 0x30 then { k with a := tput k.a (r - 0x20) (v.setWidth 48) }
  else
    let m : BitVec 8 := BitVec.ofNat 8 (2 ^ (r - 0x30))
    { k with p := if v.getLsbD 0 then k.p ||| m else k.p &&& ~~~m }

/-- The guard of a word holds (R214). -/
def guardOk (k : Core) (w : Dword) : Bool :=
  ((rdReg k (0x30 + wb w 54 52)).getLsbD 0) != (wb w 55 55 == 1)

/-- The immediate of format S, sign-extended. -/
def immS (w : Dword) : Dword := (w.extractLsb' 0 32).signExtend 64
/-- The second operand of format S (R217). -/
def opB (k : Core) (w : Dword) : Dword := if wb w 33 33 = 1 then immS w else rdReg k (wb w 39 34)

/-- The registers an instruction reads and writes, for the scoreboard (R234). -/
def regUse (op : Op) (w : Dword) : List Nat × List Nat :=
  let dst := wb w 51 46
  let a := wb w 45 40
  let g := 0x30 + wb w 54 52
  let q := ([g, wb w 24 20], [wb w 19 15, 0x30 + wb w 14 12])
  match op with
  | .nop | .call | .ret | .halt | .fence => ([g], [])
  | .add | .sub | .mul | .andI | .orI | .xor | .shl | .shr | .sra | .minI | .maxI | .cmpeq | .cmplt | .cmpltu
  | .ins32 => (g :: a :: srcBs w, [dst])
  | .ld => ([g, a], [dst])
  | .st => ([g, a, dst], [])
  | .mfs => ([g], [dst])
  | .mts | .dset => ([g, a], [])
  | .br | .loop => (g :: (if wb w 45 45 = 1 then [] else [dst]), [])
  | .sywToken | .sywGe | .sywEq => ([g, a, wb w 39 34], [])
  | .sysSignal | .sysReset | .sysArrive => ([g, wb w 43 38, wb w 37 32], [])
  | _ => q

/-- A register with a result on its way from a queue (R234). -/
def pendingReg (k : Core) (r : Nat) : Bool :=
  r != 0 && r != 0x30 && k.q.any fun i =>
    i.phase != .done && (wb i.word 19 15 == r || 0x30 + wb i.word 14 12 == r)

/-! ### Special registers of the core (R222) -/

def islCycles (ch : Chip) (i : Nat) : Nat := tget ch.isl 0 i

def readSpecial (ch : Chip) (g : Nat) (sel : Nat) : Option Dword :=
  let k := coreOf ch g
  if sel = 0 then some (BitVec.ofNat 64 g)
  else if sel = 1 then some (BitVec.ofNat 64 ((coreJob ch g).elim 0 fun j => j.val))
  else if sel = 2 then some (BitVec.ofNat 64 (islCycles ch (g / 128) - k.launchAt))
  else if sel = 3 then some (BitVec.ofNat 64 (k.loops.length + 256 * k.rets.length))
  else if 9 ≤ sel ∧ sel ≤ 15 then some ((tget k.tc 0 (sel - 8)).setWidth 64)
  else none

/-! ### Descriptors (R240 to R244) -/

/-- A window of R244. -/
structure Win where
  f : Nat
  o : Nat
  v : Nat
  u : Nat
  p : Nat
  e : Nat
  deriving DecidableEq, Repr

/-- A tensor descriptor of R240, with its effective base. -/
structure Desc where
  base : Int
  fmt : Fmt
  ndims : Nat
  grad : Bool
  hint : Hint
  scope : Nat
  ceiling : Nat
  sptr : Nat
  tid : Nat
  budget : Nat
  ext : List Nat
  str : List Int
  win : List Win
  deriving DecidableEq, Repr

/-- Bytes lo..hi of a 64-byte entry read as a little-endian number. -/
def eb (e : Nat) (hi lo : Nat) : Nat := e / 256 ^ lo % 256 ^ (hi + 1 - lo)
/-- Bits hi..lo of byte b of an entry. -/
def ebit (e b hi lo : Nat) : Nat := eb e b b / 2 ^ lo % 2 ^ (hi + 1 - lo)
def sx (bits v : Nat) : Int := if v < 2 ^ (bits - 1) then (v : Int) else (v : Int) - 2 ^ bits

def winOf (w : Nat) : Option Win :=
  if w % 65536 = 0 then none
  else some ⟨w / 2 ^ 29, w / 2 ^ 26 % 8, w / 2 ^ 23 % 8 + 1, w / 2 ^ 20 % 8 + 1, w / 65536 % 16, w % 65536⟩

def hintOf (n : Nat) : Hint := match n with | 0 => .normal | 1 => .stream | 2 => .keep | _ => .lastuse

/-- Decodes an entry as a tensor descriptor; none when a field is reserved or holds a reserved value, or a field of an
unused dimension or window is not 0 (R240, R244, R245). -/
def descOf (e : Nat) : Option Desc :=
  match fmtOfCode (ebit e 6 4 0) with
  | none => none
  | some fmt =>
    let nd := ebit e 6 7 5
    let ext := (List.range 6).map fun d => eb e (17 + 2 * d) (16 + 2 * d)
    let str := (List.range 6).map fun d => sx 32 (eb e (31 + 4 * d) (28 + 4 * d))
    let wins := (List.range 3).map fun k => eb e (55 + 4 * k) (52 + 4 * k)
    let ok :=
      decide (1 ≤ nd ∧ nd ≤ 6) && ebit e 7 7 7 == 0 && ebit e 7 4 3 != 3 && ebit e 7 6 5 != 3 &&
      ((List.range 6).all fun d => decide (d < nd) || (ext.getD d 0 == 0 && str.getD d 0 == 0)) &&
      (wins.all fun w => w % 65536 != 0 || w == 0)
    if ok then
      some { base := (eb e 5 0 : Nat), fmt := fmt, ndims := nd, grad := ebit e 7 0 0 == 1,
             hint := hintOf (ebit e 7 2 1), scope := ebit e 7 4 3, ceiling := ebit e 7 6 5, sptr := eb e 13 8,
             tid := eb e 15 14 % 4096, budget := eb e 15 14 / 4096, ext := ext.take nd, str := str.take nd,
             win := wins.filterMap winOf }
    else none

/-- Element size in bytes of the byte-addressed formats (R242). -/
def elemBytes (f : Fmt) : Nat := fmtBits f / 8

def packed (f : Fmt) : Bool :=
  match f with
  | .e2m1 | .int4 | .int3 | .tern | .be2m1 | .bint4 | .bint3 | .btern => true
  | _ => false

def prodN (l : List Nat) : Nat := l.foldl (· * ·) 1

/-- The stride and window rules of R242 and R244. `src` allows a window. -/
def descRules (d : Desc) (src : Bool) : Bool :=
  let st (k : Nat) : Int := d.str.getD k 0
  let strides : Bool :=
    match d.fmt with
    | .bit => d.str.all fun s => s == 0
    | .f16s => st 0 == 2
    | .be4m3 => st 0 == 1
    | .int3 | .bint3 => st 0 == 0 && decide (d.base % 12 = 0) && d.str.all fun s => decide (s % 12 = 0)
    | .e2m1 | .int4 | .tern | .be2m1 | .bint4 | .btern => st 0 == 0
    | f => decide (d.base % (elemBytes f : Int) = 0) && d.str.all fun s => decide (s % (elemBytes f : Int) = 0)
  let dims := d.win.flatMap fun w => [w.o, w.f]
  let wins := (d.win == [] || src) && d.win.all (fun w => decide (w.o < d.ndims ∧ w.f < d.ndims)) && dims.Nodup
  let sp := if isBlock d.fmt || d.fmt == .f16s then d.sptr != 0
    else if d.fmt == .f32x then d.sptr != 0 && d.sptr % 2 == 0 else true
  strides && wins && sp

/-- Extents with dimension 0 padded to 32 for the formats of R150 and R155. -/
def padTo (n k : Nat) : Nat := (n + k - 1) / k * k
def padded (f : Fmt) : Bool := isBlock f || f == .int3
def extents (d : Desc) : List Nat := d.ext

/-- The index vector of a linear index, dimension 0 fastest. -/
def unlin (ext : List Nat) (n : Nat) : List Nat :=
  match ext with
  | [] => []
  | e :: r => (if e = 0 then 0 else n % e) :: unlin r (if e = 0 then 0 else n / e)

def lin (ext ix : List Nat) : Nat :=
  match ext, ix with
  | e :: er, i :: ir => i + e * lin er ir
  | _, _ => 0

/-- Is the element outside a window's input (R124, R244)? -/
def zeroFill (d : Desc) (ix : List Nat) : Bool :=
  d.win.any fun w =>
    let x : Int := (w.u : Int) * ix.getD w.o 0 + (w.v : Int) * ix.getD w.f 0 - w.p
    decide (x < 0 ∨ (w.e : Int) ≤ x)

/-- Σ i_d × stride_d over the dimensions from `k` on. -/
def strideSum (d : Desc) (ix : List Nat) (k : Nat) : Int :=
  ((List.range d.ndims).filter fun x => decide (k ≤ x)).foldl (fun s x => s + (ix.getD x 0 : Int) * d.str.getD x 0) 0

/-- The bit address of an element (R242). -/
def elemBit (d : Desc) (ix : List Nat) : Int :=
  match d.fmt with
  | .bit => 8 * d.base + (lin d.ext ix : Int)
  | f => if packed f then 8 * (d.base + strideSum d ix 1) + (ix.getD 0 0 * fmtBits f : Nat)
         else 8 * (d.base + strideSum d ix 0)

/-- The index of the block or chunk of `len` elements that holds an element (R155, R163). -/
def chunkIx (d : Desc) (len : Nat) (ix : List Nat) : Nat :=
  let e0 := d.ext.headD 0
  ix.headD 0 / len + (e0 + len - 1) / len * lin d.ext.tail ix.tail

/-- The number of elements. -/
def numel (d : Desc) : Nat := prodN d.ext

/-! Element storage. -/

/-- Reads `bits` bits at a bit address. -/
def rdBits (ch : Chip) (ba : Int) (bits : Nat) : Nat :=
  let b := ba.toNat
  rdNat ch (b / 8) ((b % 8 + bits + 7) / 8) / 2 ^ (b % 8) % 2 ^ bits

def bitsPoi (ch : Chip) (ba : Int) (bits : Nat) : Bool :=
  let b := ba.toNat
  anyPoi ch (b / 8) ((b % 8 + bits + 7) / 8)

/-- One write of an output: `bits` bits at a bit address, none where a failed part leaves the bytes as they are, and whether
they are poisoned. -/
structure OutBit where
  pos : Nat
  bits : Nat
  v : Option Nat
  poison : Bool
  deriving DecidableEq, Repr

/-- An operation's output: its writes in order (R247). -/
structure Out where
  els : List OutBit
  deriving DecidableEq, Repr

def Out.poisoned (o : Out) : Bool := o.els.any OutBit.poison

def putBits (m : List Host.Cell) (b bits v : Nat) : List Host.Cell :=
  let n := (b % 8 + bits + 7) / 8
  let a := b / 8
  let old := leNat ((List.range n).map fun i => mget m (a + i))
  let sh := 2 ^ (b % 8)
  mwrite m a (leBytes (old - old / sh % 2 ^ bits * sh + v % 2 ^ bits * sh) n)

/-- What is left of ranges of bits, lo to hi − 1, without those of a write. -/
def cutBits (l : List (Nat × Nat)) (e : OutBit) : List (Nat × Nat) :=
  l.flatMap fun p =>
    let a := (p.1, min p.2 e.pos)
    let b := (max p.1 (e.pos + e.bits), p.2)
    (if a.1 < a.2 then [a] else []) ++ (if b.1 < b.2 then [b] else [])

/-- The ranges of bits that poisoned writes leave: those that no later clean write takes (R247). -/
def poisonedBits (l : List OutBit) : List (Nat × Nat) :=
  match l with
  | [] => []
  | e :: r =>
    (if e.poison then (r.filter fun x => !x.poison).foldl cutBits [(e.pos, e.pos + e.bits)] else []) ++ poisonedBits r

/-- Applies an output to memory in its order: a byte holds the element written last, with its mark (R247). The marks of
whole granules written clean are cleared (R278, R433). -/
def applyOut (ch : Chip) (o : Out) : Chip :=
  let data := o.els.filter fun e => e.v.isSome
  let mem := data.foldl (fun m e => putBits m e.pos e.bits (e.v.getD 0)) ch.mem
  let whole (w : Nat) : Bool := data.foldl cutBits [(8 * gran ch w, 8 * (gran ch w + granLen ch w))] == []
  let marks := (poisonedBits o.els).flatMap fun p => grans ch (p.1 / 8) ((p.2 + 7) / 8 - p.1 / 8)
  { ch with mem := mem, poi := marks.foldl sadd (ch.poi.filter fun w => !whole w) }

def outEl (ba : Int) (bits v : Nat) (poison : Bool) : Out := ⟨[⟨ba.toNat, bits, some v, poison⟩]⟩
/-- Bits marked poisoned without a write. -/
def outMark (ba : Int) (bits : Nat) : Out := ⟨[⟨ba.toNat, bits, none, true⟩]⟩

def outNone : Out := ⟨[]⟩
def outAdd (a b : Out) : Out := ⟨a.els ++ b.els⟩
def outAll (l : List Out) : Out := ⟨l.flatMap Out.els⟩

/-- One element of a memory operand as an exact value: poisoned, or its value with its block scale or tail applied
(R147 to R163). A position outside a window is +0 (R124). -/
def readEl (ch : Chip) (d : Desc) (ix : List Nat) : Option Val :=
  if zeroFill d ix then some (.num false 0 0)
  else
    let ba := elemBit d ix
    let code := rdBits ch ba (fmtBits d.fmt)
    let elPoi := bitsPoi ch ba (fmtBits d.fmt)
    if isBlock d.fmt then
      let sa := d.sptr + chunkIx d 32 ix
      let sc := rdNat ch sa 1
      if anyPoi ch sa 1 || sc == 0xFF then none
      else if sc = 0 then some (.num false 0 0)
      else if elPoi then none
      else match decode d.fmt code with
        | .num s m e => some (.num s (m * (sf8 sc).1) (e + (sf8 sc).2))
        | v => some v
    else if d.fmt = .f16s then
      let sa := d.sptr + chunkIx d 256 ix
      let sc := rdNat ch sa 1
      if anyPoi ch sa 1 || sc == 0xFF || elPoi then none
      else match decode d.fmt code with
        | .num s m e => some (.num s (m * (sf8 sc).1) (e + (sf8 sc).2))
        | v => some v
    else if elPoi then none
    else some (decode d.fmt code)

/-- An element as the engine takes it (R116, R126, R157); dimension 0 past its extent is padding. -/
def readOp (ch : Chip) (d : Desc) (ix : List Nat) : OpEl :=
  if decide (d.ext.headD 0 ≤ ix.headD 0) then .absent
  else if zeroFill d ix then .el (.num false 0 0) 1 0
  else
    let ba := elemBit d ix
    if isBlock d.fmt then
      let sa := d.sptr + chunkIx d 32 ix
      let sc := rdNat ch sa 1
      if anyPoi ch sa 1 || sc == 0xFF then .poisoned
      else if sc = 0 then .zeroBlk
      else if bitsPoi ch ba (fmtBits d.fmt) then .poisoned
      else .el (decode d.fmt (rdBits ch ba (fmtBits d.fmt))) (sf8 sc).1 (sf8 sc).2
    else if bitsPoi ch ba (fmtBits d.fmt) then .poisoned
    else .el (decode d.fmt (rdBits ch ba (fmtBits d.fmt))) 1 0

/-! ### The bytes an operand touches (R246) -/

/-- The indices of dimension k that an operation touches: all of them, or m0 … m0+n−1 of the selected dimension; a write
of a padded format reaches its padding. -/
def dimRange (d : Desc) (write : Bool) (sel : Option (Nat × Nat × Nat)) (k : Nat) : Nat × Nat :=
  let e := if k = 0 ∧ write ∧ padded d.fmt then padTo (d.ext.getD 0 0) 32 else d.ext.getD k 0
  match sel with
  | some (s, m0, n) => if s = k then (m0, n) else (0, e)
  | none => (0, e)

/-- Lowest and highest of the sums Σ at(k, i_k) over the touched positions that no window fills with zero; `at` is
monotone in the index. None when there is no such position. -/
def posSpan (d : Desc) (write : Bool) (sel : Option (Nat × Nat × Nat)) (at_ : Nat → Nat → Int) : Option (Int × Int) :=
  let add (r : Option (Int × Int)) (x : Option (Int × Int)) : Option (Int × Int) :=
    match r, x with
    | some (a, b), some (c, e) => some (a + c, b + e)
    | _, _ => none
  let window (w : Win) : Option (Int × Int) :=
    let ro := dimRange d write sel w.o
    let rf := dimRange d write sel w.f
    (span ro.1 ro.2).foldl (fun (r : Option (Int × Int)) (i : Nat) =>
      let c : Int := (w.u : Int) * i - w.p
      let lo : Int := max (rf.1 : Int) (if 0 ≤ c then 0 else (-c + w.v - 1) / w.v)
      let hi : Int := min (((w.e : Int) - 1 - c) / w.v) ((rf.1 : Int) + rf.2 - 1)
      if hi < lo ∨ (w.e : Int) - 1 - c < 0 then r
      else
        let x := at_ w.o i + at_ w.f lo.toNat
        let y := at_ w.o i + at_ w.f hi.toNat
        match r with
        | none => some (min x y, max x y)
        | some (a, b) => some (min a (min x y), max b (max x y))) none
  let wd := d.win.flatMap fun w => [w.o, w.f]
  if (List.range d.ndims).any (fun k => (dimRange d write sel k).2 == 0) then none
  else
    let free := ((List.range d.ndims).filter fun k => !wd.contains k).foldl (fun r k =>
      let x := dimRange d write sel k
      let lo := at_ k x.1
      let hi := at_ k (x.1 + x.2 - 1)
      add r (some (min lo hi, max lo hi))) (some (0, 0))
    d.win.foldl (fun r w => add r (window w)) free

/-- The step of a dimension in bits (R242). -/
def bitStep (d : Desc) (k : Nat) : Int :=
  if d.fmt = .bit then prodN (d.ext.take k) else if packed d.fmt ∧ k = 0 then fmtBits d.fmt else 8 * d.str.getD k 0

/-- Lowest and highest byte of the elements an operation touches, with the padding it writes (R155, R246); none when it
touches no element. -/
def elemSpan (d : Desc) (write : Bool) (sel : Option (Nat × Nat × Nat) := none) : Option (Int × Int) :=
  (posSpan d write sel fun k i => i * bitStep d k).map fun r =>
    (d.base + r.1 / 8, d.base + (r.2 + fmtBits d.fmt - 1) / 8)

/-- Lowest and highest byte of the scales or tails of the elements an operation touches. -/
def auxSpan (d : Desc) (sel : Option (Nat × Nat × Nat) := none) : Option (Int × Int) :=
  let chunks (len : Nat) : Option (Int × Int) :=
    let per := padTo (d.ext.headD 0) len / len
    (posSpan d false sel fun k i => if k = 0 then (i / len : Nat) else (i * per * prodN ((d.ext.take k).drop 1) : Nat)).map
      fun r => (d.sptr + r.1, d.sptr + r.2)
  if isBlock d.fmt then chunks 32
  else if d.fmt = .f16s then chunks 256
  else if d.fmt = .f32x then
    (posSpan d false sel fun k i => (2 * i * prodN (d.ext.take k) : Nat)).map fun r => (d.sptr + r.1, d.sptr + r.2 + 1)
  else none

/-- The index vectors of the elements an operation touches: all, or those of the selected indices. -/
def touchedIxs (d : Desc) (sel : Option (Nat × Nat × Nat)) : List (List Nat) :=
  ((List.range (prodN d.ext)).map (unlin d.ext)).filter fun ix => match sel with
    | some (s, m0, n) => decide (m0 ≤ ix.getD s 0 ∧ ix.getD s 0 < m0 + n)
    | none => true

def bytesOf (ba : Int) (bits : Nat) : List Int :=
  (List.range (((ba % 8).toNat + bits + 7) / 8)).map fun k => ba / 8 + k

/-- The bytes of the elements an operation touches, with the padding it writes. -/
def elemBytesOf (d : Desc) (write : Bool) (sel : Option (Nat × Nat × Nat)) : List Int :=
  let e0 := d.ext.headD 0
  let ixs := (touchedIxs d sel).filter fun ix => !zeroFill d ix
  let pads := if write ∧ padded d.fmt then
      (ixs.filter fun ix => ix.headD 0 == 0).flatMap fun ix => (span e0 (padTo e0 32 - e0)).map fun x => x :: ix.tail
    else []
  (ixs ++ pads).flatMap fun ix => bytesOf (elemBit d ix) (fmtBits d.fmt)

/-- The bytes of their scales or tails. -/
def auxBytesOf (d : Desc) (sel : Option (Nat × Nat × Nat)) : List Int :=
  let ixs := (touchedIxs d sel).filter fun ix => !zeroFill d ix
  if isBlock d.fmt then ixs.map fun ix => ((d.sptr + chunkIx d 32 ix : Nat) : Int)
  else if d.fmt = .f16s then ixs.map fun ix => ((d.sptr + chunkIx d 256 ix : Nat) : Int)
  else if d.fmt = .f32x then ixs.flatMap fun ix => bytesOf (8 * ((d.sptr + 2 * lin d.ext ix : Nat) : Int)) 16
  else []

/-- A range lies in one region that core g's job reaches (R246), or in its own scratchpad. -/
def spanOk (ch : Chip) (g : Nat) (own write : Bool) (s : Option (Int × Int)) : Bool :=
  match s with
  | none => true
  | some (lo, hi) =>
    if lo < 0 then false
    else if own then inOwnScratch g lo.toNat hi.toNat write
    else match coreJob ch g with
      | some j => reaches ch j lo.toNat hi.toNat write
      | none => false

/-- From the lowest to the highest byte of two ranges (R246). -/
def joinSpan (a b : Option (Int × Int)) : Option (Int × Int) :=
  match a, b with
  | some x, some y => some (min x.1 y.1, max x.2 y.2)
  | some x, none => some x
  | none, b => b

/-- The range of an operand, from its lowest to its highest byte; `aux` includes its scales or tails (R246). -/
def operandSpan (d : Desc) (write aux : Bool) (sel : Option (Nat × Nat × Nat) := none) : Option (Int × Int) :=
  joinSpan (elemSpan d write sel) (if aux then auxSpan d sel else none)

/-- The address check of an operand (R246). -/
def descOk (ch : Chip) (g : Nat) (d : Desc) (own write aux : Bool) (sel : Option (Nat × Nat × Nat) := none) : Bool :=
  spanOk ch g own write (operandSpan d write aux sel)

/-! ### Dynamic operand word and extra entries (R229, R249) -/

def xTile (x : Dword) : Nat := wb x 7 0
def xArray (x : Dword) : Nat := wb x 14 8
def xBad (x : Dword) : Bool := wb x 15 15 == 1
def xIndex (x : Dword) : Nat := wb x 31 16
def xByte (x : Dword) : Int := sx 32 (wb x 63 32)

/-- An entry field: its reserved bits must be 0; none when it is not valid. -/
def entField (v : Nat) : Option (Option Nat) :=
  if v / 1024 % 32 ≠ 0 then none else if v.testBit 15 then some (some (v % 1024)) else some none

/-- The indices a count selects (R249): none is an illegal operand. -/
def selRows (ext m0 cnt : Nat) : Option Nat :=
  if ext < m0 then none
  else if cnt = 0 then some (ext - m0)
  else if ext < m0 + cnt then none else some cnt

/-- Reads one 64-byte entry of descriptor memory. -/
def entryAt (ch : Chip) (g i : Nat) : Nat := rdNat ch (descBase g + 64 * i) 64
def entryPoi (ch : Chip) (g i : Nat) : Bool := anyPoi ch (descBase g + 64 * i) 64

end Sys2Proof.Machine
end

