-- ==== Sys2Proof/Machine/Arrays.lean ====
section
/-! DEFINITION. Arrays: positions, weights as cells, image records, exception lists, spares, loads and moves
(02_array_storage.md R34 to R51, R514; 01_six_levels.md R14, R19). -/

namespace Sys2Proof.Machine

/-! ### Positions (R14, R44) -/

/-- The physical array that serves logical position l. -/
def physOf (ch : Chip) (g l : Nat) : Nat := tget (bankOf ch g).remap l l

/-- An array serves position l: it is in service there and not fenced. The remap entry of a position whose array was fenced
with no spare left goes on naming it; once readmitted that array is a free spare, which the position does not take back
(R51, R432; log 145). -/
def serves (ch : Chip) (g l : Nat) : Bool :=
  let a := arrOf ch g (physOf ch g l)
  a.role == 0 && a.logical == l && !a.fenced

/-- The array that a position's reads use: unavailable when it is unloaded or fenced, or its tower's full trace failed
(R45, R19, R91). -/
def posLoaded (ch : Chip) (g l : Nat) : Bool :=
  serves ch g l && (arrOf ch g (physOf ch g l)).loaded && (towerOf ch (g / 128)).traced

/-- A spare is on its way for a fenced position: array instructions wait (R19). -/
def posWaits (ch : Chip) (g l : Nat) : Bool := (bankOf ch g).moves.any fun m => m.logical == l && m.fenced

/-- Physical arrays that are free spares and that no move uses (R44). -/
def freeSpares (ch : Chip) (g : Nat) : List Nat :=
  (List.range 136).filter fun a =>
    let x := arrOf ch g a
    x.role == 1 && !x.fenced && !(bankOf ch g).moves.any fun m => m.new == a || m.old == a

/-! ### Levels (R34 to R36, R41) -/

/-- The measured level of a cell in sixteenths; a cell never written is at level 0 (log 15). -/
def cellLvl (x : Arr) (row col : Nat) : Nat := tget x.cells 0 (row * 520 + col)
def setLvl (x : Arr) (row col lvl : Nat) : Arr := { x with cells := tput x.cells (row * 520 + col) lvl }

/-- p_j(r) of the check pattern: +1 when bit j of r XOR (r >> 1) is 0 (R41). -/
def patUp (j r : Nat) : Bool := !(r ^^^ (r >>> 1)).testBit j
def patLevel (j r : Nat) : Nat := if patUp j r then 56 else 8

/-- The level a check cell counts with: the pattern, or the measured level of a weak one (R79). -/
def checkLevel (x : Arr) (j r : Nat) : Nat :=
  match x.exc.find? fun e => e.row == r && e.col == 512 + j with
  | some e => e.level
  | none => patLevel j r

/-- The measured pair differences of a weight in sixteenths. -/
def pairMaj (x : Arr) (row w : Nat) : Int := (cellLvl x row (4 * w) : Int) - cellLvl x row (4 * w + 1)
def pairMin (x : Arr) (row w : Nat) : Int := (cellLvl x row (4 * w + 2) : Int) - cellLvl x row (4 * w + 3)

/-- S_maj(w) and S_min(w) in sixteenths: sums over the 512 rows (R78). -/
def sumMaj (x : Arr) (w : Nat) : Int := (List.range 512).foldl (fun s r => s + pairMaj x r w) 0
def sumMin (x : Arr) (w : Nat) : Int := (List.range 512).foldl (fun s r => s + pairMin x r w) 0

/-- The wear index of an array's counts (R59). -/
def wearOfArr (ch : Chip) (g : Nat) (x : Arr) : Nat :=
  max 1 (regFld ch .prgCfg g 7 0) * max x.eMaj x.eMin / 131072
def wearIdx (ch : Chip) (g a : Nat) : Nat := wearOfArr ch g (arrOf ch g a)

/-! ### The read chain (R68, R69, R77, R79, R92) -/

/-- An offset code, kind 0 of a column and 2 of a row: found, left open by the first run (R417; log 9: no end code), or
that of reset. -/
def openOffset (t : Trims) (kind i : Nat) : Int :=
  match t.seed with
  | some k => (Config.freeNat k (kind * 640 + i) % 62 : Nat) - 31
  | none => 0
def offsetCode (t : Trims) (c : Nat) : Int := tget t.offset (openOffset t 0 c) c
def rowCode (t : Trims) (r : Nat) : Int := tget t.row (openOffset t 2 r) r
/-- A gain code, likewise. -/
def gainCode (t : Trims) (c : Nat) : Nat :=
  tget t.gain (match t.seed with | some k => 1 + Config.freeNat k (640 + c) % 126 | none => 64) c

/-- A signal at the comparators in 1/16 LSB, as a fraction. -/
structure Signal where
  num : Int
  den : Nat
  deriving DecidableEq, Repr

/-- What the mirror of a cell column gives for quantity q: its gain trim scales it, in units of 1/2,000 (R92). -/
def mirrored (t : Trims) (col : Nat) (q : Int) : Int := q * (1936 + gainCode t col)

/-- A column's signal at gain g from its integrated quantity q, in 1/2,000 of a sixteenth of a step × level unit, and the
offset injected into its integrator, as the live trims shape it (R68, R69, R92); `dev` is what the analogue parts add
before the ramp, in 1/16 LSB (log 7). -/
def columnSignal (t : Trims) (off : Int) (g : Nat) (q dev : Int) : Signal :=
  ⟨(q * g + (off * g + dev) * 131072000) * 512, 131072000 * (384 + t.slope)⟩

/-- A row's signal at gain g from its integrated pair differences q, in sixteenths of a step × level unit (R77, R92). -/
def rowSignal (t : Trims) (row g : Nat) (q dev : Int) : Signal :=
  ⟨(q * g + (rowCode t row * g + dev) * 1024) * 512, 1024 * (384 + t.slope)⟩

/-- Σ p_k f(k) over the driven lines. -/
def dotI (p : List Int) (f : Nat → Int) : Int :=
  (List.range p.length).foldl (fun s k => s + p.getD k 0 * f k) 0

/-- The current of cell column c of weight column w in row r as its mirror passes it on. -/
def cellCurrent (x : Arr) (w c r : Nat) : Int := mirrored x.live (4 * w + c) (cellLvl x r (4 * w + c))

/-- The integrated quantity of a weight column for a row group: Σ p_r v_r (R68), each of its four cell columns scaled by
its own gain trim (DESIGN CHOICE, log 146), in 1/2,000 of a sixteenth. -/
def columnSum (x : Arr) (h : Nat) (p : List Int) (w : Nat) : Int :=
  dotI p fun k =>
    let i (c : Nat) : Int := cellCurrent x w c (64 * h + k)
    16 * (i 0 - i 1) + (i 2 - i 3)

/-- The offsets that the four cell columns of a weight column inject into its integrator (R92, log 146). -/
def columnOffset (x : Arr) (w : Nat) : Int :=
  (List.range 4).foldl (fun s c => s + offsetCode x.live (4 * w + c)) 0

/-- The integrated quantity of a check column against the mid-level line (R79), likewise. -/
def checkSum (x : Arr) (h : Nat) (p : List Int) (j : Nat) : Int :=
  dotI p fun k => mirrored x.live (512 + j) (16 * ((cellLvl x (64 * h + k) (512 + j) : Int) - 512))

/-- The integrated quantity of a row for a column group of one significance (R76), in sixteenths. -/
def rowSum (x : Arr) (major : Bool) (h : Nat) (p : List Int) (r : Nat) : Int :=
  dotI p fun k => if major then pairMaj x r (16 * h + k) else pairMin x r (16 * h + k)

/-! ### Targets (R37, R38) -/

def scaleOf (x : Arr) (w : Nat) : Nat := tget x.scales 0 w

/-- t = w ÷ s in F32, clamped to ±1,071, before rounding; NaN and zero columns give 0 (R37, R38). -/
def targetVal (w : Word) (sc : Nat) : Val × Bool :=
  if sc = 0 then (.num false 0 0, !visFinite (ofF32 w))
  else match ofF32 w with
    | .nan => (.num false 0 0, true)
    | v =>
      let lim (neg : Bool) : Val := .num neg 1071 0
      let t := ofF32 (f32DivVal v (.num false (sf8 sc).1 (sf8 sc).2))
      if vlt (lim false) t then (lim false, true)
      else if vlt t (lim true) then (lim true, true)
      else (t, false)

/-- The integer target of a weight and whether clamping changed it (R38). -/
def weightTarget (w : Word) (sc : Nat) : Int × Bool :=
  let t := targetVal w sc
  (vround t.1 1, t.2)

/-- The automatic scale of a column from the F32 parts of its master weights (R37). -/
def autoScale (ws : List Word) : Nat :=
  let m := ws.foldl (fun m w => let v := ofF32 w; if visFinite v then vmax m (vabs v) else m) (.num false 0 0)
  if visZero m then 0 else (sf8Smallest m 1071 0).getD 0xFE

def rhe16 (v : Int) : Int := vround (vofInt v 0) 16
def clampI (lo hi v : Int) : Int := max lo (min hi v)

/-! ### Image records (R43) -/

/-- An image record. -/
structure Image1 where
  weak : Bool
  sat : Bool
  mEff : Int
  dM : Int
  dm : Int
  deriving DecidableEq, Repr

def imgEnc (r : Image1) : Nat :=
  b2n r.weak * 2 ^ 31 + b2n r.sat * 2 ^ 30 + (r.mEff % 4096).toNat * 2 ^ 18 + (r.dM % 128).toNat * 2 ^ 11 +
    (r.dm % 128).toNat * 16
def imgDec (n : Nat) : Image1 :=
  { weak := n.testBit 31, sat := n.testBit 30, mEff := sx 12 (n / 2 ^ 18 % 4096), dM := sx 7 (n / 2 ^ 11 % 128),
    dm := sx 7 (n / 16 % 128) }
def imgAddr (x : Arr) (row w : Nat) : Nat := x.image + (row * 128 + w) * 4
def imgGet (ch : Chip) (x : Arr) (row w : Nat) : Image1 := imgDec (rdNat ch (imgAddr x row w) 4)
def imgVal (r : Image1) : Int := r.mEff + r.dm
def imgPoisoned (ch : Chip) (x : Arr) (row w : Nat) : Bool := anyPoi ch (imgAddr x row w) 4

/-- The DA of the F32 part of a master weight: array by array, row by row (R254). -/
def masterAddr (x : Arr) (row w : Nat) : Nat := x.master + row * 512 + w * 4
/-- The master mapping recorded for the array still stands (R61, R439). -/
def masterMapped (ch : Chip) (x : Arr) : Bool :=
  match x.job with
  | some j => reaches ch j x.master (x.master + 0x3FFFF) false
  | none => false

/-! ### Writing a weight (R39, R47, R49) -/

/-- The levels that the verify reads of a cell give, in their order (R35, R47). -/
def cellReads (obs : List CellObs) (row col : Nat) : List Nat :=
  (obs.filter fun o => o.row.val == row && o.col.val == col).map CellObs.level

def within (lvl target : Nat) : Bool := decide (lvl ≤ 16 * target + 16 ∧ 16 * target ≤ lvl + 16)
def nearestLevel (lvl : Nat) : Nat := min 63 (roundNat false lvl 16)

/-- The weak cells of a weight by cell (0 P_maj, 1 N_maj, 2 P_min, 3 N_min) with their measured levels. -/
abbrev WeakSet := List (Nat × Nat)
def weakAt (ws : WeakSet) (c : Nat) : Option Nat := (ws.find? fun p => p.1 == c).map Prod.snd
def weakPair (ws : WeakSet) (c : Nat) : Bool := (weakAt ws c).isSome || (weakAt ws (c + 1)).isSome

/-- Targets of a pair (cells c, c+1) for difference d with its weak cells fixed (R39, R49): none when a partner target
leaves 0–63 or both cells are weak and miss it. -/
def pairTargets (ws : WeakSet) (c : Nat) (d : Int) : Option (Nat × Nat) :=
  match weakAt ws c, weakAt ws (c + 1) with
  | none, none => some (d.toNat, (-d).toNat)
  | some lp, none => let n := (nearestLevel lp : Int) - d; if 0 ≤ n ∧ n ≤ 63 then some (nearestLevel lp, n.toNat) else none
  | none, some ln => let p := d + nearestLevel ln; if 0 ≤ p ∧ p ≤ 63 then some (p.toNat, nearestLevel ln) else none
  | some lp, some ln =>
    if (nearestLevel lp : Int) - nearestLevel ln = d then some (nearestLevel lp, nearestLevel ln) else none

/-- The pair difference in sixteenths that targets promise: a weak cell counts with its measured level. -/
def promised (ws : WeakSet) (c : Nat) (t : Nat × Nat) : Int :=
  (((weakAt ws c).getD (16 * t.1) : Nat) : Int) - ((weakAt ws (c + 1)).getD (16 * t.2) : Nat)

/-- The major difference of R39. -/
def majorDiff (v : Int) : Int := clampI (-63) 63 (rhe16 v)

/-- Every major difference, the nearest to v ÷ 16 first. -/
def byDistance (v : Int) : List Int :=
  let d := majorDiff v
  let s : Int := if 16 * d ≤ v then 1 else -1
  (d :: (List.range 126).flatMap fun (k : Nat) => [d + s * (k + 1), d - s * (k + 1)]).filter
    fun d => decide (-63 ≤ d ∧ d ≤ 63)

/-- The major differences to try next (R49): with a weak major cell every one in reach, the nearest to v ÷ 16 first
(step 3); with a weak minor cell only, the current one plus 1, then minus 1 (step 2). -/
def nextTries (ws : WeakSet) (v d : Int) : List Int :=
  if weakPair ws 0 then
    (byDistance v).filter fun d => match pairTargets ws 0 d with
      | some t => decide ((v - promised ws 0 t).natAbs ≤ 63)
      | none => false
  else [d + 1, d - 1].filter fun d => decide (-63 ≤ d ∧ d ≤ 63)

/-- The minor difference nearest to d that the weak minor cells allow. -/
def nearestDiff (ws : WeakSet) (c : Nat) (d : Int) : Int :=
  match weakAt ws c, weakAt ws (c + 1) with
  | some lp, none => clampI ((nearestLevel lp : Int) - 63) (nearestLevel lp) d
  | none, some ln => clampI (-(nearestLevel ln : Int)) (63 - (nearestLevel ln : Int)) d
  | some lp, some ln => (nearestLevel lp : Int) - nearestLevel ln
  | none, none => d
def nearestMinor (ws : WeakSet) (want : Int) : Int := clampI (-63) 63 (nearestDiff ws 2 (clampI (-63) 63 want))

/-- The major difference from which the nearest value in reach is written when no step succeeds (R49). -/
def nearestMajor (ws : WeakSet) (v : Int) : Int :=
  let miss (d : Int) : Option Nat := (pairTargets ws 0 d).map fun t =>
    let want := v - promised ws 0 t
    (want - nearestMinor ws want).natAbs
  let pick (b : Option (Int × Nat)) (d : Int) : Option (Int × Nat) :=
    match miss d, b with
    | none, _ => b
    | some m, none => some (d, m)
    | some m, some p => if m < p.2 then some (d, m) else b
  (((byDistance v).foldl pick none).map Prod.fst).getD (majorDiff v)

/-- The four cells of a weight as they are written: measured levels, the verify reads to come, the weak cells, the cells
pulsed (one entry per batch), the differences, M_eff, whether a target was clamped, and whether the column represents
zero (R37). -/
structure WCells where
  lv : List Nat
  reads : List (List Nat)
  weak : WeakSet
  pulsed : List Nat
  dM : Int
  dm : Int
  mE : Int
  sat : Bool
  ok : Bool
  zero : Bool
  deriving DecidableEq, Repr

def lvAt (x : WCells) (c : Nat) : Nat := x.lv.getD c 0

/-- A verify read of cell c: what is observed, else `dflt` (log 7). -/
def verify (x : WCells) (c dflt : Nat) : WCells :=
  let l := x.reads.getD c []
  { x with lv := x.lv.set c (l.headD dflt), reads := x.reads.set c l.tail }

/-- Writes a pair to targets in a batch: a cell that is not weak is pre-read; outside tolerance it is pulsed and
measured, and becomes weak where it misses (R47, R49). -/
def writePair (c : Nat) (t : Nat × Nat) (x : WCells) : WCells :=
  let one (x : WCells) (c t : Nat) : WCells :=
    if (weakAt x.weak c).isSome then x
    else
      let y := verify x c (lvAt x c)
      if within (lvAt y c) t then y
      else
        let z := { verify y c (16 * t) with pulsed := c :: y.pulsed }
        if within (lvAt z c) t then z else { z with weak := z.weak ++ [(c, lvAt z c)], ok := false }
  one (one { x with ok := true } c t.1) (c + 1) t.2

/-- Writes a pair for a difference; a weak cell that shows up is compensated once by its partner (R49 step 1). -/
def writeDiff (c : Nat) (d : Int) (x : WCells) : WCells :=
  match pairTargets x.weak c d with
  | none => { x with ok := false }
  | some t =>
    let y := writePair c t x
    if y.ok then y
    else match pairTargets y.weak c d with
      | none => y
      | some t => writePair c t y

/-- M_eff as the major pair measures (R39); a column of scale 0x00 represents zero (R37). -/
def majorEff (x : WCells) : WCells := { x with mE := if x.zero then 0 else (lvAt x 0 : Int) - lvAt x 1 }

/-- Writes both pairs for one major difference (R39). -/
def writeBoth (v dM : Int) (x : WCells) : WCells :=
  let y := majorEff (writeDiff 0 dM x)
  let dm0 := v - y.mE
  let dm := clampI (-63) 63 dm0
  let z := writeDiff 2 dm { y with dM := dM, dm := dm, sat := x.sat || dm != dm0 }
  { z with ok := y.ok && z.ok && (dm == dm0 || z.weak == []) }

/-- Tries major differences in turn (R49); a major cell that becomes weak changes what is left to try. -/
def tryMajors (fuel : Nat) (v : Int) (tries : List Int) (x : WCells) : WCells :=
  match fuel with
  | 0 => x
  | fuel + 1 =>
    match tries with
    | [] => x
    | d :: r =>
      let y := writeBoth v d x
      if y.ok then y
      else
        let fresh := (y.weak.filter fun p => decide (p.1 < 2)).length != (x.weak.filter fun p => decide (p.1 < 2)).length
        tryMajors fuel v (if fresh then nextTries y.weak v d else r) { y with sat := x.sat }

/-- Writes a weight from a first major difference, with the compensation of R49; else the nearest value,
uncompensated. -/
def writeWeight (v dM0 : Int) (x0 : WCells) : WCells × Bool :=
  let a := writeBoth v dM0 x0
  if a.ok then (a, false)
  else
    let b := if a.zero then a else tryMajors 512 v (nextTries a.weak v dM0) { a with sat := x0.sat }
    if b.ok then (b, false)
    else
      let d := if b.zero then 0 else nearestMajor b.weak v
      let y := majorEff (writeDiff 0 d b)
      let dm := nearestMinor y.weak (v - y.mE)
      ({ writeDiff 2 dm y with dM := d, dm := dm, sat := y.sat }, true)

/-! ### Exception lists, retirement, moves (R42, R49 to R51) -/

/-- Records a weak cell in the exception list, which holds 64 entries: a further one is left out (DESIGN CHOICE, log 117:
the spec does not say what a degraded array does with it). -/
def addExc (x : Arr) (e : Exc) : Arr :=
  if x.exc.any fun f => f.row == e.row && f.col == e.col then
    { x with exc := x.exc.map fun f => if f.row = e.row ∧ f.col = e.col then { e with uncomp := e.uncomp || f.uncomp } else f }
  else if x.exc.length < 64 then { x with exc := x.exc ++ [e] } else x

/-- Marks an array degraded: no spare is assignable (R50). -/
def degrade (ch : Chip) (g a : Nat) : Chip :=
  raise (updArr ch g a fun x => { x with degraded := true }) .prgNoSpare g

/-- Queues an array for calibration; a request for one already queued or running is merged (R97). -/
def queueCal (ch : Chip) (g a : Nat) : Chip :=
  updField ch g fun f => { f with due := sadd f.due a, dueAt := if f.due = [] then ch.us else f.dueAt }

/-- A calibration run of an array is dropped or abandoned: the next one begins at group 0 (R93, R99). -/
def dropRun (ch : Chip) (g a : Nat) : Chip :=
  updArr (updField ch g fun f => { f with due := sdel f.due a }) g a fun y => { y with cal := 0 }

/-- A refresh of an array that is queued or under way is dropped, and with it what waits for it: `refresh_now` (R63), and the
recalibration of R102. -/
def dropRefresh (ch : Chip) (g a : Nat) : Chip :=
  let b := bankOf ch g
  let mine : Bool := match b.refresh with | some r => r.phys == a | none => false
  let ch1 := updBank ch g fun b =>
    { b with refreshQ := b.refreshQ.filter (· != a), refresh := if mine then none else b.refresh
             xq := b.xq.filter fun q => !(q.phys == a && q.refresh && !q.started)
             nowFor := if b.nowFor = some a then none else b.nowFor }
  let ch2 := if b.nowFor = some a then regPut ch1 .prgCtrl g 1 1 0 else ch1
  if mine ∨ b.refreshQ.contains a then updStat ch2 g a fun x => { x with refreshedForResid := false } else ch2

/-- Starts a move of the position of physical array a to a spare, or marks it degraded (R50, R51). `fenced` is the load
of a spare for a fenced array (R19): it takes over a move that runs already; finding no spare sets `no_spare` too (DESIGN
CHOICE, log 118). Entries not yet begun are discarded, its refresh and a pending calibration run of it are dropped (R99).
The spare is calibrated before it is loaded (R94). -/
def startMove (ch : Chip) (g a : Nat) (fenced : Bool) (e : Option Ev) : Chip :=
  let x := arrOf ch g a
  if (bankOf ch g).moves.any fun m => m.old == a then
    if fenced then updBank ch g fun b =>
      { b with moves := b.moves.map fun (m : Move) => if m.old = a then { m with fenced := true } else m }
    else ch
  else match (freeSpares ch g).head? with
    | none => if fenced then raise ch .prgNoSpare g else degrade ch g a
    | some n =>
      let ch1 := updBank ch g fun b =>
        { b with moves := b.moves ++ [⟨x.logical, a, n, fenced⟩]
                 xq := b.xq.filter fun q => q.phys != a || q.started }
      let ch2 := dropRun (dropRefresh ch1 g a) g a
      let ch3 := queueCal ch2 g n
      match e with | some e => raise ch3 e g | none => ch3

/-- An array's position leaves it for a spare, with event e (R50, R59, R62). A degraded array moves once a spare is free;
without one only a fresh cause sets `no_spare` again. -/
def leaveArray (ch : Chip) (g a : Nat) (fresh : Bool) (e : Option Ev) : Chip :=
  if (arrOf ch g a).degraded ∧ freeSpares ch g = [] then raiseIf fresh ch .prgNoSpare g
  else startMove ch g a false e

def uncomps (x : Arr) : Nat := (x.exc.filter Exc.uncomp).length

/-- Retires an array whose exception list is full or holds an uncompensated cell (R50); `old` is the array before. -/
def retireIfBad (old : Arr) (ch : Chip) (g a : Nat) : Chip :=
  let x := arrOf ch g a
  if x.role = 0 ∧ ¬ x.fenced ∧ (64 ≤ x.exc.length ∨ uncomps x ≠ 0) then
    leaveArray ch g a (decide (old.exc.length < 64 ∧ 64 ≤ x.exc.length ∨ uncomps old < uncomps x)) (some .prgRetiredWeak)
  else ch

/-- Rotates an array that reached its wear limit (R59). -/
def rotateIfWorn (old : Arr) (ch : Chip) (g a : Nat) : Chip :=
  let x := arrOf ch g a
  let lim := regFld ch .prgWearLimit g 23 0 * 1000
  if x.role = 0 ∧ ¬ x.fenced ∧ (regGet ch .prgCfg g).getLsbD 8 ∧ lim ≤ wearIdx ch g a then
    leaveArray ch g a (decide (wearOfArr ch g old < lim)) (some .prgRotatedWear)
  else ch

/-- What follows a write to an array (R50, R59). -/
def afterWrite (old : Arr) (ch : Chip) (g a : Nat) : Chip := rotateIfWorn old (retireIfBad old ch g a) g a

/-! ### Loads (R39, R41, R49, R51, R254, R514) -/

/-- Where the target of a weight comes from in a load. -/
inductive TargetSrc where
  | value (v : Int) (sat : Bool) (fromImage : Bool)
  | skip
  | bad
  deriving DecidableEq, Repr

/-- The target of one weight in a load: from the master weight, or, where `useImage` allows it, from the image record
of a poisoned one (R514). A move reads the master DA that the array table records also where its mapping has been removed
(DESIGN CHOICE, log 119: R61 gives the image record's part then for a refresh only). -/
def loadTarget (ch : Chip) (x : Arr) (useImage : Bool) (row w : Nat) : TargetSrc :=
  let a := masterAddr x row w
  if ¬ anyPoi ch a 4 then
    let t := weightTarget (BitVec.ofNat 32 (rdNat ch a 4)) (scaleOf x w)
    .value t.1 t.2 false
  else if useImage ∧ ¬ imgPoisoned ch x row w then
    let r := imgGet ch x row w
    .value (imgVal r) r.sat true
  else .bad

/-- A load leaves an array unwritten when a weight has no target. -/
def loadable (ch : Chip) (x : Arr) (useImage : Bool) : Bool :=
  (List.range 512).all fun r => (List.range 128).all fun w => loadTarget ch x useImage r w != .bad

def masterPoisoned (ch : Chip) (x : Arr) : Bool := anyPoi ch x.master 0x40000

/-- Stores what writing cells gave: levels, program events, exception entries (R42, R49, R58). -/
def storeWeight (x : Arr) (row w : Nat) (r : WCells × Bool) : Arr :=
  let x1 := { x with eMaj := (x.eMaj + (r.1.pulsed.filter fun c => decide (c < 2)).length) % 2 ^ 48
                     eMin := (x.eMin + (r.1.pulsed.filter fun c => decide (2 ≤ c)).length) % 2 ^ 48 }
  let x2 := (List.range 4).foldl (fun y c =>
    if lvAt r.1 c = cellLvl y row (4 * w + c) then y else setLvl y row (4 * w + c) (lvAt r.1 c)) x1
  r.1.weak.foldl (fun y p => addExc y ⟨false, r.2, nearestLevel p.2, 4 * w + p.1, row⟩) x2

/-- The weak cells of a weight that the exception list holds. -/
def knownWeak (x : Arr) (row w : Nat) : WeakSet :=
  (List.range 4).filterMap fun c =>
    (x.exc.find? fun e => e.row == row && e.col == 4 * w + c).map fun _ => (c, cellLvl x row (4 * w + c))

def cellsOf (x : Arr) (row w : Nat) (obs : List CellObs) : WCells :=
  { lv := (List.range 4).map fun c => cellLvl x row (4 * w + c)
    reads := (List.range 4).map fun c => cellReads obs row (4 * w + c)
    weak := knownWeak x row w, pulsed := [], dM := 0, dm := 0, mE := 0, sat := false, ok := true
    zero := scaleOf x w == 0 }

/-- The image record of a written weight. -/
def imageOf (r : WCells) : Image1 := { weak := r.weak != [], sat := r.sat, mEff := r.mE, dM := r.dM, dm := r.dm }

/-- Writes one weight of an array from cells `x0` and its image record, which a target taken from it leaves alone. -/
def putWeight (ch : Chip) (g a row w : Nat) (v dM0 : Int) (x0 : WCells) (image : Bool) : Chip :=
  let x := arrOf ch g a
  let r := writeWeight v dM0 x0
  let ch1 := setArr ch g a (storeWeight x row w r)
  let ch2 := if image then ch1 else wrNat ch1 (imgAddr x row w) 4 (imgEnc (imageOf r.1))
  let ch3 := raiseIf r.2 (raiseIf r.1.sat (raiseN ch2 .prgWeakCell g (r.1.weak.length - x0.weak.length)) .prgSaturated
    g) .prgUncompensated g
  countCore ch3 g 24 r.1.pulsed.length

/-- Writes one check cell: pre-read, then pulsed and measured; a weak one enters the exception list (R41, R47). -/
def putCheck (ch : Chip) (g a row j : Nat) (obs : List CellObs) : Chip :=
  let x := arrOf ch g a
  let l := cellReads obs row (512 + j)
  let pre := l.headD (cellLvl x row (512 + j))
  if x.exc.any fun e => e.row == row && e.col == 512 + j then ch
  else if within pre (patLevel j row) then setArr ch g a (setLvl x row (512 + j) pre)
  else
    let m := l.tail.headD (16 * patLevel j row)
    let x1 := setLvl x row (512 + j) m
    let ch1 := countCore ch g 24 1
    if within m (patLevel j row) then setArr ch1 g a x1
    else raise (setArr ch1 g a (addExc x1 ⟨true, false, nearestLevel m, 512 + j, row⟩)) .prgWeakCell g

/-- A 256 KiB region of an array read or written through Landing (R43, R254). -/
def arrayFetch (ch : Chip) (x : Arr) (a : Nat) (write : Bool) : Chip := landRange ch x.job .normal a 0x40000 write

/-- Loads physical array a: every weight and every check cell (R39, R41, R46). The array-table entry is set first. -/
def loadArray (ch : Chip) (g a : Nat) (useImage : Bool) (obs : List CellObs) : Chip :=
  let x := arrOf ch g a
  let ch0 := arrayFetch (raiseIf (masterPoisoned ch x) ch .prgMasterPoison g) x x.master false
  if ¬ loadable ch x useImage then updArr ch0 g a fun y => { y with loaded := false }
  else
    let ch1 := (List.range 512).foldl (fun c r => (List.range 128).foldl (fun c w =>
      match loadTarget ch x useImage r w with
      | .value v sat fromImage =>
        putWeight c g a r w v (majorDiff v) { cellsOf (arrOf c g a) r w obs with sat := sat } fromImage
      | _ => c) c) (arrayFetch ch0 x x.image true)
    let ch2 := (List.range 512).foldl (fun c r => (List.range 8).foldl (fun c j =>
      putCheck c g a r j obs) c) ch1
    let ch3 := updArr ch2 g a fun y => { y with loaded := true, loadAt := ch.us, driftLast := 0 }
    afterWrite x (countCore ch3 g 23 4160) g a

/-- The program events of a batch count (R58, R59). -/
def countEvents (x : Arr) (t : Batch) : Arr :=
  let n := (t.cells.filter fun c => c.pulsed && decide (c.col < 512)).length
  if t.major then { x with eMaj := (x.eMaj + n) % 2 ^ 48 } else { x with eMin := (x.eMin + n) % 2 ^ 48 }

/-- Discards the transfer entries of an array (R51, R57), and with them a batch in progress: what it pulsed counts. A refresh
under way goes back to its queue. -/
def dropTransfers (ch : Chip) (g a : Nat) : Chip :=
  let ch1 := match (bankOf ch g).batch with
    | some t => if t.phys = a then updArr ch g a (countEvents · t) else ch
    | none => ch
  updBank ch1 g fun b =>
    { b with xq := b.xq.filter fun q => q.phys != a
             batch := match b.batch with | some t => if t.phys = a then none else some t | none => none
             refresh := match b.refresh with | some r => if r.phys = a then none else some r | none => none }

/-! ### Fences of arrays (R19, R440) -/

/-- A physical array is fenced, by its strikes (cause 3, R440) or by the host; a spare takes its position over where one
is free, and another spare the position that was moving to it. -/
def fenceArray (ch : Chip) (g a cause : Nat) : Chip :=
  let x := arrOf ch g a
  if x.fenced then ch
  else
    let ch1 := updArr ch g a fun x =>
      { x with fenced := true, fenceCause := cause, role := 2, checkStrikes := [], arrayStrikes := [] }
    let ch2 := faultMark (raiseIf (cause == 3) (dropRefresh (dropTransfers ch1 g a) g a) .tslArrayFenced 0) g
    match (bankOf ch2 g).moves.find? fun m => m.new == a with
    | some m =>
      startMove (updBank ch2 g fun b => { b with moves := b.moves.filter (· != m) }) g m.old m.fenced none
    | none => if x.role = 0 then startMove ch2 g a true none else ch2

end Sys2Proof.Machine
end

