-- ==== Sys2Proof/Machine/LandingHbm.lean ====
section
/-! DEFINITION. Accesses at the home slice and the HBM controllers (12_memory.md R263 to R285). -/

namespace Sys2Proof.Machine

/-! ### What the stack reports (R263, R278, R279) -/

/-- The row of an address: a key of its pseudo-channel, bank and row. -/
def rowKey (g : Nat × Nat × Nat) : Nat := (g.1 * 64 + g.2.1) * 2 ^ 20 + g.2.2

/-- Counts a finding against a row's candidate entry, which is made when the row qualifies (R279). -/
def rowFinding (ch : Chip) (k : Nat) (geo : Nat × Nat × Nat) (uncorr : Bool) : Chip :=
  let st := stackOf ch k
  let n := tget st.corrRows 0 (rowKey geo) + b2n (!uncorr)
  let ch1 := updStack ch k fun s => { s with corrRows := tput s.corrRows (rowKey geo) n }
  let same (c : Cand) : Bool := c.pc == geo.1 && c.bank == geo.2.1 && c.row == geo.2.2
  let sat (v : Nat) : Nat := min 0xFFFF (v + 1)
  if st.cands.any same then
    let more (c : Cand) : Cand :=
      if uncorr then { c with uncorr := sat c.uncorr } else { c with corr := sat c.corr }
    updStack ch1 k fun s => { s with cands := s.cands.map fun c => if same c then more c else c }
  else if (uncorr ∨ max 1 (regFld ch .hbmCfg k 15 8) ≤ n) ∧ st.cands.length < 256 then
    raise (updStack ch1 k fun s =>
      { s with cands := s.cands ++ [⟨geo.1, geo.2.1, geo.2.2, n, b2n uncorr, false, false⟩] }) .hbmCandidate k
  else ch1

/-- The HBM copy of a burst is rewritten with its poison mark: the line that holds it stays as it is (R278, R279). -/
def poisonBurst (ch : Chip) (a : Nat) : Chip :=
  let sl := stackLine ch a
  match (if lineHeld ch a then landFind ch (sl.1 / 2) (landSet sl) (a / 256 * 256) else none) with
  | some (w, l) =>
    let l1 := { l with backPoi := (wordsOf (a / 32 * 32) 32).foldl sadd l.backPoi }
    { ch with land := { ch.land with lines := tput ch.land.lines (landKey (sl.1 / 2) (landSet sl) w) l1 } }
  | none => markPoi ch (a / 32 * 32) 32

/-- A burst read from the stack with its ECC severity: corrected data is rewritten, an uncorrectable burst poisoned. -/
def burstRead (ch : Chip) (a : Nat) (sev : Severity) : Chip :=
  let sl := stackLine ch a
  let geo := lineGeo sl.2
  match sev with
  | .clean => ch
  | .corrected => rowFinding (regSat (raise ch .hbmCorrected sl.1) .hbmEccCnt sl.1 15 0 1) sl.1 geo false
  | .uncorrectable =>
    rowFinding (regSat (raise (poisonBurst ch a) .hbmUncorrectable sl.1) .hbmEccCnt sl.1 31 16 1) sl.1 geo true

/-- What the stacks report for bursts of some byte ranges that are read from HBM and not from a line. -/
def reported (ch : Chip) (l : List (Nat × Severity)) (runs : List (Nat × Nat)) : Chip :=
  l.foldl (fun c p =>
    if p.1 < hbmEnd ∧ ¬ lineHeld c p.1 ∧ runs.any fun r => decide (p.1 < r.1 + r.2 ∧ r.1 < p.1 + 32) then
      burstRead c p.1 p.2
    else c) ch

/-! ### Requests that wait (R277, R281, R285) -/

def whoJob (w : Who) : Option JobId := match w with | .job j => some j | _ => none
/-- The partition a request is charged to: a job's, but for what the host sends (R276, R352). -/
def LReq.payer (q : LReq) : Option JobId := if q.host.isSome then none else whoJob q.acc.who

/-- The pseudo-channel of an HBM address is blocked by a repair, which a line at its home slice does not need. -/
def inRepair (ch : Chip) (a : Nat) : Bool :=
  let sl := stackLine ch a
  (stackOf ch sl.1).repair == some (lineGeo sl.2).1 && !lineHeld ch a

/-- The DISABLED stops that a request from tower `src` to a tower `home` crosses: none within one tower (R285). -/
def stopsBetween (ch : Chip) (src home : Nat) : List Nat :=
  if src = home then [] else [src, home].filter fun t => blkGet ch .gal t == .disabled

/-- The DISABLED stops that a request from tower `src` to an HBM address would cross. -/
def shutStops (ch : Chip) (src a : Nat) : List Nat := stopsBetween ch src ((stackLine ch a).1 / 2)

/-- Where work on memory comes from: a core's tower, a unit of the base die or the PCI Express port, or firmware, whose
traffic every stop carries (R285). -/
inductive Via where
  | core (t : Nat)
  | die
  | firmware
  deriving DecidableEq, Repr

/-- The accesses of a work, found by looking at what it would do (log 43). -/
def touched (f : Chip → Chip) (ch : Chip) : List Touch :=
  ((f { ch with land := { ch.land with log := some [] } }).land.log).getD []

/-- The DISABLED stops an access crosses; write-backs are carried (R285). The host is reached over the source's stop. -/
def shutFor (ch : Chip) (via : Via) (x : Touch) : List Nat :=
  if x.wback then []
  else match via, x.home with
    | .firmware, _ => []
    | .core t, some h => stopsBetween ch t h
    | .core t, none => [t].filter fun t => blkGet ch .gal t == .disabled
    | .die, some h => [h].filter fun t => blkGet ch .gal t == .disabled
    | .die, none => []

/-- A repair blocks the pseudo-channel an access reaches (R281). -/
def repairMet (ch : Chip) (x : Touch) : Bool :=
  match x.stack with
  | some p => (stackOf ch p.1).repair == some p.2
  | none => false

/-- A request of another partition waits for a pseudo-channel of stack k (R277). -/
def othersWait (ch : Chip) (k pc j : Nat) : Bool :=
  (stackOf ch k).queue.any fun q =>
    (match q.payer with | some i => i.val != j | none => true) && (lineGeo (stackLine ch q.acc.addr).2).1 == pc

/-- The tokens that the accesses of a work need of the bucket of partition j at stack k. -/
def tokensOf (ts : List Touch) (k : Nat) (j : JobId) : Nat :=
  ((ts.filter fun x => x.stack.any (fun p => p.1 == k) && x.pay == some j).map Touch.cost).foldl (· + ·) 0

/-- The bucket of partition j at stack k does not admit a work: it waits behind an earlier request of the job there, or
the bucket holds less than the work needs, at most its depth, and no idle pseudo-channel is shared (R277, log 45). -/
def bucketShort (ch : Chip) (ts : List Touch) (k : Nat) (j : JobId) : Bool :=
  let x := stackOf ch k
  let w := partRate ch k j.val
  let need := tokensOf ts k j
  need != 0 && !rateOpen w &&
    (x.queue.any (fun q => q.payer == some j) ||
      (decide (tget x.tokens 0 j.val < min (need * 256) (bucketDepth w)) &&
        !(w.getLsbD 31 && ts.all fun t => match t.stack with
          | some p => p.1 != k || !othersWait ch k p.2 j.val
          | none => true)))

/-- The stacks and partitions a work pays at. -/
def payers (ts : List Touch) : List (Nat × JobId) :=
  (ts.filterMap fun x => match x.stack, x.pay with | some p, some j => some (p.1, j) | _, _ => none).eraseDups

/-- The buckets that hold a work back. -/
def shortOf (ch : Chip) (ts : List Touch) : List (Nat × JobId) :=
  (payers ts).filter fun p => bucketShort ch ts p.1 p.2

/-- The stops that hold a work back. -/
def shutOf (ch : Chip) (via : Via) (ts : List Touch) : List Nat := (ts.flatMap (shutFor ch via)).eraseDups

/-- A work on memory waits at its source: for a stop, a repair or a bucket (R277, R281, R285). -/
def memHeld (ch : Chip) (via : Via) (ts : List Touch) : Bool :=
  shutOf ch via ts != [] || ts.any (repairMet ch) || shortOf ch ts != []

/-- A work that waits leaves marks alone: `held` at the stops, and its partitions among those short of tokens. -/
def memWaits (ch : Chip) (via : Via) (ts : List Touch) : Chip :=
  let ch1 := (shutOf ch via ts).foldl (fun c t => raise c .galHeld t) ch
  if shutOf ch via ts = [] ∧ ¬ ts.any (repairMet ch) then
    (shortOf ch ts).foldl (fun c p => updStack c p.1 fun x => { x with short := sadd x.short p.2.val }) ch1
  else ch1

/-- An access whose islands are lost: an HBM access without CK_MEM or CK_GAL, a cross-tower access without CK_GAL
(R431). -/
def touchLost (ch : Chip) (via : Via) (x : Touch) : Bool :=
  decide (4 ≤ ch.phase) &&
    (if x.addr < hbmEnd then !islandRuns ch 16 || !islandRuns ch 17
     else !islandRuns ch 17 && x.home.isSome && (match via with | .core t => x.home != some t | _ => true))

/-- A work goes on: what the stacks report for bursts it reads counts, and its partitions wait no more. -/
def memReady (ch : Chip) (bursts : Bursts) (ts : List Touch) : Chip :=
  let waited := (payers ts).filter fun p => (stackOf ch p.1).short.contains p.2.val
  let ch1 := waited.foldl (fun c p => updStack c p.1 fun x => { x with short := sdel x.short p.2.val }) ch
  reported ch1 bursts ((ts.filter Touch.read).map fun x => (x.addr / 256 * 256, 256))

/-- A work with accesses whose islands are lost: what it reads of another tower's scratchpad is poisoned, as is what it
writes there, and the jobs stop (R431). -/
def memLost (ch : Chip) (via : Via) (ts : List Touch) (f : Chip → Chip) : Chip :=
  let lost := ts.filter (touchLost ch via)
  let far := lost.filter fun x => decide (hbmEnd ≤ x.addr)
  let new := ((far.filter fun x => !x.write).flatMap fun x => wordsOf x.addr x.len).filter fun w => !ch.poi.contains w
  let ch1 := f { ch with poi := new.foldl sadd ch.poi }
  let ch2 := { ch1 with poi := ch1.poi.filter fun w => !new.contains w }
  let ch3 := (far.filter Touch.write).foldl (fun c x => markPoi c x.addr x.len) ch2
  ((lost.filterMap Touch.who).eraseDups).foldl haltJobCores ch3

/-- Work on memory: it waits at its source, or is done with what the stacks report for the bursts it reads. -/
def memWork (via : Via) (bursts : Bursts) (f : Chip → Chip) (ch : Chip) : Chip :=
  let ts := touched f ch
  if memHeld ch via ts then memWaits ch via ts
  else if ts.any (touchLost ch via) then memLost (memReady ch bursts ts) via ts f
  else f (memReady ch bursts ts)

/-- Words with poison marks cross the stops of the source and of their home. -/
def forwardPoison (ch : Chip) (src : Nat) (runs : List (Nat × Nat)) : Chip :=
  (runs.filter fun r => decide (r.1 < hbmEnd) && anyPoi ch r.1 r.2).foldl (fun c r =>
    raise (raise c .galPoisonFwd src) .galPoisonFwd ((stackLine c r.1).1 / 2)) ch

/-! ### Home-slice accesses (R268 to R274) -/

/-- A parity failure in a held line (R272, R430): a clean line goes and is fetched again; the failing word of a dirty
one is poisoned and its frame never allocated again. -/
def lineParity (ch : Chip) (addr : Nat) : Chip :=
  let line := addr / 256 * 256
  let sl := stackLine ch line
  let slice := sl.1 / 2
  let set := landSet sl
  match landFind ch slice set line with
  | none => ch
  | some (w, l) =>
    let k := landKey slice set w
    if l.dirty then
      let ch1 := count (raise (markPoi ch addr 1) .lndDirtyPoison slice) (cntCluster (slice * 16 + w) 15) 1
      faultMark { ch1 with land := { ch1.land with dead := sadd ch1.land.dead k } } (8 * (slice * 16 + w))
    else count (raise (landDrop ch k l) .lndCleanRefetch slice) (cntCluster (slice * 16 + w) 14) 1

/-- The bytes an access covers at most: a line, or a grain of the fine path. -/
def LReq.unit (q : LReq) : Nat := if q.grain then 64 else 256

/-- An access at its home slice: what the stack reports counts where the line is not held. The answer of a read carries
the unit's bytes. -/
def homeAccess (ch : Chip) (q : LReq) : Chip :=
  let a := q.acc
  let unit := q.unit
  let base := a.addr / unit * unit
  let ch1 := if a.parity then lineParity ch a.addr else ch
  let bs : List Byte := match a.write with | some d => d.take (base + unit - a.addr) | none => []
  let write := a.write.isSome
  let whole := decide (a.addr % unit = 0 ∧ bs.length = unit)
  let sevs := (List.range (unit / 32)).map fun i => (base + 32 * i, a.severity.getD i .clean)
  let ch2 := if write && whole then ch1 else reported ch1 sevs [(base, unit)]
  let bad := anyPoi ch2 base unit
  let data := rdBytes ch2 base unit
  let touch (c : Chip) : Chip :=
    landTouchBy (if q.grain then count c (cntTower ((stackLine c a.addr).1 / 2) 6) 1 else c)
      (whoJob a.who) q.payer (if q.grain then .stream else a.hint) (a.addr / 256 * 256) write (whole && !q.grain) q.grain
  if write then wrMem (touch ch2) a.addr bs (q.host.getD false)
  else touch { forwardPoison ch2 a.src.val [(base, unit)] with resp := ⟨.ok, data, bad⟩ }

/-- HBM is served: the address exists and the islands of Gallery and memory run (R431). -/
def hbmServed (ch : Chip) (a : Nat) : Bool :=
  decide (a < hbmEnd) && islandRuns ch 16 && islandRuns ch 17 && (stackOf ch (stackLine ch a).1).inService

/-- Tokens that a request to a stack needs. -/
def LReq.cost (q : LReq) : Nat := if q.grain then 2 else 8

/-- A request that goes to its stack is admitted: its partition is unlimited, its bucket holds the cost, or the
pseudo-channel is idle and the partition shares (R277). -/
def admits (ch : Chip) (k : Nat) (q : LReq) (idle : Bool) : Bool :=
  match q.payer with
  | none => true
  | some j =>
    let w := partRate ch k j.val
    rateOpen w || decide (q.cost * 256 ≤ tget (stackOf ch k).tokens 0 j.val) || (w.getLsbD 31 && idle)

/-- A request at its controller: it waits for a repair, behind earlier requests of its partition, or for tokens. -/
def atStack (ch : Chip) (q : LReq) : Chip :=
  let k := (stackLine ch q.acc.addr).1
  let behind := q.payer.isSome && (stackOf ch k).queue.any fun r => r.payer == q.payer
  if ¬ lineHeld ch q.acc.addr ∧ (inRepair ch q.acc.addr ∨ behind ∨ ¬ admits ch k q false) then
    updStack ch k fun x => { x with queue := x.queue ++ [q] }
  else homeAccess ch q

/-- The DISABLED stops on a request's way: the host reaches a slice through the stop of its tower (R285). -/
def reqStops (ch : Chip) (q : LReq) : List Nat :=
  if q.host.isSome ∨ q.acc.who = .unit then [(stackLine ch q.acc.addr).1 / 2].filter fun t => blkGet ch .gal t == .disabled
  else shutStops ch q.acc.src.val q.acc.addr

/-- A request arrives from its source: a DISABLED stop on its way holds it there, unless firmware made it (R285). -/
def arrive (ch : Chip) (q : LReq) : Chip :=
  if ¬ hbmServed ch q.acc.addr then ch
  else
    match reqStops ch q with
    | [] => atStack ch q
    | ts =>
      if q.acc.who = .firmware then atStack ch q
      else
        let ch1 := ts.foldl (fun c t => raise c .galHeld t) ch
        { ch1 with land := { ch1.land with held := ch1.land.held ++ [q] } }

/-- A write of some bytes, one request for each line. -/
def lineWrites (ch : Chip) (who : Who) (hint : Hint) (host : Option Bool) (a : Nat) (bs : List Byte) : List LReq :=
  (List.range ((a + bs.length - 1) / 256 + 1 - a / 256)).map fun i =>
    let line := (a / 256 + i) * 256
    let lo := max line a
    ⟨{ who := who, src := Fin.ofNat 8 ((stackLine ch line).1 / 2), addr := lo
       write := some ((bs.drop (lo - a)).take (line + 256 - lo)), hint := hint, parity := false, severity := [] }, false, host⟩

/-- An unregulated posted write, by firmware, the host or a unit that serves no one job: where a stop or a repair holds some
of it, that waits line by line (R281, R285). -/
def postWrite (ch : Chip) (who : Who) (hint : Hint) (host : Option Bool) (a : Nat) (bs : List Byte) : Chip :=
  let f (c : Chip) : Chip := wrMem (landRangeBy c (whoJob who) none hint a bs.length true) a bs (host.getD false)
  if memHeld ch (if who = .firmware then .firmware else .die) (touched f ch) then
    (lineWrites ch who hint host a bs).foldl arrive ch
  else f ch

/-- A stop is ENABLED again: the requests that wait at their sources go on, in order. -/
def stopReopens (ch : Chip) : Chip :=
  ch.land.held.foldl arrive { ch with land := { ch.land with held := [] } }

/-- A repair is over: the requests that waited go on, in order, as far as their buckets admit them. -/
def repairOver (ch : Chip) (k : Nat) : Chip :=
  (stackOf ch k).queue.foldl atStack (updStack ch k fun x => { x with repair := none, queue := [] })

def execLandingAccess (a : LAccess) (s : State) : Host.Outcome State Fault Refusal :=
  onChip s fun ch => arrive ch ⟨a, false, none⟩

/-- A grain of the fine path: the home slice first, then the controller (R274). -/
def execFineGrain (a : LAccess) (s : State) : Host.Outcome State Fault Refusal :=
  onChip s fun ch => arrive ch ⟨a, true, none⟩

/-- A fill completes: the line is allocated under its hint, and poisoned bursts stay poisoned in it (R270, R272). -/
def execLandingFill (who : Who) (addr : Nat) (hint : Hint) (sev : List Severity) (s : State) :
    Host.Outcome State Fault Refusal :=
  onChip s fun ch =>
    if ¬ hbmServed ch addr ∨ lineHeld ch addr ∨ inRepair ch addr then ch
    else
      let line := addr / 256 * 256
      let ch1 := (List.range 8).foldl (fun c i => burstRead c (line + 32 * i) (sev.getD i .clean)) ch
      landTouch ch1 (whoJob who) hint line false false false

/-! ### Admission (R276, R277) -/

/-- The first waiting request of a partition at one of a tower's two stacks, once `cycles` cycles of CK_MEM went by in which it waited for tokens: it
is admitted, or waits on. `idle`: no admitted request of another partition waits for its pseudo-channel. -/
def execHbmAdmit (t : TowerId) (half : Fin 2) (j : JobId) (idle : Bool) (cycles : Nat) (s : State) :
    Host.Outcome State Fault Refusal :=
  onChip s fun ch =>
    let k := 2 * t.val + half.val
    match (stackOf ch k).queue.find? fun q => q.payer == some j with
    | none => ch
    | some q =>
      if ¬ islandRuns ch 16 ∨ inRepair ch q.acc.addr then ch
      else
        let wait (x : Stack) : Stack :=
          { x with waits := tput x.waits j.val (BitVec.ofNat 32 (min 0xFFFFFFFF ((tget x.waits 0 j.val).toNat + cycles))) }
        let ch1 := count (updStack ch k wait) (cntTower t.val (8 + 12 * half.val + 7)) cycles
        if admits ch1 k q idle then
          homeAccess (updStack ch1 k fun x => { x with queue := x.queue.erase q }) q
        else ch1

/-- In a microsecond every bucket gains 2,000 times its rate ÷ 256 tokens, first against what it owes, up to its depth;
partitions whose work waits for tokens count 2,000 cycles (R284). -/
def tickBuckets (ch : Chip) : Chip :=
  if ¬ islandRuns ch 16 then ch
  else
    let fill (x : Stack) (p : Nat × Word) : Stack :=
      let gain := 2000 * fld p.2 15 0
      let owed := tget x.debt 0 p.1
      let x1 := { x with tokens := tput x.tokens p.1 (min (bucketDepth p.2) (tget x.tokens 0 p.1 + (gain - owed))) }
      if owed = 0 then x1 else { x1 with debt := tput x.debt p.1 (owed - gain) }
    let wait (x : Stack) : Stack :=
      { x with waits := x.short.foldl (fun t j =>
          tput t j (BitVec.ofNat 32 (min 0xFFFFFFFF ((tget t 0 j).toNat + 2000)))) x.waits }
    let ch1 := { ch with stks := ch.stks.map fun p =>
      (p.1, wait ((p.2.rates.filter fun q => !rateOpen q.2).foldl fill p.2)) }
    ch.stks.foldl (fun c p => count c (cntTower (p.1 / 2) (8 + 12 * (p.1 % 2) + 7)) (2000 * p.2.short.length)) ch1

/-! ### Thermal holds (R484, R487) -/

/-- A tower's operating point at reset (R482, R498). -/
def pointReset : PTower :=
  { f := 36, goal := 36, mv := 790, mvOld := 790, ramp := false, held := false, cooling := false, since := 0
    capped := false }
def convReset : Adc :=
  { now := none, reg := none, src := 0, held := 0, alarm := false, low := [], means := [], settled := 0, buf := none }
def pointOf (ch : Chip) (t : Nat) : PTower := tget ch.sys.pwr.tw pointReset t
def convOf (ch : Chip) (k : Nat) : Adc := tget ch.sys.convs convReset k
def updPwr (ch : Chip) (f : Power → Power) : Chip := { ch with sys := { ch.sys with pwr := f ch.sys.pwr } }
def updPoint (ch : Chip) (t : Nat) (f : PTower → PTower) : Chip :=
  updPwr ch fun p => { p with tw := tput p.tw t (f (tget p.tw pointReset t)) }
def updConv (ch : Chip) (k : Nat) (f : Adc → Adc) : Chip :=
  { ch with sys := { ch.sys with convs := tput ch.sys.convs k (f (convOf ch k)) } }

/-- A tower is thermally held while its alarm is set or a stack of it reports 95 °C or more (R487). -/
def holdNow (ch : Chip) (t : Nat) : Bool :=
  (convOf ch t).alarm || decide (95 ≤ (stackOf ch (2 * t)).temp ∨ 95 ≤ (stackOf ch (2 * t + 1)).temp)

/-- The hold of a tower begins or ends. -/
def holdUpdate (ch : Chip) (t : Nat) : Chip :=
  let h := holdNow ch t
  let was := (pointOf ch t).held
  if h ∧ ¬ was then
    raise (updPwr (updPoint ch t fun p => { p with held := true, cooling := true }) fun p => { p with holdMs := true })
      .pwrHold 0
  else if ¬ h ∧ was then updPoint ch t fun p => { p with held := false, since := ch.us }
  else ch

/-! ### Scrub, temperature, refresh, replay (R263, R279, R285) -/

/-- The patrol scrub reads a burst; `last` ends the scrub period. -/
def execPatrolScrub (k : StackId) (addr : Nat) (sev : Severity) (last : Bool) (s : State) :
    Host.Outcome State Fault Refusal :=
  onChip s fun ch =>
    if ¬ hbmServed ch addr ∨ (stackLine ch addr).1 ≠ k.val ∨ regFld ch .hbmCfg k.val 7 0 = 0 ∨
        (stackOf ch k.val).repair = some (lineGeo (stackLine ch addr).2).1 then ch
    else
      let ch1 := burstRead ch addr sev
      if last then raise (updStack ch1 k.val fun x => { x with corrRows := [] }) .hbmScrubDone k.val else ch1

/-- The stack temperature, read every 1 ms; above 85 °C refresh runs at twice the base rate. -/
def execHbmTempRead (k : StackId) (temp : BitVec 8) (s : State) : Host.Outcome State Fault Refusal :=
  onChip s fun ch =>
    if ¬ islandRuns ch 16 then ch
    else
      let hot := decide (85 < temp.toNat)
      let ch1 := updStack ch k.val fun x => { x with temp := temp.toNat, hot := hot }
      let ch2 := if hot then count ch1 (cntTower (k.val / 2) (8 + 12 * (k.val % 2) + 9)) 1 else ch1
      holdUpdate ch2 (k.val / 2)

def execHbmRefresh (k : StackId) (s : State) : Host.Outcome State Fault Refusal :=
  onChip s fun ch =>
    if islandRuns ch 16 then count ch (cntTower (k.val / 2) (8 + 12 * (k.val % 2) + 8)) 1 else ch

def execGalleryReplay (t : TowerId) (s : State) : Host.Outcome State Fault Refusal :=
  onChip s fun ch => if islandRuns ch 17 then regSat (raise ch .galReplay t.val) .galReplayCnt t.val 31 0 1 else ch

end Sys2Proof.Machine
end

