-- ==== Sys2Proof/Machine/Sequencer.lean ====
section
/-! DEFINITION. Issue by a core's sequencer, shared by every instruction (10_oanoine_control.md R209 to R216, R234). -/

namespace Sys2Proof.Machine

/-- The core's clock runs and its tower and the core itself are in service (R28, R30, R430). -/
def coreAlive (ch : Chip) (g : Nat) : Bool :=
  islandRuns ch (g / 128) && !(towerOf ch (g / 128)).fenced && !(tcoreOf ch g).fenced

/-- The sequencer may issue its next instruction (R209, R225, R227, R235, R236, R239). -/
def canIssue (ch : Chip) (g : Nat) : Bool :=
  let k := coreOf ch g
  k.run == .running && !k.halting && k.faultSeq.isNone && k.syw.isNone && k.fence.isNone && k.held.isNone && enabled ch .seq g &&
    coreAlive ch g && (tcoreOf ch g).under.isNone

/-- The PC after the word at `pc` issued without a taken branch: the back-edges of the loops that end there (R224),
else the next word; the PC has 14 bits. -/
def loopBack (k : Core) (pc : Nat) (ls : List LoopEnt) : Core :=
  match ls with
  | [] => { k with loops := [], pc := (pc + 1) % 16384 }
  | l :: r =>
    if l.last = pc then
      if l.count ≤ 1 then loopBack k pc r
      else { k with loops := { l with count := l.count - 1 } :: r, pc := l.first }
    else { k with loops := ls, pc := (pc + 1) % 16384 }

def advance (k : Core) : Core := loopBack k k.pc k.loops

/-- The word the sequencer fetches: after an unfenced rewrite of instruction memory, either word (R211; log 14). -/
def fetchWord (ch : Chip) (g pc : Nat) : Dword :=
  let new : Dword := BitVec.ofNat 64 (rdNat ch (imemBase g + 8 * pc) 8)
  match (coreOf ch g).stale.find? fun p => p.1 == pc with
  | some p => if Config.freeBit ch.free then p.2 else new
  | none => new

/-- A fault of the instruction at the PC, whose word is w (R236: precise, it takes no effect). -/
def faultWord (ch : Chip) (g code : Nat) (w : Dword) : Chip :=
  faultCore ch g code (coreOf ch g).pc w (coreOf ch g).seq

/-- A fault of the instruction at the PC before it issues: the word is the one fetched. -/
def faultAtPc (ch : Chip) (g code : Nat) : Chip := faultWord ch g code (fetchWord ch g (coreOf ch g).pc)

/-- Issues the word at the PC of core g if it is instruction `op`: f gives the effect of an instruction whose guard
holds. Held while a register it uses is pending (R234); a poisoned word faults (R425); otherwise nothing happens. -/
def issue (ch : Chip) (g : Nat) (op : Op) (f : Chip → Core → Dword → Chip) : Chip :=
  let k := coreOf ch g
  if ¬ canIssue ch g then ch
  else if anyPoi ch (imemBase g + 8 * k.pc) 8 then faultAtPc ch g 9
  else
    let w := fetchWord ch g k.pc
    if decodeWord w ≠ some op then ch
    else if (regUse op w).1.any (pendingReg k) || (regUse op w).2.any (pendingReg k) then ch
    else
      let ch1 := countCore { ch with free := ch.free + b2n (thas k.stale k.pc) } g 57 1
      if guardOk k w then f ch1 k w else updCore ch1 g advance

/-- The illegal-instruction fault of the word at the PC (R216). -/
def issueIllegal (ch : Chip) (g : Nat) : Chip :=
  let k := coreOf ch g
  if ¬ canIssue ch g then ch
  else if anyPoi ch (imemBase g + 8 * k.pc) 8 then faultAtPc ch g 9
  else if decodeWord (fetchWord ch g k.pc) = none then faultAtPc ch g 1
  else ch

/-- The instructions not yet complete of the queues named in a mask (R226, R227). -/
def pendingSeqs (k : Core) (mask : Nat) : List Nat :=
  (k.q.filter fun i => i.phase != .done && bit mask (queueBit i.q)).map QInstr.seq

end Sys2Proof.Machine
end

