-- ==== Sys2Proof/Machine/Queue.lean ====
section
/-! DEFINITION. What a queue instruction names, its fetch, the tiles it uses, and how an instruction of a queue runs
(10_oanoine_control.md R210, R228 to R232; 11_tensor_descriptors.md R245 to R249). -/

namespace Sys2Proof.Machine

/-! ### Slots and fetch (R228, R245, R255 to R259) -/

/-- The slots dA, dB, dC, dP an instruction uses, given its parameter entry. -/
def slotUse (op : Op) (pe : Nat) : Bool × Bool × Bool × Bool :=
  match op with
  | .mma | .ard | .art | .softmaxBwd | .normBwd => (true, true, true, true)
  | .apgLoad | .apgTransfer | .preloadBias | .preloadResid => (true, false, false, true)
  | .mupd => (true, true, false, true)
  | .wcheck => (true, true, true, false)
  | .scalegen => (false, false, true, false)
  | .vopAdd | .vopSub | .vopMul | .vopFma | .vopMax | .vopMin => (true, ebit pe 0 2 2 == 0, true, true)
  | .cvt | .sfu | .scale | .colsum => (true, false, true, true)
  | .drn => (eb pe 6 6 != 0, false, true, true)
  | .dmaCopy | .dmaTranspose | .dmaConvert | .dmaTransposeConvert => (true, false, true, true)
  | _ => (false, false, false, false)

/-- The optional extra entries a parameter block names (R249 to R259). -/
def extraFields (op : Op) (pe : Nat) : Nat × Nat :=
  match op with
  | .mma => (eb pe 7 6, eb pe 9 8)
  | .ard | .art => (eb pe 13 12, 0)
  | .softmaxBwd | .normBwd => (eb pe 5 4, eb pe 7 6)
  | _ => (0, 0)

/-- The entry an extra field names. -/
def extraIx (v : Nat) : Option Nat := if v.testBit 15 then some (v % 1024) else none
/-- The reserved bits of an extra field are 0 (R249). -/
def extraOk (v : Nat) : Bool := v / 1024 % 32 == 0

/-- The entries an issued instruction names and will fetch. -/
def namedEntries (ch : Chip) (g : Nat) (i : QInstr) : List Nat :=
  match decodeWord i.word with
  | none => []
  | some op =>
    let pe := i.eP.elim 0 (entryAt ch g)
    let u := slotUse op pe
    let x := extraFields op pe
    (if u.1 then i.eA.toList else []) ++ (if u.2.1 then i.eB.toList else []) ++ (if u.2.2.1 then i.eC.toList else []) ++
      (if u.2.2.2 then i.eP.toList ++ (extraIx x.1).toList ++ (extraIx x.2).toList else [])

/-- An entry of descriptor memory that an issued instruction names and has not fetched (R220). -/
def entryNamed (ch : Chip) (g e : Nat) : Bool :=
  (coreOf ch g).q.any fun i => i.phase == .queued && (namedEntries ch g i).contains e

/-- The instruction with the entries it fetches (R245). -/
def fetched (ch : Chip) (g : Nat) (i : QInstr) : QInstr :=
  match decodeWord i.word with
  | none => i
  | some op =>
    let at_ (used : Bool) (e : Option Nat) : Nat := if used then e.elim 0 (entryAt ch g) else 0
    let pe := i.eP.elim 0 (entryAt ch g)
    let u := slotUse op pe
    let x := extraFields op pe
    { i with fA := at_ u.1 i.eA, fB := at_ u.2.1 i.eB, fC := at_ u.2.2.1 i.eC, fP := at_ u.2.2.2 i.eP,
             f1 := at_ u.2.2.2 (extraIx x.1), f2 := at_ u.2.2.2 (extraIx x.2) }

/-- A word the instruction fetches is poisoned (R245). -/
def fetchPoisoned (ch : Chip) (g : Nat) (i : QInstr) : Bool := (namedEntries ch g i).any (entryPoi ch g)

/-- A slot the instruction uses is invalid (R245). -/
def slotMissing (i : QInstr) (op : Op) : Bool :=
  let u := slotUse op i.fP
  (u.1 && i.eA.isNone) || (u.2.1 && i.eB.isNone) || (u.2.2.1 && i.eC.isNone) || (u.2.2.2 && i.eP.isNone)

/-! ### Descriptors of an instruction -/

/-- A stand-in for an entry that is no descriptor; the checks of R245 keep it from being used. -/
def descNone : Desc :=
  { base := 0, fmt := .f32, ndims := 1, grad := false, hint := .normal, scope := 0, ceiling := 0, sptr := 0, tid := 0,
    budget := 0, ext := [0], str := [4], win := [] }

def descD (e : Nat) : Desc := (descOf e).getD descNone
/-- A descriptor with a byte addend (R229, R249). -/
def descAt (e : Nat) (add : Int) : Desc := { descD e with base := (descD e).base + add }

/-- The first check that fails, in order, and its fault (R245). -/
def firstBad (l : List (Bool × Nat)) : Option Nat := (l.find? fun p => !p.1).map Prod.snd

/-- Bits hi..lo of bytes of an entry are all 0. -/
def zeroBytes (e hi lo : Nat) : Bool := eb e hi lo == 0

/-! ### Tiles an instruction uses (R128) -/

/-- Tiles of rows lo … lo+n−1 and columns 0 … cols−1. -/
def tileSet (base pitch lo n cols : Nat) : List Nat :=
  if n = 0 ∨ cols = 0 then []
  else (span (lo / 16) ((lo + n - 1) / 16 - lo / 16 + 1)).flatMap fun b =>
    span (base + b * pitch) ((cols + 15) / 16)

def tileOk (ts : List Nat) : Bool := ts.all fun t => decide (t < 256)

/-- Where output element (m, n) goes: tile and element index. -/
def tileAt (base pitch m n : Nat) : Nat × Nat := (base + m / 16 * pitch + n / 16, m % 16 * 16 + n % 16)

/-- The M or N dimensions of an MMA operand: those that are not its K dimensions (R251). -/
def outDims (d : Desc) (k : Nat) (outer : Bool) : List Nat :=
  if outer then span 0 (d.ndims - k) else span k (d.ndims - k)
def kDims (d : Desc) (k : Nat) (outer : Bool) : List Nat :=
  if outer then span (d.ndims - k) k else span 0 k

/-- The shape of an operation that writes or reads tiles: base tile, pitch, first row, rows, columns. -/
structure TShape where
  base : Nat
  pitch : Nat
  row0 : Nat
  rows : Nat
  cols : Nat
  deriving DecidableEq, Repr

/-- Rows that a count selects of a row space whose outermost dimension has extent `ext`; none when the count is
illegal (R249). -/
def rowsOf (ext inner m0 cnt : Nat) : Option (Nat × Nat) := (selRows ext m0 cnt).map fun n => (m0 * inner, n * inner)

/-- The tile shape of an instruction whose entries are fetched (R128, R251 to R258). -/
def tShape (op : Op) (i : QInstr) : TShape :=
  let add := xTile i.x
  let A := descD i.fA
  let C := descD i.fC
  match op with
  | .mma =>
    let md := outDims A (ebit i.fP 1 2 0) (ebit i.fP 1 3 3 == 1)
    let nd := outDims (descD i.fB) (ebit i.fP 1 6 4) (ebit i.fP 1 7 7 == 1)
    let me := md.map fun k => A.ext.getD k 0
    let r := (rowsOf (me.getLastD 1) (prodN me.dropLast) (xIndex i.x) (eb i.fP 5 4)).getD (0, 0)
    ⟨eb i.fP 2 2 + add, eb i.fP 3 3, r.1, r.2, prodN (nd.map fun k => (descD i.fB).ext.getD k 0)⟩
  | .ard | .art =>
    let me := A.ext.tail
    let r := (rowsOf (me.getLastD 1) (prodN me.dropLast) (xIndex i.x) (eb i.fP 7 6)).getD (0, 0)
    ⟨eb i.fP 3 3 + eb i.fP 5 5 * xArray i.x + add, eb i.fP 4 4, r.1, if eb i.fP 1 1 = 0 then 0 else r.2,
      if op = .ard then 128 else 512⟩
  | .preloadBias => ⟨eb i.fP 2 2 + add, eb i.fP 3 3, 0, eb i.fP 5 4, prodN A.ext⟩
  | .preloadResid => ⟨eb i.fP 2 2 + add, eb i.fP 3 3, 0, prodN A.ext.tail, A.ext.headD 0⟩
  | .drn =>
    let me := C.ext.tail
    let r := (rowsOf (me.getLastD 1) (prodN me.dropLast) (xIndex i.x) (eb i.fP 3 2)).getD (0, 0)
    ⟨eb i.fP 0 0 + add, eb i.fP 1 1, r.1, r.2, C.ext.headD 0⟩
  | .vopAdd | .vopSub | .vopMul | .vopFma | .vopMax | .vopMin | .cvt | .sfu | .scale | .colsum =>
    if ebit i.fP 0 3 3 = 1 then ⟨eb i.fP 2 2, eb i.fP 3 3, 0, prodN A.ext.tail, A.ext.headD 0⟩ else ⟨0, 0, 0, 0, 0⟩
  | _ => ⟨0, 0, 0, 0, 0⟩

def shapeTiles (s : TShape) : List Nat := tileSet s.base s.pitch s.row0 s.rows s.cols

/-- The tiles of an issued instruction, fetched or not yet. -/
def instrTiles (ch : Chip) (g : Nat) (i : QInstr) : List Nat :=
  match decodeWord i.word with
  | none => []
  | some op => shapeTiles (tShape op (if i.phase == .queued then fetched ch g i else i))

/-- An instruction still has work to do: it has not run, or reads of it are unresolved. -/
def unfinished (ch : Chip) (g : Nat) (i : QInstr) : Bool :=
  i.phase == .queued || i.phase == .started || (bankOf ch g).reads.any fun r => r.seq == i.seq

/-- Unfinished instructions of core g before or after issue number s, of the queues in `qs`, that share a tile with
`ts`. -/
def tileClash (ch : Chip) (g : Nat) (before : Bool) (s : Nat) (qs : List Queue) (ts : List Nat) : Bool :=
  (coreOf ch g).q.any fun i =>
    qs.contains i.q && (if before then decide (i.seq < s) else decide (s < i.seq)) && unfinished ch g i &&
      (instrTiles ch g i).any fun t => ts.contains t

/-! ### Running -/

/-- Changes the instruction with issue number s. -/
def updInstr (ch : Chip) (g s : Nat) (f : QInstr → QInstr) : Chip :=
  updCore ch g fun k => { k with q := k.q.map fun i => if i.seq = s then f i else i }

/-- Takes an instruction out of the core's queues. -/
def dropInstr (ch : Chip) (g s : Nat) : Chip :=
  updCore ch g fun k => { k with q := k.q.filter fun i => i.seq != s }

/-- `b` may not overtake `a`: both are on one object, or both are remote to one package (R226, R293). -/
def sendsAfter (a b : Deferred) : Bool := a.pkg == b.pkg && (a.obj == b.obj || (a.remote && b.remote))

/-- The deferred SYS operations that can still be sent when instruction s never completes: not those that name it, nor
those that must follow one of them (R226, R232). -/
def keptSends (s : Nat) (lost : List Deferred) (l : List Deferred) : List Deferred :=
  match l with
  | [] => []
  | d :: r => if d.seqs.contains s || lost.any (sendsAfter d) then keptSends s (d :: lost) r else d :: keptSends s lost r

/-- A fault of a queue instruction found by its queue: it takes no effect, never completes, and releases nothing (R232,
R236, R245). -/
def queueFault (ch : Chip) (g code : Nat) (i : QInstr) : Chip :=
  let ch1 := updCore (dropInstr ch g i.seq) g fun k =>
    { k with defer := keptSends i.seq [] k.defer, lost := k.lost ++ [(i.seq, wb i.word 51 49)] }
  faultCore ch1 g code i.pc i.word i.seq

/-- Runs the started instruction of a queue if it is `op`: f gives its effect and what it writes to sD and pD. It runs
while its clock does (R28, R30). Its contributions wait for an earlier vector operation on the same tiles (R138). -/
def runStarted (ch : Chip) (g : Nat) (q : Queue) (op : Op) (f : Chip → QInstr → Chip × QInstr) : Chip :=
  if ¬ islandRuns ch (g / 128) then ch else
  match (coreOf ch g).q.find? fun i => i.q == q && i.phase == .started with
  | none => ch
  | some i =>
    if decodeWord i.word ≠ some op then ch
    else if (q == .engine || q == .array) && tileClash ch g true i.seq [.vector] (instrTiles ch g i) then ch
    else
      let r := f ch i
      updInstr r.1 g i.seq fun j => { j with phase := .ran, conf := r.2.conf, sres := r.2.sres, pres := r.2.pres }

end Sys2Proof.Machine
end

