-- ==== Sys2Proof/Machine/Accum.lean ====
section
/-! DEFINITION. Accumulator tiles: contributions, classes, overflow and scrub (06_accumulation.md). -/

namespace Sys2Proof.Machine

def tileOf (ch : Chip) (g t : Nat) : Tile := tget (accOf ch g).tiles tileEmpty t
def updTile (ch : Chip) (g t : Nat) (f : Tile → Tile) : Chip :=
  updAcc ch g fun a => { a with tiles := tupd a.tiles tileEmpty t f }
/-- An element; every element of an EMPTY tile reads +0.0 (R129). -/
def tileEl (x : Tile) (ix : Nat) : Word := if x.st = 0 then 0 else tget x.els 0 ix

/-- The first contribution makes the tile ACTIVE and latches the class (R129, R140). -/
def latchTile (x : Tile) (grad : Bool) : Tile :=
  if x.st = 2 then x else { x with st := 2, grad := grad, els := if x.st = 0 then [] else x.els }

/-- round_F32(element + c × 2^(−s)) (R131); with `h`, results flush to zero (R165). A NaN element stays. -/
def addConv (x : Tile) (ix : Nat) (h : Bool) (c : Val) : Conv :=
  let el := tileEl x ix
  if visNan (ofF32 el) then { code := el.toNat }
  else
    let r := ffConv ffF32 false (vadd (ofF32 el) (vscale c (-(8 * (x.tag : Int))))) 1
    { r with code := (ftzIf h (BitVec.ofNat 32 r.code)).toNat }

/-- How replays of an addition end: it fits, the tag would pass 24, or an element read on the way fails parity (R142,
R145). -/
inductive ReplayEnd where
  | fits | exhausted | parity
  deriving DecidableEq, Repr

/-- What an addition to a GRAD tile ends with after replays (R142). -/
structure Replayed where
  tile : Tile
  steps : Nat
  how : ReplayEnd
  deriving DecidableEq, Repr

/-- One replay step: every element times 2^(−8), the tag up by 8. -/
def replayStep (x : Tile) : Tile :=
  { x with tag := x.tag + 1, els := x.els.map fun p => (p.1, toF32 (vscale (ofF32 p.2) (-8))),
           fail := x.fail.map (· - 1) }

/-- Replays until the contribution fits or the tag would pass 24 (R142). -/
def replay (fuel : Nat) (x : Tile) (ix : Nat) (h : Bool) (c : Val) (steps : Nat) : Replayed :=
  match fuel with
  | 0 => ⟨{ x with poison := true, gpoi := true }, steps, .exhausted⟩
  | fuel + 1 =>
    if 3 ≤ x.tag then ⟨{ x with poison := true, gpoi := true }, steps, .exhausted⟩
    else if x.fail = some 0 then ⟨x, steps, .parity⟩
    else
      let y := replayStep x
      let r := addConv y ix h c
      if r.saturated then replay fuel y ix h c (steps + 1)
      else ⟨{ y with els := tput y.els ix (BitVec.ofNat 32 r.code) }, steps + 1, .fits⟩

/-- A parity failure on a read of an element poisons its tile, and fences the core (R145, R430); an EMPTY tile is not read
(R129). -/
def parityFind (ch : Chip) (g t : Nat) : Chip :=
  if (tileOf ch g t).st = 0 then ch
  else fenceCore (raise (updTile ch g t fun x => { x with poison := true, fail := none }) .engAccParityPoison g) g 2

/-- A read of a tile's elements, which may meet the parity failure that the running command names (R145, log 152). -/
def tileRead (ch : Chip) (g t : Nat) : Chip :=
  match (tileOf ch g t).fail with
  | none => ch
  | some 0 => parityFind ch g t
  | some (n + 1) => if (tileOf ch g t).st = 0 then ch else updTile ch g t fun x => { x with fail := some n }

/-- The parity failures that a command's reads of some tiles meet are set before it, and are gone after it. -/
def tilesFail (ch : Chip) (g : Nat) (ts : List Nat) (l : TileFaults) : Chip :=
  l.foldl (fun c p => if ts.contains p.1.val then updTile c g p.1.val fun x => { x with fail := some p.2 } else c) ch
def tilesGood (ch : Chip) (g : Nat) (l : TileFaults) : Chip :=
  l.foldl (fun c p => if (tileOf c g p.1.val).fail.isSome then updTile c g p.1.val fun x => { x with fail := none } else c) ch

/-- Adds one contribution to element `ix` of a tile (R131, R135, R140 to R143); none is a poisoned contribution
(R126): it makes even a poisoned tile ACTIVE, which a clean contribution that the tile discards does not (DESIGN CHOICE,
log 153). `tid` is the tensor id the notification of R143 names, `q` the queue (ENG_ACC_TILE.last_queue). -/
def tileAdd (ch0 : Chip) (g t ix : Nat) (grad h : Bool) (q tid : Nat) (c : Option Val) : Chip :=
  let ch := tileRead ch0 g t
  let x := tileOf ch g t
  let y := { latchTile x grad with lastq := q }
  if x.poison then updTile ch g t fun z => if c.isNone ∧ x.st ≠ 2 then y else { z with lastq := q }
  else
    let ch1 := raiseIf (x.st == 2 && x.grad != grad) ch .engAccClassMix g
    match c with
    | none => updTile ch1 g t fun _ => { y with poison := true }
    | some v =>
      let r := addConv y ix h v
      if ¬ r.saturated then updTile ch1 g t fun _ => { y with els := tput y.els ix (BitVec.ofNat 32 r.code) }
      else if ¬ y.grad then
        raise (updTile ch1 g t fun _ => { y with els := tput y.els ix (BitVec.ofNat 32 r.code) }) .engAccActOverflow g
      else
        let p := replay 4 y ix h v 0
        let ch2 := updTile ch1 g t fun _ => p.tile
        match p.how with
        | .exhausted =>
          let ch3 := raise ch2 .engAccGradPoison g
          (match coreJob ch3 g with
          | some j => notify ch3 j.val 3 0 g tid t 0
          | none => ch3)
        | .parity => parityFind ch2 g t
        | .fits => raise ch2 .engAccGradReplay g

/-- A contribution as a value (R131, R135). -/
def contribVal (v : Contrib) : Option Val :=
  match v with
  | .fin n e => some (vofInt n e)
  | .negZero => some (.num true 0 0)
  | .inf s => some (.inf s)
  | .nan => some .nan
  | .poisoned => none

/-- A contribution arrives at the tile port while the engine block is not DISABLED (R131, R145, R146). -/
def execTileContribution (c : CoreId) (tile : Fin 256) (i j : Fin 16) (grad : Bool) (v : TileTerm) (s : State) :
    Host.Outcome State Fault Refusal :=
  onChip s fun ch =>
    if islandRuns ch (c.val / 128) ∧ blkGet ch .eng c.val ≠ .disabled then
      tileAdd (if v.parity then parityFind ch c.val tile.val else ch) c.val tile.val (i.val * 16 + j.val) grad false
        (tileOf ch c.val tile.val).lastq v.tid.val (contribVal v.value)
    else ch

/-- The bytes of a core's scratchpad that the memory operands of a fetched instruction span. -/
def operandAt (g : Nat) (i : QInstr) (a : Nat) : Bool :=
  decide (scratchBase g ≤ a ∧ a < scratchBase g + scratchLen) &&
    [i.fA, i.fB, i.fC, i.f1, i.f2].any fun e => match descOf e with
      | some d => ((elemSpan d false).toList ++ (auxSpan d).toList).any fun r => decide (r.1 ≤ (a : Int) ∧ (a : Int) ≤ r.2)
      | none => false

/-- Operand words in scratchpad that fail parity as they are read: they are poisoned and the core is fenced (R126, R425,
R430). -/
def wordsFail (ch : Chip) (g : Nat) (i : QInstr) (l : List Nat) : Chip :=
  l.foldl (fun c a => if operandAt g i a then fenceCore (markPoi c a 1) g 2 else c) ch

/-- An effect of an instruction, with the failures its reads meet (R126, R145). -/
def withFailures (r : CoreRun) (f : Chip → QInstr → Chip × QInstr) (ch : Chip) (i : QInstr) : Chip × QInstr :=
  let g := r.core.val
  let x := f (tilesFail (wordsFail ch g i r.words) g (instrTiles ch g i) r.parity) i
  (tilesGood x.1 g r.parity, x.2)

/-- The started instruction of a queue, an `op`, runs its effect. -/
def coreStep (r : CoreRun) (q : Queue) (op : Op) (f : Chip → QInstr → Chip × QInstr) (ch : Chip) : Chip :=
  runStarted ch r.core.val q op (withFailures r f)

/-- It runs as work on memory (R263). -/
def coreRun (r : CoreRun) (q : Queue) (op : Op) (f : Chip → QInstr → Chip × QInstr) (ch : Chip) : Chip :=
  memWork (.core (r.core.val / 128)) r.bursts (coreStep r q op f) ch

/-- Operations of another queue in flight against the same tiles (R139). -/
def aliasMet (ch : Chip) (g s : Nat) (q : Queue) (ts : List Nat) : Bool :=
  (coreOf ch g).q.any fun i =>
    i.q == q && i.seq != s && i.phase != .queued && unfinished ch g i && (instrTiles ch g i).any fun t => ts.contains t

end Sys2Proof.Machine
end

