-- ==== Sys2Proof/Machine/Engine.lean ====
section
/-! DEFINITION. MMA: checks, operands, groups, passes, the stationary copy and escalated re-runs (05_engines.md,
06_accumulation.md R131 to R133, 07_formats.md R157 to R166, 11_tensor_descriptors.md R250, R251). -/

namespace Sys2Proof.Machine

/-- The MMA width class of a format: 32, 16, 8 or 4 bits (R106, R241). -/
def widthClass (f : Fmt) : Option Nat :=
  match f with
  | .f32 | .f32x => some 32
  | .bf16 | .f16 => some 16
  | .e4m3 | .e5m2 | .be4m3 => some 8
  | .e2m1 | .int4 | .int3 | .tern | .be2m1 | .bint4 | .bint3 | .btern => some 4
  | _ => none

def heritageFmt (f : Fmt) : Bool := f == .f32 || f == .bf16 || f == .f16

/-- The products of one group that an engine reduces: 8 in the 4-bit class, else 4 (R106). -/
def depthOf (f : Fmt) : Nat := if widthClass f = some 4 then 8 else 4

/-! ### The parameter block (R250) -/

def mmaG (p : Nat) : Nat := 4 * 2 ^ ebit p 0 1 0
def mmaHeritage (p : Nat) : Bool := ebit p 0 5 5 == 1
def mmaKa (p : Nat) : Nat := ebit p 1 2 0
def mmaKaOuter (p : Nat) : Bool := ebit p 1 3 3 == 1
def mmaKb (p : Nat) : Nat := ebit p 1 6 4
def mmaKbOuter (p : Nat) : Bool := ebit p 1 7 7 == 1
def mmaEscBuf (p : Nat) : Nat := eb p 15 12 % 2 ^ 22
def mmaEscKib (p : Nat) : Nat := eb p 17 16

def mmaParamOk (p : Nat) : Bool :=
  ebit p 0 1 0 != 3 && ebit p 0 3 2 != 3 && ebit p 0 7 6 == 0 &&
  decide (1 ≤ mmaKa p ∧ mmaKa p ≤ 6 ∧ 1 ≤ mmaKb p ∧ mmaKb p ≤ 6) &&
  extraOk (eb p 7 6) && extraOk (eb p 9 8) && zeroBytes p 11 10 && eb p 15 12 / 2 ^ 22 == 0 &&
  decide (mmaEscKib p ≤ 3072) && mmaEscBuf p % 64 == 0 &&
  (mmaEscKib p == 0 || decide (mmaEscBuf p + mmaEscKib p * 1024 ≤ scratchLen)) &&
  zeroBytes p 63 18

/-- The extents of the K dimensions; the packed dimension of a block format counts padded (R133, R251). -/
def kExt (d : Desc) (kd : List Nat) : List Nat :=
  kd.map fun k => if k = 0 ∧ isBlock d.fmt then padTo (d.ext.getD 0 0) 32 else d.ext.getD k 0
def rawExt (d : Desc) (ks : List Nat) : List Nat := ks.map fun k => d.ext.getD k 0

/-- What an MMA computes: its operands, dimensions and shape. -/
structure Mma where
  a : Desc
  b : Desc
  ka : List Nat
  kb : List Nat
  ma : List Nat
  nb : List Nat
  k : Nat
  n : Nat
  shape : TShape
  span : Nat
  cols : Nat
  grad : Bool
  tid : Nat
  heritage : Bool
  deriving DecidableEq, Repr

/-- The MMA of a fetched instruction. Heritage runs with the pass shape of G = 16 (R518). -/
def mmaOf (i : QInstr) : Mma :=
  let p := i.fP
  let A := descAt i.fA (xByte i.x)
  let B := descD i.fB
  let C := descD i.fC
  let ka := kDims A (mmaKa p) (mmaKaOuter p)
  let kb := kDims B (mmaKb p) (mmaKbOuter p)
  let ma := outDims A (mmaKa p) (mmaKaOuter p)
  let nb := outDims B (mmaKb p) (mmaKbOuter p)
  let g := if mmaHeritage p then 16 else mmaG p
  { a := A, b := B, ka := ka, kb := kb, ma := ma, nb := nb, k := prodN (kExt A ka), n := prodN (rawExt B nb),
    shape := tShape .mma i, span := g * depthOf A.fmt, cols := 256 / g, grad := C.grad, tid := C.tid,
    heritage := mmaHeritage p }

/-- The selection of rows of A: its outermost M dimension from m0 on. -/
def mmaSel (i : QInstr) : Option (Option (Nat × Nat × Nat)) :=
  let m := mmaOf i
  match m.ma.getLast? with
  | none => (selRows 1 (xIndex i.x) (eb i.fP 5 4)).map fun _ => none
  | some k => (selRows (m.a.ext.getD k 0) (xIndex i.x) (eb i.fP 5 4)).map fun n => some (k, xIndex i.x, n)

/-- The descriptors an MMA reads: of an F32X operand its F32 part alone (R251). -/
def mmaReads (d : Desc) : Bool := isBlock d.fmt

/-- A wide source: F32, BF16 or F16 with the extents and windows of its operand (R251). -/
def wideOk (field e : Nat) (d : Desc) : Bool :=
  (extraIx field).isNone ||
    ((descOf e).isSome && heritageFmt (descD e).fmt && decide ((descD e).ext = d.ext ∧ (descD e).win = d.win) &&
      descRules (descD e) true)

/-- The checks of an MMA (R245, R251); code 0x102 is an illegal operand with `tile_range`. -/
def mmaCheck (ch : Chip) (g : Nat) (i : QInstr) : Option Nat :=
  let p := i.fP
  let m := mmaOf i
  let mRows := prodN (rawExt m.a m.ma)
  let blk := isBlock m.a.fmt
  let sel := (mmaSel i).getD none
  let empty := decide (m.shape.rows = 0 ∨ m.n = 0 ∨ m.k = 0)
  firstBad [
    (!xBad i.x, 2),
    ((descOf i.fA).isSome && (descOf i.fB).isSome && (descOf i.fC).isSome && mmaParamOk p, 2),
    (decide (mmaKa p ≤ m.a.ndims ∧ mmaKb p ≤ m.b.ndims), 2),
    ((widthClass m.a.fmt).isSome && widthClass m.a.fmt == widthClass m.b.fmt, 2),
    (isBlock m.a.fmt == isBlock m.b.fmt, 2),
    (!m.heritage || (heritageFmt m.a.fmt && heritageFmt m.b.fmt && ebit p 0 3 2 != 2), 2),
    (!blk || (!mmaKaOuter p && !mmaKbOuter p && (m.a.fmt != .be4m3 || ebit p 0 1 0 != 0)), 2),
    (descRules m.a true && descRules m.b true && descRules (descD i.fC) false, 2),
    (rawExt m.a m.ka == rawExt m.b m.kb, 2),
    (decide (mRows ≤ 16) || decide ((m.n + 15) / 16 ≤ m.shape.pitch), 2),
    (wideOk (eb p 7 6) i.f1 m.a && wideOk (eb p 9 8) i.f2 m.b, 2),
    ((mmaSel i).isSome, 2),
    (tileOk (shapeTiles m.shape), 0x102),
    (empty || (descOk ch g m.a true false (mmaReads m.a) sel && descOk ch g m.b true false (mmaReads m.b)), 3),
    (empty || (extraIx (eb p 7 6)).isNone || descOk ch g (descD i.f1) false false false sel, 3),
    (empty || (extraIx (eb p 9 8)).isNone || descOk ch g (descD i.f2) false false false, 3)]

/-! ### Operand elements -/

/-- The index vector of an operand from its K and M (or N) indices. -/
def joinIx (outer : Bool) (kix mix : List Nat) : List Nat := if outer then mix ++ kix else kix ++ mix

def aIx (m : Mma) (outer : Bool) (row k : Nat) : List Nat :=
  joinIx outer (unlin (kExt m.a m.ka) k) (unlin (rawExt m.a m.ma) row)
def bIx (m : Mma) (outer : Bool) (col k : Nat) : List Nat :=
  joinIx outer (unlin (kExt m.b m.kb) k) (unlin (rawExt m.b m.nb) col)

/-- The product of two elements: none when a position is absent, some none when a word is poisoned. -/
def opMul (a b : OpEl) : Option (Option Val) :=
  match a, b with
  | .absent, _ => none
  | _, .absent => none
  | .poisoned, _ => some none
  | _, .poisoned => some none
  | .zeroBlk, _ => some (some (.num false 0 0))
  | _, .zeroBlk => some (some (.num false 0 0))
  | .el v sm se, .el w tm te =>
    match vmul v w with
    | .num s n e => some (some (.num s (n * sm * tm) (e + se + te)))
    | r => some (some r)

/-- The exact sum of the products of a group; none when every position is absent (R126, R131, R135). -/
def groupSum (aEl bEl : Nat → OpEl) (ks : List Nat) : Option (Option Val) :=
  ks.foldl (fun (r : Option (Option Val)) k =>
    match r, opMul (aEl k) (bEl k) with
    | r, none => r
    | none, p => p
    | some (some x), some (some y) => some (some (vadd x y))
    | some _, some _ => some none) none

/-- The heritage product of one k: rounded to F32 and flushed (R165). -/
def heritageTerm (a b : OpEl) : Option (Option Val) :=
  match a, b with
  | .el v _ _, .el w _ _ =>
    some (some (ofF32 (ftz (toF32 (vmul (ofF32 (ftz (toF32 v))) (ofF32 (ftz (toF32 w))))))))
  | a, b => opMul a b

/-! ### Passes (R107, R108, R132) -/

def stepsOf (total size : Nat) : List Nat := (List.range ((total + size - 1) / size)).map fun x => x * size

/-- Adds the groups of an MMA in pass order: column ranges, then K spans, then row blocks of 4. `only` restricts the
work to one tile (R181). -/
def mmaRun (ch : Chip) (g : Nat) (m : Mma) (aEl bEl : Nat → Nat → OpEl) (only : Option Nat) : Chip :=
  let rows := span m.shape.row0 m.shape.rows
  (stepsOf m.n m.cols).foldl (fun ch n0 =>
    (stepsOf m.k m.span).foldl (fun ch k0 =>
      let ks := span k0 (min m.span (m.k - k0))
      rows.foldl (fun ch r =>
        (span n0 (min m.cols (m.n - n0))).foldl (fun ch n =>
          let t := tileAt m.shape.base m.shape.pitch r n
          if only.isSome ∧ only ≠ some t.1 then ch
          else if m.heritage then
            ks.foldl (fun ch k =>
              match heritageTerm (aEl r k) (bEl n k) with
              | some v => tileAdd ch g t.1 t.2 m.grad true 1 m.tid v
              | none => ch) ch
          else match groupSum (aEl r) (bEl n) ks with
            | some v => tileAdd ch g t.1 t.2 m.grad false 1 m.tid v
            | none => ch) ch) ch) ch) ch

/-! ### Route, stationary copy and the instruction -/

/-- The streamed operand's K dimension has unit stride (R117): packed elements follow each other along dimension 0 only. -/
def unitStride (d : Desc) (kd : List Nat) : Bool :=
  let k := kd.headD 0
  if packed d.fmt then k == 0 else d.str.getD k 0 == (elemBytes d.fmt : Int)

/-- The work runs on the bypass lanes (R117): M = 1 counts all rows of A, also those that `rows` leaves out (DESIGN CHOICE,
log 154). -/
def onLanes (ch : Chip) (g : Nat) (i : QInstr) (m : Mma) : Bool :=
  let rows := prodN (rawExt m.a m.ma)
  match ebit i.fP 0 3 2 with
  | 0 => (rows == 1 || m.n == 1) && (regGet ch .engCfg g).getLsbD 0 && !m.heritage &&
      (if rows = 1 then unitStride m.b m.kb else unitStride m.a m.ka)
  | 2 => true
  | _ => false

/-- The B elements: with a valid stationary copy, the first pass takes them from it (R113), on the lanes too (DESIGN
CHOICE, log 155). -/
def mmaB (ch : Chip) (g : Nat) (i : QInstr) (m : Mma) (n k : Nat) : OpEl :=
  let fresh := readOp ch m.b (bIx m (mmaKbOuter i.fP) n k)
  if ebit i.fP 0 4 4 = 1 ∧ n < m.cols ∧ k < m.span then
    match (accOf ch g).banks with
    | some b =>
      if b.span = min m.span m.k ∧ b.cols = min m.cols m.n then b.els.getD (n * b.span + k) fresh else fresh
    | none => fresh
  else fresh

/-- The copy that stays in the live banks after the last pass (R113). -/
def lastBanks (m : Mma) (bEl : Nat → Nat → OpEl) : Banks :=
  let n0 := (m.n - 1) / m.cols * m.cols
  let k0 := (m.k - 1) / m.span * m.span
  { span := m.k - k0, cols := m.n - n0,
    els := (span n0 (m.n - n0)).flatMap fun n => (span k0 (m.k - k0)).map fun k => bEl n k }

def fencedEngines (ch : Chip) (g : Nat) : Nat :=
  ((List.range 64).filter fun e => (accOf ch g).fencedEng.getLsbD e).length

/-- Core cycles per block product (R106, R518). -/
def blockCycles (f : Fmt) (heritage : Bool) : Nat :=
  let c := match widthClass f with | some 32 => 8 | some 16 => 2 | _ => 1
  if heritage then 16 * c else c

/-- An MMA of core g holds the lanes, or the mesh: it has started and has not completed (R121, R127). -/
def engHolds (ch : Chip) (g : Nat) (lanes : Bool) : Bool :=
  (coreOf ch g).q.any fun i => i.q == .engine && (i.phase == .started || i.phase == .ran) && onLanes ch g i (mmaOf i) == lanes

/-- Banister or the side path takes the lanes from an MMA (R121). -/
def lanePreempt (ch : Chip) (g : Nat) : Chip := raiseIf (engHolds ch g true) ch .engLanePreempt g

/-- Cycles of the B port that the shadow load of a pass of ks × ns elements takes (R110). -/
def loadCycles (f : Fmt) (ks ns : Nat) : Nat := (ks * ns * fmtBits f + 2047) / 2048

/-- The passes of an MMA that wait for their shadow load: the pass before each, of `l` cycles, is shorter than the load,
which begins with it (R112). A first pass's load has nothing to hide behind and is no stall (log 130). -/
def shadowStalls (m : Mma) (l : Nat) : Nat :=
  let ps := (stepsOf m.n m.cols).flatMap fun n0 => (stepsOf m.k m.span).map fun k0 =>
    loadCycles m.b.fmt (min m.span (m.k - k0)) (min m.cols (m.n - n0))
  (ps.tail.filter fun c => decide (l < c)).length

/-- Records an MMA against a tile it adds into (R181), whose last operation it is (R146). -/
def recordMma (ch : Chip) (g t : Nat) (i : QInstr) : Chip :=
  updTile ch g t fun x =>
    if x.recs.length < 4 then { x with recs := x.recs ++ [⟨i.fA, i.fB, i.fC, i.fP, i.f1, i.f2, i.x⟩], lastq := 1 }
    else { x with more := true, lastq := 1 }

/-- A group of the MMA takes a poisoned operand word (R126), in some rows of A and columns of B. -/
def mmaPoisoned (m : Mma) (aEl bEl : Nat → Nat → OpEl) (rows cols : List Nat) : Bool :=
  rows.any (fun r => (List.range m.k).any fun k => aEl r k == .poisoned) ||
    cols.any (fun n => (List.range m.k).any fun k => bEl n k == .poisoned)

/-- Block cycles of a pass of `rows` rows, lengthened for fenced engines (R106, R115). -/
def passCycles (ch : Chip) (g rows : Nat) (m : Mma) : Nat :=
  let f := fencedEngines ch g
  let l := (rows + 3) / 4 * blockCycles m.a.fmt m.heritage
  if f = 0 then l else (64 * l + 64 - f - 1) / (64 - f)

/-- What the mesh passes of an MMA of `rows` rows leave: `makeup` for each pass lengthened, `shadow_stall` for each that
waits for its load, and their block cycles (R112, R115). -/
def meshWork (ch : Chip) (g rows : Nat) (m : Mma) : Chip :=
  let passes := ((m.n + m.cols - 1) / m.cols) * ((m.k + m.span - 1) / m.span)
  let l := passCycles ch g rows m
  let ch1 := if fencedEngines ch g = 0 then ch else raiseN ch .engMakeup g passes
  countCore (raiseN ch1 .engShadowStall g (shadowStalls m l)) g 32 (passes * l)

/-- The effect of an MMA (R108 to R126). -/
def mmaEffect (ch : Chip) (g : Nat) (i : QInstr) : Chip :=
  let m := mmaOf i
  if m.k = 0 then raise ch .engKZero g
  else if m.shape.rows = 0 ∨ m.n = 0 then ch
  else
    let ts := shapeTiles m.shape
    let ch1 := raiseIf (aliasMet ch g i.seq .array ts) ch .engAccAlias g
    let aEl := fun r k => readOp ch m.a (aIx m (mmaKaOuter i.fP) r k)
    let bEl := mmaB ch g i m
    let lanes := onLanes ch g i m
    let ch2 := raiseIf (mmaPoisoned m aEl bEl (span m.shape.row0 m.shape.rows) (List.range m.n)) ch1 .engPoisonIn g
    let ch3 := ts.foldl (fun c t => recordMma c g t i) (mmaRun ch2 g m aEl bEl none)
    if lanes then
      let meshIdle := !engHolds (updInstr ch3 g i.seq fun j => { j with phase := .done }) g false
      updAcc (raiseIf (ebit i.fP 0 3 2 == 0) ch3 .engRouted g) g fun a => if meshIdle then { a with banks := none } else a
    else updAcc (meshWork ch3 g m.shape.rows m) g fun a => { a with banks := some (lastBanks m bEl) }

/-- A started MMA runs. -/
def execMma (r : CoreRun) (s : State) : Host.Outcome State Fault Refusal :=
  onChip s fun ch => coreRun r .engine .mma (fun ch i => (mmaEffect ch r.core.val i, i)) ch

/-! ### Escalated re-runs of one tile (R180, R181) -/

/-- The format one or two levels wider on the ladder; none above it. -/
def ladder (f : Fmt) (level : Nat) : Option Fmt :=
  match level with
  | 0 => some f
  | 1 => match f with
    | .be2m1 | .bint4 | .bint3 | .btern => some .be4m3
    | .e2m1 | .int4 | .int3 | .tern => some .e4m3
    | .e4m3 | .e5m2 | .be4m3 => some .bf16
    | _ => none
  | 2 => match f with
    | .be2m1 | .bint4 | .bint3 | .btern | .e2m1 | .int4 | .int3 | .tern => some .bf16
    | _ => none
  | _ => none

/-- A recorded MMA as an instruction. -/
def recInstr (r : MmaRec) : QInstr :=
  { seq := 0, q := .engine, pc := 0, word := 0, eA := none, eB := none, eC := none, eP := none, x := r.x,
    phase := .started, fA := r.fA, fB := r.fB, fC := r.fC, fP := r.fP, f1 := r.f1, f2 := r.f2, conf := 0, aux := [], auxPoi := false,
    sres := 0, pres := false }

/-- The scale code of a block encoded from the values v (R156): none when a value is not finite or is poisoned, 0x00
when every element rounds to zero. -/
def blockScale (f : Fmt) (vs : List (Option Val)) : Option Nat :=
  if vs.any fun v => match v with | some x => !visFinite x | none => true then none
  else
    let a := vs.foldl (fun m v => match v with | some x => vmax m (vabs x) | none => m) (.num false 0 0)
    if visZero a then some 0
    else
      let c := (sf8Smallest a (eMax f) 0).getD 0xFE
      if vs.all fun v => match v with
          | some x => let o := overSf8 x c; visZero (decode f (convert f false o.1 o.2).code)
          | none => true then some 0
      else some c

/-- An element of a wide source after conversion to `f` for a re-run (R156, R180). -/
def wideEl (ch : Chip) (w : Desc) (f : Fmt) (ix : List Nat) : OpEl :=
  if w.ext.headD 0 ≤ ix.headD 0 then .absent
  else if zeroFill w ix then .el (.num false 0 0) 1 0
  else if isBlock f then
    let b0 := ix.headD 0 / 32 * 32
    let vs := (span b0 (min 32 (w.ext.headD 0 - b0))).map fun x => readEl ch w (x :: ix.tail)
    match blockScale f vs, readEl ch w ix with
    | some 0, _ => .zeroBlk
    | some c, some v =>
      let o := overSf8 v c
      .el (decode f (convert f false o.1 o.2).code) (sf8 c).1 (sf8 c).2
    | _, _ => .poisoned
  else match readEl ch w ix with
    | none => .poisoned
    | some v =>
      let r := convert f false v 1
      if r.poison then .poisoned else .el (decode f r.code) 1 0

/-- The rows of A and the columns of B that add into tile t. -/
def tileRows (s : TShape) (t : Nat) : List Nat :=
  (span s.row0 s.rows).filter fun r =>
    decide (s.base + r / 16 * s.pitch ≤ t ∧ t < s.base + r / 16 * s.pitch + (s.cols + 15) / 16)
def tileCols (s : TShape) (t : Nat) : List Nat :=
  match tileRows s t with
  | [] => []
  | r :: _ => (List.range s.cols).filter fun n => s.base + r / 16 * s.pitch + n / 16 == t

/-- Re-runs one recorded MMA into tile t at a level (R180, R181); converting DMA fetches the wide sources, at their home
slices those between the first and the last byte (log 66). What the escalation buffer holds afterwards is left
open (log 66). Its passes on the mesh are like any other's, and the blocks they load replace the stationary copy (R113,
R115, R126). -/
def rerunMma (ch : Chip) (g t level : Nat) (r : MmaRec) : Chip :=
  let i := recInstr r
  let m := mmaOf i
  match ladder m.a.fmt level, ladder m.b.fmt level with
  | some fa, some fb =>
    let wa := descD r.f1
    let gr := if fa = .be4m3 ∧ mmaG r.fP = 4 then 8 else mmaG r.fP
    let m' := { m with k := prodN (kExt { m.a with fmt := fa } m.ka), span := gr * depthOf fa, cols := 256 / gr,
                       a := { m.a with fmt := fa }, b := { m.b with fmt := fb } }
    let wide (c : Chip) (d : Desc) : Chip := match elemSpan d false with
      | some (lo, hi) => if lo < 0 then c else landRange c (coreJob c g) d.hint lo.toNat (hi - lo + 1).toNat false
      | none => c
    let ch0 := wide (wide ch wa) (descD r.f2)
    let ch1 := freeRange ch0 (scratchBase g + mmaEscBuf r.fP) (mmaEscKib r.fP * 1024)
    let aEl := fun row k => wideEl ch wa fa (aIx m' (mmaKaOuter r.fP) row k)
    let bEl := fun n k => wideEl ch (descD r.f2) fb (bIx m' (mmaKbOuter r.fP) n k)
    let rows := tileRows m.shape t
    let cols := tileCols m.shape t
    let ch2 := raiseIf (mmaPoisoned m' aEl bEl rows cols) ch1 .engPoisonIn g
    let ch3 := mmaRun ch2 g m' aEl bEl (some t)
    let ch4 := if ebit r.fP 0 3 2 = 2 then ch3 else meshWork ch3 g rows.length { m' with n := cols.length }
    updAcc ch4 g fun a => { a with banks := none }
  | _, _ => ch

/-- An MMA that can be escalated names both wide sources and a buffer (R251). -/
def recEscalatable (r : MmaRec) : Bool :=
  (extraIx (eb r.fP 7 6)).isSome && (extraIx (eb r.fP 9 8)).isSome && mmaEscKib r.fP != 0

end Sys2Proof.Machine
end

