-- ==== Sys2Proof/Machine/ArrayRead.lean ====
section
/-! DEFINITION. Array reads: input encoding, ARD and ART, resolution, delivery, the side path and Banister
(03_array_reads.md R64 to R87, R515, R516; 11_tensor_descriptors.md R252, R253; 20_faults.md R437 to R440). -/

namespace Sys2Proof.Machine

/-! ### Input encoding (R66, R67, R83 to R85) -/

/-- Inserts into a list of magnitudes in falling order. -/
def insMag (v : Val) (l : List Val) : List Val :=
  match l with
  | [] => [v]
  | x :: r => if vlt x v then v :: x :: r else x :: insMag v r

/-- The AUTO scale of a group (R67): code 0 skips the group. A poisoned input is no number here and is left out as a NaN is
(DESIGN CHOICE, log 121). -/
def autoIn (xs : List Val) (thr : Bool) : Nat :=
  let nz := xs.filter fun x => visFinite x && !visZero x
  if nz = [] then (if xs.all visFinite then 0 else 1)
  else
    let m := nz.foldl (fun l x => insMag (vabs x) l) []
    let a := if thr || decide (nz.length < 5) then m.headD .nan else m.getD 4 .nan
    (sf8Smallest a 255 0).getD 0xFE

/-- The width of one input and its excess when it is over-range (R66, R83). -/
def encOne (sc : Nat) (x : Val) : Int × Option Word :=
  if ¬ visFinite x then (0, none)
  else
    let q := ofF32 (f32DivVal x (.num false (sf8 sc).1 (sf8 sc).2))
    if visFinite q && vlt (vabs q) (.num false 511 (-1)) then (clampI (-255) 255 (vround q 1), none)
    else
      (if vneg? x then -255 else 255, some (toF32 (vsub x (.num (vneg? x) (255 * (sf8 sc).1) (sf8 sc).2))))

/-- The inputs with the largest excess magnitude, at most n, ties to the lower index. -/
def largest (n : Nat) (l : List (Nat × Word)) : List (Nat × Word) :=
  match n with
  | 0 => []
  | n + 1 =>
    match l with
    | [] => []
    | p :: r =>
      let b := r.foldl (fun b q => if vlt (vabs (ofF32 b.2)) (vabs (ofF32 q.2)) then q else b) p
      b :: largest n ((p :: r).filter fun q => q.1 != b.1)

/-- A group's widths, spill widths, side-path inputs and whether excess is lost (R83 to R85, R516). -/
structure EncGroup where
  sx : Nat
  p : List Int
  spill : Option (List Int)
  side : List (Nat × Word)
  lost : Bool
  nan : Bool
  deriving DecidableEq, Repr

def encGroup (xs : List Val) (sc : Nat) (thr sideEn spillEn : Bool) : EncGroup :=
  let e := xs.map (encOne sc)
  let p := e.map Prod.fst
  let ovr : List (Nat × Word) := (List.range e.length).filterMap fun i => (e.getD i (0, none)).2.map fun w => (i, w)
  let nan := xs.any fun x => !visFinite x
  let cap := if sideEn then 4 else 0
  if thr then ⟨sc, p, none, [], ovr != [], nan⟩
  else if ovr.length ≤ cap then ⟨sc, p, none, ovr, false, nan⟩
  else if spillEn then
    let den := (sf8 sc).1
    let w2 (w : Word) : Int := clampI (-255) 255 (vround (vscale (ofF32 w) (-(sf8 sc).2 - 1)) den)
    let rest := (ovr.map fun t =>
      (t.1, toF32 (vsub (ofF32 t.2) (vofInt (2 * w2 t.2 * den) (sf8 sc).2)))).filter fun t => !visZero (ofF32 t.2)
    let keep := largest cap rest
    ⟨sc, p, some ((List.range e.length).map fun i => match (e.getD i (0, none)).2 with | some w => w2 w | none => 0),
      keep, decide (keep.length < rest.length), nan⟩
  else
    let keep := largest cap ovr
    ⟨sc, p, none, keep, decide (keep.length < ovr.length), nan⟩

/-! ### The parameter block (R252, R253) -/

def arMode (p : Nat) : Nat := ebit p 0 1 0
def arGain (p : Nat) : Nat := 2 ^ ebit p 0 3 2
def arGainMin (p : Nat) : Nat := 2 ^ ebit p 0 5 4
def arAuto (p : Nat) : Bool := ebit p 0 6 6 == 1
def arGroups (p : Nat) : List Nat := (List.range 8).filter fun g => (eb p 1 1).testBit g
def arLo (p : Nat) : Int := sx 16 (eb p 9 8)
def arHi (p : Nat) : Int := sx 16 (eb p 11 10)
def arLogical (i : QInstr) : Nat := eb i.fP 2 2 + xArray i.x
def arStep (i : QInstr) (lo : Nat) : Int := sx 32 (eb i.fP (lo + 3) lo) * xArray i.x
def arIn (i : QInstr) : Desc := descAt i.fA (xByte i.x + arStep i 16)
def arMaster (i : QInstr) : Desc := descAt i.fB (arStep i 20)
def arScales (i : QInstr) : Desc := descAt i.f1 (arStep i 24)

/-- A descriptor cut to positions lo … hi − 1 of dimension 0. -/
def cutDim0 (d : Desc) (lo hi : Nat) : Desc :=
  { d with base := d.base + (lo : Int) * d.str.headD 0, ext := (min hi (d.ext.headD 0) - lo) :: d.ext.tail }

/-- The selection of vectors. -/
def arSel (i : QInstr) : Option (Option (Nat × Nat × Nat)) :=
  let A := arIn i
  if A.ndims = 1 then (selRows 1 (xIndex i.x) (eb i.fP 7 6)).map fun _ => none
  else (selRows (A.ext.getLastD 0) (xIndex i.x) (eb i.fP 7 6)).map fun n => some (A.ndims - 1, xIndex i.x, n)

/-- The FIXED scale of a group of a vector, with its poison mark. -/
def fixedScale (ch : Chip) (i : QInstr) (r g : Nat) : Nat × Bool :=
  let S := arScales i
  let ba := elemBit S (g :: unlin S.ext.tail r)
  (rdBits ch ba 8, bitsPoi ch ba 8)

def arVectors (op : Op) (i : QInstr) : List Nat := let s := tShape op i; span s.row0 s.rows

/-- The checks of an ARD or ART (R245, R253). -/
def arrCheck (ch : Chip) (g : Nat) (op : Op) (i : QInstr) : Option Nat :=
  let p := i.fP
  let art := op == .art
  let A := arIn i
  let B := arMaster i
  let S := arScales i
  let gs := arGroups p
  let size := if art then 16 else 64
  let s := tShape op i
  let empty := decide (s.rows = 0) || gs == [] || A.ext.headD 0 == 0
  let sel := (arSel i).getD none
  let lo := gs.headD 0
  let hi := gs.getLastD 0 + 1
  let present := gs.filter fun h => decide (size * h < A.ext.headD 0)
  firstBad [
    (!xBad i.x && decide (arLogical i ≤ 127), 2),
    ((descOf i.fA).isSome && (descOf i.fB).isSome && (descOf i.fC).isSome &&
      (arAuto p || (descOf i.f1).isSome), 2),
    (ebit p 0 7 7 == 0 && zeroBytes p 15 14 && zeroBytes p 63 28 && extraOk (eb p 13 12), 2),
    (if art then arMode p == 0 else ebit p 0 5 4 == 0, 2),
    (if arMode p = 3 then decide (-255 ≤ arLo p ∧ arLo p < arHi p ∧ arHi p ≤ 255) else zeroBytes p 11 8, 2),
    ((extraIx (eb p 13 12)).isSome == !arAuto p, 2),
    (arMode p == 0 || gs.length == 1, 2),
    (A.fmt == .f32 || A.fmt == .bf16 || A.fmt == .f16 || A.fmt == .e4m3 || A.fmt == .e5m2, 2),
    (descRules A false && descRules (descD i.fC) false && (!art || decide (A.ext.headD 0 ≤ 128)), 2),
    ((B.fmt == .f32 || B.fmt == .f32x) && B.ext == [128, 512] && B.str == [4, 512] && descRules B false, 2),
    (arAuto p || (S.fmt == .sf8 && S.ext == 8 :: A.ext.tail && descRules S false), 2),
    ((arSel i).isSome, 2),
    (tileOk (shapeTiles s), 0x102),
    (empty || arAuto p || !descOk ch g (cutDim0 S lo hi) true false false sel || (arVectors op i).all fun r =>
      gs.all fun h => let sc := fixedScale ch i r h; sc.2 || sc.1 != 0xFF, 2),
    (empty || present == [] || descOk ch g (cutDim0 A (size * present.headD 0) (size * (present.getLastD 0 + 1)))
      true false false sel, 3),
    (empty || descOk ch g B false false false, 3),
    (empty || arAuto p || descOk ch g (cutDim0 S lo hi) true false false sel, 3),
    (empty || posLoaded ch g (arLogical i), 6)]

/-! ### Issuing the reads -/

/-- One group of one vector: its inputs, none where poisoned. -/
def groupIn (ch : Chip) (g : Nat) (op : Op) (i : QInstr) (r h : Nat) : List (Option Val) :=
  let A := arIn i
  let x := arrOf ch g (physOf ch g (arLogical i))
  let size := if op = .art then 16 else 64
  (span (size * h) size).map fun k =>
    let v := if A.ext.headD 0 ≤ k then some (.num false 0 0) else readEl ch A (k :: unlin A.ext.tail r)
    if op = .art then
      let sc := scaleOf x k
      if sc = 0 then some (.num false 0 0) else v.map fun v => vmul v (.num false (sf8 sc).1 (sf8 sc).2)
    else v

/-- The scale of a group's inputs: AUTO, or the FIXED byte; a poisoned byte is taken as 0xFE (DESIGN CHOICE, log 121). -/
def inScale (ch : Chip) (i : QInstr) (r h : Nat) (xs : List (Option Val)) (thr : Bool) : Nat :=
  let fs := fixedScale ch i r h
  if arAuto i.fP then autoIn (xs.map fun v => v.getD .nan) thr else if fs.2 then 0xFE else fs.1

/-- Issues the read of one group of one vector, or skips it: of a skipped threshold-only read no element changes (DESIGN
CHOICE, log 120). A poisoned input is driven at width 0. -/
def issueRead (ch : Chip) (g : Nat) (op : Op) (i : QInstr) (r h : Nat) : Chip :=
  let p := i.fP
  let thr := arMode p != 0
  let xs := groupIn ch g op i r h
  let sc := inScale ch i r h xs thr
  let bad := xs.any Option.isNone || (!arAuto p && (fixedScale ch i r h).2)
  if sc = 0 then raise ch .arcZeroSkip g
  else
    let e := encGroup (xs.map fun v => v.getD (.num false 0 0)) sc thr (regFld ch .arcCfg g 3 3 == 1) (regFld ch .arcCfg g 4 4 == 1)
    let l := arLogical i
    let ph := physOf ch g l
    let x := arrOf ch g ph
    let side := if op = .art then e.side.map fun t =>
        let sw := scaleOf x (16 * h + t.1)
        (16 * h + t.1, f32DivVal (ofF32 t.2) (.num false (sf8 sw).1 (sf8 sw).2))
      else e.side.map fun t => (64 * h + t.1, t.2)
    let s := tShape op i
    let rd : Rd :=
      { seq := i.seq, phys := ph, logical := l, trans := op == .art, group := h, mode := arMode p, g := arGain p,
        gMin := arGainMin p, lo := arLo p, hi := arHi p, sx := sc, p := e.p, spill := e.spill, side := side,
        masterBase := (arMaster i).base.toNat, tile := s.base, pitch := s.pitch, row := r,
        cls := (descD i.fC).grad, nan := e.nan, poison := bad, doubt := none }
    let ch1 := raiseIf e.nan (raiseIf e.lost (raiseIf (e.side != []) (raiseIf e.spill.isSome ch .arcSpill g)
      .arcSidePath g) .arcClipLost g) .arcNonfiniteIn g
    updBank ch1 g fun b => { b with reads := b.reads ++ [rd] }

/-- ARD and ART: every selected group of every vector in turn (R65, R76); without an input there is no work (R248). They
are then the last operation of their tiles (R146). -/
def readEffect (ch : Chip) (g : Nat) (op : Op) (i : QInstr) : Chip :=
  let gs := if (arIn i).ext.headD 0 = 0 then [] else arGroups i.fP
  let ch1 := raiseIf (aliasMet ch g i.seq .engine (instrTiles ch g i)) ch .engAccAlias g
  let ch2 := if gs = [] then ch1 else
    (instrTiles ch g i).foldl (fun c t => updTile c g t fun x => { x with lastq := 2 }) ch1
  (arVectors op i).foldl (fun c r => gs.foldl (fun c h => issueRead c g op i r h) c) ch2

/-- An ARD or ART without any input reads no array (R248). -/
def readsNothing (op : Op) (i : QInstr) : Bool :=
  arVectors op i == [] || arGroups i.fP == [] || (arIn i).ext.headD 0 == 0

/-- ARD and ART issue their reads. One whose position has lost its array since it started waits for the spare, or faults
where none is left (R19). -/
def runRead (r : CoreRun) (op : Op) (ch : Chip) : Chip :=
  let g := r.core.val
  match (coreOf ch g).q.find? fun i => i.q == .array && i.phase == .started with
  | none => ch
  | some i =>
    if decodeWord i.word ≠ some op ∨ ¬ islandRuns ch (g / 128) ∨ posWaits ch g (arLogical i) then ch
    else if ¬ readsNothing op i ∧ ¬ posLoaded ch g (arLogical i) then queueFault ch g 6 i
    else coreRun r .array op (fun ch i => (readEffect ch g op i, { i with conf := 0 })) ch

def execArd (c : CoreRun) (s : State) : Host.Outcome State Fault Refusal := onChip s (runRead c .ard)
def execArt (c : CoreRun) (s : State) : Host.Outcome State Fault Refusal := onChip s (runRead c .art)

/-! ### The sweep (R71, R74) -/

/-- The result of a sweep: the number of thresholds k − 0.5 LSB that the signal exceeds, with its sign (R71). -/
def sweep (s : Signal) : Int :=
  let m : Int := min 255 ((s.num.natAbs + 8 * s.den - 1) / (16 * s.den) : Nat)
  if s.num < 0 then -m else m

/-- The result of one column of one slot: y for FULL, its class for a threshold-only mode; a non-negative ZEROCUT
column gives y and a negative one −1 (R74). -/
def column (rd : Rd) (s : Signal) : Int :=
  match rd.mode with
  | 0 => sweep s
  | 1 => if s.num < 0 then -1 else 1
  | 2 => if s.num < 0 then -1 else sweep s
  | _ => if s.num < 16 * rd.lo * s.den then 0 else if s.num < 16 * rd.hi * s.den then 1 else 2

/-- One read of a slot: results, checks measured in LSB, and whether a row or column saturated. -/
structure SlotRes where
  y : List Int
  chk : List Int
  sat : Bool
  deriving DecidableEq, Repr

def sat255 (ys : List Int) : Bool := ys.any fun y => y.natAbs == 255
def sumI (l : List Int) : Int := l.foldl (· + ·) 0
def addL (a b : List Int) : List Int := (List.range a.length).map fun k => a.getD k 0 + b.getD k 0

/-- The results and checks of one forward read with widths p (R68, R71, R79). -/
def forwardRead (x : Arr) (rd : Rd) (p : List Int) (o : Reading) : List Int × List Int :=
  ((List.range 128).map fun w =>
      column rd (columnSignal x.live (columnOffset x w) rd.g (columnSum x rd.group p w) (o.y.getD w 0)),
    (List.range 8).map fun j =>
      sweep (columnSignal x.live (offsetCode x.live (512 + j)) 1 (checkSum x rd.group p j) (o.chk.getD j 0)))

/-- A forward slot, merged with its spill read as y1 + 2 × y2 (R84). -/
def forwardSlot (x : Arr) (rd : Rd) (o : ReadObs) : SlotRes :=
  let full := rd.mode == 0 || rd.mode == 2
  let a := forwardRead x rd rd.p o.first
  match rd.spill with
  | some w =>
    let b := forwardRead x rd w o.spill
    ⟨addL a.1 (b.1.map (· * 2)), a.2 ++ b.2, full && (sat255 a.1 || sat255 b.1)⟩
  | none => ⟨a.1, a.2, full && sat255 a.1⟩

/-- The results of one transposed slot with widths p (R76, R77). -/
def transRead (x : Arr) (rd : Rd) (major : Bool) (p : List Int) (o : Reading) : List Int :=
  (List.range 512).map fun r => sweep (rowSignal x.live r (if major then rd.g else rd.gMin)
    (rowSum x major rd.group p r) (o.y.getD r 0))

/-- A transposed slot of one significance: the check is the row sum (R78). -/
def transSlot (x : Arr) (rd : Rd) (major : Bool) (first spill : Reading) : SlotRes :=
  let a := transRead x rd major rd.p first
  match rd.spill with
  | some w =>
    let b := transRead x rd major w spill
    ⟨addL a (b.map (· * 2)), [sumI a, sumI b], sat255 a || sat255 b⟩
  | none => ⟨a, [sumI a], sat255 a⟩

/-! ### Expected check values (R78, R79) -/

/-- Σ p_r × (L_r − 32) of each check column: 1/256 of a sixteenth of an LSB. -/
def checkSums (x : Arr) (h : Nat) (p : List Int) : List Int :=
  (List.range 8).map fun j => dotI p fun k => (checkLevel x j (64 * h + k) : Int) - 32

def forwardExp (x : Arr) (rd : Rd) : List Int :=
  checkSums x rd.group rd.p ++ (match rd.spill with | some w => checkSums x rd.group w | none => [])

/-- Σ p_w × S(w) × g with S in sixteenths: 1/1,024 of a sixteenth of an LSB. -/
def transExp (x : Arr) (rd : Rd) (major : Bool) : List Int :=
  let g : Int := if major then rd.g else rd.gMin
  let e (p : List Int) : Int :=
    g * dotI p fun k => if major then sumMaj x (16 * rd.group + k) else sumMin x (16 * rd.group + k)
  e rd.p :: (match rd.spill with | some w => [e w] | none => [])

/-! ### Resolution (R80, R81, R515) -/

/-- How a read ended: results in 1/16 LSB (classes for SIGN and BAND), the largest deviation in 1/16 LSB, the
confidence code, and the reads taken. -/
structure Resolved where
  y : List Int
  dev : Nat
  conf : Nat
  n : Nat
  deriving DecidableEq, Repr

/-- The class of one column in a threshold-only mode. -/
def classOf (mode : Nat) (y : Int) : Int := if mode = 2 then (if y < 0 then -1 else 0) else y

/-- The decided value of a column of a threshold-only read over its reads (R515). -/
def vote (mode : Nat) (ys : List Int) : Int :=
  let cls := ys.map (classOf mode)
  let c := (cls.find? fun c => decide (ys.length < 2 * (cls.filter (· == c)).length)).getD (cls.headD 0)
  if mode = 2 then
    if c < 0 then -1
    else
      let nn := ys.filter fun y => decide (0 ≤ y)
      vround (vofInt (16 * sumI nn) 0) nn.length
  else c

def combine (mode : Nat) (rs : List SlotRes) : List Int :=
  let n := rs.length
  (List.range (rs.headD ⟨[], [], false⟩).y.length).map fun k =>
    let ys := rs.map fun r => r.y.getD k 0
    if mode = 0 then sumI ys * 16 / n else vote mode ys

/-- Deviations of the averaged checks from the expected values, in units of 1/u of a sixteenth of an LSB. -/
def deviations (u : Nat) (exp : List Int) (rs : List SlotRes) : List Nat :=
  (List.range exp.length).map fun k =>
    (sumI (rs.map fun r => r.chk.getD k 0) * 16 * u / rs.length - exp.getD k 0).natAbs

/-- Resolves a read from the slots observed: none when they are too few. -/
def resolve (mode u tol N : Nat) (uncheckable : Bool) (exp : List Int) (rs : List SlotRes) : Option Resolved :=
  let at_ (n lg : Nat) : Option Resolved :=
    let t := rs.take n
    let d := deviations u exp t
    let dev := d.foldl max 0
    let devR := (vround (vofInt dev 0) u).toNat
    let sat := uncheckable && t.any SlotRes.sat
    let pass := !sat && decide (dev ≤ tol * u)
    if pass then some ⟨combine mode t, devR, if n = 1 then 0 else 8 + lg, n⟩
    else if sat ∨ N ≤ n then some ⟨combine mode t, devR, 16 + lg, n⟩
    else none
  let go (r : Option Resolved × Bool) (t : Nat × Nat) : Option Resolved × Bool :=
    if r.1.isSome ∨ r.2 then r
    else if rs.length < t.1 then (none, true)
    else (at_ t.1 t.2, false)
  ([(1, 0), (2, 1), (4, 2), (8, 3), (16, 4)].foldl go (none, false)).1

/-! ### Delivery (R69, R74, R77, R83) -/

/-- The destination of output o of a read. -/
def rdTile (rd : Rd) (o : Nat) : Nat × Nat := tileAt rd.tile rd.pitch rd.row o

def log2g (g : Nat) : Int := Nat.log2 g

/-- The exact value of a forward result of y16 sixteenths (R69). -/
def forwardVal (x : Arr) (rd : Rd) (w : Nat) (y16 : Int) : Val :=
  let sw := sf8 (scaleOf x w)
  let s := sf8 rd.sx
  vofInt (y16 * s.1 * sw.1) (12 - log2g rd.g + s.2 + sw.2)

/-- The exact value of a transposed result in sixteenths of a minor LSB (R77). -/
def transVal (rd : Rd) (y16 : Int) : Val :=
  let s := sf8 rd.sx
  vofInt (y16 * s.1) (6 - log2g rd.gMin + s.2)

/-- What a threshold-only column delivers (R74). -/
def thrVal (x : Arr) (rd : Rd) (w : Nat) (y : Int) : Val :=
  if rd.mode = 2 then (if y < 0 then .num false 0 0 else forwardVal x rd w y) else vofInt y 0

/-- Replaces a tile element (R74); in a tile with a tag the element is held shifted (R142). -/
def tileReplace (ch : Chip) (g t ix : Nat) (grad : Bool) (v : Option Val) : Chip :=
  let x := tileOf ch g t
  if x.poison then updTile ch g t fun y => { y with lastq := 2 }
  else
    let ch1 := raiseIf (x.st == 2 && x.grad != grad) ch .engAccClassMix g
    let y := { latchTile x grad with lastq := 2, arr := true }
    match v with
    | none => updTile ch1 g t fun _ => { y with poison := true }
    | some v => updTile ch1 g t fun _ => { y with els := tput y.els ix (toF32 (vscale v (-(8 * (x.tag : Int))))) }

/-- The exact side-path product of output o; none when a master word is poisoned (R83). -/
def sideVal (ch : Chip) (rd : Rd) (o : Nat) : Option Val :=
  rd.side.foldl (fun (s : Option Val) t =>
    let a := if rd.trans then rd.masterBase + o * 512 + t.1 * 4 else rd.masterBase + t.1 * 512 + o * 4
    match s with
    | none => none
    | some v => if anyPoi ch a 4 then none
        else some (vadd v (vmul (ofF32 t.2) (ofF32 (BitVec.ofNat 32 (rdNat ch a 4)))))) (some (.num false 0 0))

/-- The fetches of the side path through Landing. -/
def sideFetch (ch : Chip) (g : Nat) (rd : Rd) : Chip :=
  rd.side.foldl (fun c t =>
    let c1 := if rd.trans then (List.range 512).foldl (fun c o =>
        landRange c (coreJob c g) .normal (rd.masterBase + o * 512 + t.1 * 4) 4 false) c
      else landRange c (coreJob c g) .normal (rd.masterBase + t.1 * 512) 512 false
    if rd.masterBase < hbmEnd then countCore c1 g 77 (if rd.trans then 2048 else 512) else c1) ch

/-- The tiles a read delivers to. -/
def rdTiles (rd : Rd) : List Nat :=
  ((List.range (if rd.trans then 512 else 128)).map fun o => (rdTile rd o).1).eraseDups

/-- Delivers a read: the results `ys` (forward sixteenths or classes; transposed sixteenths of a minor LSB), then the
side path; with `poi` every element is poisoned. -/
def deliver (ch : Chip) (g : Nat) (rd : Rd) (ys : List Int) (poi : Bool) : Chip :=
  let x := arrOf ch g rd.phys
  let tid := match (coreOf ch g).q.find? fun i => i.seq == rd.seq with | some i => (descD i.fC).tid | none => 0
  let bad := poi || rd.poison
  let n := if rd.trans then 512 else 128
  let val (o : Nat) : Option Val :=
    if bad then none
    else if rd.nan then some .nan
    else if rd.trans then some (transVal rd (ys.getD o 0))
    else if rd.mode = 0 then some (forwardVal x rd o (ys.getD o 0))
    else some (thrVal x rd o (ys.getD o 0))
  let ch1 := (List.range n).foldl (fun c o =>
    let t := rdTile rd o
    if rd.mode = 0 then
      updTile (tileAdd c g t.1 t.2 rd.cls false 2 tid (val o)) g t.1 fun y => { y with arr := true }
    else tileReplace c g t.1 t.2 rd.cls (val o)) ch
  let ch2 := if rd.side = [] then ch1
    else (List.range n).foldl (fun c o =>
      let t := rdTile rd o
      tileAdd c g t.1 t.2 rd.cls false 2 tid (sideVal ch rd o)) (lanePreempt (sideFetch ch1 g rd) g)
  updBank ch2 g fun b => { b with reads := b.reads.erase rd }

/-- Records the confidence of a slot and what counts it (R81, R87). -/
def recordConf (ch : Chip) (g : Nat) (rd : Rd) (r : Resolved) : Chip :=
  let st := r.conf / 8
  let per := if rd.spill.isSome then 2 else 1
  let ch1 := updInstr ch g rd.seq fun i => { i with conf := max i.conf r.conf }
  let ch2 := updStat ch1 g rd.phys fun x => { x with lastConf := r.conf, devMax := min 255 r.dev }
  let ch3 := raiseIf (st == 1) (raiseIf (st == 2) ch2 .arcDoubtful g) .arcAveraged g
  let ch4 := countCore (countCore (countCore ch3 g (if rd.trans then 11 else 10) 1) g 90 (r.n * per)) g 91
    ((r.n - 1) * per)
  let ch5 := if rd.spill.isSome then countCore ch4 g 95 r.n else ch4
  if st = 0 then countCore ch5 g 12 1 else ch5

/-- Transposed results in sixteenths of a minor LSB (R77). -/
def mergeTrans (rd : Rd) (a b : List Int) : List Int :=
  (List.range 512).map fun r => a.getD r 0 * (16 * rd.gMin / rd.g : Nat) + b.getD r 0

/-- The oldest read of a physical array resolves on the slots observed, and is delivered or referred (R80, R82), while the
accumulator memory is not DISABLED (R146, log 131). -/
def readResolve (g : Nat) (sel : ReadSel) (obs : List ReadObs) (ch : Chip) : Chip :=
    if ¬ islandRuns ch (g / 128) ∨ ¬ islandRuns ch (8 + g / 128) ∨ blkGet ch .eng g = .disabled then ch else
    match (bankOf ch g).reads.find? fun r => r.phys == sel.phys.val with
    | none => ch
    | some rd =>
      let split (atomic : Bool) : Bool := match (bankOf ch g).batch with
        | some b => b.phys == rd.phys && b.rnd != 0 && (!atomic || b.atomic)
        | none => false
      if rd.doubt.isSome ∨ split true then ch
      else
        let x := arrOf ch g rd.phys
        let ch := raiseIf (split false) ch .prgSplitBatch g
        let N := 2 ^ regFld ch .arcCfg g 2 0
        let tol := regFld ch .arcCheckCfg g 7 0
        let tolT := regFld ch .arcCheckCfg g 23 8
        if rd.trans then
          let ra := obs.map fun o => transSlot x rd true o.first o.spill
          let rb := obs.map fun o => transSlot x rd false o.minor o.minorSpill
          match resolve 0 1024 tolT N true (transExp x rd true) ra,
              resolve 0 1024 tolT N true (transExp x rd false) rb with
          | some a, some b =>
            let sat := (ra.take a.n).any SlotRes.sat || (rb.take b.n).any SlotRes.sat
            let ch1 := raiseIf sat (recordConf (recordConf ch g rd a) g rd b) .arcTSat g
            if 16 ≤ a.conf ∨ 16 ≤ b.conf then
              updBank ch1 g fun k =>
                { k with reads := k.reads.map fun r => if r = rd then { r with doubt := some (a.y, b.y) } else r }
            else deliver ch1 g rd (mergeTrans rd a.y b.y) false
          | _, _ => ch
        else
          let rs := obs.map (forwardSlot x rd)
          match resolve rd.mode 256 tol N false (forwardExp x rd) rs with
          | some a =>
            let ch1 := raiseIf ((rs.take a.n).any SlotRes.sat) (recordConf ch g rd a) .arcColSat g
            if 16 ≤ a.conf then
              updBank ch1 g fun k =>
                { k with reads := k.reads.map fun r => if r = rd then { r with doubt := some (a.y, []) } else r }
            else deliver ch1 g rd a.y false
          | none => ch

/-- The delivery of a read meets the parity failures of its tiles (R145). -/
def readFails (g : Nat) (sel : ReadSel) (ch : Chip) : Chip :=
  let ts := match (bankOf ch g).reads.find? fun r => r.phys == sel.phys.val with | some rd => rdTiles rd | none => []
  tilesFail ch g ts sel.parity
def readFailing (g : Nat) (sel : ReadSel) (f : Chip → Chip) (ch : Chip) : Chip :=
  tilesGood (f (readFails g sel ch)) g sel.parity

/-- It is work on memory (R263, R285). -/
def readWork (g : Nat) (sel : ReadSel) (f : Chip → Chip) (ch : Chip) : Chip :=
  memWork (.core (g / 128)) sel.bursts (readFailing g sel f) ch

def execReadResolve (c : CoreId) (sel : ReadSel) (obs : List ReadObs) (s : State) :
    Host.Outcome State Fault Refusal :=
  onChip s (readWork c.val sel (readResolve c.val sel obs))

/-! ### Banister (R437 to R440) -/

/-- The effective width of input k: the read and its spill. -/
def effWidth (rd : Rd) (k : Nat) : Int :=
  rd.p.getD k 0 + 2 * (match rd.spill with | some w => w.getD k 0 | none => 0)

/-- A master target before integer rounding (R38, R437). -/
def masterT (ch : Chip) (x : Arr) (row w : Nat) : Val :=
  (targetVal (BitVec.ofNat 32 (rdNat ch (masterAddr x row w) 4)) (scaleOf x w)).1

/-- The referee's results in sixteenths of an LSB of the read's gain, or of the minor slot. -/
def referee (ch : Chip) (x : Arr) (rd : Rd) : List Int :=
  let dot (n : Nat) (f : Nat → Val) : Val :=
    (List.range n).foldl (fun s k => vadd s (vmul (vofInt (effWidth rd k) 0) (f k))) (.num false 0 0)
  if rd.trans then
    (List.range 512).map fun r =>
      vround (vscale (dot 16 fun k => masterT ch x r (16 * rd.group + k)) (log2g rd.gMin - 6)) 1
  else
    (List.range 128).map fun w =>
      vround (vscale (dot 64 fun k => masterT ch x (64 * rd.group + k) w) (log2g rd.g - 12)) 1

/-- A master word that the referee reads is poisoned. -/
def refereePoisoned (ch : Chip) (x : Arr) (rd : Rd) : Bool :=
  if rd.trans then (List.range 512).any fun r => anyPoi ch (masterAddr x r (16 * rd.group)) 64
  else anyPoi ch (masterAddr x (64 * rd.group) 0) 32768

/-- The class that the referee gives a column, and what it delivers (R438). -/
def refClass (rd : Rd) (y : Int) : Int :=
  match rd.mode with
  | 0 => y
  | 1 => if y < 0 then -1 else 1
  | 2 => if y < 0 then -1 else y
  | _ => if y < 16 * rd.lo then 0 else if y < 16 * rd.hi then 1 else 2

def near (tol : Nat) (a b : Int) : Bool := decide ((a - b).natAbs ≤ tol)

/-- A column agrees with the referee (R438). -/
def agrees (rd : Rd) (tol : Nat) (a y : Int) : Bool :=
  match rd.mode with
  | 0 => near tol a y
  | 1 => a == refClass rd y || near tol y 0
  | 2 => if 0 ≤ a ∧ 0 ≤ y then near tol a y else (decide (a < 0) == decide (y < 0)) || near tol y 0
  | _ =>
    let b := refClass rd y
    a == b || (decide (min a b = 0) && near tol y (16 * rd.lo)) || (decide (max a b = 2) && near tol y (16 * rd.hi))

/-- The fetch of the master words through Landing. -/
def refereeFetch (ch : Chip) (g : Nat) (x : Arr) (rd : Rd) : Chip :=
  if rd.trans then (List.range 512).foldl (fun c r =>
      landRange c (coreJob c g) .normal (masterAddr x r (16 * rd.group)) 64 false) ch
  else landRange ch (coreJob ch g) .normal (masterAddr x (64 * rd.group) 0) 32768 false

/-- The strikes that stand within the window counted back from now. -/
def strikesNow (ch : Chip) (old : List Nat) : List Nat :=
  let win := max 1 (regFld ch .tslRefCfg 0 31 24) * 1000000
  (old.filter fun t => decide (ch.us ≤ t + win)) ++ [ch.us]

/-- One strike of a kind; enough of them fence the array (R440), while Teasel runs (R431). An array that is fenced already
takes none. -/
def strike (ch : Chip) (g a : Nat) (check : Bool) : Chip :=
  let x := arrOf ch g a
  if x.fenced ∨ ¬ ctlRuns ch then ch else
  let l := strikesNow ch (if check then x.checkStrikes else x.arrayStrikes)
  let ch1 := updArr ch g a fun x => if check then { x with checkStrikes := l } else { x with arrayStrikes := l }
  if max 1 (regFld ch .tslRefCfg 0 23 16) ≤ l.length then fenceArray ch1 g a 3 else ch1

/-- Banister decides the oldest DOUBTFUL read of a physical array (R437 to R439). -/
def banisterReferee (g : Nat) (sel : ReadSel) (ch : Chip) : Chip :=
    if ¬ islandRuns ch (g / 128) ∨ blkGet ch .eng g = .disabled then ch else
    match (bankOf ch g).reads.find? fun r => r.phys == sel.phys.val with
    | none => ch
    | some rd =>
      match rd.doubt with
      | none => ch
      | some d =>
        let x := arrOf ch g rd.phys
        let own := if rd.trans then mergeTrans rd d.1 d.2 else d.1
        if ¬ masterMapped ch x ∨ refereePoisoned ch x rd then
          let ch1 := countCore (raise (deliver ch g rd own true) .tslRefereePoison 0) g 86 1
          match coreJob ch1 g with
          | some j => notify ch1 j.val 13 0 g 0 rd.logical 0
          | none => ch1
        else
          let ch0 := lanePreempt (refereeFetch ch g x rd) g
          let ref := referee ch x rd
          let tol := regFld ch .tslRefCfg 0 15 0
          if (List.range own.length).all fun k => agrees rd tol (own.getD k 0) (ref.getD k 0) then
            let ch1 := deliver ch0 g rd own false
            let ch2 := countCore (regSat (raise ch1 .tslRefereeCheck 0) .tslCRef g 31 16 1) g 84 1
            strike (queueCal (updStat ch2 g rd.phys fun x => { x with suspect := true }) g rd.phys) g rd.phys true
          else
            let ch1 := deliver ch0 g rd (ref.map (refClass rd)) false
            let ch2 := countCore (regSat (raise ch1 .tslRefereeArray 0) .tslCRef g 15 0 1) g 85 1
            strike ch2 g rd.phys false

def execBanisterReferee (c : CoreId) (sel : ReadSel) (s : State) : Host.Outcome State Fault Refusal :=
  onChip s (readWork c.val sel (banisterReferee c.val sel))

end Sys2Proof.Machine
end

