-- ==== Sys2Proof/Machine/Control.lean ====
section
/-! DEFINITION. Control instructions (10_oanoine_control.md R223, R224). -/

namespace Sys2Proof.Machine

/-- The target PC + imm, or an absolute one; none outside 0 to 16,383 (R223). -/
def pcTarget (t : Int) : Option Nat := if 0 ≤ t ∧ t < 16384 then some t.toNat else none

def immC (w : Dword) : Int := sx 32 (wb w 31 0)

/-- The loops after the word at `pc` issued whose control goes elsewhere: the innermost one that ends there is counted down,
or popped, and the next where it was popped (R224); the word's own target stands, not the loop's start (DEDUCED, log
160). -/
def endLoops (pc : Nat) (ls : List LoopEnt) : List LoopEnt :=
  match ls with
  | [] => []
  | l :: r =>
    if l.last = pc then (if l.count ≤ 1 then endLoops pc r else { l with count := l.count - 1 } :: r) else l :: r

/-- Pops every loop whose body the target leaves, from the outermost such loop inward (R224). -/
def popLoops (ls : List LoopEnt) (t : Nat) : List LoopEnt :=
  match ls with
  | [] => []
  | l :: r =>
    let r' := popLoops r t
    if r'.length < r.length then r' else if l.first ≤ t ∧ t ≤ l.last then l :: r else r

def execBr (c : CoreId) (s : State) : Host.Outcome State Fault Refusal :=
  onChip s fun ch => issue ch c.val .br fun ch1 k w =>
    let t : Int := if wb w 45 45 = 1 then (k.pc : Int) + immC w else ((rdReg k (wb w 51 46)).toNat % 16384 : Nat)
    match pcTarget t with
    | some t => setCore ch1 c.val { k with pc := t, loops := popLoops (endLoops k.pc k.loops) t }
    | none => faultWord ch1 c.val 3 w

def execLoop (c : CoreId) (s : State) : Host.Outcome State Fault Refusal :=
  onChip s fun ch => issue ch c.val .loop fun ch1 k w =>
    let len := wb w 15 0
    let n := if wb w 45 45 = 1 then wb w 31 16 else (rdReg k (wb w 51 46)).toNat % 2 ^ 32
    if len = 0 ∨ 4 ≤ k.loops.length then faultWord ch1 c.val 8 w
    else if n = 0 then
      match pcTarget ((k.pc : Int) + 1 + len) with
      | some t => setCore ch1 c.val { k with pc := t, loops := endLoops k.pc k.loops }
      | none => faultWord ch1 c.val 3 w
    else setCore ch1 c.val
      { k with pc := (k.pc + 1) % 16384, loops := ⟨k.pc + 1, k.pc + len, n⟩ :: endLoops k.pc k.loops }

def execCall (c : CoreId) (s : State) : Host.Outcome State Fault Refusal :=
  onChip s fun ch => issue ch c.val .call fun ch1 k w =>
    if 16 ≤ k.rets.length then faultWord ch1 c.val 8 w
    else match pcTarget ((k.pc : Int) + immC w) with
      | some t => setCore ch1 c.val { k with pc := t, rets := (k.pc + 1) % 16384 :: k.rets, loops := endLoops k.pc k.loops }
      | none => faultWord ch1 c.val 3 w

def execRet (c : CoreId) (s : State) : Host.Outcome State Fault Refusal :=
  onChip s fun ch => issue ch c.val .ret fun ch1 k w =>
    match k.rets with
    | t :: r => setCore ch1 c.val { k with pc := t, rets := r, loops := endLoops k.pc k.loops }
    | [] => faultWord ch1 c.val 8 w

def execHalt (c : CoreId) (s : State) : Host.Outcome State Fault Refusal :=
  onChip s fun ch => issue ch c.val .halt fun ch1 k _ => setCore ch1 c.val { advance k with halting := true }

/-- A core that stopped issuing is HALTED when every queue has completed its instructions (R223, R24, R402); one with a
fault is FAULTED instead (R236). -/
def execCoreHalted (c : CoreId) (s : State) : Host.Outcome State Fault Refusal :=
  onChip s fun ch =>
    let k := coreOf ch c.val
    if k.faultSeq.isSome then enterFaulted ch c.val
    else if k.run = .running ∧ k.halting ∧ queuesDone k then
      updCore ch c.val fun k => { k with run := .halted, halting := false }
    else ch

end Sys2Proof.Machine
end

