-- ==== Sys2Proof/Machine/Sfu.lean ====
section
/-! DEFINITION. The special functions: the correctly rounded F32 results and the results a unit may return around them
(07_formats.md R167, R168). Reals are computed as integer multiples of 2^−256. -/

namespace Sys2Proof.Machine

def fxOne : Int := 2 ^ 256
def fxMul (a b : Int) : Int := a * b / fxOne
def fxDiv (a b : Int) : Int := a * fxOne / b

/-- z ± z³ ÷ 3 + z⁵ ÷ 5 ± …: the inverse hyperbolic tangent, or with `alt` the inverse tangent. -/
def fxOddSeries (alt : Bool) (z : Int) : Int :=
  let zz := if alt then -(fxMul z z) else fxMul z z
  ((List.range 112).foldl (fun (r : Int × Int) k => (fxMul r.1 zz, r.2 + r.1 / (2 * k + 1 : Nat))) (z, 0)).2

def fxLn2 : Int := 2 * fxOddSeries false (fxOne / 3)
def fxPi : Int := 16 * fxOddSeries true (fxOne / 5) - 4 * fxOddSeries true (fxOne / 239)
def fxSqrtPi : Int := isqrt (fxPi.toNat * 2 ^ 256) 260

/-- e^x as y × 2^n. -/
def fxExp (x : Int) : Int × Int :=
  let n := (2 * x + fxLn2) / (2 * fxLn2)
  let r := x - n * fxLn2
  (((List.range 72).foldl (fun (p : Int × Int) k =>
    let t := fxMul p.1 r / (k + 1 : Nat); (t, p.2 + t)) (fxOne, fxOne)).2, n)

/-- ln (m × 2^e). -/
def fxLog (m : Nat) (e : Int) : Int :=
  let l := Nat.log2 m
  let f : Int := (m * 2 ^ 256 / 2 ^ l : Nat)
  (e + l) * fxLn2 + 2 * fxOddSeries false (fxDiv (f - fxOne) (f + fxOne))

/-- tanh x for 0 ≤ x < 10. -/
def fxTanh (x : Int) : Int :=
  let p := fxExp (2 * x)
  let y := p.1 * 2 ^ p.2.toNat
  fxDiv (y - fxOne) (y + fxOne)

/-- erf x for 0 ≤ x < 4. -/
def fxErf (x : Int) : Int :=
  let xx := fxMul x x
  let s := ((List.range 200).foldl (fun (r : Int × Int) n =>
    (-(fxMul r.1 xx) / (n + 1 : Nat), r.2 + r.1 / (2 * n + 1 : Nat))) (x, 0)).2
  fxDiv (2 * s) fxSqrtPi

def fxVal (x : Int) (e : Int) : Val := vofInt x (e - 256)

/-- An odd function of a value that reaches ±1.0 within half an ulp at |x| = `lim`. -/
def sfuOdd (f : Int → Int) (lim : Nat) (s : Bool) (m : Nat) (e : Int) : Word :=
  let w := if vle (.num false lim 0) (.num false m e) then f32One else toF32 (fxVal (f (vfix (.num false m e) 256)) 0)
  if s then w ||| 0x80000000 else w

/-- The correctly rounded result of function fn on a finite value other than 0 that it is defined on. exp reaches +∞
from 0x42B17218 on and +0 from 0xC2CFF1B5 on. -/
def sfuRef (fn : Nat) (x : Word) : Word :=
  match ofF32 x with
  | .num s m e => match fn with
    | 0 =>
      if ¬ s ∧ 0x42B17218 ≤ x.toNat then 0x7F800000
      else if s ∧ 0xC2CFF1B5 ≤ x.toNat then 0
      else let p := fxExp (vfix (.num s m e) 256); toF32 (fxVal p.1 p.2)
    | 1 => toF32 (fxVal (fxLog m e) 0)
    | 2 => f32DivVal (.num false 1 0) (.num s m e)
    | 3 =>
      let odd := e % 2 ≠ 0
      let m2 := if odd then 2 * m else m
      let e2 := if odd then e - 1 else e
      toF32 (.num false (isqrt (2 ^ 512 / m2) 300) (-256 - e2 / 2))
    | 4 => sfuOdd fxTanh 10 s m e
    | _ => sfuOdd fxErf 4 s m e
  | _ => f32Nan

/-- The error bound of R167 in ulps of the correctly rounded result. -/
def sfuUlps (fn : Nat) : Nat := if fn ≤ 1 then 1 else 2

/-- A finite F32 word in units of 2^−149, the smallest subnormal. -/
def f32Units (w : Word) : Int := vfix (ofF32 w) 149

/-- A word within k ulps of a finite reference. -/
def withinUlps (k : Nat) (r w : Word) : Bool :=
  visFinite (ofF32 w) && decide ((f32Units w - f32Units r).natAbs ≤ k * 2 ^ (max (r.toNat / 2 ^ 23 % 256) 1 - 1))

/-- The words a unit may return: those within the bound. -/
def sfuChoices (k : Nat) (r : Word) : List Word :=
  let g : Int := vsgn (r.getLsbD 31) (r.toNat % 2 ^ 31)
  let near := (List.range (4 * k + 1)).map fun j =>
    let c := g + j - 2 * k
    (if 0 ≤ c then BitVec.ofNat 32 c.toNat else BitVec.ofNat 32 (2 ^ 31 + c.natAbs) : Word)
  (near ++ [0x80000000]).filter (withinUlps k r)

/-- The result around a reference: ±∞ and ±0 exactly, otherwise one word within the bound, the same for the same input
bits; which one is the constant of log 9. -/
def sfuNear (fn : Nat) (x r : Word) : Word :=
  if ¬ visFinite (ofF32 r) ∨ visZero (ofF32 r) then r
  else
    let l := sfuChoices (sfuUlps fn) r
    l.getD (Config.sfuChoice fn x % l.length) r

/-- The special functions by code: 0 exp, 1 log, 2 reciprocal, 3 reciprocal square root, 4 tanh, 5 erf (R255), with the
exact results of R168. -/
def sfuRaw (fn : Nat) (x : Word) : Word :=
  let inf : Word := 0x7F800000
  let ninf : Word := 0xFF800000
  match ofF32 x with
  | .nan => f32Nan
  | .inf s => match fn with
    | 0 => if s then 0 else inf
    | 1 => if s then f32Nan else inf
    | 2 => if s then 0x80000000 else 0
    | 3 => if s then f32Nan else 0
    | _ => if s then 0xBF800000 else f32One
  | .num s m _ =>
    if m = 0 then
      match fn with
      | 0 => f32One
      | 1 => ninf
      | 2 => if s then ninf else inf
      | 3 => if s then ninf else inf
      | _ => x
    else if (fn = 1 ∨ fn = 3) ∧ s then f32Nan
    else if fn = 1 ∧ x = f32One then 0
    else if (fn = 2 ∨ fn = 3) ∧ x = f32One then f32One
    else sfuNear fn x (sfuRef fn x)

/-- A special function in normal or heritage mode (R519). -/
def sfuF (h : Bool) (fn : Nat) (x : Word) : Word := ftzIf h (sfuRaw fn (ftzIf h x))

/-- A special-function unit returned NaN for an input that is none (R168). -/
def sfuNan (h : Bool) (fn : Nat) (x : Word) : Bool := visNan (ofF32 (sfuF h fn x)) && !visNan (ofF32 x)

end Sys2Proof.Machine
end

