-- ==== Sys2Proof/Machine/Watch.lean ====
section
/-! DEFINITION. The statistics region, the tensor watchers, the norm watcher, step operations, escalation log and
SCALEGEN (08_training_numerics.md R173 to R188). -/

namespace Sys2Proof.Machine

/-! ### The statistics region (R173) -/

/-- The DA of the statistics region of core g's job. -/
def statOfCore (ch : Chip) (g : Nat) : Option Nat := (coreJob ch g).map fun j => (jobOf ch j.val).stat

/-- The job whose region lies at a DA. -/
def statJob (ch : Chip) (da : Nat) : Option JobId :=
  (List.finRange 16).find? fun j => (jobOf ch j.val).state != .none && (jobOf ch j.val).stat == da

/-- An access to the region at its home slices, as the job's (R267). -/
def rgTouch (ch : Chip) (da off n : Nat) (write : Bool) : Chip := landRange ch (statJob ch da) .normal (da + off) n write

/-- Zeroes bytes of the region through the home slices. -/
def rgZero (ch : Chip) (da off n : Nat) : Chip := zeroRange (rgTouch ch da off n true) (da + off) n

/-- A field of n bytes of the region, and a write of one through the home slice. -/
def rgGet (ch : Chip) (da off n : Nat) : Nat := rdNat ch (da + off) n
def rgPut (ch : Chip) (da off n v : Nat) : Chip := wrNat (rgTouch ch da off n true) (da + off) n v

def hdrStep (ch : Chip) (da : Nat) : Nat := rgGet ch da 0 8
def hdrBank (ch : Chip) (da : Nat) : Nat := rgGet ch da 8 1 % 2
def hdrHist (ch : Chip) (da : Nat) : Nat := rgGet ch da 9 1
def hdrK (ch : Chip) (da : Nat) : Nat := let k := rgGet ch da 10 1; if 1 ≤ k ∧ k ≤ 8 then k else 4
def hdrMargin (ch : Chip) (da : Nat) : Nat := let m := rgGet ch da 21 1; if m ≤ 7 then m else 1
/-- Adds to a saturating 32-bit count of the header. -/
def hdrBump (ch : Chip) (da off : Nat) : Chip := rgPut ch da off 4 (min 0xFFFFFFFF (rgGet ch da off 4 + 1))

def recOff (bank tid : Nat) : Nat := 0x2000 + bank * 0x40000 + tid * 64
def normOff (tid : Nat) : Nat := 0x82000 + tid * 32
def histOff (tid i : Nat) : Nat := 0xA2000 + tid * 64 + i * 4
def invalidAmax : Nat := 0xFFFFFFFF

/-! ### Records (R174 to R176) -/

def recZero : WRec :=
  { elements := 0, zero := 0, flushed := 0, satElem := 0, satBlock := 0, nonfinite := 0, nonfBlock := 0, amax := 0,
    sumsq := 0, flags := 0 }

def sat32 (n : Nat) : Nat := min 0xFFFFFFFF n

/-- The sum of two records: counts add, `amax` takes the maximum, `sumsq` saturates (R174, R175). -/
def recAdd (a b : WRec) : WRec :=
  let sq := a.sumsq + b.sumsq
  { elements := (a.elements + b.elements) % 2 ^ 64, zero := (a.zero + b.zero) % 2 ^ 64,
    flushed := sat32 (a.flushed + b.flushed), satElem := sat32 (a.satElem + b.satElem),
    satBlock := sat32 (a.satBlock + b.satBlock), nonfinite := sat32 (a.nonfinite + b.nonfinite),
    nonfBlock := sat32 (a.nonfBlock + b.nonfBlock), amax := if b.amax.ult a.amax then a.amax else b.amax,
    sumsq := min (2 ^ 160 - 1) sq,
    flags := a.flags ||| b.flags ||| 1 ||| (if 2 ^ 160 ≤ sq then 2 else 0) }

/-- What one watched output element brings: its value before conversion (none when it comes from a poisoned word) and
what became of it. -/
structure WEl where
  x : Option Val
  zero : Bool
  flushed : Bool
  sat : Bool
  nonf : Bool
  deriving DecidableEq, Repr

/-- ⌊x² × 2^100⌋ of a finite value. -/
def sqFix (v : Val) : Nat :=
  match v with
  | .num _ m e => if 0 ≤ 2 * e + 100 then m * m * 2 ^ (2 * e + 100).toNat else m * m / 2 ^ (-(2 * e + 100)).toNat
  | _ => 0

/-- |x| as `amax` holds it: to nearest where x is no F32 value (DESIGN CHOICE, log 158); a magnitude beyond F32 has no
stated F32 value and is the free word `fr` (log 9). -/
def amaxWord (fr : Word) (v : Val) : Word :=
  if ¬ visFinite v then 0
  else let r := ffConv ffF32 false (vabs v) 1
    if r.saturated then fr &&& 0x7FFFFFFF else BitVec.ofNat 32 r.code

/-- The record of a list of elements and of blocks or chunks saturated and made poison. -/
def recOf (cfg fr : Word) (els : List WEl) (satB nonfB : Nat) : WRec :=
  let n (p : WEl → Bool) : Nat := (els.filter p).length
  let live := els.filterMap fun e => e.x
  { recZero with
    elements := els.length, zero := n fun e => e.x.isSome && e.zero, flushed := n fun e => e.x.isSome && e.flushed
    satElem := n fun e => e.x.isSome && e.sat, satBlock := satB, nonfinite := n fun e => e.x.isSome && e.nonf
    nonfBlock := nonfB
    amax := if cfg.getLsbD 1 then live.foldl (fun m v => let w := amaxWord fr v; if m.ult w then w else m) 0 else 0
    sumsq := if cfg.getLsbD 0 then (live.map sqFix).foldl (· + ·) 0 else 0
    flags := 1 }

def recRead (ch : Chip) (a : Nat) : WRec :=
  { elements := rdNat ch a 8, zero := rdNat ch (a + 8) 8, flushed := rdNat ch (a + 16) 4,
    satElem := rdNat ch (a + 20) 4, satBlock := rdNat ch (a + 24) 4, nonfinite := rdNat ch (a + 28) 4,
    nonfBlock := rdNat ch (a + 32) 4, amax := BitVec.ofNat 32 (rdNat ch (a + 36) 4), sumsq := rdNat ch (a + 40) 20,
    flags := rdNat ch (a + 62) 1 }

/-- Writes a record's counts; `esc_count` and the reserved byte keep their values. -/
def recWrite (ch : Chip) (a : Nat) (r : WRec) : Chip :=
  let esc := rdNat ch (a + 60) 2
  let top := rdNat ch (a + 63) 1
  wrMem ch a (leBytes r.elements 8 ++ leBytes r.zero 8 ++ leBytes r.flushed 4 ++ leBytes r.satElem 4 ++
    leBytes r.satBlock 4 ++ leBytes r.nonfinite 4 ++ leBytes r.nonfBlock 4 ++ leBytes r.amax.toNat 4 ++
    leBytes r.sumsq 20 ++ leBytes esc 2 ++ leBytes r.flags 1 ++ leBytes top 1) false

/-- A record is poisoned: its flag, or a mark on its bytes (R176). -/
def recPoisoned (ch : Chip) (a : Nat) : Bool := (rdNat ch (a + 62) 1).testBit 2 || anyPoi ch a 64

/-- A cache entry holds counts not yet flushed (R189). -/
def entDirty (e : WEnt) : Bool := e.cnt.flags != 0

/-- Flushes one cache entry into the region (R175, R176). -/
def flushEntry (ch : Chip) (g : Nat) (e : WEnt) : Chip :=
  match statOfCore ch g with
  | none => ch
  | some da =>
    if ¬ entDirty e then ch else
    let st := hdrStep ch da
    let late := st != e.step
    let ch1 := if late then raise (hdrBump ch da 24) .wchLateFlush g else ch
    if late ∧ e.step + 1 ≠ st then ch1
    else
      let bank := if late then 1 - hdrBank ch da else hdrBank ch da
      let a := da + recOff bank e.id
      let poi := anyPoi ch1 a 64
      let r := recAdd (recRead ch1 a) e.cnt
      let ch2 := landRange ch1 (coreJob ch1 g) .normal a 64 true
      if poi then raise (recWrite ch2 a { r with flags := r.flags ||| 4 }) .wchRegionPoison g else recWrite ch2 a r

/-- Flushes every entry of the cache; the entries stay in use, without counts (R175, R189; log 28). -/
def flushCache (ch : Chip) (g : Nat) : Chip :=
  let ch1 := (accOf ch g).cache.foldl (fun c e => flushEntry c g e) ch
  updAcc ch1 g fun a => { a with cache := a.cache.map fun e => { e with cnt := recZero } }

/-- Counts a record for a tensor id: into the cache entry of the id, which becomes the last used (R174, R175). -/
def watchRec (ch : Chip) (g tid : Nat) (r : WRec) : Chip :=
  match statOfCore ch g with
  | none => ch
  | some da =>
    if tid = 0 ∨ ¬ enabled ch .wch g then ch
    else
      let st := hdrStep ch da
      let a := accOf ch g
      match a.cache.find? fun e => e.id == tid with
      | some e =>
        let rest := a.cache.filter fun e => e.id != tid
        if e.step = st then setAcc ch g { a with cache := rest ++ [⟨tid, st, recAdd e.cnt r⟩] }
        else setAcc (flushEntry ch g e) g { a with cache := rest ++ [⟨tid, st, r⟩] }
      | none =>
        if a.cache.length < 64 then setAcc ch g { a with cache := a.cache ++ [⟨tid, st, r⟩] }
        else
          let ch1 := match a.cache.head? with | some e => flushEntry ch g e | none => ch
          setAcc ch1 g { a with cache := a.cache.drop 1 ++ [⟨tid, st, r⟩] }

/-- Counts output elements under R174. -/
def watchEls (ch : Chip) (g tid : Nat) (els : List WEl) (satB nonfB : Nat) : Chip :=
  let d := draw ch
  watchRec d.2 g tid (recOf (regGet ch .wchCfg g) (BitVec.ofNat 32 (Config.freeNat d.1 0)) els satB nonfB)

/-- `hist_state` as a core reads it (R186). -/
def readArmed (ch : Chip) (g : Nat) : Chip :=
  match statOfCore ch g with
  | some da => updAcc ch g fun a => { a with armed := hdrHist ch da != 0 }
  | none => ch

def execWflush (c : CoreRun) (s : State) : Host.Outcome State Fault Refusal :=
  onChip s fun ch =>
    let g := c.core.val
    if blkGet ch .wch g = .stopping ∧ (accOf ch g).cache.any entDirty then ch
    else coreRun c .vector .wflush (fun ch i => (readArmed (if enabled ch .wch g then flushCache ch g else ch) g, i)) ch

/-! ### Norms (R179) -/

/-- round_F32(√(sumsq × 2^−100)), from the exact integer, to nearest with ties to even. -/
def normOf (sumsq : Nat) : Word :=
  let n := sumsq * 2 ^ 120
  let r := isqrt n 142
  toF32 (.num false (2 * r + (if r * r = n then 0 else 1)) (-111))

/-- How a step's norm is judged. -/
structure Judged where
  mean : Word
  ratio : Word
  reason : Nat
  deriving DecidableEq, Repr

/-- The norm-state entry of an id carries a poison mark. -/
def normPoisoned (ch : Chip) (da tid : Nat) : Bool := anyPoi ch (da + normOff tid) 32

/-- The row of R179 that applies to norm n and a norm-state entry; a poisoned entry holds no observation (R176;
log 134). -/
def judge (ch : Chip) (da tid : Nat) (r : WRec) (n : Word) (sumsqEn : Bool) : Judged :=
  let m : Word := BitVec.ofNat 32 (rgGet ch da (normOff tid) 4)
  let obs := if normPoisoned ch da tid then 0 else rgGet ch da (normOff tid + 12) 4
  let k := hdrK ch da
  let warm := rgGet ch da 11 1
  let hi := ofF32 (BitVec.ofNat 32 (rgGet ch da 12 4))
  let lo := ofF32 (BitVec.ofNat 32 (rgGet ch da 16 4))
  let step := toF32 (vscale (ofF32 (f32Sub false n m)) (-(k : Int)))
  let ema := f32Add false m step
  let jump (x : Nat) : Nat := if sumsqEn then x else 0
  if 0 < r.nonfinite ∨ r.flags.testBit 1 then ⟨m, 0, jump 3⟩
  else if obs = 0 then ⟨n, 0, 0⟩
  else if obs < warm then ⟨ema, 0, 0⟩
  else if visZero (ofF32 m) then ⟨m, 0, if visZero (ofF32 n) then 0 else jump 1⟩
  else
    let q := f32DivVal (ofF32 n) (ofF32 m)
    if vlt hi (ofF32 q) then ⟨m, q, jump 1⟩
    else if vlt (ofF32 q) lo then ⟨m, q, jump 2⟩
    else ⟨ema, q, 0⟩

/-- Closes one touched record of the open bank: norm state and amax history (R177, R179, R184). -/
def closeRecord (ch : Chip) (g da step bank tid : Nat) : Chip :=
  let a := da + recOff bank tid
  let r := recRead ch a
  let ch := rgTouch ch da (recOff bank tid) 64 false
  if ¬ r.flags.testBit 0 then ch
  else if recPoisoned ch a then raise (rgPut ch da (histOff tid (step % 16)) 4 invalidAmax) .wchRegionPoison g
  else
    let ch := raiseIf (normPoisoned ch da tid) (rgTouch ch da (normOff tid) 32 false) .wchRegionPoison g
    let en := (regGet ch .wchCfg g).getLsbD 0
    let n := if en then normOf r.sumsq else 0
    let j := judge ch da tid r n en
    let o := normOff tid
    let ch1 := rgPut ch da (histOff tid (step % 16)) 4 r.amax.toNat
    let ch2 := rgPut (rgPut (rgPut ch1 da o 4 j.mean.toNat) da (o + 4) 4 n.toNat) da (o + 8) 4 j.ratio.toNat
    let ch3 := rgPut (rgPut ch2 da (o + 12) 4 (sat32 (rgGet ch2 da (o + 12) 4 + 1))) da (o + 22) 1 j.reason
    if j.reason = 0 then ch3
    else raise (rgPut ch3 da (o + 16) 4 (sat32 (rgGet ch3 da (o + 16) 4 + 1))) .wchJump g

/-- The LAYER level of an id at a WSTEP (R182). -/
def ageLevel (ch : Chip) (da tid : Nat) : Chip :=
  let o := normOff tid
  if rgGet ch da (o + 20) 1 = 0 then ch
  else
    let h := rgGet ch da (o + 21) 1
    if h = 0 then rgPut ch da (o + 20) 1 0 else rgPut ch da (o + 21) 1 (h - 1)

/-- The ids a region holds. -/
def allTids : List Nat := span 1 4095

def wstepEffect (ch : Chip) (g : Nat) (i : QInstr) : Chip × QInstr :=
  match statOfCore ch g with
  | none => (raise ch .wchStepMismatch g, { i with pres := false })
  | some da =>
    let st := hdrStep ch da
    if st ≠ i.x.toNat then (raise ch .wchStepMismatch g, { i with pres := false })
    else
      let b := hdrBank ch da
      let ch1 := allTids.foldl (fun c t => closeRecord c g da st b t) ch
      let ch2 := allTids.foldl (fun c t => ageLevel c da t) ch1
      let ch3 := rgZero ch2 da (recOff (1 - b) 0) 0x40000
      let ch4 := rgPut (rgPut ch3 da 8 1 (1 - b)) da 0 8 (st + 1)
      let ch5 := if hdrHist ch4 da = 2 then rgPut ch4 da 9 1 0 else ch4
      (ch5, { i with pres := true })

def execWstep (c : CoreRun) (s : State) : Host.Outcome State Fault Refusal :=
  onChip s (coreRun c .vector .wstep fun ch i => wstepEffect ch c.core.val i)

/-! ### Escalation (R181 to R183) -/

/-- Writes an escalation-log entry (R183). -/
def escLog (ch : Chip) (g da tid scope level reason tile : Nat) : Chip :=
  let h := rgGet ch da 32 4 % 64
  let ch1 := wrMem (rgTouch ch da (0x1000 + h * 64) 64 true) (da + 0x1000 + h * 64)
    (leBytes (hdrStep ch da) 8 ++ leBytes tid 2 ++ leBytes g 2 ++ leBytes scope 1 ++ leBytes level 1 ++ leBytes reason 1 ++
      leBytes tile 1 ++ leBytes 0 48) false
  rgPut ch1 da 32 4 ((h + 1) % 64)

/-- A trigger with no budget or at the ceiling (R181, R182). -/
def escExhausted (ch : Chip) (g da tid scope level tile : Nat) : Chip :=
  escLog (raise (regSat (hdrBump ch da 28) .wchEsc g 31 16 1) .wchEscExhausted g) g da tid scope level 5 tile

/-- Scope, budget and ceiling of an output descriptor, as arming raises them (R180, R186). -/
def escPolicy (ch : Chip) (g : Nat) (d : Desc) : Nat × Nat × Nat :=
  let armed := (accOf ch g).armed
  let ab := match statOfCore ch g with | some da => rgGet ch da 22 1 | none => 0
  if armed then (max 1 d.scope, max ab d.budget, 2) else (d.scope, d.budget, d.ceiling)

/-- WCHECK: a jump is an event whether or not the descriptor's scope is LAYER, and without budget or below the ceiling no
more the level returned is the present one (DESIGN CHOICE, log 159). -/
def wcheckEffect (ch : Chip) (g : Nat) (i : QInstr) : Chip × QInstr :=
  match statOfCore ch g with
  | none => (ch, { i with sres := 0, pres := false })
  | some da =>
    let C := descD i.fC
    let b := hdrBank ch da
    let a := da + recOff b C.tid
    let r := recRead ch a
    let poi := recPoisoned ch a
    let en := (regGet ch .wchCfg g).getLsbD 0
    let j := judge ch da C.tid r (if en then normOf r.sumsq else 0) en
    let ins := ([descD i.fA, descD i.fB].filter fun d => d.tid != 0).map fun d => da + recOff b d.tid
    let satIn := ins.any fun x => !recPoisoned ch x && 0 < (recRead ch x).satBlock
    let reason := if poi then 0 else if j.reason ≠ 0 then j.reason else 0
    let reason := if reason = 0 ∧ satIn then 1 else reason
    let pol := escPolicy ch g C
    let o := normOff C.tid
    let lvl := rgGet ch da (o + 20) 1
    let ch0 := (a :: ins).foldl (fun c x => rgTouch c da (x - da) 64 false) (rgTouch ch da (normOff C.tid) 32 false)
    let ch1 := raiseIf (poi || ins.any (recPoisoned ch) || normPoisoned ch da C.tid) ch0 .wchRegionPoison g
    if reason = 0 ∨ C.tid = 0 then (ch1, { i with sres := BitVec.ofNat 64 lvl, pres := false })
    else
      let ch2 := raise ch1 .wchJump g
      let esc := rdNat ch2 (a + 60) 2
      if esc < pol.2.1 ∧ lvl < pol.2.2 then
        let ch3 := rgPut (rgPut ch2 da (o + 20) 1 (lvl + 1)) da (o + 21) 1 (rgGet ch2 da 20 1)
        let ch4 := wrNat (rgZero ch3 da (a - da) 64) (a + 60) 2 (min 65535 (esc + 1))
        let code := if reason = 3 then 1 else if reason = 1 then 3 else 4
        let ch5 := escLog (raise (regSat ch4 .wchEsc g 15 0 1) .wchEscLayer g) g da C.tid 2 (lvl + 1) code 0
        (ch5, { i with sres := BitVec.ofNat 64 (lvl + 1), pres := true })
      else (escExhausted ch2 g da C.tid 2 lvl 0, { i with sres := BitVec.ofNat 64 lvl, pres := false })

def execWcheck (c : CoreRun) (s : State) : Host.Outcome State Fault Refusal :=
  onChip s (coreRun c .vector .wcheck fun ch i => wcheckEffect ch c.core.val i)

/-! ### History (R184, R185, R187) -/

/-- The valid, finite history entries of an id; an entry with a poison mark holds no data (R176). -/
def histValid (ch : Chip) (da tid : Nat) : List Word :=
  (((List.range 16).filter fun i => !anyPoi ch (da + histOff tid i) 4).map fun i =>
    BitVec.ofNat 32 (rgGet ch da (histOff tid i) 4)).filter fun w =>
    w != BitVec.ofNat 32 invalidAmax && visFinite (ofF32 w)

def wprobeEffect (ch : Chip) (g : Nat) (i : QInstr) : Chip × QInstr :=
  match statOfCore ch g with
  | none => (raise ch .wchStepMismatch g, { i with pres := false })
  | some da =>
    if hdrHist ch da = 0 then (raise ch .wchStepMismatch g, { i with pres := false })
    else
      let st := hdrStep ch da
      let b := hdrBank ch da
      let ch1 := allTids.foldl (fun c t =>
        let a := da + recOff b t
        let r := recRead c a
        if r.flags.testBit 0 ∧ histValid c da t = [] then
          let v := if recPoisoned c a then invalidAmax else r.amax.toNat
          let c := raiseIf (recPoisoned c a) (rgTouch c da (recOff b t) 64 true) .wchRegionPoison g
          rgZero (rgPut c da (histOff t (st % 16)) 4 v) da (a - da) 64
        else c) ch
      (raise (rgPut ch1 da 9 1 2) .wchProbeDone g, { i with pres := true })

def execWprobe (c : CoreRun) (s : State) : Host.Outcome State Fault Refusal :=
  onChip s (coreRun c .vector .wprobe fun ch i => wprobeEffect ch c.core.val i)

/-- The target limit of SCALEGEN as m × 2^e; none when it is not positive and finite (R185, R230). -/
def scalegenLimit (i : QInstr) : Option (Nat × Int) :=
  match wb i.word 1 0 with
  | 0 => some (448, 0)
  | 1 => some (57344, 0)
  | 2 => some (255, 0)
  | _ => match ofF32 (i.x.extractLsb' 32 32) with
    | .num false m e => if m = 0 then none else some (m, e)
    | _ => none

def scalegenCount (i : QInstr) : Nat := wb i.x 31 16

/-- The checks of the step operations: the WCH block ENABLED, and SCALEGEN's operands (R185, R188). -/
def watchCheck (ch : Chip) (g : Nat) (op : Op) (i : QInstr) : Option Nat :=
  let C := descD i.fC
  let n := scalegenCount i
  let out : List (Option (Int × Int)) := (List.range n).map fun x =>
    let a := elemBit C (unlin C.ext x) / 8
    some (a, a)
  match op with
  | .wflush => none
  | .wstep | .wprobe => firstBad [(enabled ch .wch g, 2)]
  | .wcheck => firstBad [(enabled ch .wch g, 2),
      ((descOf i.fA).isSome && (descOf i.fB).isSome && (descOf i.fC).isSome, 2),
      (descRules (descD i.fA) true && descRules (descD i.fB) true && descRules (descD i.fC) false, 2)]
  | .scalegen => firstBad [(enabled ch .wch g, 2), ((descOf i.fC).isSome, 2), (C.fmt == .sf8, 2),
      (descRules C false, 2), ((scalegenLimit i).isSome, 2), (decide (n ≤ numel C), 2),
      (out.all (spanOk ch g true true), 2)]
  | _ => none

def scalegenEffect (ch : Chip) (g : Nat) (i : QInstr) : Chip × QInstr :=
  match statOfCore ch g, scalegenLimit i with
  | some da, some (lm, le) =>
    let t := wb i.x 11 0
    let h := histValid ch da t
    let ch := raiseIf (anyPoi ch (da + histOff t 0) 64) (rgTouch ch da (histOff t 0) 64 false) .wchRegionPoison g
    if h = [] then (ch, { i with pres := false })
    else
      let big := h.foldl (fun m w => vmax m (vabs (ofF32 w))) (.num false 0 0)
      let v := vscale big (hdrMargin ch da)
      let found := sf8Smallest v lm le
      let code := if visZero big then 0 else found.getD 0xFE
      let C := descD i.fC
      let o := outAll ((List.range (scalegenCount i)).map fun n => outEl (elemBit C (unlin C.ext n)) 8 code false)
      let ch1 := applyOut ch o
      (raiseIf (!visZero big && found.isNone && scalegenCount i != 0) ch1 .wchScaleSat g, { i with pres := true })
  | _, _ => (ch, { i with pres := false })

def execScalegen (c : CoreRun) (s : State) : Host.Outcome State Fault Refusal :=
  onChip s (coreRun c .vector .scalegen fun ch i => scalegenEffect ch c.core.val i)

end Sys2Proof.Machine
end

