-- ==== Sys2Proof/Machine/Convert.lean ====
section
/-! DEFINITION. Writing tensors: conversion of elements, blocks and chunks with what the watchers count
(07_formats.md R151 to R163, R517 to R519). -/

namespace Sys2Proof.Machine

/-- An element on its way into an output: its value (none when it comes from a poisoned word), the tag shift of its
tile (R144), whether it is counted non-finite whatever it is written as (R197), and the value a poisoned tile holds,
which is written under the mark (R143). -/
structure EncEl where
  v : Option Val
  tag : Nat
  nonf : Bool
  held : Option Val
  deriving DecidableEq, Repr

def encOf (v : Option Val) : EncEl := ⟨v, 0, false, none⟩

/-- The value the output represents (R174). -/
def encX (e : EncEl) : Option Val := e.v.map fun v => vscale v e.tag

/-- What writing some elements gives: memory bits, poisoned ranges, watcher elements, blocks saturated and made
poison. -/
structure Enc where
  out : Out
  els : List WEl
  satB : Nat
  nonfB : Nat
  deriving DecidableEq, Repr

def encNone : Enc := ⟨outNone, [], 0, 0⟩
def encAppend (a b : Enc) : Enc := ⟨outAdd a.out b.out, a.els ++ b.els, a.satB + b.satB, a.nonfB + b.nonfB⟩
def encAll (l : List Enc) : Enc :=
  ⟨outAll (l.map Enc.out), l.flatMap Enc.els, (l.map Enc.satB).foldl (· + ·) 0, (l.map Enc.nonfB).foldl (· + ·) 0⟩

/-- Is a code zero, of either sign? -/
def codeZero (f : Fmt) (c : Nat) : Bool :=
  match f with
  | .f32 | .bf16 | .f16 | .e4m3 | .e5m2 | .e2m1 | .f16s | .be4m3 | .be2m1 | .f32x =>
    c % 2 ^ (fmtBits f - 1) == 0
  | _ => c == 0

/-- Heritage writes a subnormal of the output format as zero of its sign (R519). -/
def heritageCode (f : Fmt) (c : Nat) : Nat :=
  let m := match f with | .f32 => 23 | .bf16 => 7 | _ => 10
  let w := fmtBits f
  if c % 2 ^ (w - 1) < 2 ^ m then c / 2 ^ (w - 1) * 2 ^ (w - 1) else c

/-- One element into an element format, divided by an optional output scale (R151, R258). `fr` is the free bits of a
poisoned word's data (log 9). -/
def encElem (d : Desc) (rtz h : Bool) (fr : Nat → Nat) (osc : Option Nat) (ix : List Nat) (e : EncEl) : Enc :=
  let ba := elemBit d ix
  let bits := fmtBits d.fmt
  let x := encX e
  let free := fr ba.toNat % 2 ^ bits
  match e.v with
  | none =>
    let code := match e.held with | some v => (convert d.fmt rtz v 1).code | none => free
    ⟨outEl ba bits code true, [⟨none, false, false, false, false⟩], 0, 0⟩
  | some v =>
    match osc with
    | some 0 =>
      ⟨outEl ba bits 0 false,
        [⟨x, true, visFinite v && !visZero v, false, !visFinite v || e.nonf⟩], 0, 0⟩
    | some 0xFF => ⟨outEl ba bits free true, [⟨none, false, false, false, false⟩], 0, 0⟩
    | _ =>
      let q := match osc with | some c => overSf8 v c | none => (v, 1)
      let r := convert d.fmt rtz q.1 q.2
      let code := if h then heritageCode d.fmt r.code else r.code
      let z := !r.poison && codeZero d.fmt code
      ⟨outEl ba bits (if r.poison then free else code) r.poison,
        [⟨x, z, z && visFinite v && !visZero v, r.saturated, r.nonfinite || e.nonf⟩], 0, 0⟩

/-- Clamps a rounded block element to ± E_max: the conversion of v ÷ s never leaves the element format's own limits
(R151, R156). -/
def blockCode (f : Fmt) (rtz : Bool) (v : Val) (c : Nat) : Nat :=
  let o := overSf8 v c
  (convert f rtz o.1 o.2).code

/-- Scale bytes, never 0xFF (R153), and element words of a block or chunk written with poison marks. -/
def encPoisonBlock (d : Desc) (fr : Nat → Nat) (sa : Int) (ixs : List (List Nat)) : Out :=
  outAdd (outEl (8 * sa) 8 (fr sa.toNat % 255) true)
    (outAll (ixs.map fun ix => outEl (elemBit d ix) (fmtBits d.fmt) (fr (elemBit d ix).toNat % 2 ^ fmtBits d.fmt) true))

def maxTag (es : List EncEl) : Nat := es.foldl (fun m e => max m e.tag) 0

/-- The values of a block or chunk brought to its largest tag, each rounded in F32 (R517). -/
def alignTags (es : List EncEl) : List (Option Val) :=
  let sm := maxTag es
  es.map fun e => e.v.map fun v => if e.tag = sm then v else ofF32 (toF32 (vscale v ((e.tag : Int) - sm)))

/-- One block of a block format (R156 to R158, R517): the present elements with their index vectors. -/
def encBlock (d : Desc) (rtz : Bool) (fr : Nat → Nat) (ixs : List (List Nat)) (es : List EncEl) : Enc :=
  let sa : Int := (d.sptr + chunkIx d 32 (ixs.headD []) : Nat)
  let bits := fmtBits d.fmt
  let put (codes : List Nat) (sc : Nat) : Out :=
    outAdd (outEl (8 * sa) 8 sc false) (outAll ((ixs.zip codes).map fun p => outEl (elemBit d p.1) bits p.2 false))
  if es.any fun e => e.v.isNone then
    ⟨encPoisonBlock d fr sa ixs, es.map fun _ => ⟨none, false, false, false, false⟩, 0, 0⟩
  else if es.any fun e => match e.v with | some v => !visFinite v | none => true then
    ⟨encPoisonBlock d fr sa ixs,
      es.map fun e => ⟨encX e, false, false, false, (match e.v with | some v => !visFinite v | none => false) || e.nonf⟩,
      0, 1⟩
  else
    let vs := (alignTags es).map fun v => v.getD (.num false 0 0)
    let sm := maxTag es
    let zeros : Enc := ⟨put (es.map fun _ => 0) 0,
      es.map fun e => ⟨encX e, true, (match e.v with | some v => !visZero v | none => false), false, e.nonf⟩, 0, 0⟩
    let a := vs.foldl (fun m v => vmax m (vabs v)) (.num false 0 0)
    if visZero a then zeros
    else
      let found := sf8Smallest a (eMax d.fmt) 0
      let c := found.getD 0xFE
      let codes := vs.map fun v => blockCode d.fmt rtz v c
      if codes.all (codeZero d.fmt) then zeros
      else
        let ovr := decide (0xFF ≤ c + 8 * sm)
        let codes := if ovr ∧ 0 < sm then es.map fun e => blockCode d.fmt rtz ((encX e).getD .nan) 0xFE else codes
        let sc := if ovr then 0xFE else c + 8 * sm
        ⟨put codes sc,
          (es.zip codes).map fun p =>
            let z := codeZero d.fmt p.2
            ⟨encX p.1, z, z && (match p.1.v with | some v => !visZero v | none => false), false, p.1.nonf⟩,
          if found.isNone || (ovr && 0 < sm) then 1 else 0, 0⟩

/-- One chunk of F16S (R163, R158, R517). -/
def encChunk (d : Desc) (rtz : Bool) (fr : Nat → Nat) (ixs : List (List Nat)) (es : List EncEl) : Enc :=
  let sa : Int := (d.sptr + chunkIx d 256 (ixs.headD []) : Nat)
  if es.any fun e => e.v.isNone then
    ⟨encPoisonBlock d fr sa ixs, es.map fun _ => ⟨none, false, false, false, false⟩, 0, 0⟩
  else
    let vs := (alignTags es).map fun v => v.getD .nan
    let sm := maxTag es
    let a := vs.foldl (fun m v => if visFinite v then vmax m (vabs v) else m) (.num false 0 0)
    let found := sf8Smallest a 1 15
    let c0 := if visZero a then 0 else found.getD 0xFE
    let ovr := decide (0xFF ≤ c0 + 8 * sm) && c0 != 0 && 0 < sm
    let sc := if c0 = 0 then 0 else if ovr then 0xFE else c0 + 8 * sm
    let sat := ovr || (c0 != 0 && found.isNone)
    let code (v : Val) : Nat :=
      if ¬ visFinite v then (convert .f16 rtz v 1).code
      else if c0 = 0 then 0
      else
        let o := overSf8 v (if ovr then 0xFE else c0)
        let r := convert .f16 rtz o.1 o.2
        if r.saturated then signBit ffF16 (vneg? v) + ffF16.top else r.code
    let codes := if ovr then es.map fun e => code ((encX e).getD .nan) else vs.map code
    ⟨outAdd (outEl (8 * sa) 8 sc false) (outAll ((ixs.zip codes).map fun p => outEl (elemBit d p.1) 16 p.2 false)),
      (es.zip codes).map fun p =>
        let v := p.1.v.getD .nan
        let z := codeZero .f16 p.2
        ⟨encX p.1, z, z && visFinite v && !visZero v, false, !visFinite v || p.1.nonf⟩,
      b2n sat, 0⟩

/-- The element size of the pieces in which a row is encoded. -/
def pieceLen (f : Fmt) : Nat := if isBlock f then 32 else if f = .f16s then 256 else 1

/-- Writes one row of dimension 0 at an outer index; the padding of block formats and INT3 is written 0 (R150, R155). -/
def encRow (d : Desc) (rtz h : Bool) (fr : Nat → Nat) (osc : Option Nat) (tail : List Nat) (row : List EncEl) : Enc :=
  let len := pieceLen d.fmt
  let e0 := d.ext.headD 0
  let pad := if padded d.fmt then
      outAll ((span e0 (padTo e0 32 - e0)).map fun x => outEl (elemBit d (x :: tail)) (fmtBits d.fmt) 0 false)
    else outNone
  let body :=
    if len = 1 then encAll ((span 0 e0).zip row |>.map fun p => encElem d rtz h fr osc (p.1 :: tail) p.2)
    else encAll ((List.range ((e0 + len - 1) / len)).map fun b =>
      let ixs := (span (b * len) (min len (e0 - b * len))).map fun x => x :: tail
      let es := (row.drop (b * len)).take len
      if len = 32 then encBlock d rtz fr ixs es else encChunk d rtz fr ixs es)
  { body with out := outAdd pad body.out }

/-- Applies an encoding as the output of core g for tensor id `tid`. -/
def applyEnc (ch : Chip) (g tid : Nat) (e : Enc) : Chip :=
  watchEls (applyOut ch e.out) g tid e.els e.satB e.nonfB

/-- The free data bits of poisoned words in one operation: a draw seeds them. -/
def freeBits (ch : Chip) : (Nat → Nat) × Chip :=
  let d := draw ch
  (Config.freeNat d.1, d.2)

end Sys2Proof.Machine
end

