-- ==== Sys2Proof/Machine/Vector.lean ====
section
/-! DEFINITION. Vector operations: tile preload, MUPD, elementwise operations, column sums and second reductions
(06_accumulation.md R130; 08_training_numerics.md R170 to R172; 09_backward_pass.md R203 to R206;
11_tensor_descriptors.md R255, R256, R259). -/

namespace Sys2Proof.Machine

/-! ### Preload (R130) -/

def vopRtz (p : Nat) : Bool := ebit p 0 0 0 == 1
def vopHeritage (p : Nat) : Bool := ebit p 0 1 1 == 1
def vopBScalar (p : Nat) : Bool := ebit p 0 2 2 == 1
def vopATile (p : Nat) : Bool := ebit p 0 3 3 == 1
def vopScalar (p : Nat) : Word := BitVec.ofNat 32 (eb p 11 8)

/-- Reserved bits and values of the VOP parameter block (R255). -/
def vopParamOk (p : Nat) : Bool :=
  ebit p 0 7 4 == 0 && decide (eb p 1 1 ≤ 5) && zeroBytes p 7 7 && zeroBytes p 63 12

/-- The value a preload writes to element (r, n) of its region; outside it the tile gets +0.0. -/
def preloadVal (ch : Chip) (d : Desc) (bias h : Bool) (r n : Nat) : Option Word :=
  (readEl ch d (if bias then unlin d.ext n else n :: unlin d.ext.tail r)).map fun v => ftzIf h (toF32 v)

/-- Writes one whole tile of a preload, PRELOADED (R130). -/
def preloadTile (ch : Chip) (g : Nat) (d : Desc) (bias h : Bool) (s : TShape) (br bc : Nat)
    (pre : Nat × Nat × Nat × Dword) : Chip :=
  let src := (List.range 16).flatMap fun i => (List.range 16).filterMap fun j =>
    let n := bc * 16 + j
    let r := br * 16 + i
    if n < s.cols ∧ (bias ∨ r < s.rows) then some (i * 16 + j, preloadVal ch d bias h r n) else none
  let els := src.foldl (fun (t : Tab Word) p => match p.2 with
    | some w => if w = 0 then t else tput t p.1 w
    | none => t) []
  let x : Tile := { st := 1, grad := false, tag := 0, poison := src.any (fun p => p.2.isNone), els := els, lastq := 3,
                    pre := some pre, recs := [], arr := false, more := false, gpoi := false, fail := none }
  updTile ch g (s.base + br * s.pitch + bc) fun y => { x with fail := y.fail }

/-- The tile rows and tile columns of a shape that starts at row 0. -/
def tileGrid (s : TShape) : List (Nat × Nat) :=
  (List.range ((s.rows + 15) / 16)).flatMap fun br => (List.range ((s.cols + 15) / 16)).map fun bc => (br, bc)

def preloadEffect (ch : Chip) (g : Nat) (op : Op) (i : QInstr) : Chip :=
  let s := tShape op i
  let h := vopHeritage i.fP
  let ch1 := raiseIf h ch .vecHeritageOp g
  if s.cols = 0 ∨ s.rows = 0 then ch1
  else (tileGrid s).foldl (fun c b =>
    preloadTile c g (descD i.fA) (op == .preloadBias) h s b.1 b.2
      (if op = .preloadBias then 1 else 2, i.fA, i.fP, i.x)) ch1

/-- Repeats the preload recorded for a tile (R181). -/
def repeatPreload (ch : Chip) (g t : Nat) (pre : Nat × Nat × Nat × Dword) : Chip :=
  let i := { (recInstrOf pre.2.1 pre.2.2.1 pre.2.2.2) with phase := .started }
  let op : Op := if pre.1 = 1 then .preloadBias else .preloadResid
  let s := tShape op i
  match (tileGrid s).find? fun b => s.base + b.1 * s.pitch + b.2 == t with
  | some b => preloadTile ch g (descD i.fA) (op == .preloadBias) (vopHeritage i.fP) s b.1 b.2 pre
  | none => ch
where
  /-- The recorded entries as an instruction. -/
  recInstrOf (fA fP : Nat) (x : Dword) : QInstr :=
    { seq := 0, q := .vector, pc := 0, word := 0, eA := none, eB := none, eC := none, eP := none, x := x,
      phase := .started, fA := fA, fB := 0, fC := 0, fP := fP, f1 := 0, f2 := 0, conf := 0, aux := [],
      auxPoi := false, sres := 0, pres := false }

/-- The checks of a preload; of `sX` it takes the tile addend alone (R230). -/
def preloadCheck (ch : Chip) (g : Nat) (op : Op) (i : QInstr) : Option Nat :=
  let A := descD i.fA
  let s := tShape op i
  firstBad [
    ((descOf i.fA).isSome && vopParamOk i.fP, 2),
    (heritageFmt A.fmt && descRules A true, 2),
    (op != .preloadBias || 0 < eb i.fP 5 4, 2),
    (tileOk (shapeTiles s), 0x102),
    (decide (s.rows = 0 ∨ s.cols = 0) || descOk ch g A true false false, 3)]

def execPreloadBias (c : CoreRun) (s : State) : Host.Outcome State Fault Refusal :=
  onChip s (coreRun c .vector .preloadBias fun ch i => (preloadEffect ch c.core.val .preloadBias i, i))
def execPreloadResid (c : CoreRun) (s : State) : Host.Outcome State Fault Refusal :=
  onChip s (coreRun c .vector .preloadResid fun ch i => (preloadEffect ch c.core.val .preloadResid i, i))

/-! ### Overlapping operands (R256) -/

/-- The dimensions of an operand that take more than one index: extents and strides, with the indices selected. -/
def liveDims (d : Desc) (sel : Option (Nat × Nat × Nat)) : List (Nat × Int) :=
  ((List.range d.ndims).map fun k => ((dimRange d false sel k).2, d.str.getD k 0)).filter fun p => p.1 != 1
/-- The base of an operand's first selected element. -/
def liveBase (d : Desc) (sel : Option (Nat × Nat × Nat)) : Int :=
  match sel with
  | some (k, m0, _) => 8 * d.base + bitStep d k * m0
  | none => 8 * d.base

/-- Two operands coincide exactly: the same elements at the same addresses in one format (R206, R256). -/
def sameTensor (a b : Desc) (sa sb : Option (Nat × Nat × Nat)) : Bool :=
  a.fmt == b.fmt && liveBase a sa == liveBase b sb && liveDims a sa == liveDims b sb && a.win == [] && b.win == []

def sharesByte (a b : List Int) : Bool := a.any fun x => b.contains x

/-- An output partly overlaps an input: they share a byte and are not identical (R206, R256). `so` and `si` are the
indices selected. -/
def partOverlap (o i : Desc) (so si : Option (Nat × Nat × Nat)) : Bool :=
  let spans (d : Desc) (w : Bool) (s : Option (Nat × Nat × Nat)) : List (Int × Int) :=
    (elemSpan d w s).toList ++ (auxSpan d s).toList
  let near := (spans o true so).any fun x => (spans i false si).any fun y => decide (x.1 ≤ y.2 ∧ y.1 ≤ x.2)
  let same := sameTensor o i so si
  let ob := elemBytesOf o true so
  let oa := auxBytesOf o so
  let ib := elemBytesOf i false si
  let ia := auxBytesOf i si
  near && ((!same && sharesByte ob ib) || sharesByte ob ia || sharesByte oa ib ||
    (!(same && o.sptr == i.sptr) && sharesByte oa ia))

/-! ### MUPD (R170, R171) -/

/-- 39 fraction bits: an F32X magnitude code, whose top bits are the F32 word and whose low 16 bits are the tail. -/
def ffF32X : FFmt := ⟨48, 39, 127, 255 * 2 ^ 39 - 1, none, none⟩

/-- The value of an F32X element (R162). -/
def f32xVal (w : Word) (tail : Nat) : Val :=
  match ofF32 w with
  | .num s _ _ =>
    if w.toNat % 2 ^ 31 = 0 then .num s 0 0
    else ffDecode ffF32X ((if s then 2 ^ 47 else 0) + (w.toNat % 2 ^ 31) * 65536 + tail)
  | v => v

/-- What MUPD writes for one element: word, tail, and its watcher entry. -/
structure MupdEl where
  w : Nat
  tail : Nat
  el : WEl
  deriving DecidableEq, Repr

/-- One element of the update; where the written word is ±0 the tail is 0 (R162, R170, R171). Where u and w are both not
finite the first row of R171 holds (DESIGN CHOICE, log 157). -/
def mupdEl (w : Word) (tail : Nat) (u : Word) : MupdEl :=
  let keep (t : Nat) (x : Val) : MupdEl :=
    ⟨w.toNat, t, ⟨some x, w.toNat % 2 ^ 31 == 0, false, false, true⟩⟩
  if ¬ visFinite (ofF32 u) then keep tail .nan
  else if ¬ visFinite (ofF32 w) then keep 0 .nan
  else
    let v := vadd (f32xVal w tail) (ofF32 u)
    match v with
    | .num s m e =>
      let c := ffRound ffF32X false m 1 e
      let sg := if s then 2 ^ 31 else 0
      if ffF32X.top < c then ⟨sg + 0x7F7FFFFF, 0xFFFF, ⟨some v, false, false, true, false⟩⟩
      else if c / 65536 = 0 then ⟨sg, 0, ⟨some v, true, false, false, false⟩⟩
      else ⟨sg + c / 65536, c % 65536, ⟨some v, c / 65536 == 0, false, false, false⟩⟩
    | _ => keep tail .nan

def mupdEffect (ch : Chip) (g : Nat) (i : QInstr) : Chip :=
  let A := descD i.fA
  let B := descD i.fB
  let fb := freeBits ch
  let r := (List.range (numel A)).map fun n =>
    let ix := unlin A.ext n
    let wa := elemBit A ix / 8
    let ta := A.sptr + 2 * n
    let ub := elemBit B ix / 8
    if anyPoi ch wa.toNat 4 || anyPoi ch ta 2 || (!zeroFill B ix && anyPoi ch ub.toNat 4) then
      (outAdd (outEl (8 * wa) 32 (fb.1 n % 2 ^ 32) true) (outEl (8 * (ta : Int)) 16 (fb.1 n % 65536) true),
        (⟨none, false, false, false, false⟩ : WEl))
    else
      let u : Word := if zeroFill B ix then 0 else BitVec.ofNat 32 (rdNat ch ub.toNat 4)
      let x := mupdEl (BitVec.ofNat 32 (rdNat ch wa.toNat 4)) (rdNat ch ta 2) u
      (outAdd (outEl (8 * wa) 32 x.w false) (outEl (8 * (ta : Int)) 16 x.tail false), x.el)
  let o := outAll (r.map Prod.fst)
  let ch1 := watchEls (applyOut fb.2 o) g A.tid (r.map Prod.snd) 0 0
  raiseIf o.poisoned ch1 .vecPoisonOut g

def mupdCheck (ch : Chip) (g : Nat) (i : QInstr) : Option Nat :=
  let A := descD i.fA
  let B := descD i.fB
  firstBad [
    ((descOf i.fA).isSome && (descOf i.fB).isSome && vopParamOk i.fP, 2),
    (A.fmt == .f32x && B.fmt == .f32 && !vopHeritage i.fP, 2),
    (descRules A false && descRules B true && A.ext == B.ext, 2),
    (!partOverlap A B none none, 2),
    (decide (numel A = 0) || (descOk ch g A true true true && descOk ch g B true false false), 3)]

def execMupd (c : CoreRun) (s : State) : Host.Outcome State Fault Refusal :=
  onChip s (coreRun c .vector .mupd fun ch i => (mupdEffect ch c.core.val i, i))

/-! ### Elementwise operations and column sums (R256) -/

/-- Formats a VOP accepts (R256, R164). -/
def vopFmt (h : Bool) (f : Fmt) : Bool :=
  if h then heritageFmt f else isElement f || isBlock f || f == .f16s

def needB (op : Op) : Bool :=
  match op with
  | .vopAdd | .vopSub | .vopMul | .vopFma | .vopMax | .vopMin => true
  | _ => false

def vopCheck (ch : Chip) (g : Nat) (op : Op) (i : QInstr) : Option Nat :=
  let p := i.fP
  let h := vopHeritage p
  let A := descD i.fA
  let B := descD i.fB
  let C := descD i.fC
  let useB := needB op && !vopBScalar p
  let aMem := !vopATile p
  let col := op == .colsum
  let empty := decide (numel A = 0)
  firstBad [
    ((descOf i.fA).isSome && (descOf i.fC).isSome && (!useB || (descOf i.fB).isSome) && vopParamOk p, 2),
    ((!aMem || vopFmt h A.fmt) && vopFmt h C.fmt && (!useB || vopFmt h B.fmt), 2),
    ((!aMem || descRules A true) && descRules C false && (!useB || descRules B true), 2),
    (if col then C.ndims == 1 && C.ext.headD 0 == A.ext.headD 0
      else A.ext == C.ext && (!useB || B.ext == C.ext), 2),
    (empty || ((!aMem || !partOverlap C A none none) && (!useB || !partOverlap C B none none)), 2),
    (tileOk (shapeTiles (tShape op i)), 0x102),
    (empty || ((!aMem || descOk ch g A true false true) && descOk ch g C true true true &&
      (!useB || descOk ch g B true false true)), 3)]

/-- A as F32: from memory, or from the tiles (R255). -/
def vopA (ch : Chip) (g : Nat) (i : QInstr) (A : Desc) (s : TShape) (ix : List Nat) : Option Word :=
  if vopATile i.fP then
    let t := tileAt s.base s.pitch (lin A.ext.tail ix.tail) (ix.headD 0)
    let x := tileOf ch g t.1
    if x.poison then none else some (tileEl x t.2)
  else (readEl ch A ix).map toF32

/-- The result of an elementwise operation with one rounding in F32 (R256, R519). -/
def vopResult (h : Bool) (op : Op) (p : Nat) (a b c : Word) : Word :=
  match op with
  | .vopAdd => f32Add h a b
  | .vopSub => f32Sub h a b
  | .vopMul => f32Mul h a b
  | .vopFma => f32Fma h a b c
  | .vopMax => f32Op2 h vmax a b
  | .vopMin => f32Op2 h vmin a b
  | .sfu => sfuF h (eb p 1 1) a
  | .scale => ftzIf h (toF32 (vscale (ofF32 (ftzIf h a)) (sx 8 (eb p 6 6))))
  | _ => ftzIf h a

/-- The elements of one row of dimension 0 of an elementwise result. -/
def vopRow (ch : Chip) (g : Nat) (op : Op) (i : QInstr) (tail : List Nat) : List (Option Word) :=
  let p := i.fP
  let h := vopHeritage p
  let A := descD i.fA
  let B := descD i.fB
  let C := descD i.fC
  let s := tShape op i
  (List.range (C.ext.headD 0)).map fun n =>
    let ix := n :: tail
    let a := vopA ch g i A s ix
    let b := if ¬ needB op then some 0 else if vopBScalar p then some (vopScalar p) else (readEl ch B ix).map toF32
    let c := if op = .vopFma then (readEl ch C ix).map toF32 else some 0
    match a, b, c with
    | some a, some b, some c => some (vopResult h op p a b c)
    | _, _, _ => none

/-- The exact or heritage sum of terms in F32: groups of 16 rounded once each (R203, R165); none when a term is
poisoned. -/
def groupedSum (h : Bool) (terms : List (Option Val)) : Option Word :=
  if terms.any Option.isNone then none
  else
    let ts := terms.map fun t => t.getD .nan
    if h then
      some (ts.foldl (fun acc t => ftz (toF32 (vadd (ofF32 acc) (ofF32 (ftz (toF32 t)))))) 0)
    else
      some ((List.range ((ts.length + 15) / 16)).foldl (fun acc k =>
        let gsum := ((ts.drop (16 * k)).take 16).foldl (fun (r : Option Val) t =>
          match r with | none => some t | some x => some (vadd x t)) none
        match gsum with | some v => toF32 (vadd (ofF32 acc) v) | none => acc) 0)

/-- The column sums of a COLSUM. -/
def colsumRow (ch : Chip) (g : Nat) (i : QInstr) : List (Option Word) :=
  let A := descD i.fA
  let h := vopHeritage i.fP
  let s := tShape .colsum i
  (List.range (A.ext.headD 0)).map fun n =>
    groupedSum h ((List.range (prodN A.ext.tail)).map fun r =>
      (vopA ch g i A s (n :: unlin A.ext.tail r)).map fun w => ofF32 (ftzIf h w))

def vopEffect (ch : Chip) (g : Nat) (op : Op) (i : QInstr) : Chip :=
  let h := vopHeritage i.fP
  let C := descD i.fC
  let A := descD i.fA
  let ch := if vopATile i.fP then (shapeTiles (tShape op i)).foldl (fun c t => tileRead c g t) ch else ch
  let fb := freeBits ch
  if numel C = 0 ∨ numel A = 0 then ch
  else
    let enc := if op = .colsum then
        encRow C (vopRtz i.fP) h fb.1 none [] ((colsumRow ch g i).map fun w => encOf (w.map ofF32))
      else encAll ((List.range (prodN C.ext.tail)).map fun r =>
        let tail := unlin C.ext.tail r
        encRow C (vopRtz i.fP) h fb.1 none tail ((vopRow ch g op i tail).map fun w => encOf (w.map ofF32)))
    let nan := op == .sfu && (List.range (prodN C.ext.tail)).any fun r =>
      let tail := unlin C.ext.tail r
      (List.range (C.ext.headD 0)).any fun n =>
        match vopA ch g i A (tShape op i) (n :: tail) with
        | some a => sfuNan h (eb i.fP 1 1) a
        | none => false
    let ch1 := applyEnc fb.2 g C.tid enc
    let ch2 := raiseIf nan (raiseIf enc.out.poisoned ch1 .vecPoisonOut g) .vecSfuNan g
    let ch3 := if op = .sfu then countCore ch2 g 76 (numel C) else ch2
    let ch4 := if vopATile i.fP then (shapeTiles (tShape op i)).foldl (fun c t => updTile c g t fun x => { x with lastq := 3 }) ch3
      else ch3
    raiseIf h ch4 .vecHeritageOp g

/-- An elementwise operation or column sum runs. -/
def vopRun (r : CoreRun) (op : Op) (s : State) : Host.Outcome State Fault Refusal :=
  onChip s (coreRun r .vector op fun ch i => (vopEffect ch r.core.val op i, i))

def execVopAdd (r : CoreRun) (s : State) : Host.Outcome State Fault Refusal :=
  vopRun r .vopAdd s
def execVopSub (r : CoreRun) (s : State) : Host.Outcome State Fault Refusal :=
  vopRun r .vopSub s
def execVopMul (r : CoreRun) (s : State) : Host.Outcome State Fault Refusal :=
  vopRun r .vopMul s
def execVopFma (r : CoreRun) (s : State) : Host.Outcome State Fault Refusal :=
  vopRun r .vopFma s
def execVopMax (r : CoreRun) (s : State) : Host.Outcome State Fault Refusal :=
  vopRun r .vopMax s
def execVopMin (r : CoreRun) (s : State) : Host.Outcome State Fault Refusal :=
  vopRun r .vopMin s
def execCvt (r : CoreRun) (s : State) : Host.Outcome State Fault Refusal :=
  vopRun r .cvt s
def execSfu (r : CoreRun) (s : State) : Host.Outcome State Fault Refusal :=
  vopRun r .sfu s
def execScale (r : CoreRun) (s : State) : Host.Outcome State Fault Refusal :=
  vopRun r .scale s
def execColsum (r : CoreRun) (s : State) : Host.Outcome State Fault Refusal :=
  vopRun r .colsum s

/-! ### Second reductions (R203 to R206, R259) -/

/-- A VRED2 of a fetched instruction: row dimensions, row length, the outer extents and the rows selected. -/
structure Vred where
  a : Desc
  b : Desc
  c : Desc
  rd : Nat
  len : Nat
  outer : List Nat
  rows : Option (Nat × Nat)
  sel : Option (Nat × Nat × Nat)
  h : Bool
  center : Bool
  deriving DecidableEq, Repr

def vredOf (i : QInstr) : Vred :=
  let A := descAt i.fA (xByte i.x)
  let rd := eb i.fP 0 0
  let outer := A.ext.drop rd
  let n := selRows (outer.getLastD 1) (xIndex i.x) (eb i.fP 3 2)
  { a := A, b := descD i.fB, c := descD i.fC, rd := rd, len := prodN (A.ext.take rd), outer := outer,
    rows := rowsOf (outer.getLastD 1) (prodN outer.dropLast) (xIndex i.x) (eb i.fP 3 2),
    sel := if outer = [] then none else n.map fun k => (A.ndims - 1, xIndex i.x, k),
    h := ebit i.fP 1 1 1 == 1, center := wb i.word 0 0 == 1 }

def vredFmt (h : Bool) (f : Fmt) : Bool :=
  heritageFmt f || (!h && (f == .e4m3 || f == .e5m2))

def vredCheck (ch : Chip) (g : Nat) (op : Op) (i : QInstr) : Option Nat :=
  let v := vredOf i
  let p := i.fP
  let norm := op == .normBwd
  let gm := eb p 5 4
  let rh := eb p 7 6
  let G := descD i.f1
  let R := descD i.f2
  let rows := (v.rows.getD (0, 0)).2
  let rsel := v.sel.map fun x => (v.outer.length - 1, x.2)
  let empty := decide (rows = 0 ∨ v.len = 0)
  firstBad [
    (!xBad i.x, 2),
    ((descOf i.fA).isSome && (descOf i.fB).isSome && (descOf i.fC).isSome && ebit p 1 7 2 == 0 && extraOk gm &&
      extraOk rh && zeroBytes p 63 8, 2),
    (decide (1 ≤ v.rd ∧ v.rd ≤ 5 ∧ v.rd ≤ v.a.ndims), 2),
    (vredFmt v.h v.a.fmt && vredFmt v.h v.b.fmt && vredFmt v.h v.c.fmt, 2),
    (descRules v.a true && descRules v.b true && descRules v.c false, 2),
    (v.a.ext == v.b.ext && v.a.ext == v.c.ext, 2),
    (if norm then (extraIx rh).isSome else (extraIx rh).isNone && (extraIx gm).isNone && !v.center, 2),
    ((extraIx gm).isNone || ((descOf i.f1).isSome && heritageFmt G.fmt && descRules G false &&
      G.ext == v.a.ext.take v.rd), 2),
    (!norm || ((descOf i.f2).isSome && R.fmt == .f32 && descRules R false &&
      R.ext == (if v.outer = [] then [1] else v.outer)), 2),
    (v.rows.isSome && decide (v.len ≤ 65536 ∧ rows ≤ 65535), 2),
    (empty || (!partOverlap v.c v.a v.sel v.sel && !partOverlap v.c v.b v.sel v.sel), 2),
    (empty || (extraIx gm).isNone || !partOverlap v.c G v.sel none, 2),
    (empty || !norm || !partOverlap v.c R v.sel rsel, 2),
    (empty || (descOk ch g v.a true false false v.sel && descOk ch g v.b true false false v.sel &&
      descOk ch g v.c true true false v.sel), 3),
    (empty || (extraIx gm).isNone || descOk ch g G true false false, 3),
    (empty || !norm || descOk ch g R true false false rsel, 3)]

/-- The values of one row of an operand, in index order. -/
def vredRow (ch : Chip) (d : Desc) (v : Vred) (r : Nat) : List (Option Word) :=
  let o := unlin v.outer r
  (List.range v.len).map fun n => (readEl ch d (unlin (v.a.ext.take v.rd) n ++ o)).map fun x => ftzIf v.h (toF32 x)

/-- A product as a term of a reduction: exact, or rounded and flushed in heritage mode (R203). -/
def vredTerm (a b : Word) : Val := vmul (ofF32 a) (ofF32 b)

/-- out_i = s_i × (g_i − r) with r = Σ s_i g_i (R204). -/
def softmaxRow (h : Bool) (s g : List (Option Word)) : List (Option Word) :=
  let ps := (s.zip g).map fun p => match p.1, p.2 with | some a, some b => some (vredTerm a b) | _, _ => none
  match groupedSum h ps with
  | none => s.map fun _ => none
  | some r => (s.zip g).map fun p =>
    match p.1, p.2 with | some a, some b => some (f32Mul h a (f32Sub h b r)) | _, _ => none

/-- The normalisation backward step of one row (R205). -/
def normRow (h center : Bool) (x g gamma : List (Option Word)) (rho : Option Word) : List (Option Word) :=
  let hs := (g.zip gamma).map fun p => match p.1, p.2 with | some a, some b => some (f32Mul h a b) | _, _ => none
  let t2 := (hs.zip x).map fun p => match p.1, p.2 with | some a, some b => some (vredTerm a b) | _, _ => none
  let n : Val := .num false x.length 0
  let divn (w : Word) : Word := ftzIf h (f32DivVal (ofF32 w) n)
  match groupedSum h t2, groupedSum h (hs.map fun w => w.map ofF32), rho with
  | some r2, some r1, some rh =>
    let m2 := divn r2
    let m1 := if center then divn r1 else 0
    (hs.zip x).map fun p => match p.1, p.2 with
      | some a, some b => some (f32Mul h rh (f32Sub h (f32Sub h a m1) (f32Mul h b m2)))
      | _, _ => none
  | _, _, _ => x.map fun _ => none

def vredEffect (ch : Chip) (g : Nat) (op : Op) (i : QInstr) : Chip :=
  let v := vredOf i
  let rows := v.rows.getD (0, 0)
  let fb := freeBits ch
  if rows.2 = 0 ∨ v.len = 0 then ch
  else
    let gm : List (Option Word) :=
      if (extraIx (eb i.fP 5 4)).isSome then
        (List.range v.len).map fun n => (readEl ch (descD i.f1) (unlin (v.a.ext.take v.rd) n)).map fun x =>
          ftzIf v.h (toF32 x)
      else (List.range v.len).map fun _ => some f32One
    let e := encAll ((span rows.1 rows.2).map fun r =>
      let a := vredRow ch v.a v r
      let b := vredRow ch v.b v r
      let rho := (readEl ch (descD i.f2) (if v.outer = [] then [0] else unlin v.outer r)).map fun x =>
        ftzIf v.h (toF32 x)
      let out := if op = .softmaxBwd then softmaxRow v.h a b else normRow v.h v.center a b gm rho
      let o := unlin v.outer r
      encAll ((List.range (v.len / v.c.ext.headD 1)).map fun k =>
        encRow v.c (ebit i.fP 1 0 0 == 1) v.h fb.1 none (unlin ((v.c.ext.take v.rd).drop 1) k ++ o)
          (((out.drop (k * v.c.ext.headD 1)).take (v.c.ext.headD 1)).map fun w => encOf (w.map ofF32))))
    let ch1 := applyEnc fb.2 g v.c.tid e
    let ch2 := countCore (raiseIf e.out.poisoned ch1 .vecPoisonOut g) g 74 rows.2
    raiseIf v.h ch2 .vecHeritageOp g

def execSoftmaxBwd (c : CoreRun) (s : State) : Host.Outcome State Fault Refusal :=
  onChip s (coreRun c .vector .softmaxBwd fun ch i => (vredEffect ch c.core.val .softmaxBwd i, i))
def execNormBwd (c : CoreRun) (s : State) : Host.Outcome State Fault Refusal :=
  onChip s (coreRun c .vector .normBwd fun ch i => (vredEffect ch c.core.val .normBwd i, i))

end Sys2Proof.Machine
end

