-- ==== Sys2Proof/Machine/Drain.lean ====
section
/-! DEFINITION. DRN: epilogues, tag shifts, TILE escalation and the output (06_accumulation.md R143, R144, R517;
08_training_numerics.md R181; 09_backward_pass.md R196 to R202; 11_tensor_descriptors.md R257, R258). -/

namespace Sys2Proof.Machine

def drnFwd (p : Nat) : Nat := eb p 5 5
def drnAux (p : Nat) : Nat := eb p 6 6
def drnDfn (p : Nat) : Nat := eb p 7 7
def drnRtz (p : Nat) : Bool := ebit p 4 0 0 == 1
def drnHeritage (p : Nat) : Bool := ebit p 4 1 1 == 1
def drnOscale (p : Nat) : Nat := eb p 21 16
def drnC (p : Nat) (bit : Bool) : Word :=
  if ebit p 4 2 2 = 1 then BitVec.ofNat 32 (if bit then eb p 11 8 else eb p 15 12) else if bit then f32One else 0

/-- A format whose tag shift goes to the tag array or into the values (R144). -/
def plainFmt (f : Fmt) : Bool := isElement f

/-- The drain writes a tag array: GRAD class, a plain format and a pointer (R144, R243). -/
def writesTags (C : Desc) : Bool := C.grad && plainFmt C.fmt && C.sptr != 0

/-- The formats of an auxiliary tensor (R258). -/
def auxFmt (aux : Nat) (f : Fmt) : Bool :=
  match aux with
  | 1 | 4 => f == .bit
  | 2 | 6 => heritageFmt f || f == .e4m3
  | 3 | 5 => heritageFmt f
  | _ => false

/-- The drain of a fetched instruction: its rows and the selection of its outermost dimension. -/
def drnSel (i : QInstr) : Option (Option (Nat × Nat × Nat)) :=
  let C := descD i.fC
  if C.ndims = 1 then (selRows 1 (xIndex i.x) (eb i.fP 3 2)).map fun _ => none
  else (selRows (C.ext.getLastD 0) (xIndex i.x) (eb i.fP 3 2)).map fun n => some (C.ndims - 1, xIndex i.x, n)

def drnCheck (ch : Chip) (g : Nat) (i : QInstr) : Option Nat :=
  let p := i.fP
  let h := drnHeritage p
  let C := descD i.fC
  let A := descAt i.fA (xByte i.x)
  let s := tShape .drn i
  let aux := drnAux p
  let sel := (drnSel i).getD none
  let empty := decide (s.rows = 0 ∨ s.cols = 0)
  let tagArr := writesTags C
  firstBad [
    (!xBad i.x, 2),
    ((descOf i.fC).isSome && (aux == 0 || (descOf i.fA).isSome), 2),
    (ebit p 4 7 3 == 0 && decide (drnFwd p ≤ 5 ∧ aux ≤ 6 ∧ drnDfn p ≤ 5) && zeroBytes p 63 22, 2),
    (if aux ≤ 3 ∧ 1 ≤ aux then drnFwd p == 0 else aux == 0 || drnFwd p != 0, 2),
    (if aux = 3 then drnDfn p != 0 else drnDfn p == 0, 2),
    (ebit p 4 2 2 == 1 || zeroBytes p 15 8, 2),
    ((isElement C.fmt || isBlock C.fmt || C.fmt == .f16s) && (!h || heritageFmt C.fmt), 2),
    (plainFmt C.fmt || drnOscale p == 0, 2),
    (descRules C false, 2),
    (aux == 0 || (auxFmt aux A.fmt && (!h || heritageFmt A.fmt) && descRules A false && A.ext == C.ext), 2),
    ((drnSel i).isSome, 2),
    (tileOk (shapeTiles s), 0x102),
    (empty || spanOk ch g true true (joinSpan (operandSpan C true (!plainFmt C.fmt) sel)
      (if tagArr then some (C.sptr, C.sptr + ((shapeTiles s).length : Nat) - 1) else none)), 3),
    (empty || aux == 0 || descOk ch g A true (decide (4 ≤ aux)) false sel, 3),
    (drnOscale p == 0 || spanOk ch g false false (some (drnOscale p, drnOscale p)), 3)]

/-! ### Functions (R199, R258) -/

/-- f(z) by code: 1 relu, 2 tanh, 3 sigmoid, 4 silu, 5 gelu; NaN and infinities as R258 tables them. -/
def fwdF (h : Bool) (fn : Nat) (z : Word) : Word :=
  let zf := ftzIf h z
  let one := f32One
  let sig := sfuF h 2 (f32Add h one (sfuF h 0 (zf ^^^ 0x80000000)))
  match ofF32 zf with
  | .nan => f32Nan
  | .inf s => match fn with
    | 1 => if s then 0 else zf
    | 2 => if s then 0xBF800000 else one
    | 3 => if s then 0 else one
    | 4 => if s then 0x80000000 else zf
    | 5 => if s then 0x80000000 else zf
    | _ => zf
  | .num s m _ => match fn with
    | 1 => if ¬ s ∧ m ≠ 0 then zf else 0
    | 2 => sfuF h 4 zf
    | 3 => sig
    | 4 => f32Mul h zf sig
    | 5 => f32Mul h zf (f32Mul h f32Half (f32Add h one (sfuF h 5 (f32Mul h zf 0x3f3504f3))))
    | _ => zf

/-- f′(z) (R199). -/
def fprime (h : Bool) (fn : Nat) (z : Word) : Word :=
  let zf := ftzIf h z
  let one := f32One
  let s0 := sfuF h 2 (f32Add h one (sfuF h 0 (zf ^^^ 0x80000000)))
  match ofF32 zf with
  | .nan => if fn = 1 then 0 else f32Nan
  | .inf s => match fn with
    | 1 | 4 | 5 => if s then 0 else one
    | _ => 0
  | .num s m _ => match fn with
    | 1 => if ¬ s ∧ m ≠ 0 then one else 0
    | 2 => let t := sfuF h 4 zf
      f32Sub h one (f32Mul h t t)
    | 3 => f32Mul h s0 (f32Sub h one s0)
    | 4 => f32Mul h s0 (f32Add h one (f32Mul h zf (f32Sub h one s0)))
    | 5 =>
      let phi := f32Mul h f32Half (f32Add h one (sfuF h 5 (f32Mul h zf 0x3f3504f3)))
      let dens := f32Mul h (sfuF h 0 (f32Mul h 0xBF000000 (f32Mul h zf zf))) 0x3ecc422a
      f32Add h phi (f32Mul h zf dens)
    | _ => one

/-- Special-function evaluations per element (R201). -/
def sfuEvals (fn aux dfn : Nat) : Nat :=
  let d (x : Nat) : Nat := match x with | 2 => 1 | 3 | 4 | 5 => 2 | _ => 0
  if aux = 3 then d dfn
  else if aux = 6 then d fn
  else match fn with | 2 => 1 | 3 | 4 => 2 | 5 => 1 | _ => 0

/-- A product with a derivative constant: ±0.0 selects +0.0 and keeps the count of a non-finite v (R197). -/
def mulConst (h : Bool) (c v : Word) : Word × Bool :=
  if c &&& 0x7FFFFFFF = 0 then (0, !visFinite (ofF32 v)) else (f32Mul h v c, false)

/-- The epilogue of one tile element v: its value and whether it is counted non-finite, as an overflow of the tile is
whatever a function makes of it (R141, R174); none when an auxiliary word
is poisoned (R196 to R199, R202). -/
def epilogue (ch : Chip) (i : QInstr) (A : Desc) (ix : List Nat) (v : Word) : Option (Word × Bool) :=
  let p := i.fP
  let h := drnHeritage p
  let v := ftzIf h v
  match drnAux p with
  | 1 => match readEl ch A ix with
    | none => none
    | some b => some (mulConst h (ftzIf h (drnC p (!visZero b))) v)
  | 2 => match readEl ch A ix with
    | none => none
    | some d => some (f32Mul h v (ftzIf h (toF32 d)), false)
  | 3 => match readEl ch A ix with
    | none => none
    | some z =>
      let f := fprime h (drnDfn p) (toF32 z)
      if drnDfn p = 1 then some (mulConst h f v) else some (f32Mul h v f, false)
  | _ => some (if drnFwd p = 0 then v else fwdF h (drnFwd p) v, !visFinite (ofF32 v))

/-- The scale byte of a plain output, read when the parameter block is fetched (R258), and whether it is poisoned. -/
def drnScaleByte (ch : Chip) (i : QInstr) : List Nat × Bool :=
  let a := drnOscale i.fP
  if a = 0 then ([], false) else ([rdNat ch a 1], anyPoi ch a 1)

/-- The output scale: none, its code, or poisoned as 0xFF (R153, R258). -/
def drnOsc (i : QInstr) : Option Nat := i.aux.head?.map fun v => if i.auxPoi then 0xFF else v

/-- The tag shift applied to a value in F32, where neither the output's scales nor a tag array take it (R144). -/
def tagApplied (C : Desc) (tag : Nat) (v : Val) : Val :=
  if tag ≠ 0 ∧ plainFmt C.fmt ∧ ¬ writesTags C then ofF32 (toF32 (vscale v tag)) else v

/-- One element of a drain on its way into dC (R143, R144, R202): a poisoned tile keeps its values under the mark, and
f′ is not evaluated. -/
def drnEl (ch : Chip) (g : Nat) (i : QInstr) (s : TShape) (C A : Desc) (r n : Nat) : EncEl :=
  let t := tileAt s.base s.pitch r n
  let x := tileOf ch g t.1
  let ix := n :: unlin C.ext.tail r
  if x.poison then ⟨none, 0, false, some (tagApplied C (8 * x.tag) (ofF32 (tileEl x t.2)))⟩
  else match epilogue ch i A ix (tileEl x t.2) with
    | none => ⟨none, 0, false, none⟩
    | some (w, nf) =>
      let tag := 8 * x.tag
      ⟨some (tagApplied C tag (ofF32 w)), if plainFmt C.fmt ∧ ¬ writesTags C then 0 else tag, nf, none⟩

/-- One row of the output. A row of a poisoned tile in an element format writes the held value under the mark. -/
def drnRow (ch : Chip) (g : Nat) (i : QInstr) (s : TShape) (C A : Desc) (fr : Nat → Nat) (r : Nat) : Enc :=
  encRow C (drnRtz i.fP) (drnHeritage i.fP) fr (drnOsc i) (unlin C.ext.tail r)
    ((List.range s.cols).map fun n => drnEl ch g i s C A r n)

/-- What the drain writes to the auxiliary tensor for one row (R200). -/
def drnAuxRow (ch : Chip) (g : Nat) (i : QInstr) (s : TShape) (C A : Desc) (fr : Nat → Nat) (r : Nat) : Enc :=
  let p := i.fP
  let h := drnHeritage p
  encAll ((List.range s.cols).map fun n =>
    let t := tileAt s.base s.pitch r n
    let x := tileOf ch g t.1
    let ix := n :: unlin C.ext.tail r
    let z := ftzIf h (tileEl x t.2)
    let e : EncEl := if x.poison then ⟨none, 0, false, none⟩ else
      encOf (some (match drnAux p with
        | 4 => .num false (if vlt (.num false 0 0) (ofF32 z) then 1 else 0) 0
        | 5 => ofF32 z
        | _ => ofF32 (fprime h (drnFwd p) z)))
    if drnAux p = 4 then
      match e.v with
      | some v => ⟨outEl (elemBit A ix) 1 (if visZero v then 0 else 1) false, [], 0, 0⟩
      | none => ⟨outEl (elemBit A ix) 1 (fr (elemBit A ix).toNat % 2) true, [], 0, 0⟩
    else encElem A (drnRtz p) h fr none ix e)

/-! ### Escalation of a tile (R181) -/

/-- The rows of the drain inside a tile row. -/
def bandRows (s : TShape) (b : Nat) : List Nat := (span s.row0 s.rows).filter fun r => r / 16 == b

/-- The trigger: the tile holds a non-finite value, or its elements, blocks or chunks would saturate. Reason 1 is
non-finite, 2 saturation (R181, R183). -/
def tileTrigger (ch : Chip) (g : Nat) (i : QInstr) (s : TShape) (C A : Desc) (b bc : Nat) : Nat :=
  let rows := bandRows s b
  let cols := (span (16 * bc) 16).filter fun n => decide (n < s.cols)
  let x := tileOf ch g (s.base + b * s.pitch + bc)
  let nonf := (List.range 256).any fun k => !visFinite (ofF32 (tileEl x k))
  let len := pieceLen C.fmt
  let fr : Nat → Nat := fun _ => 0
  let sat := rows.any fun r =>
    if len = 1 then cols.any fun n =>
      (encElem C (drnRtz i.fP) (drnHeritage i.fP) fr (drnOsc i) (n :: unlin C.ext.tail r)
        (drnEl ch g i s C A r n)).els.any fun e => e.sat
    else (List.range ((s.cols + len - 1) / len)).any fun k =>
      let ns := span (k * len) (min len (s.cols - k * len))
      ns.any (fun n => cols.contains n) &&
        (let ixs := ns.map fun n => n :: unlin C.ext.tail r
         let es := ns.map fun n => drnEl ch g i s C A r n
         0 < (if len = 32 then encBlock C (drnRtz i.fP) fr ixs es else encChunk C (drnRtz i.fP) fr ixs es).satB)
  if nonf then 1 else if sat then 2 else 0

/-- The tile can be re-run: a tile poisoned by an exhausted replay cannot, one poisoned otherwise can (R181). -/
def tileEscalatable (x : Tile) : Bool :=
  !x.arr && !x.more && !x.gpoi && x.recs.all recEscalatable

/-- A level above the ladder of a recorded MMA is above the ceiling (R180). -/
def ladderReaches (x : Tile) (level : Nat) : Bool :=
  x.recs.all fun r => (ladder (mmaOf (recInstr r)).a.fmt level).isSome && (ladder (mmaOf (recInstr r)).b.fmt level).isSome

/-- Repeats the preload or empties the tile, and re-runs its MMAs at a level. -/
def rerunTile (ch : Chip) (g t level : Nat) : Chip :=
  let x := tileOf ch g t
  let ch1 := match x.pre with
    | some pre => repeatPreload ch g t pre
    | none => updTile ch g t fun _ => { tileEmpty with fail := x.fail }
  let ch2 := x.recs.foldl (fun c r => rerunMma c g t level r) ch1
  updTile ch2 g t fun y => { y with recs := x.recs, pre := x.pre, lastq := x.lastq }

/-- The budget a core has spent on a tensor id in the step (R181). -/
def spentOf (ch : Chip) (g da tid : Nat) : Nat :=
  let a := accOf ch g
  if a.spentStep = hdrStep ch da then tget a.spent 0 tid else 0

def spendOne (ch : Chip) (g da tid : Nat) : Chip :=
  let n := spentOf ch g da tid
  let st := hdrStep ch da
  let ch1 := updAcc ch g fun a =>
    { a with spent := tput (if a.spentStep = st then a.spent else []) tid (n + 1), spentStep := st }
  let ra := da + recOff (hdrBank ch1 da) tid
  if tid = 0 then ch1 else rgPut ch1 da (ra + 60 - da) 2 (min 65535 (rdNat ch1 (ra + 60) 2 + 1))

/-- The states of R181 for one tile: re-runs while the trigger fires, the level is below the ceiling and budget is
left. A tile that is not escalatable is so whatever its level and budget (DESIGN CHOICE, log 156). -/
def escalateTile (fuel : Nat) (ch : Chip) (g da : Nat) (i : QInstr) (s : TShape) (C A : Desc) (b bc level : Nat) :
    Chip :=
  let t := s.base + b * s.pitch + bc
  let tr := tileTrigger ch g i s C A b bc
  if tr = 0 then ch
  else match fuel with
  | 0 => ch
  | fuel + 1 =>
    let x := tileOf ch g t
    let pol := escPolicy ch g C
    if ¬ tileEscalatable x then escLog (raise ch .wchEscUnable g) g da C.tid 1 level 6 t
    else if level < pol.2.2 ∧ ladderReaches x (level + 1) ∧ spentOf ch g da C.tid < pol.2.1 then
      let ch1 := tileRead (rerunTile (spendOne ch g da C.tid) g t (level + 1)) g t
      let ch2 := escLog (raise (regSat ch1 .wchEsc g 15 0 1) .wchEscTile g) g da C.tid 1 (level + 1) tr t
      escalateTile fuel ch2 g da i s C A b bc (level + 1)
    else escExhausted ch g da C.tid 1 level t

/-! ### The drain -/

/-- The tiles of a drain in output order: (tile row, tile column) (R517). -/
def drnTiles (s : TShape) : List (Nat × Nat) :=
  if s.rows = 0 then [] else
  (span (s.row0 / 16) ((s.row0 + s.rows - 1) / 16 - s.row0 / 16 + 1)).flatMap fun b =>
    (List.range ((s.cols + 15) / 16)).map fun bc => (b, bc)

/-- The effect of a drain. Functions are evaluated, and counted, for elements of tiles without poison only (R202; log
133). -/
def drnEffect (ch : Chip) (g : Nat) (i : QInstr) : Chip :=
  let p := i.fP
  let s := tShape .drn i
  let C := descD i.fC
  let A := descAt i.fA (xByte i.x)
  if s.rows = 0 ∨ s.cols = 0 then ch
  else
    let tiles := drnTiles s
    let ch := tiles.foldl (fun c b => tileRead c g (s.base + b.1 * s.pitch + b.2)) ch
    let ch1 := match statOfCore ch g with
      | some da => if (escPolicy ch g C).1 = 1 then
          tiles.foldl (fun c b => escalateTile 4 c g da i s C A b.1 b.2 0) ch
        else ch
      | none => ch
    let tno (b : Nat × Nat) : Nat := s.base + b.1 * s.pitch + b.2
    let fb := freeBits ch1
    let rows := span s.row0 s.rows
    let e := encAll (rows.map fun r => drnRow ch1 g i s C A fb.1 r)
    let tags : Out := if writesTags C then
        outAll ((List.range tiles.length).map fun k =>
          outEl (8 * ((C.sptr + k : Nat) : Int)) 8 (8 * (tileOf ch1 g (tno (tiles.getD k (0, 0)))).tag) false)
      else outNone
    let aux : Enc := if 4 ≤ drnAux p then encAll (rows.map fun r => drnAuxRow ch1 g i s C A fb.1 r) else encNone
    let auxPoi := decide (1 ≤ drnAux p ∧ drnAux p ≤ 3) && rows.any fun r => (List.range s.cols).any fun n =>
      (readEl ch1 A (n :: unlin C.ext.tail r)).isNone
    let gradDrain := tiles.any fun b => 0 < (tileOf ch1 g (tno b)).tag
    let ch2 := applyEnc fb.2 g C.tid { e with out := outAdd (outAdd e.out tags) aux.out }
    let ch3 := if 5 ≤ drnAux p then watchEls ch2 g A.tid aux.els aux.satB aux.nonfB else ch2
    let ch4 := raiseIf (e.out.poisoned || aux.out.poisoned) ch3 .vecPoisonOut g
    let ch5 := raiseIf auxPoi (raiseIf gradDrain ch4 .vecGradDrain g) .vecAuxPoison g
    let live := (rows.map fun r => ((List.range s.cols).filter fun n =>
      !(tileOf ch1 g (tileAt s.base s.pitch r n).1).poison).length).foldl (· + ·) 0
    let ch6 := countCore (countCore ch5 g 75 tiles.length) g 76 (live * sfuEvals (drnFwd p) (drnAux p) (drnDfn p))
    let ch7 := raiseIf (drnHeritage p) ch6 .vecHeritageOp g
    tiles.foldl (fun c b => updTile c g (tno b) fun _ => { tileEmpty with lastq := 3 }) ch7

/-- A started drain runs. -/
def execDrn (r : CoreRun) (s : State) : Host.Outcome State Fault Refusal :=
  onChip s (coreRun r .vector .drn fun ch i => (drnEffect ch r.core.val i, i))

end Sys2Proof.Machine
end

