-- ==== Sys2Proof/Machine/ArrayProg.lean ====
section
/-! DEFINITION. The array programmer: loads, transfers, batches, moves to spares, refresh and the wear log
(02_array_storage.md R34 to R63, R514; 11_tensor_descriptors.md R254). -/

namespace Sys2Proof.Machine

/-! ### When the programmer runs (R28, R57) -/

/-- The core's programmer may begin something: its clocks run and its block is ENABLED. -/
def progReady (ch : Chip) (g : Nat) : Bool :=
  enabled ch .prg g && islandRuns ch (g / 128) && islandRuns ch (8 + g / 128) && !(towerOf ch (g / 128)).fenced

/-- No read waits for or runs on a physical array (R55, R86). -/
def noReads (ch : Chip) (g a : Nat) : Bool := !(bankOf ch g).reads.any fun r => r.phys == a

/-! ### APG (R37, R52, R54, R254) -/

def apgLogical (i : QInstr) : Nat := eb i.fP 1 1 + xArray i.x
def apgMaster (i : QInstr) : Desc := descAt i.fA (xByte i.x + sx 32 (eb i.fP 27 24) * xArray i.x)
def apgAuto (p : Nat) : Bool := ebit p 0 0 0 == 1
def apgScaleDa (p : Nat) : Nat := eb p 13 8
def apgImageDa (p : Nat) : Nat := eb p 21 16
def apgRow0 (p : Nat) : Nat := eb p 3 2
def apgCol0 (p : Nat) : Nat := eb p 5 4

/-- The column scales at an address. -/
def readScales (ch : Chip) (a : Nat) : List Nat := (List.range 128).map fun w => rdNat ch (a + w) 1

def masterDescOk (A : Desc) : Bool :=
  (A.fmt == .f32 || A.fmt == .f32x) && A.ext == [128, 512] && A.str == [4, 512] && descRules A false

/-- The checks of APG LOAD (R245, R254). -/
def loadCheck (ch : Chip) (g : Nat) (i : QInstr) : Option Nat :=
  let p := i.fP
  let A := apgMaster i
  firstBad [
    (!xBad i.x && decide (apgLogical i ≤ 127), 2),
    ((descOf i.fA).isSome, 2),
    (ebit p 0 7 1 == 0 && zeroBytes p 5 2 && zeroBytes p 7 6 && zeroBytes p 15 14 && zeroBytes p 23 22 &&
      zeroBytes p 63 28, 2),
    (!apgAuto p || apgScaleDa p == 0, 2),
    (apgImageDa p % 256 == 0, 2),
    (masterDescOk A, 2),
    (apgAuto p || !spanOk ch g false false (some (apgScaleDa p, apgScaleDa p + 127)) ||
      !(readScales ch (apgScaleDa p)).contains 0xFF, 2),
    (descOk ch g A false false false, 3),
    (apgAuto p || spanOk ch g false false (some (apgScaleDa p, apgScaleDa p + 127)), 3),
    (decide (apgImageDa p + 0x40000 ≤ hbmEnd) &&
      spanOk ch g false true (some (apgImageDa p, apgImageDa p + 0x3FFFF)), 3),
    (serves ch g (apgLogical i), 6)]

/-- The master words of a column. -/
def columnWords (ch : Chip) (master w : Nat) : List Word :=
  (List.range 512).map fun r => BitVec.ofNat 32 (rdNat ch (master + r * 512 + w * 4) 4)

/-- The automatic scales of an array (R37). -/
def autoScales (ch : Chip) (master : Nat) : List Nat :=
  (List.range 128).map fun w => autoScale (columnWords ch master w)

/-- Loads the array that serves logical position l from master weights: pending entries are discarded (R57), the array
table is written (R42), and the cells are (R39). With a poisoned scale byte, or a poisoned master word, the array is left
unloaded (DESIGN CHOICE for APG LOAD, log 57: R514 names ARRAY_PROGRAM). -/
def loadPosition (ch : Chip) (g l master image : Nat) (scales : List Nat) (poisoned : Bool) (obs : List CellObs) :
    Chip :=
  let a := physOf ch g l
  let ch1 := updArr (dropTransfers ch g a) g a fun x =>
    { x with master := master, image := image, job := coreJob ch g, loaded := false
             scales := (List.range 128).foldl (fun t w => tput t w (scales.getD w 0)) [] }
  if poisoned then ch1 else loadArray ch1 g a false obs

/-- What an APG LOAD reads at its start (R254): the scale bytes, and whether one of them is poisoned. -/
def loadAux (ch : Chip) (i : QInstr) : List Nat × Bool :=
  if apgAuto i.fP then ([], false) else (readScales ch (apgScaleDa i.fP), anyPoi ch (apgScaleDa i.fP) 128)

/-- A load of a position may begin: the programmer is idle, no read waits for the array, and no move of the position is
under way (R19, R55, R57). -/
def loadReady (ch : Chip) (g l : Nat) : Bool :=
  progReady ch g && (bankOf ch g).batch.isNone && noReads ch g (physOf ch g l) &&
    !(bankOf ch g).moves.any fun m => m.logical == l

/-- Weight entries of transfers that a core holds, those of the batch in progress among them (R54). -/
def transfers (b : Bank) : Nat :=
  (b.xq.filter fun q => !q.refresh).length +
    (match b.batch with | some t => (t.wts.filter fun q => !q.refresh).length | none => 0)

/-- APG LOAD loads its position; while the transfer queue is full it waits (R54), and where the position has lost its array
since it started it faults (R19). -/
def execApgLoad (c : CoreRun) (obs : List CellObs) (s : State) : Host.Outcome State Fault Refusal :=
  onChip s fun ch =>
    let g := c.core.val
    match (coreOf ch g).q.find? fun i => i.q == .programmer && i.phase == .started with
    | none => ch
    | some i =>
      if decodeWord i.word ≠ some .apgLoad ∨ ¬ loadReady ch g (apgLogical i) then ch
      else if ¬ serves ch g (apgLogical i) then queueFault ch g 6 i
      else if 16384 ≤ transfers (bankOf ch g) then raise ch .prgQueueFull g
      else coreRun c .programmer .apgLoad (ch := ch) (f := fun ch i =>
        let m := (apgMaster i).base.toNat
        (loadPosition ch g (apgLogical i) m (apgImageDa i.fP) (if apgAuto i.fP then autoScales ch m else i.aux) i.auxPoi
          obs, i))

/-- The checks of APG TRANSFER (R245, R254). -/
def transferCheck (ch : Chip) (g : Nat) (i : QInstr) : Option Nat :=
  let p := i.fP
  let A := apgMaster i
  firstBad [
    (!xBad i.x && decide (apgLogical i ≤ 127), 2),
    ((descOf i.fA).isSome, 2),
    (ebit p 0 7 0 == 0 && zeroBytes p 23 6 && zeroBytes p 63 28, 2),
    (decide (apgRow0 p ≤ 511 ∧ apgCol0 p ≤ 127), 2),
    ((A.fmt == .f32 || A.fmt == .f32x) && A.ndims == 2 && descRules A false &&
      decide (A.ext.getD 0 0 ≤ 128 - apgCol0 p ∧ A.ext.getD 1 0 ≤ 512 - apgRow0 p), 2),
    (descOk ch g A true false false, 3),
    (A.ext.contains 0 || posLoaded ch g (apgLogical i), 6)]

/-- A new transfer entry. -/
def newEntry (a row col : Nat) (v : Int) (sat : Bool) : XEnt :=
  { phys := a, row := row, col := col, v := v, sat := sat, started := false, stage := 0, tries := [], dW := 0, dOld := 0,
    mE := none, image := false, refresh := false, retry := false }

/-- Adds a transfer entry: it replaces a pending one whose batch has not started (R54). -/
def enqueue (b : Bank) (e : XEnt) : Bank :=
  if b.xq.any fun q => q.phys == e.phys && q.row == e.row && q.col == e.col && !q.started then
    { b with xq := b.xq.map fun q =>
        if q.phys = e.phys ∧ q.row = e.row ∧ q.col = e.col ∧ ¬ q.started then e else q }
  else { b with xq := b.xq ++ [e] }

/-- The scan of one weight of a transfer: what it enqueues (R52, R514). -/
def scanOne (ch : Chip) (g : Nat) (i : QInstr) (n : Nat) : Chip :=
  let A := apgMaster i
  let e0 := A.ext.headD 1
  let col := apgCol0 i.fP + n % e0
  let row := apgRow0 i.fP + n / e0
  let a := physOf ch g (apgLogical i)
  let x := arrOf ch g a
  let ba := elemBit A [n % e0, n / e0]
  if bitsPoi ch ba 32 then raise ch .prgMasterPoison g
  else if imgPoisoned ch x row col then ch
  else
    let w := BitVec.ofNat 32 (rdBits ch ba 32)
    let t := targetVal w (scaleOf x col)
    let v := imgVal (imgGet ch x row col)
    let theta := max 8 (regFld ch .prgPolicy g 7 0)
    if vle (.num false theta (-4)) (vabs (vsub t.1 (vofInt v 0))) ∧ ¬ (bankOf ch g).moves.any (fun m => m.old == a) then
      updBank ch g fun b => enqueue b (newEntry a row col (vround t.1 1) t.2)
    else ch

/-- Scans weights from number n on until the end or until the transfer queue is full (R54): the state and the number
reached. -/
def scanFrom (g : Nat) (i : QInstr) (ch : Chip) (n left : Nat) : Chip × Nat :=
  match left with
  | 0 => (ch, n)
  | left + 1 =>
    if 16384 ≤ transfers (bankOf ch g) then (raise ch .prgQueueFull g, n)
    else scanFrom g i (scanOne ch g i n) (n + 1) left

/-- APG TRANSFER scans its tile; while the queue is full it waits, with the place it reached in `conf`. It waits for a spare
of its position too, and faults where none is left (R19). -/
def apgTransferWork (c : CoreRun) (ch : Chip) : Chip :=
  let g := c.core.val
  if ¬ progReady ch g then ch else
  match (coreOf ch g).q.find? fun i => i.q == .programmer && i.phase == .started with
  | none => ch
  | some i =>
    if decodeWord i.word ≠ some .apgTransfer ∨ posWaits ch g (apgLogical i) then ch
    else if ¬ (apgMaster i).ext.contains 0 ∧ ¬ posLoaded ch g (apgLogical i) then queueFault ch g 6 i
    else
      let A := apgMaster i
      let total := prodN A.ext
      let x := arrOf ch g (physOf ch g (apgLogical i))
      let ch1 := if i.conf = 0 then (List.range (A.ext.getD 1 0)).foldl (fun c r =>
          landRange c (coreJob c g) .normal (imgAddr x (apgRow0 i.fP + r) (apgCol0 i.fP)) (4 * A.ext.getD 0 0) false) ch
        else ch
      let r := scanFrom g i ch1 i.conf (total - i.conf)
      updInstr r.1 g i.seq fun j =>
        if r.2 < total then { j with conf := r.2 } else { j with conf := 0, phase := .ran }

def execApgTransfer (c : CoreRun) (s : State) : Host.Outcome State Fault Refusal :=
  onChip s (memWork (.core (c.core.val / 128)) c.bursts (apgTransferWork c))

/-! ### Batches of the transfer queue (R46, R47, R49, R53 to R56) -/

/-- What a weight wants to write next: a pair, its difference, the targets, and whether clamping changed it. -/
structure Want where
  major : Bool
  d : Int
  t : Nat × Nat
  sat : Bool
  deriving DecidableEq, Repr

/-- M_eff as the major cells measure now (R39); a column of scale 0x00 represents zero (R37). -/
def cellEff (x : Arr) (e : XEnt) : Int := if scaleOf x e.col = 0 then 0 else pairMaj x e.row e.col

/-- The pair that a weight writes at its stage, when it can be: 0 the minor pair only (R53); 1 the major pair for the
first difference left to try, then 2 the minor pair (R39, R49); 3 and 4 the pairs of the nearest value. -/
def stageWant (x : Arr) (e : XEnt) : Option Want :=
  let ws := knownWeak x e.row e.col
  let me := e.mE.getD (cellEff x e)
  let dm0 := e.v - me
  let dm := clampI (-63) 63 dm0
  let sat := e.sat || dm != dm0
  match e.stage with
  | 0 | 2 => if dm ≠ dm0 ∧ ws ≠ [] then none else (pairTargets ws 2 dm).map fun t => ⟨false, dm, t, sat⟩
  | 1 => match e.tries with
    | d :: _ => (pairTargets ws 0 d).map fun t => ⟨true, d, t, e.sat⟩
    | [] => none
  | 3 => let d := nearestMajor ws e.v; (pairTargets ws 0 d).map fun t => ⟨true, d, t, e.sat⟩
  | _ => let d := nearestMinor ws dm0; (pairTargets ws 2 d).map fun t => ⟨false, d, t, sat⟩

/-- A weight goes on with the first of its differences that can be written; with none left it takes the nearest value. -/
def tryFrom (x : Arr) (e : XEnt) (l : List Int) : XEnt :=
  match l with
  | [] => { e with stage := 3, tries := [], mE := none }
  | d :: r =>
    if (pairTargets (knownWeak x e.row e.col) 0 d).isSome then { e with stage := 1, tries := d :: r, mE := none }
    else tryFrom x e r

/-- The next step of R49 for a weight whose present one failed; `fresh`: a major cell has just become weak. -/
def nextStep (x : Arr) (e : XEnt) (fresh : Bool) : XEnt :=
  if scaleOf x e.col = 0 then { e with stage := if e.stage = 1 then 3 else 4, tries := [] }
  else if e.stage = 0 ∨ fresh then tryFrom x e (nextTries (knownWeak x e.row e.col) e.v e.dW)
  else tryFrom x e e.tries.tail

/-- A weight takes what its image record says when its first batch is formed (R53): the minor pair alone where the
target lies within reach of M_eff, else R39 from its start, as with a poisoned record (log 122). -/
def beginEntry (ch : Chip) (g : Nat) (e : XEnt) : XEnt :=
  let x := arrOf ch g e.phys
  let r := imgGet ch x e.row e.col
  let me := if scaleOf x e.col = 0 then 0 else r.mEff
  let clean := !imgPoisoned ch x e.row e.col
  if e.started then e
  else if clean && decide (me - 63 ≤ e.v ∧ e.v ≤ me + 63) then
    let e1 := { e with mE := some me, dW := if scaleOf x e.col = 0 then 0 else r.dM, dOld := r.dm }
    if e.refresh then tryFrom x { e1 with stage := 1 } [e1.dW] |> fun y => { y with mE := some me }
    else if (stageWant x e1).isSome then e1
    else nextStep x e1 false
  else tryFrom x { e with dW := majorDiff e.v } [majorDiff e.v]

/-- The cells of a weight that are written: those that are not weak, in a minor-only transfer those whose target
changed (R53). -/
def wantCells (x : Arr) (e : XEnt) (w : Want) : List BCell :=
  let ws := knownWeak x e.row e.col
  let c := if w.major then 0 else 2
  let same (t : Nat) (o : Nat × Nat → Nat) : Bool := e.stage == 0 && (pairTargets ws 2 e.dOld).map o == some t
  let one (k t : Nat) (o : Nat × Nat → Nat) : List BCell :=
    if (weakAt ws (c + k)).isSome || same t o then [] else [⟨e.row, 4 * e.col + c + k, t, 0, 0, none, false⟩]
  one 0 w.t.1 Prod.fst ++ one 1 w.t.2 Prod.snd

/-- PRG_POLICY as the next batch takes it (R63). -/
def atomicNow (ch : Chip) (g : Nat) : Bool := (regGet ch .prgPolicy g).getLsbD 8

/-- Entries of one array, row and column group, at most one a weight, in queue order. -/
def batchGroup (e : XEnt) (l : List XEnt) : List XEnt :=
  (l.filter fun q => q.phys == e.phys && q.row == e.row && q.col / 32 == e.col / 32).foldl
    (fun l q => if l.any fun (p : XEnt) => p.col == q.col then l else l ++ [q]) []

/-- The next batch of the transfer queue: the oldest entry, with the pending entries of the same row batch (R54). -/
def nextBatch (ch : Chip) (g : Nat) : Option (Batch × Bank) :=
  let b := bankOf ch g
  match b.xq.head? with
  | none => none
  | some e =>
    let x := arrOf ch g e.phys
    match stageWant x (beginEntry ch g e) with
    | none => none
    | some w0 =>
      let mine := ((batchGroup e b.xq).map fun q => (q, beginEntry ch g q)).filter fun p =>
        match stageWant x p.2 with | some w => w.major == w0.major | none => false
      let cells := mine.flatMap fun p => match stageWant x p.2 with | some w => wantCells x p.2 w | none => []
      let started := mine.map fun p => match stageWant x p.2 with
        | some w => { p.2 with started := true, dW := if w.major then w.d else p.2.dW }
        | none => p.2
      let t : Batch := ⟨e.phys, cells, started, w0.major, 0, atomicNow ch g⟩
      some (t, { b with xq := mine.foldl (fun l p => l.erase p.1) b.xq, batch := some t })

/-- The measured level of cell k in a verify read: as observed, else `dflt` (log 7). -/
def observed (lv : List Nat) (k dflt : Nat) : Nat := lv.getD k dflt

/-- One round of a batch (R47): round 0 is the pre-read; a later one pulses the cells outside tolerance. -/
def batchRound (x : Arr) (t : Batch) (lv : List Nat) : Batch :=
  let cell (k : Nat) (c : BCell) : BCell :=
    if t.rnd = 0 then { c with level := observed lv k (cellLvl x c.row c.col) }
    else if within c.level c.target then { c with level := observed lv k c.level }
    else
      let up := decide (c.level < 16 * c.target)
      let step := if c.up.isSome ∧ c.up ≠ some up then 0 else c.step
      { c with level := observed lv k (16 * c.target), step := min (step + 1) 7, up := some up, pulsed := true }
  { t with cells := (List.range t.cells.length).map (fun k => cell k (t.cells.getD k ⟨0, 0, 0, 0, 0, none, false⟩)),
           rnd := t.rnd + 1 }

/-- The batch is over: every cell is within tolerance, or round 8 has run. -/
def batchOver (t : Batch) : Bool :=
  decide (1 ≤ t.rnd) && (decide (9 ≤ t.rnd) || t.cells.all fun c => within c.level c.target)

/-- Runs up to n rounds. -/
def batchRun (x : Arr) (n : Nat) (t : Batch) (rounds : List (List Nat)) : Batch :=
  match n with
  | 0 => t
  | n + 1 => if batchOver t then t else batchRun x n (batchRound x t (rounds.headD [])) rounds.tail

/-- The levels of a batch's cells go into the array (R56). -/
def batchLevels (x : Arr) (t : Batch) : Arr := t.cells.foldl (fun y c => setLvl y c.row c.col c.level) x

/-- The image record of a written weight (R43, R54), unless its target came from that record (R514). -/
def writeRecord (ch : Chip) (g : Nat) (e : XEnt) : Chip :=
  let x := arrOf ch g e.phys
  let ws := knownWeak x e.row e.col
  let me := e.mE.getD (cellEff x e)
  let dm0 := e.v - me
  let dm := if e.stage = 4 then nearestMinor ws dm0 else clampI (-63) 63 dm0
  let sat := e.sat || decide (dm0 < -63 ∨ 63 < dm0)
  let a := imgAddr x e.row e.col
  let ch1 := if e.image then ch
    else wrNat (landRange ch x.job .normal a 4 true) a 4 (imgEnc ⟨ws != [], sat, me, e.dW, dm⟩)
  raiseIf sat ch1 .prgSaturated g

/-- A weight was written with the nearest value in reach: every weak cell of it is uncompensated (R49). -/
def markUncomp (ch : Chip) (g : Nat) (e : XEnt) : Chip :=
  raise (updArr ch g e.phys fun y =>
    { y with exc := y.exc.map fun k =>
        if k.row = e.row ∧ k.col / 4 = e.col ∧ k.check = false then { k with uncomp := true } else k }) .prgUncompensated g

/-- What a weight does after its batch (R39, R49, R53): `weak`: its cells that have just become weak; `pulsed`: a cell of
it was pulsed. -/
def afterBatch (ch : Chip) (g : Nat) (major : Bool) (e0 : XEnt) (weak : List Nat) (pulsed : Bool) : Chip :=
  let x := arrOf ch g e0.phys
  let e := if major ∧ (pulsed ∨ e0.mE = none) then { e0 with mE := some (cellEff x e0) } else e0
  let again (e1 : XEnt) : Chip := updBank ch g fun b => { b with xq := e1 :: b.xq }
  let next (e1 : XEnt) : XEnt := if (stageWant x e1).isSome then e1 else nextStep x e1 false
  if weak ≠ [] ∧ e.stage < 3 then
    let e1 := { e with retry := true }
    if (stageWant x e1).isSome then again e1 else again (next (nextStep x e1 (weak.any fun c => decide (c < 2))))
  else if e.stage = 1 then again (next { e with stage := 2 })
  else if e.stage = 3 then again { e with stage := 4 }
  else writeRecord (if e.stage = 4 then markUncomp ch g e else ch) g e

/-- The end of a batch: levels, program events, weak cells, and what follows for each weight; in a refresh, the cells
that its pre-read found drifted were counted. -/
def endBatch (ch : Chip) (g : Nat) (t : Batch) : Chip :=
  let old := arrOf ch g t.phys
  let bad := t.cells.filter fun c => !within c.level c.target
  let ch1 := updArr ch g t.phys fun x =>
    bad.foldl (fun y c => addExc y ⟨decide (512 ≤ c.col), false, nearestLevel c.level, c.col, c.row⟩)
      (countEvents (batchLevels x t) t)
  let ch2 := raiseN ch1 .prgWeakCell g bad.length
  let ch3 := countCore (countCore (updBank ch2 g fun b => { b with batch := none }) g 23
    (b2n (t.cells.any BCell.pulsed || t.wts.any fun e => !e.refresh))) g 24
    (t.cells.filter BCell.pulsed).length
  let ch4 := t.wts.foldl (fun c e =>
    let mine (l : List BCell) : List BCell := l.filter fun b => b.row == e.row && b.col / 4 == e.col
    afterBatch c g t.major e ((mine bad).map fun b => b.col % 4) ((mine t.cells).any BCell.pulsed)) ch3
  afterWrite old ch4 g t.phys

/-- The cells of a refresh's batch that its pre-read finds outside tolerance count as drifted (R62), also where the target
moved with the master weight since the last write (DESIGN CHOICE, log 147: the spec does not tell the two apart). -/
def countDrift (ch : Chip) (g : Nat) (t : Batch) : Chip :=
  let n := (t.cells.filter fun c => !within c.level c.target &&
    (decide (512 ≤ c.col) || t.wts.any fun e => e.refresh && !e.retry && e.row == c.row && e.col == c.col / 4)).length
  updBank ch g fun b => { b with refresh := b.refresh.map fun r => { r with drifted := r.drifted + n } }

/-- The batch in progress, or the next one where the programmer may begin it; in STOPPING only the former (R57). -/
def currentBatch (ch : Chip) (g : Nat) : Option (Chip × Batch) :=
  match (bankOf ch g).batch with
  | some t =>
    if blkGet ch .prg g ≠ .disabled ∧ islandRuns ch (8 + g / 128) then some (ch, t) else none
  | none =>
    if progReady ch g then (nextBatch ch g).map fun p => (updBank ch g fun _ => p.2, p.1) else none

/-- Runs rounds of the current batch: n of them, one burst at a time unless batch_atomic (R55). -/
def runBatch (ch : Chip) (g n : Nat) (rounds : List (List Nat)) : Chip :=
  match currentBatch ch g with
  | none => ch
  | some (ch0, t) =>
    if ¬ noReads ch g t.phys ∧ ¬ (t.atomic ∧ t.rnd ≠ 0) then ch
    else
      let x := arrOf ch0 g t.phys
      let u := batchRun x n t rounds
      let ch1 := if t.rnd = 0 then countDrift ch0 g (batchRound x t (rounds.headD [])) else ch0
      let ch2 := countCore ch1 g 92 ((u.rnd + 3) / 4 - (t.rnd + 3) / 4)
      if batchOver u then endBatch ch2 g u
      else updBank (updArr ch2 g t.phys fun x => batchLevels x u) g fun b => { b with batch := some u }

/-- A whole batch, or what is left of it, in bursts with no read between them (R47). -/
def execProgramBatch (c : CoreRun) (rounds : List (List Nat)) (s : State) : Host.Outcome State Fault Refusal :=
  onChip s (memWork (.core (c.core.val / 128)) c.bursts fun ch => runBatch ch c.core.val 9 rounds)

/-- One burst of at most 4 rounds (R55). -/
def execProgramBurst (c : CoreRun) (rounds : List (List Nat)) (s : State) : Host.Outcome State Fault Refusal :=
  onChip s (memWork (.core (c.core.val / 128)) c.bursts fun ch => runBatch ch c.core.val 4 rounds)

/-! ### Moves to spares (R19, R51, R514) -/

/-- The spare has been calibrated and may be loaded (R94). -/
def spareCalibrated (ch : Chip) (g a : Nat) : Bool :=
  !(fieldOf ch g).due.contains a

/-- The array-table entry moves to the new array (R42, R51). -/
def moveEntry (ch : Chip) (g : Nat) (m : Move) : Chip :=
  let x := arrOf ch g m.old
  updArr ch g m.new fun y =>
    { y with logical := m.logical, scales := x.scales, master := x.master, image := x.image, job := x.job }

/-- An array leaves service with the role given: it keeps no entry of the array table and no strikes (R42, R440). -/
def retired (x : Arr) (role : Nat) : Arr :=
  { x with role := role, loaded := false, degraded := false, scales := [], master := 0, image := 0, job := none,
           checkStrikes := [], arrayStrikes := [] }

/-- The remap entry switches and the old array leaves service, with what was left of a refresh of it: retired, fenced, or,
where it was readmitted while its spare was loaded, a free spare (R51, R432). -/
def finishMove (ch : Chip) (g : Nat) (m : Move) : Chip :=
  let ch1 := updArr (dropRefresh (dropTransfers ch g m.old) g m.old) g m.old fun x =>
    retired x (if m.fenced && !x.fenced then 1 else 2)
  let ch2 := updArr ch1 g m.new fun x => { x with role := 0 }
  let ch3 := updBank ch2 g fun b => { b with remap := tput b.remap m.logical m.new, moves := b.moves.filter (· != m) }
  afterWrite { arrOf ch3 g m.new with exc := [], eMaj := 0, eMin := 0 } ch3 g m.new

/-- A move's load may begin: the programmer is idle, the spare is calibrated, nothing of the old array's entries is half
written, and none of its reads waits (R55, R86, R94). -/
def moveReady (ch : Chip) (g : Nat) (m : Move) : Bool :=
  let b := bankOf ch g
  progReady ch g && spareCalibrated ch g m.new && noReads ch g m.old && b.batch.isNone &&
    !b.xq.any fun q => q.phys == m.old

/-- A spare's load finishes and the position switches between two read slots; a weight with neither a clean master
word nor a clean image record ends the move (R514). The position of an array that has since been left unloaded switches
without a load (DESIGN CHOICE, log 119). -/
def spareSwitchWork (c : CoreRun) (l : LogId) (obs : List CellObs) (ch : Chip) : Chip :=
  let g := c.core.val
  match (bankOf ch g).moves.find? fun m => m.logical == l.val && !m.fenced with
  | none => ch
  | some m =>
    if ¬ moveReady ch g m then ch
    else if ¬ (arrOf ch g m.old).loaded then finishMove (moveEntry ch g m) g m
    else
      let ch1 := moveEntry ch g m
      if loadable ch1 (arrOf ch1 g m.new) true then finishMove (loadArray ch1 g m.new true obs) g m
      else
        let ch2 := raise (updArr ch g m.old fun x => { x with degraded := true }) .prgMasterPoison g
        updBank ch2 g fun b => { b with moves := b.moves.filter (· != m) }

def execSpareSwitch (c : CoreRun) (l : LogId) (obs : List CellObs) (s : State) : Host.Outcome State Fault Refusal :=
  onChip s (memWork (.core (c.core.val / 128)) c.bursts (spareSwitchWork c l obs))

/-- The position of a fenced array is loaded onto its spare (R19); with neither source of a weight clean it is left
unloaded (R514). -/
def fencedSpareLoadWork (c : CoreRun) (l : LogId) (obs : List CellObs) (ch : Chip) : Chip :=
  let g := c.core.val
  match (bankOf ch g).moves.find? fun m => m.logical == l.val && m.fenced with
  | none => ch
  | some m =>
    if ¬ moveReady ch g m then ch
    else
      let ch1 := moveEntry ch g m
      finishMove (if (arrOf ch g m.old).loaded then loadArray ch1 g m.new true obs else ch1) g m

def execFencedSpareLoad (c : CoreRun) (l : LogId) (obs : List CellObs) (s : State) : Host.Outcome State Fault Refusal :=
  onChip s (memWork (.core (c.core.val / 128)) c.bursts (fencedSpareLoadWork c l obs))

/-! ### Refresh (R61, R62) -/

/-- The refresh interval of an array in hours: 0 in PRG_REFRESH_CFG turns the timer off, whatever an array's own (R61). -/
def refreshHours (ch : Chip) (g a : Nat) : Nat :=
  let h := regFld ch .prgRefreshCfg g 7 0
  if h = 0 then 0 else ((arrOf ch g a).interval).getD h

/-- Queues a refresh of an array that is in service and loaded. -/
def queueRefresh (ch : Chip) (g a : Nat) : Chip :=
  let x := arrOf ch g a
  if x.role = 0 ∧ x.loaded ∧ ¬ x.fenced ∧ ¬ (bankOf ch g).refreshQ.contains a then
    updBank ch g fun b => { b with refreshQ := b.refreshQ ++ [a] }
  else ch

def execRefreshTimer (c : CoreId) (a : PhysId) (s : State) : Host.Outcome State Fault Refusal :=
  onChip s fun ch =>
    let h := refreshHours ch c.val a.val
    if h ≠ 0 ∧ (arrOf ch c.val a.val).loadAt + h * 3600000000 ≤ ch.us then queueRefresh ch c.val a.val else ch

/-- The target of a weight in a refresh (R61, R514): none when its cells are left alone. -/
def refreshTarget (ch : Chip) (x : Arr) (mapped : Bool) (row w : Nat) : Option (Int × Bool × Bool) :=
  let r := imgGet ch x row w
  let fromImage : Option (Int × Bool × Bool) :=
    if imgPoisoned ch x row w then none else some (imgVal r, r.sat, true)
  if ¬ mapped ∨ anyPoi ch (masterAddr x row w) 4 then fromImage
  else
    let t := targetVal (BitVec.ofNat 32 (rdNat ch (masterAddr x row w) 4)) (scaleOf x w)
    let near := !imgPoisoned ch x row w && vlt (vabs (vsub t.1 (vofInt (imgVal r) 0))) (.num false 1 (-1))
    some (if near then imgVal r else vround t.1 1, t.2, false)

/-- A refresh reaches a row group of 32 weights: their targets, which supersede what is pending for them (R57, R61). -/
def refreshGroup (ch : Chip) (g a row grp : Nat) : Chip :=
  let x := arrOf ch g a
  let mapped := masterMapped ch x
  let ch1 := raiseIf (mapped && anyPoi ch (masterAddr x row (32 * grp)) 128) ch .prgMasterPoison g
  let ch2 := if mapped then landRange ch1 x.job .normal (masterAddr x row (32 * grp)) 128 false else ch1
  let es := (span (32 * grp) 32).filterMap fun w => (refreshTarget ch x mapped row w).map fun p =>
    { newEntry a row w p.1 p.2.1 with image := p.2.2, refresh := true }
  updBank (landRange ch2 x.job .normal (imgAddr x row (32 * grp)) 128 false) g fun b =>
    { b with xq := es ++ b.xq.filter fun q => !(q.phys == a && q.row == row && q.col / 32 == grp && !q.started) }

/-- A refresh reaches 64 rows of a check column (R41, R46). -/
def refreshCheck (ch : Chip) (g a j blk : Nat) : Chip :=
  let x := arrOf ch g a
  let cells := (span (64 * blk) 64).filterMap fun r =>
    if x.exc.any fun e => e.row == r && e.col == 512 + j then none
    else some ⟨r, 512 + j, patLevel j r, 0, 0, none, false⟩
  updBank ch g fun b => { b with batch := some ⟨a, cells, [], false, 0, atomicNow ch g⟩ }

/-- A refresh completes (R61, R62). -/
def endRefresh (ch : Chip) (g : Nat) (r : Refr) : Chip :=
  let a := r.phys
  let hours := refreshHours ch g a
  let ch1 := updArr ch g a fun y =>
    { y with driftLast := r.drifted, loadAt := ch.us
             interval := if regFld ch .prgRefreshCfg g 31 16 < r.drifted ∧ hours ≠ 0 then some (max 1 (hours / 2))
               else y.interval }
  let ch2 := updBank (raise ch1 .prgRefreshDone g) g fun b =>
    { b with refreshQ := b.refreshQ.filter (· != a), refresh := none }
  let ch3 := if (statOf ch2 g a).refreshedForResid then queueCal ch2 g a else ch2
  if regFld ch .prgRotateLimit g 15 0 < r.drifted then leaveArray ch3 g a true (some .prgRotatedDrift) else ch3

/-- The next step of a refresh once nothing of the one before is left and no read waits for the array (R55). -/
def refreshStep (ch : Chip) (g : Nat) (r : Refr) : Chip :=
  let b := bankOf ch g
  if b.batch.isSome ∨ ¬ noReads ch g r.phys ∨ b.xq.any fun q => q.phys == r.phys && (q.started || q.refresh) then ch
  else if 2112 ≤ r.next then endRefresh ch g r
  else
    let ch1 := updBank ch g fun b => { b with refresh := some { r with next := r.next + 1 } }
    if r.next < 2048 then refreshGroup ch1 g r.phys (r.next / 4) (r.next % 4)
    else refreshCheck ch1 g r.phys ((r.next - 2048) / 8) ((r.next - 2048) % 8)

/-- A queued refresh starts: `refresh_now` clears if it asked for it (R63). That of an array that has left service meanwhile
is dropped. -/
def startRefresh (ch : Chip) (g a : Nat) : Chip :=
  let x := arrOf ch g a
  if x.role = 0 ∧ x.loaded ∧ ¬ x.fenced then
    let ch1 := if (bankOf ch g).nowFor = some a then
        regPut (updBank ch g fun b => { b with nowFor := none }) .prgCtrl g 1 1 0
      else ch
    updBank ch1 g fun b => { b with refresh := some ⟨a, 0, 0⟩ }
  else dropRefresh ch g a

/-- The refresh of an array goes on by one batch, or one burst of it (R55, R61): a queued one starts when the programmer
is idle; the next batch is formed when the last has ended. -/
def arrayRefreshRunWork (c : CoreRun) (a : PhysId) (rounds : List (List Nat)) (ch : Chip) : Chip :=
  let g := c.core.val
  let b := bankOf ch g
  if ¬ progReady ch g then ch
  else match b.refresh with
    | some r => if r.phys = a.val then runBatch (refreshStep ch g r) g 4 rounds else ch
    | none => if b.refreshQ.contains a.val ∧ b.batch.isNone then startRefresh ch g a.val else ch

def execArrayRefreshRun (c : CoreRun) (a : PhysId) (rounds : List (List Nat)) (s : State) :
    Host.Outcome State Fault Refusal :=
  onChip s (memWork (.core (c.core.val / 128)) c.bursts (arrayRefreshRunWork c a rounds))

/-! ### The wear log (R45) -/

/-- What the wear log keeps of core g. -/
def wearOf (ch : Chip) (g : Nat) : WearCore :=
  { remap := (bankOf ch g).remap
    arrs := (List.range 136).map fun a =>
      let x := arrOf ch g a
      (a, ⟨x.role == 2 && !x.fenced, x.exc, x.eMaj, x.eMin⟩) }

/-- Firmware writes the wear log of every core (R45) over the older copy (R416), once it has restored it and until a
failure. -/
def execWearLogWrite (s : State) : Host.Outcome State Fault Refusal :=
  .next (if live s.chip ∧ 2 ≤ s.chip.phase ∧ s.chip.phase ≤ 4 then
    { s with nv := { s.nv with
        wear := (List.range 1024).map fun g => (g, wearOf s.chip g), wearOld := s.nv.wear, wearNewB := !s.nv.wearNewB
        softOld := s.nv.soft } }
  else s)

end Sys2Proof.Machine
end

