-- ==== Sys2Proof/Machine/Scalar.lean ====
section
/-! DEFINITION. Scalar instructions (10_oanoine_control.md R217 to R222). -/

namespace Sys2Proof.Machine

/-- An ALU instruction: dst ← f(srcA, b) (R217). -/
def aluStep (c : CoreId) (op : Op) (f : Dword → Dword → Dword) (s : State) : Host.Outcome State Fault Refusal :=
  onChip s fun ch => issue ch c.val op fun ch1 k w =>
    setCore ch1 c.val (advance (wrReg k (wb w 51 46) (f (rdReg k (wb w 45 40)) (opB k w))))

def bool64 (b : Bool) : Dword := if b then 1 else 0

def execNop (c : CoreId) (s : State) : Host.Outcome State Fault Refusal :=
  onChip s fun ch => issue ch c.val .nop fun ch1 k _ => setCore ch1 c.val (advance k)

def execAdd (c : CoreId) (s : State) : Host.Outcome State Fault Refusal := aluStep c .add (fun a b => a + b) s
def execSub (c : CoreId) (s : State) : Host.Outcome State Fault Refusal := aluStep c .sub (fun a b => a - b) s
def execMul (c : CoreId) (s : State) : Host.Outcome State Fault Refusal := aluStep c .mul (fun a b => a * b) s
def execAnd (c : CoreId) (s : State) : Host.Outcome State Fault Refusal := aluStep c .andI (fun a b => a &&& b) s
def execOr (c : CoreId) (s : State) : Host.Outcome State Fault Refusal := aluStep c .orI (fun a b => a ||| b) s
def execXor (c : CoreId) (s : State) : Host.Outcome State Fault Refusal := aluStep c .xor (fun a b => a ^^^ b) s
def execShl (c : CoreId) (s : State) : Host.Outcome State Fault Refusal :=
  aluStep c .shl (fun a b => a <<< (b.toNat % 64)) s
def execShr (c : CoreId) (s : State) : Host.Outcome State Fault Refusal :=
  aluStep c .shr (fun a b => a >>> (b.toNat % 64)) s
def execSra (c : CoreId) (s : State) : Host.Outcome State Fault Refusal :=
  aluStep c .sra (fun a b => a.sshiftRight (b.toNat % 64)) s
def execMin (c : CoreId) (s : State) : Host.Outcome State Fault Refusal :=
  aluStep c .minI (fun a b => if a.slt b then a else b) s
def execMax (c : CoreId) (s : State) : Host.Outcome State Fault Refusal :=
  aluStep c .maxI (fun a b => if a.slt b then b else a) s
def execCmpeq (c : CoreId) (s : State) : Host.Outcome State Fault Refusal :=
  aluStep c .cmpeq (fun a b => bool64 (a == b)) s
def execCmplt (c : CoreId) (s : State) : Host.Outcome State Fault Refusal :=
  aluStep c .cmplt (fun a b => bool64 (a.slt b)) s
def execCmpltu (c : CoreId) (s : State) : Host.Outcome State Fault Refusal :=
  aluStep c .cmpltu (fun a b => bool64 (a.ult b)) s
def execIns32 (c : CoreId) (s : State) : Host.Outcome State Fault Refusal :=
  aluStep c .ins32 (fun a b => b.extractLsb' 0 32 ++ a.extractLsb' 0 32) s

/-! LD and ST (R218 to R220). -/

/-- The location of a scalar access: base + offset, mod 2^64. -/
def accessLoc (k : Core) (w : Dword) : Nat := (rdReg k (wb w 45 40) + immS w).toNat

/-- The fault of a scalar access, if any (R218). -/
def accessFault (ch : Chip) (g : Nat) (w : Dword) (loc n : Nat) (write : Bool) : Option Nat :=
  if loc % n ≠ 0 then some 4
  else match wb w 39 38 with
    | 0 => if loc < (if write then scratchLen else 0x400000) then none else some 3
    | 1 => if loc < 0x10000 then none else some 3
    | _ => match coreJob ch g with
      | some j => if reaches ch j loc (loc + n - 1) write then none else some 3
      | none => some 3

/-- The memory address a location names. -/
def accessAddr (g : Nat) (w : Dword) (loc : Nat) : Nat :=
  match wb w 39 38 with
  | 0 => scratchBase g + loc
  | 1 => descBase g + loc
  | _ => loc

/-- Host bytes that a completion brings, at outbound addresses: clean data (log 8). -/
def hostCells (ch : Chip) (cells : List (Nat × Byte)) : Chip :=
  let mine := cells.filter fun p => decide (outBase ≤ p.1 ∧ p.1 < 0x1000000000000)
  { ch with
    mem := mine.foldl (fun m p => mset m p.1 p.2) ch.mem
    poi := ch.poi.filter fun g => !(mine.any fun p => wordOf p.1 == g) }
def hostIn (ch : Chip) (h : HostIn) : Chip := hostCells ch h.cells

/-- The outbound window is ENABLED and the link is up (R354, R362). -/
def hostOpen (ch : Chip) : Bool := enabled ch .pci 0 && ch.pci.width != 0

/-- An outbound read fails or is poisoned: the completion's error, its EP bit, or no way to the host (R354, R360). -/
def hostBad (ch : Chip) (h : HostIn) : Bool := h.err || h.ep || !hostOpen ch

/-- The function whose requester ID an access of core g carries: the VF of its job, else the PF (R354). -/
def jobFn (j : Option JobId) : Nat := match j with | some j => j.val + 1 | none => 0

/-- The memory requests for some ranges: split at multiples of the Max Payload Size, or of the Max Read Request Size (R354;
log 169). -/
def tlps (ch : Chip) (fn : Nat) (write : Bool) (runs : List (Nat × Nat)) : List OutTlp :=
  let size := 128 * 2 ^ (if write then ch.pci.mps else ch.pci.mrrs)
  runs.flatMap fun r =>
    if r.2 = 0 then [] else
    (List.range ((r.1 + r.2 - 1) / size + 1 - r.1 / size)).map fun i =>
      let lo := max r.1 ((r.1 / size + i) * size)
      ⟨fn, write, lo, min (r.1 + r.2) ((r.1 / size + i + 1) * size) - lo⟩
/-- The requests of an outbound access go out. -/
def sendTlps (ch : Chip) (fn : Nat) (write : Bool) (runs : List (Nat × Nat)) : Chip :=
  { ch with pci := { ch.pci with out := tlps ch fn write runs } }
def runBytes (runs : List (Nat × Nat)) : Nat := (runs.map Prod.snd).foldl (· + ·) 0

/-- An outbound read of some ranges: what it brings, and its events (R354, R360, R449). -/
def hostRead (ch : Chip) (fn : Nat) (h : HostIn) (runs : List (Nat × Nat)) : Chip :=
  let ch1 := count (hostIn (if hostOpen ch then sendTlps ch fn false runs else ch) h) 128
    (if hostOpen ch ∧ ¬ h.err then runBytes runs else 0)
  raiseIf h.ep (raiseIf (h.err || !hostOpen ch) ch1 .pciHostError 0) .pciEpIn 0

/-- An outbound write of some ranges leaves, or is lost. -/
def hostWrite (ch : Chip) (fn : Nat) (runs : List (Nat × Nat)) : Chip :=
  if hostOpen ch then count (sendTlps ch fn true runs) 129 (runBytes runs) else raise ch .pciHostError 0

/-- The access of a scalar load or store to n bytes at an address of space 2 through the home slices, and the HBM bytes it
moves (R218, R270). -/
def scalarTouch (ch : Chip) (g a n : Nat) (write : Bool) : Chip :=
  let ch1 := landRange ch (coreJob ch g) .normal a n write
  if a < hbmEnd then countCore ch1 g (if write then 78 else 77) n else ch1

/-- A load at the PC of core g. -/
def loadWord (g : Nat) (h : HostIn) (ch : Chip) : Chip :=
  issue ch g .ld fun ch1 k w =>
    let n := 2 ^ wb w 37 36
    let loc := accessLoc k w
    match accessFault ch1 g w loc n false with
    | some f => faultWord ch1 g f w
    | none =>
      let a := accessAddr g w loc
      let out := decide (wb w 39 38 = 2 ∧ outBase ≤ a)
      let ch2 := if out then hostRead ch1 (jobFn (coreJob ch1 g)) h [(a, n)] else ch1
      let poi := anyPoi ch2 a n || (out && hostBad ch2 h)
      let v := rdNat ch2 a n
      let ch3 := if wb w 39 38 = 2 then scalarTouch (forwardPoison ch2 (g / 128) [(a, n)]) g a n false else ch2
      if poi then faultWord ch3 g 9 w
      else updCore ch3 g fun k => advance (wrReg k (wb w 51 46) (BitVec.ofNat 64 v))

/-- A store at the PC of core g. -/
def storeWord (g : Nat) (ch : Chip) : Chip :=
  issue ch g .st fun ch1 k w =>
    let n := 2 ^ wb w 37 36
    let loc := accessLoc k w
    match accessFault ch1 g w loc n true with
    | some f => faultWord ch1 g f w
    | none =>
      let a := accessAddr g w loc
      let bs := leBytes (rdReg k (wb w 51 46)).toNat n
      if wb w 39 38 = 1 ∧ entryNamed ch1 g (loc / 64) then
        raise (updCore ch1 g fun k => { advance k with held := some ⟨loc, bs⟩ }) .seqDescHold g
      else
        let ch2 := if wb w 39 38 = 2 then scalarTouch ch1 g a n true else ch1
        let out := decide (wb w 39 38 = 2 ∧ outBase ≤ a)
        let ch3 := if out then hostWrite ch2 (jobFn (coreJob ch2 g)) [(a, n)] else ch2
        updCore (if out ∧ ¬ hostOpen ch2 then ch3 else wrMem ch3 a bs false) g advance

/-- An LD or ST of space 2 is work on memory and waits for a DISABLED stop, a repair or a bucket; the core's own memories
(spaces 0 and 1) are reached at once. -/
def scalarWork (ch : Chip) (g : Nat) (bursts : Bursts) (f : Chip → Chip) : Chip :=
  if wb (fetchWord ch g (coreOf ch g).pc) 39 38 = 2 then memWork (.core (g / 128)) bursts f ch else f ch

def execLd (c : CoreId) (h : HostIn) (s : State) : Host.Outcome State Fault Refusal :=
  onChip s fun ch => scalarWork ch c.val h.bursts (loadWord c.val h)

def execSt (c : CoreRun) (s : State) : Host.Outcome State Fault Refusal :=
  onChip s fun ch => scalarWork ch c.core.val c.bursts (storeWord c.core.val)

/-- Releases a held descriptor store once every instruction that names the entry has fetched it (R220). -/
def execDescStoreRelease (c : CoreId) (s : State) : Host.Outcome State Fault Refusal :=
  onChip s fun ch =>
    let k := coreOf ch c.val
    match k.held with
    | some h =>
      if entryNamed ch c.val (h.off / 64) then ch
      else updCore (wrMem ch (descBase c.val + h.off) h.bytes false) c.val fun k => { k with held := none }
    | none => ch

/-! MFS, MTS and DSET (R221, R222). -/

def execMfs (c : CoreId) (s : State) : Host.Outcome State Fault Refusal :=
  onChip s fun ch => issue ch c.val .mfs fun ch1 k w =>
    match readSpecial ch1 c.val (wb w 7 0) with
    | some v => setCore ch1 c.val (advance (wrReg k (wb w 51 46) v))
    | none => faultWord ch1 c.val 2 w

def execMts (c : CoreId) (s : State) : Host.Outcome State Fault Refusal :=
  onChip s fun ch => issue ch c.val .mts fun ch1 k w =>
    let sel := wb w 7 0
    if 9 ≤ sel ∧ sel ≤ 15 then
      setCore ch1 c.val (advance { k with tc := tput k.tc (sel - 8) ((rdReg k (wb w 45 40)).setWidth 32) })
    else faultWord ch1 c.val 2 w

def execDset (c : CoreId) (s : State) : Host.Outcome State Fault Refusal :=
  onChip s fun ch => issue ch c.val .dset fun ch1 k w =>
    let ix := rdReg k (wb w 45 40) + immS w
    if ix.toNat < 1024 then
      setCore ch1 c.val (advance { k with d := tput k.d (wb w 51 46) (ix.setWidth 10) })
    else faultWord ch1 c.val 2 w

def execIllegalInstruction (c : CoreId) (s : State) : Host.Outcome State Fault Refusal :=
  onChip s fun ch => issueIllegal ch c.val

end Sys2Proof.Machine
end

