-- ==== Sys2Proof/Machine/DmaMove.lean ====
section
/-! DEFINITION. DMA: copies, transposes and conversions (05_engines.md R122, R123; 11_tensor_descriptors.md R247, R260,
R261; 12_memory.md R273). -/

namespace Sys2Proof.Machine

def dmaSpace (p : Nat) : Nat := ebit p 0 1 0
def dmaTransposes (op : Op) : Bool := op == .dmaTranspose || op == .dmaTransposeConvert
def dmaConverts (op : Op) : Bool := op == .dmaConvert || op == .dmaTransposeConvert

/-- Source and destination with their byte addends (R229); the destination in its address space (R260). -/
def dmaSrc (i : QInstr) : Desc := descAt i.fA (xByte i.x)
def dmaDstRaw (i : QInstr) : Desc := descAt i.fC (if wb i.word 0 0 = 1 then xByte i.x else 0)
def spaceBase (g sp : Nat) : Nat := match sp with | 1 => imemBase g | 2 => descBase g | _ => 0
def dmaDst (g : Nat) (i : QInstr) : Desc :=
  let C := dmaDstRaw i
  { C with base := C.base + spaceBase g (dmaSpace i.fP) }

def movable (f : Fmt) : Bool :=
  match f with
  | .int3 | .f16s | .f32x | .bit => false
  | f => !isBlock f

def dmaFmtOk (op : Op) (a c : Fmt) : Bool :=
  match op with
  | .dmaCopy => a == c && a != .bit
  | .dmaTranspose => a == c && movable a
  | .dmaConvert => (isElement a || a == .f32x || isBlock a) &&
      (isElement c || c == .f16s || (isBlock c && !isBlock a))
  | _ => heritageFmt a &&
      (isBlock c || c == .e4m3 || c == .e5m2 || c == .e2m1 || c == .int4 || c == .int3 || c == .tern)

/-- Dimensions 0 and 1 exchanged, a missing dimension 1 taken as extent 1 (R260). -/
def swap2 {α : Type} (one : α) (l : List α) : List α :=
  match l with
  | a :: b :: r => b :: a :: r
  | [a] => [one, a]
  | [] => []

def dropOnes (l : List Nat) : List Nat :=
  match l with
  | [a, 1] => [a]
  | l => l

def dmaShapeOk (op : Op) (a c : List Nat) : Bool :=
  if dmaTransposes op then dropOnes (swap2 1 a) == dropOnes c || swap2 1 a == c else a == c

/-- The source index vector of a destination element. -/
def srcIx (op : Op) (A : Desc) (ix : List Nat) : List Nat :=
  if dmaTransposes op then
    match ix with
    | a :: b :: r => (b :: a :: r).take A.ndims
    | [a] => [0, a].take A.ndims
    | [] => []
  else ix

/-- Puts a byte range lo … hi−1 into runs sorted by falling address. -/
def runInsert (lo hi : Nat) : List (Nat × Nat) → List (Nat × Nat)
  | (a, b) :: r => if a ≤ lo then (lo, hi) :: (a, b) :: r else (a, b) :: runInsert lo hi r
  | [] => [(lo, hi)]

/-- Joins runs sorted by falling address that touch, into rising order: address and length. -/
def runJoin (l : List (Nat × Nat)) : List (Nat × Nat) :=
  (l.foldl (fun (rs : List (Nat × Nat)) p =>
    match rs with
    | (a, b) :: r => if a ≤ p.2 then (p.1, max b p.2) :: r else p :: (a, b) :: r
    | [] => [p]) []).map fun p => (p.1, p.2 - p.1)

/-- The contiguous runs of bytes of a tensor's elements, with the padding that a write brings, in address order (R155, R260,
R273). -/
def runsOf (d : Desc) (write : Bool := false) : List (Nat × Nat) :=
  let ext := if write ∧ padded d.fmt then padTo (d.ext.headD 0) 32 :: d.ext.tail else d.ext
  runJoin ((List.range (prodN ext)).foldl (fun rs n =>
    let ix := unlin ext n
    if zeroFill d ix then rs
    else
      let ba := (elemBit d ix).toNat
      let lo := ba / 8
      let hi := (ba + fmtBits d.fmt + 7) / 8
      match rs with
      | (a, b) :: r => if a ≤ lo ∧ lo ≤ b then (a, max b hi) :: r else runInsert lo hi rs
      | [] => [(lo, hi)]) [])

/-- The runs of its scales or tails. -/
def auxRuns (d : Desc) : List (Nat × Nat) :=
  runJoin ((auxBytesOf d none).foldl (fun rs x =>
    match rs with
    | (a, b) :: r => if a ≤ x.toNat ∧ x.toNat ≤ b then (a, max b (x.toNat + 1)) :: r else runInsert x.toNat (x.toNat + 1) rs
    | [] => [(x.toNat, x.toNat + 1)]) [])

/-- The block or chunk length of a format whose scales a copy moves. -/
def scaleLen (f : Fmt) : Nat := if isBlock f then 32 else if f = .f16s then 256 else 0

/-- The source pieces that the elements of one destination block or chunk come from. -/
def srcPieces (A : Desc) (tail : List Nat) (b len e0 : Nat) : List Nat :=
  (((span (b * len) (min len (e0 - b * len))).map fun x => x :: tail).filter fun ix => !zeroFill A ix).map
    (chunkIx A len) |>.eraseDups

/-- A copy never mixes source blocks in a destination block (R260). -/
def copyPiecesOk (A C : Desc) : Bool :=
  let len := scaleLen C.fmt
  len == 0 || (List.range (prodN C.ext.tail)).all fun r =>
    let e0 := C.ext.headD 0
    (List.range ((e0 + len - 1) / len)).all fun b => (srcPieces A (unlin C.ext.tail r) b len e0).length ≤ 1

/-- An end lies in scratchpad: the bytes it touches do, whatever a window makes of its base (R122). -/
def inScratch (d : Desc) (write : Bool) : Bool :=
  let a := ((elemSpan d write).map Prod.snd).getD d.base
  decide (0x100000000000 ≤ a ∧ a < 0x200000000000)

/-- The byte ranges of two ends overlap, judged from lowest to highest byte (R260). -/
def rangesMeet (a b : Option (Int × Int)) : Bool :=
  match a, b with
  | some (l, h), some (m, n) => decide (l ≤ n ∧ m ≤ h)
  | _, _ => false

def dmaCheck (ch : Chip) (g : Nat) (op : Op) (i : QInstr) : Option Nat :=
  let p := i.fP
  let A := dmaSrc i
  let C := dmaDstRaw i
  let sp := dmaSpace p
  let empty := decide (numel C = 0)
  let raw (f : Fmt) : Bool := f == .raw8 || f == .raw16 || f == .raw32
  let aux := (!dmaTransposes op && !dmaConverts op) || isBlock A.fmt
  let size : Int := if sp = 1 then 0x20000 else 0x10000
  let inMem (s : Option (Int × Int)) : Bool := match s with | some (l, h) => decide (0 ≤ l ∧ h < size) | none => true
  firstBad [
    (!xBad i.x, 2),
    ((descOf i.fA).isSome && (descOf i.fC).isSome, 2),
    (sp != 3 && ebit p 0 7 3 == 0 && zeroBytes p 63 1, 2),
    (dmaFmtOk op A.fmt C.fmt, 2),
    (descRules A true && descRules C false, 2),
    (dmaShapeOk op A.ext C.ext, 2),
    (!dmaTransposes op || !(inScratch A false && inScratch C true), 2),
    (sp == 0 || (op == .dmaCopy && raw A.fmt && raw C.fmt), 2),
    (op != .dmaCopy || empty || copyPiecesOk A C, 2),
    (sp != 1 || empty || (runsOf C).all fun r => r.1 % 8 == 0 && r.2 % 8 == 0, 2),
    (sp != 0 || empty || !rangesMeet (operandSpan A false aux) (operandSpan C true true), 2),
    (empty || descOk ch g A false false aux, 3),
    (empty || (if sp = 0 then descOk ch g C false true true else inMem (elemSpan C true)), 3)]

/-! ### The move -/

/-- A code as a unit writes it: a reserved TERN code was read as 0, and a NaN is the canonical one (R148, R149). -/
def fixCode (f : Fmt) (c : Nat) : Nat :=
  if (f = .tern ∨ f = .btern) ∧ c = 2 then 0
  else if visNan (decode f c) then (convert f false .nan 1).code
  else c

/-- The scale of an element's block or chunk is 0xFF, which makes it poisoned (R153). -/
def scaleDead (ch : Chip) (A : Desc) (ix : List Nat) : Bool :=
  let len := scaleLen A.fmt
  len != 0 && rdNat ch (A.sptr + chunkIx A len ix) 1 == 0xFF

/-- One element of a copy or transpose: its bits, and whether they are poisoned. `bad` marks a failed outbound read. A scale
code 0xFF is not written, and leaves a poisoned free byte (R153). -/
def movedEl (ch : Chip) (A : Desc) (bad : Bool) (fr : Nat → Nat) (ix : List Nat) : Nat × Bool :=
  if zeroFill A ix then (0, false)
  else
    let ba := elemBit A ix
    let c := rdBits ch ba (fmtBits A.fmt)
    let dead := A.fmt == .sf8 && c == 0xFF
    (if dead then fr ba.toNat % 255 else fixCode A.fmt c,
      dead || bitsPoi ch ba (fmtBits A.fmt) || scaleDead ch A ix || (bad && decide ((outBase : Int) * 8 ≤ ba)))

/-- The bits of a copied or transposed tensor. -/
def moveOut (ch : Chip) (op : Op) (A C : Desc) (bad : Bool) (fr : Nat → Nat) : Out :=
  outAll ((List.range (numel C)).map fun n =>
    let ix := unlin C.ext n
    let e := movedEl ch A bad fr (srcIx op A ix)
    outEl (elemBit C ix) (fmtBits C.fmt) e.1 e.2)

/-- The scales, tails and padding a copy moves with the elements (R260); a scale 0xFF is not written, and leaves a
poisoned free byte (R153). -/
def copyAux (ch : Chip) (A C : Desc) (bad : Bool) (fr : Nat → Nat) : Out :=
  let len := scaleLen C.fmt
  let e0 := C.ext.headD 0
  let rows := (List.range (prodN C.ext.tail)).map fun r => unlin C.ext.tail r
  let failed (a : Nat) : Bool := bad && decide (outBase ≤ a)
  let scales : Out := if len = 0 then outNone else
    outAll (rows.map fun tail => outAll ((List.range ((e0 + len - 1) / len)).map fun b =>
      let da : Int := (C.sptr + chunkIx C len (b * len :: tail) : Nat)
      match srcPieces A tail b len e0 with
      | k :: _ =>
        let v := rdNat ch (A.sptr + k) 1
        outEl (8 * da) 8 (if v = 0xFF then fr da.toNat % 255 else v)
          (v == 0xFF || anyPoi ch (A.sptr + k) 1 || failed (A.sptr + k))
      | [] => outEl (8 * da) 8 0 false))
  let tails : Out := if C.fmt = .f32x then
      outAll ((List.range (numel C)).map fun n =>
        let z := zeroFill A (unlin C.ext n)
        let sa := A.sptr + 2 * n
        outEl (8 * ((C.sptr + 2 * n : Nat) : Int)) 16 (if z then 0 else rdNat ch sa 2)
          (!z && (anyPoi ch sa 2 || failed sa)))
    else outNone
  let pad : Out := if padded C.fmt then
      outAll (rows.map fun tail => outAll ((span e0 (padTo e0 32 - e0)).map fun x =>
        outEl (elemBit C (x :: tail)) (fmtBits C.fmt) 0 false))
    else outNone
  outAdd (outAdd pad scales) tails

/-- Padding of a transposed or copied INT3 tensor goes with `copyAux`; a conversion writes its own. -/
def convertEnc (ch : Chip) (op : Op) (A C : Desc) (rtz bad : Bool) (fr : Nat → Nat) : Enc :=
  encAll ((List.range (prodN C.ext.tail)).map fun r =>
    let tail := unlin C.ext.tail r
    encRow C rtz false fr none tail ((List.range (C.ext.headD 0)).map fun n =>
      let ix := srcIx op A (n :: tail)
      if bad ∧ ¬ zeroFill A ix ∧ (outBase : Int) * 8 ≤ elemBit A ix then encOf none else encOf (readEl ch A ix)))

/-- A run of an end goes on the fine path (R273). -/
def fineRun (d : Desc) (r : Nat × Nat) : Bool :=
  d.hint == .stream && decide (r.1 < hbmEnd) && !(r.1 % 256 == 0 && r.2 % 256 == 0)

/-- The accesses of one end at Landing, its grains and HBM bytes (R270, R273); other addresses are only reached over the
network (R285). -/
def dmaEnd (ch : Chip) (g : Nat) (d : Desc) (runs : List (Nat × Nat)) (write : Bool) : Chip :=
  runs.foldl (fun c r =>
    if hbmEnd ≤ r.1 then landRange c (coreJob c g) d.hint r.1 r.2 write
    else
      let c0 := countCore c g (if write then 78 else 77) r.2
      if fineRun d r then
        countCore (raise (landGrains c0 (coreJob c g) r.1 r.2 write) .dmaFinePath g) g 71 ((r.1 + r.2 + 63) / 64 - r.1 / 64)
      else landRange c0 (coreJob c g) d.hint r.1 r.2 write) ch

/-- The byte runs a DMA reads and writes: elements, and the scales or tails that go with them. -/
def dmaReads (op : Op) (i : QInstr) : List (Nat × Nat) :=
  let A := dmaSrc i
  runsOf A ++ (if op = .dmaCopy ∨ isBlock A.fmt then auxRuns A else [])
def dmaWrites (g : Nat) (i : QInstr) : List (Nat × Nat) := runsOf (dmaDst g i) true ++ auxRuns (dmaDst g i)

/-- A DMA uses the fine path, or the outbound window (R262, R273). -/
def dmaFine (g : Nat) (op : Op) (i : QInstr) : Bool :=
  (dmaReads op i).any (fineRun (dmaSrc i)) || (dmaWrites g i).any (fineRun (dmaDst g i))
def outRuns (runs : List (Nat × Nat)) : List (Nat × Nat) := runs.filter fun r => decide (outBase ≤ r.1 ∧ r.1 < 2 ^ 48)
def outWindow (d : Desc) : Bool := !(outRuns (runsOf d)).isEmpty

/-- The words of instruction memory a DMA rewrites keep what they held until a FENCE on the DMA queue (R211). -/
def markStale (ch : Chip) (g : Nat) (C : Desc) : Chip :=
  let ws := ((runsOf C).flatMap fun r => span ((r.1 - imemBase g) / 8) (r.2 / 8))
  updCore ch g fun k =>
    { k with stale := ws.foldl (fun t w =>
        if thas t w then t else tput t w (BitVec.ofNat 64 (rdNat ch (imemBase g + 8 * w) 8))) k.stale }

/-- A write into descriptor memory waits for earlier instructions that name the entry and have not fetched it (R261). -/
def dmaHeld (ch : Chip) (g : Nat) (i : QInstr) : Bool :=
  dmaSpace i.fP == 2 && ((runsOf (dmaDstRaw i)).any fun r =>
    (span (r.1 / 64) ((r.1 + r.2 + 63) / 64 - r.1 / 64)).any fun e =>
      (coreOf ch g).q.any fun j => decide (j.seq < i.seq) && j.phase == .queued && (namedEntries ch g j).contains e)

def dmaEffect (ch : Chip) (g : Nat) (op : Op) (i : QInstr) (h : HostIn) : Chip :=
  let A := dmaSrc i
  let C := dmaDst g i
  if numel C = 0 then ch
  else
    let reads := dmaReads op i
    let writes := dmaWrites g i
    let ch1 := if outWindow A then hostRead ch (jobFn (coreJob ch g)) h (outRuns reads) else ch
    let bad := outWindow A && hostBad ch h
    let fb := freeBits ch1
    let e : Enc := if dmaConverts op then convertEnc ch1 op A C (ebit i.fP 0 2 2 == 1) bad fb.1
      else { encNone with out := outAdd (if op = .dmaCopy then copyAux ch1 A C bad fb.1 else outNone) (moveOut ch1 op A C bad fb.1) }
    let poiIn := bad || reads.any fun r => anyPoi ch1 r.1 r.2
    let lost := outWindow C && !hostOpen ch
    let ch2 := dmaEnd (forwardPoison fb.2 (g / 128) reads) g A reads false
    let ch3 := if dmaSpace i.fP = 1 then raise (markStale ch2 g C) .dmaImemWrite g else ch2
    let ch4 := dmaEnd ch3 g C writes true
    let ch5 := if lost then ch4
      else if dmaConverts op then applyEnc ch4 g C.tid e else applyOut ch4 e.out
    let bytes := ((runsOf C).map Prod.snd).foldl (· + ·) 0
    let ch6 := countCore (if outWindow C then hostWrite ch5 (jobFn (coreJob ch5 g)) (outRuns writes) else ch5) g 70 bytes
    let ch7 := if dmaTransposes op then countCore (raise ch6 .dmaTransposed g) g 72 bytes else ch6
    raiseIf poiIn (raiseIf (outWindow A || outWindow C) (raiseIf (dmaConverts op) ch7 .dmaConverted g) .dmaOutbound g) .dmaPoisonIn g

def dmaRun (c : CoreId) (op : Op) (h : HostIn) (s : State) : Host.Outcome State Fault Refusal :=
  onChip s fun ch =>
    match (coreOf ch c.val).q.find? fun i => i.q == .dma && i.phase == .started with
    | some i =>
      if decodeWord i.word ≠ some op then ch
      else if dmaHeld ch c.val i then raise ch .dmaDescHold c.val
      else coreRun ⟨c, [], [], h.bursts⟩ .dma op (fun ch i => (dmaEffect ch c.val op i h, i)) ch
    | none => ch

def execDmaCopy (c : CoreId) (h : HostIn) (s : State) : Host.Outcome State Fault Refusal := dmaRun c .dmaCopy h s
def execDmaTranspose (c : CoreId) (h : HostIn) (s : State) : Host.Outcome State Fault Refusal :=
  dmaRun c .dmaTranspose h s
def execDmaConvert (c : CoreId) (h : HostIn) (s : State) : Host.Outcome State Fault Refusal := dmaRun c .dmaConvert h s
def execDmaTransposeConvert (c : CoreId) (h : HostIn) (s : State) : Host.Outcome State Fault Refusal :=
  dmaRun c .dmaTransposeConvert h s

end Sys2Proof.Machine
end

