-- ==== Sys2Proof/Machine/QueueStart.lean ====
section
/-! DEFINITION. Issue of queue instructions, their start and their completion (10_oanoine_control.md R210, R220, R228
to R236; 11_tensor_descriptors.md R245; 20_faults.md R436; log 5). -/

namespace Sys2Proof.Machine

/-- The place of a queue among counters 60 to 64 and 65 to 69 (R449). -/
def queueIx (q : Queue) : Nat := queueBit q

/-- The sequencer hands the queue instruction at its PC to its queue, or holds it while the queue is full (R210). -/
def issueQueue (ch : Chip) (g : Nat) : Chip :=
  let k := coreOf ch g
  if ¬ canIssue ch g then ch
  else if anyPoi ch (imemBase g + 8 * k.pc) 8 then faultAtPc ch g 9
  else
    let w := fetchWord ch g k.pc
    match decodeWord w with
    | none => ch
    | some op =>
      match queueOf op with
      | none => ch
      | some q =>
        let ch0 := { ch with free := ch.free + b2n (thas k.stale k.pc) }
        if (regUse op w).1.any (pendingReg k) || (regUse op w).2.any (pendingReg k) then ch
        else if ¬ guardOk k w then updCore (countCore ch0 g 57 1) g advance
        else
          let off : Option Nat := match queueBlk q with
            | some (b, code) => if enabled ch b g then none else some code
            | none => none
          match off with
          | some code => faultWord ch g code w
          | none =>
            if queueDepth q ≤ (k.q.filter fun i => i.q == q && i.phase != .done).length then
              countCore ch g (60 + queueIx q) 1
            else
              let slot (hi lo : Nat) : Option Nat := (k.d.find? fun p => p.1 == wb w hi lo).map fun p => p.2.toNat
              let i : QInstr :=
                { seq := k.seq, q := q, pc := k.pc, word := w, eA := slot 48 43, eB := slot 42 37, eC := slot 36 31,
                  eP := slot 30 25, x := rdReg k (wb w 24 20), phase := .queued, fA := 0, fB := 0, fC := 0, fP := 0,
                  f1 := 0, f2 := 0, conf := 0, aux := [], auxPoi := false, sres := 0, pres := false }
              updCore (countCore ch0 g 57 1) g fun k => { advance k with q := k.q ++ [i], seq := k.seq + 1 }

/-- The checks of a queue instruction whose entries are fetched (R245). -/
def opCheck (ch : Chip) (g : Nat) (op : Op) (i : QInstr) : Option Nat :=
  match op with
  | .mma => mmaCheck ch g i
  | .ard | .art => arrCheck ch g op i
  | .apgLoad => loadCheck ch g i
  | .apgTransfer => transferCheck ch g i
  | .preloadBias | .preloadResid => preloadCheck ch g op i
  | .mupd => mupdCheck ch g i
  | .wflush | .wstep | .wcheck | .wprobe | .scalegen => watchCheck ch g op i
  | .softmaxBwd | .normBwd => vredCheck ch g op i
  | .drn => drnCheck ch g i
  | .dmaCopy | .dmaTranspose | .dmaConvert | .dmaTransposeConvert => dmaCheck ch g op i
  | _ => vopCheck ch g op i

/-- An accepted ARRAY_PROGRAM (opcode 0x0040) that has yet to load position l of core g (R57, R388, R403): the command's
bytes are raw's from byte 16 on. -/
def programHolds (ch : Chip) (g l : Nat) : Bool :=
  let names (raw : Nat) : Bool :=
    eb raw 1 0 == 0x40 && 128 * eb raw 16 16 + eb raw 17 17 == g && decide (eb raw 18 18 ≤ l ∧ l < eb raw 18 18 + eb raw 19 19)
  ch.sys.camp.streams.any fun p =>
    (match p.2.cmd with | some c => c.committed && names c.raw | none => false) || p.2.bg.any fun c => names c.raw

/-- A load of position l has begun or has been accepted, and is not done (R57). -/
def loadPending (ch : Chip) (g l : Nat) : Bool :=
  (coreOf ch g).q.any (fun i => i.q == .programmer && i.phase == .started &&
    decodeWord i.word == some .apgLoad && apgLogical i == l) || programHolds ch g l

/-- An array instruction waits for a spare of its position or a load of it, and a load for a move of it (R19, R57). -/
def positionWaits (ch : Chip) (g : Nat) (op : Op) (i : QInstr) : Bool :=
  match op with
  | .ard | .art => posWaits ch g (arLogical i) || loadPending ch g (arLogical i)
  | .apgTransfer => posWaits ch g (apgLogical i) || loadPending ch g (apgLogical i)
  | .apgLoad => (bankOf ch g).moves.any fun m => m.logical == apgLogical i
  | _ => false

/-- An instruction uses tiles while the accumulator memory is DISABLED: it waits (R146, log 131). -/
def tilesOff (ch : Chip) (g : Nat) (op : Op) (i : QInstr) : Bool :=
  shapeTiles (tShape op i) != [] && blkGet ch .eng g == .disabled

/-- The block of a queue can start work: it is not DISABLED, and the programmer's is ENABLED (R57). -/
def queueRuns (ch : Chip) (g : Nat) (q : Queue) : Bool :=
  match queueBlk q with
  | some (b, _) => blkGet ch b g != .disabled
  | none => progReady ch g

/-- An instruction as it starts, with the bytes it reads then: the column scales of APG LOAD (R254), the scale of a
drain's output (R258). -/
def startedWith (ch : Chip) (op : Op) (i : QInstr) : QInstr :=
  let a : List Nat × Bool := match op with
    | .apgLoad => loadAux ch i
    | .drn => drnScaleByte ch i
    | _ => ([], false)
  { i with phase := .started, aux := a.1, auxPoi := a.2 }

/-- Those bytes come through their home slices (R267). -/
def startFetch (ch : Chip) (g : Nat) (op : Op) (i : QInstr) : Chip :=
  match op with
  | .apgLoad => if apgAuto i.fP then ch else landRange ch (coreJob ch g) .normal (apgScaleDa i.fP) 128 false
  | .drn => if drnOscale i.fP = 0 then ch else landRange ch (coreJob ch g) .normal (drnOscale i.fP) 1 false
  | _ => ch

/-- The head of the vector queue is held under R138, whose cycles VEC_TILE_HOLD counts (R208). -/
def vecHeld (ch : Chip) (g : Nat) : Bool :=
  let k := coreOf ch g
  !(k.q.any fun i => i.q == .vector && i.phase == .started) &&
    match k.q.find? fun i => i.q == .vector && i.phase == .queued with
    | none => false
    | some i => match decodeWord i.word with
      | none => false
      | some op => tileClash ch g true i.seq [.engine, .array] (shapeTiles (tShape op (fetched ch g i)))

/-- A queue starts its oldest waiting instruction: fetch, checks, fault (R210, R245). -/
def startQueue (ch : Chip) (g : Nat) (q : Queue) : Chip :=
  let k := coreOf ch g
  if ¬ islandRuns ch (g / 128) ∨ (towerOf ch (g / 128)).fenced ∨ ¬ queueRuns ch g q ∨
      k.q.any (fun i => i.q == q && i.phase == .started) then ch else
  match k.q.find? fun i => i.q == q && i.phase == .queued with
  | none => ch
  | some i =>
    match decodeWord i.word with
    | none => ch
    | some op =>
      let j := fetched ch g i
      if fetchPoisoned ch g i then queueFault ch g 9 i
      else if slotMissing j op then queueFault ch g 2 i
      else if positionWaits ch g op j || tilesOff ch g op j then ch
      else if q == .vector && tileClash ch g true i.seq [.engine, .array] (shapeTiles (tShape op j)) then
        raise ch .vecTileWait g
      else match opCheck ch g op j with
        | some 0x102 => queueFault (raise ch .engAccTileRange g) g 2 i
        | some code => queueFault ch g code i
        | none => updInstr (startFetch ch g op j) g i.seq fun _ => startedWith ch op j

def execQueueStart (c : CoreId) (k : QStep) (s : State) : Host.Outcome State Fault Refusal :=
  onChip s fun ch => match k with
    | .issue => issueQueue ch c.val
    | .start q bursts => memWork (.core (c.val / 128)) bursts (fun ch => startQueue ch c.val q) ch

/-! ### Failed parts (R436) -/

/-- The tiles that number the parts of an operation's output: its own, or, of one that uses none, those its output would
fill from tile 0 on (DESIGN CHOICE, log 161). -/
def partShape (op : Op) (i : QInstr) (d : Desc) : TShape :=
  let s := tShape op i
  if s.rows = 0 ∨ s.cols = 0 then
    let n := d.ext.headD 0
    ⟨0, (n + 15) / 16, 0, prodN d.ext.tail, n⟩
  else s

/-- Element (m, n) of a shape lies in a tile of a failed part. -/
def partFailed (s : TShape) (failed : Dword) (m n : Nat) : Bool :=
  failed.getLsbD ((tileAt s.base s.pitch m n).1 / 4)

/-- The elements written of an output that belong to failed parts: (row, column) as `at_` gives them, and the marks. -/
def tileParts (s : TShape) (d : Desc) (sel : Option (Nat × Nat × Nat)) (failed : Dword) : Out :=
  outAll ((span s.row0 s.rows).flatMap fun m => (List.range s.cols).filterMap fun n =>
    let ix := n :: unlin d.ext.tail m
    let inSel := match sel with | some (k, m0, c) => decide (m0 ≤ ix.getD k 0 ∧ ix.getD k 0 < m0 + c) | none => true
    if inSel && partFailed s failed m n then some (outMark (elemBit d ix) (fmtBits d.fmt)) else none)

/-- The columns of a COLSUM with a source element in a failed part. -/
def columnParts (s : TShape) (d : Desc) (failed : Dword) : Out :=
  outAll ((List.range s.cols).filterMap fun n =>
    if (span s.row0 s.rows).any fun m => partFailed s failed m n then some (outMark (elemBit d [n]) (fmtBits d.fmt)) else none)

/-- The tails of an F32X output that go with its marked elements. -/
def tailParts (s : TShape) (d : Desc) (failed : Dword) : Out :=
  outAll ((span s.row0 s.rows).flatMap fun m => (List.range s.cols).filterMap fun n =>
    if partFailed s failed m n then some (outMark (8 * ((d.sptr + 2 * lin d.ext (n :: unlin d.ext.tail m) : Nat) : Int)) 16)
    else none)

/-- The byte ranges of a DMA destination: 64 equal parts, each rounded up to 256 bytes. -/
def dmaParts (d : Desc) (failed : Dword) : List (Nat × Nat) :=
  match elemSpan d true with
  | none => []
  | some (lo, hi) =>
    let len := (hi - lo + 1).toNat
    let part := ((len + 63) / 64 + 255) / 256 * 256
    (List.range 64).filterMap fun k =>
      if failed.getLsbD k ∧ k * part < len then some (lo.toNat + k * part, min part (len - k * part)) else none

/-- The destination words of failed parts are poisoned. -/
def poisonParts (ch : Chip) (g : Nat) (op : Op) (i : QInstr) (failed : Dword) : Chip :=
  let s := tShape op i
  let tiles (ts : List Nat) : Chip := ts.foldl (fun c t => updTile c g t fun x => { x with poison := true }) ch
  let C := descD i.fC
  let marked (o : Out) : Chip := raiseIf o.poisoned (applyOut ch o) .vecPoisonOut g
  match op with
  | .mma | .preloadBias | .preloadResid => tiles ((shapeTiles s).filter fun t => failed.getLsbD (t / 4))
  | .ard | .art => if failed.getLsbD (arLogical i / 2) then tiles (shapeTiles s) else ch
  | .drn => marked (tileParts s C none failed)
  | .dmaCopy | .dmaTranspose | .dmaConvert | .dmaTransposeConvert =>
    let d := dmaDst g i
    (dmaParts d failed).foldl (fun c r => markPoi (landRange c (coreJob c g) d.hint r.1 r.2 true) r.1 r.2)
      (raise ch .dmaPartFailed g)
  | .vopAdd | .vopSub | .vopMul | .vopFma | .vopMax | .vopMin | .cvt | .sfu | .scale =>
    marked (tileParts (partShape op i C) C none failed)
  | .colsum => marked (columnParts (partShape op i (descD i.fA)) C failed)
  | .softmaxBwd | .normBwd => marked (tileParts (partShape op i C) C (vredOf i).sel failed)
  | .mupd =>
    let A := descD i.fA
    let t := partShape op i A
    marked (outAdd (tileParts t A none failed) (tailParts t A failed))
  | _ => ch

/-- A split request ended with failed parts: the job is told (R436). -/
def failParts (ch : Chip) (g : Nat) (op : Op) (i : QInstr) (failed : Dword) : Chip :=
  if failed = 0 then ch
  else
    let ch1 := poisonParts ch g op i failed
    match coreJob ch1 g with
    | some j => notify ch1 j.val 4 0 g 0 0 failed
    | none => ch1

/-! ### Completion (R231 to R233) -/

def tokenOf (i : QInstr) : Nat := wb i.word 51 49

/-- Counts tokens in issue order: a completed instruction counts once every earlier one with its token has, and never after
one that will not complete (R233). -/
def countTokens (fuel : Nat) (k : Core) : Core :=
  match fuel with
  | 0 => k
  | fuel + 1 =>
    match k.q.find? fun i => i.phase == .done && !(k.q.any fun j =>
        decide (j.seq < i.seq) && tokenOf j == tokenOf i && tokenOf j != 0) &&
        !k.lost.any fun p => decide (p.1 < i.seq) && p.2 == tokenOf i && p.2 != 0 with
    | none => k
    | some i =>
      let k1 := { k with q := k.q.filter fun j => j.seq != i.seq }
      countTokens fuel (if tokenOf i = 0 then k1 else { k1 with tc := tupd k1.tc 0 (tokenOf i) (· + 1) })

def isVred (op : Op) : Bool := op == .softmaxBwd || op == .normBwd

/-- VOP functions with a result for `pD` (R230, R231). -/
def givesP (op : Op) : Bool := op == .wstep || op == .wcheck || op == .wprobe || op == .scalegen

/-- The scratchpad banks that a range of bytes touches: bank (x ÷ 64) mod 48 (R109). -/
def banksOf (g : Nat) (r : Option (Int × Int)) : List Nat :=
  match r with
  | none => []
  | some (lo, hi) =>
    let a := (max lo (scratchBase g)).toNat
    let b := (min hi (scratchBase g + scratchLen - 1 : Nat)).toNat
    if (scratchBase g : Int) + scratchLen ≤ lo ∨ hi < scratchBase g then []
    else (span ((a - scratchBase g) / 64) (min 48 ((b - scratchBase g) / 64 - (a - scratchBase g) / 64 + 1))).map (· % 48)

/-- The scratchpad accesses of a fetched instruction by port (R109): 0 engine A, 1 engine B, 2 bypass lanes, 3 vector unit,
4 DMA, 5 drain; 6 is the array result unit's and the programmer's own. -/
def portSpans (ch : Chip) (g : Nat) (op : Op) (i : QInstr) : List (Nat × Option (Int × Int)) :=
  let both (p : Nat) (d : Desc) (write : Bool) (sel : Option (Nat × Nat × Nat)) : List (Nat × Option (Int × Int)) :=
    [(p, elemSpan d write sel), (p, auxSpan d sel)]
  let given (e : Nat) (p : Nat) : List (Nat × Option (Int × Int)) :=
    match descOf e with | some d => both p d false none | none => []
  match op with
  | .mma =>
    let m := mmaOf i
    let lanes := onLanes ch g i m
    let one := prodN (rawExt m.a m.ma) == 1
    both (if lanes ∧ ¬ one then 2 else 0) m.a false ((mmaSel i).getD none) ++ both (if lanes ∧ one then 2 else 1) m.b false none
  | .ard | .art => both 6 (arIn i) false ((arSel i).getD none) ++ (if arAuto i.fP then [] else both 6 (arScales i) false none)
  | .apgTransfer => given i.fA 6
  | .apgLoad => []
  | .drn =>
    both 5 (descD i.fC) true ((drnSel i).getD none) ++
      (if drnAux i.fP = 0 then [] else both 3 (descAt i.fA (xByte i.x)) (decide (4 ≤ drnAux i.fP)) ((drnSel i).getD none))
  | .softmaxBwd | .normBwd =>
    let v := vredOf i
    both 3 v.a false v.sel ++ both 3 v.b false v.sel ++ both 3 v.c true v.sel ++ given i.f1 3 ++ given i.f2 3
  | .dmaCopy | .dmaTranspose | .dmaConvert | .dmaTransposeConvert => both 4 (dmaSrc i) false none ++ both 4 (dmaDst g i) true none
  | .wcheck => []
  | _ => (if slotUse op i.fP |>.1 then (if vopATile i.fP then [] else given i.fA 3) else []) ++ given i.fB 3 ++ given i.fC 3

/-- The banks an instruction reaches, each with its port. -/
def instrBanks (ch : Chip) (g : Nat) (i : QInstr) : List (Nat × Nat) :=
  match decodeWord i.word with
  | none => []
  | some op => ((portSpans ch g op i).flatMap fun p => (banksOf g p.2).map fun b => (p.1, b)).eraseDups

/-- Two ports may have met at a bank while an instruction ran: two of its own, or one of its own and one of an instruction in
flight. Whether they did in one cycle is timing, which the model leaves free (R109; log 132). -/
def bankConflict (ch : Chip) (g : Nat) (i : QInstr) : Chip :=
  let mine := instrBanks ch g i
  let others := ((coreOf ch g).q.filter fun j => j.seq != i.seq && (j.phase == .started || j.phase == .ran)).flatMap
    (instrBanks ch g)
  if mine.any fun x => (mine ++ others).any fun y => x.1 != y.1 && x.2 == y.2 then
    raiseIf (Config.freeBit ch.free) { ch with free := ch.free + 1 } .engBankConflict g
  else ch

/-- The oldest instruction of a queue that ran and has no read left completes. -/
def instructionComplete (g : Nat) (q : Queue) (failed : Dword) (ch : Chip) : Chip :=
    if ¬ islandRuns ch (g / 128) then ch else
    match (coreOf ch g).q.find? fun i => i.q == q && i.phase == .ran && !unfinished ch g i with
    | none => ch
    | some i =>
      match decodeWord i.word with
      | none => ch
      | some op =>
        let ch1 := countCore (failParts (bankConflict ch g i) g op i failed) g (65 + queueIx q) 1
        let ch2 := if op = .mma then countCore ch1 g 35 1
          else if q == .vector && !isVred op && op != .drn then countCore ch1 g 73 1 else ch1
        let ch3 := updCore ch2 g fun k =>
          let arr := op == .ard || op == .art
          let k1 := if arr then wrReg k (wb i.word 19 15) (BitVec.ofNat 64 i.conf)
            else
              let k2 := if op = .wcheck then wrReg k (wb i.word 19 15) i.sres else k
              if givesP op then wrReg k2 (0x30 + wb i.word 14 12) (if i.pres then 1 else 0) else k2
          countTokens (k.q.length + 1) { k1 with q := k1.q.map fun j => if j.seq = i.seq then { j with phase := .done } else j }
        enterFaulted ch3 g

/-- Completion is work on memory where failed parts are marked. -/
def execInstructionComplete (c : CoreId) (q : Queue) (failed : Dword) (s : State) : Host.Outcome State Fault Refusal :=
  onChip s (memWork (.core (c.val / 128)) [] (instructionComplete c.val q failed))

end Sys2Proof.Machine
end

