-- ==== Sys2Proof/Machine/Sync.lean ====
section
/-! DEFINITION. Synchronisation: waits, SYS operations and fences of a core (10_oanoine_control.md R225 to R227) and
the operations at the objects (13_sync_newel.md R286 to R294). -/

namespace Sys2Proof.Machine

/-! ### Objects -/

def objGet (ch : Chip) (o : ObjId) : Word := tget ch.objs 0 o.val
def objCluster (o : ObjId) : Nat := o.val / 512
def objTower (o : ObjId) : Nat := o.val / 8192
def objPoisoned (ch : Chip) (o : ObjId) : Bool := ch.objPoi.contains o.val

/-- The condition of an object wait (R287). -/
def waitHolds (ch : Chip) (w : SywWait) (o : ObjId) : Bool :=
  if w.eq then objGet ch o == w.v else decide (w.v.toNat ≤ (objGet ch o).toNat)

/-! ### Counts reported to Newel (R299, R300, R302) -/

def bindArrive (ch : Chip) (b : Nat) : Nat := fld (regGet ch .nwlBindA 0 b) 15 0
def bindTarget (ch : Chip) (b : Nat) : Nat := fld (regGet ch .nwlBindA 0 b) 31 16
def bindDone (ch : Chip) (b : Nat) : Nat := fld (regGet ch .nwlBindB 0 b) 15 0
def bound (ch : Chip) (b : Nat) : Bool := (regGet ch .nwlBindB 0 b).getLsbD 31

/-- The count of an object leaves for the lines bound to it; `own` is the line whose completion changed it. -/
def reportCount (ch : Chip) (o : ObjId) (own : Option Nat) : Chip :=
  let go := (List.range 4).filter fun b => bound ch b && bindArrive ch b == o.val
  { ch with nwl := { ch.nwl with flight := ch.nwl.flight ++ go.map fun b => ⟨b, objGet ch o, own == some b⟩ } }

/-- The last of the waits k × target, k = 1, 2, …, that an engine registers one after another on an object and that its
count releases; what was released before stays (R288, R319, R339, R357). -/
def released (ch : Chip) (o obj : ObjId) (target before : Nat) : Nat :=
  if o = obj then max before ((objGet ch o).toNat / max 1 target) else before

/-- Evaluates the waits of collective groups, twin movers and offload queues on an object. -/
def engineWaits (ch : Chip) (o : ObjId) : Chip :=
  { ch with
    fab := { ch.fab with
      groups := ch.fab.groups.map fun p => (p.1, { p.2 with rel := released ch o p.2.start p.2.target p.2.rel })
      twins := ch.fab.twins.map fun p => (p.1, { p.2 with rel := released ch o p.2.gate p.2.gateTarget p.2.rel }) }
    pci := { ch.pci with bw := ch.pci.bw.map fun p => (p.1, { p.2 with rel := released ch o p.2.push 1 p.2.rel }) } }

/-- Evaluates every registered wait on an object; a release stays (R288). -/
def evalWaits (ch : Chip) (o : ObjId) : Chip :=
  ch.cores.foldl (fun c p =>
    match p.2.syw with
    | some w =>
      if w.obj = some o ∧ w.reg ∧ ¬ w.seen ∧ waitHolds c w o then
        count (updCore c p.1 fun k => { k with syw := some { w with seen := true } }) (cntCluster (objCluster o) 5) 1
      else c
    | none => c) (engineWaits ch o)

/-- Every wait registered on a poisoned object, and not yet released, raises a poison-consumed fault on its core (R288,
R292). -/
def faultWaits (ch : Chip) (o : ObjId) : Chip :=
  ch.cores.foldl (fun c p =>
    match p.2.syw with
    | some w => if w.obj = some o ∧ w.reg ∧ ¬ w.seen then faultCore c p.1 9 w.pc w.word p.2.seq else c
    | none => c) ch

/-- An object becomes poisoned (R292). -/
def poisonObj (ch : Chip) (o : ObjId) : Chip :=
  let ch1 := count (raise { ch with objPoi := sadd ch.objPoi o.val } .synParityPoison (objTower o))
    (cntCluster (objCluster o) 7) 1
  faultWaits ch1 o

/-- Applies one operation at the home arbiter and evaluates the waits after it (R287, R288, R292). Port 9 is Stolud. -/
def objApply (ch : Chip) (port : Nat) (o : ObjId) (op : ObjOp) : Chip :=
  let cl := objCluster o
  match op with
  | .reset =>
    let ch1 := { ch with objs := tput ch.objs o.val 0, objPoi := sdel ch.objPoi o.val }
    evalWaits (reportCount (count ch1 (cntCluster cl 1) 1) o none) o
  | .completion b tgt =>
    if objPoisoned ch o then ch
    else
      let ch1 := { ch with objs := tput ch.objs o.val (objGet ch o - tgt) }
      let ch2 := if bound ch b ∧ bindArrive ch b = o.val then ch1
        else { ch1 with nwl := { ch1.nwl with holdSub := sdel ch1.nwl.holdSub b } }
      evalWaits (reportCount ch2 o (some b)) o
  | .signal n => add n (if port = 9 then 3 else 0) cl
  | .arrive => add 1 2 cl
  | .poison => if objPoisoned ch o then ch else poisonObj ch o
where
  add (n : Word) (ix : Nat) (cl : Nat) : Chip :=
    if objPoisoned ch o then ch
    else
      let v := objGet ch o
      let wrap := decide (2 ^ 32 ≤ v.toNat + n.toNat)
      let ch1 := count { ch with objs := tput ch.objs o.val (v + n) } (cntCluster cl ix) 1
      let ch2 := if wrap then count (raise ch1 .synWrap (objTower o)) (cntCluster cl 6) 1 else ch1
      evalWaits (reportCount (fireSource ch2 2 o.val) o none) o

/-- An operation delivered at a port: applied, or held while the SYN block is not ENABLED (R304); a remote SIGNAL with the
job-fabric id it carries. -/
def objDeliverAs (ch : Chip) (port : Nat) (o : ObjId) (op : ObjOp) (jfid : Option (BitVec 16)) : Chip :=
  if enabled ch .syn (objTower o) then objApply ch port o op
  else { ch with ports := ch.ports ++ [⟨port, o, op, false, jfid⟩] }
def objDeliver (ch : Chip) (port : Nat) (o : ObjId) (op : ObjOp) : Chip := objDeliverAs ch port o op none

/-- A remote SIGNAL with job-fabric id `j` is for the job that holds the object's cluster (R294). -/
def remoteOk (ch : Chip) (o : ObjId) (j : BitVec 16) : Bool :=
  match owner ch (objCluster o) with | some k => (jobOf ch k.val).jfid == j | none => false
/-- A remote SIGNAL that is refused (R294). -/
def remoteReject (ch : Chip) (o : ObjId) : Chip := health (raise ch .synRemoteReject (objTower o))

/-- A held operation is applied; a remote SIGNAL only for the job that then holds the cluster (R291, R294). -/
def portApply (ch : Chip) (p : PortOp) : Chip :=
  match p.jfid with
  | some j => if remoteOk ch p.obj j then objApply ch p.port p.obj p.op else remoteReject ch p.obj
  | none => objApply ch p.port p.obj p.op

/-- One cycle of the ports: the oldest operation of each, lower ports first; then the next cycle (R290). -/
def portRounds (fuel : Nat) (ops : List PortOp) : List PortOp :=
  match fuel with
  | 0 => ops
  | fuel + 1 =>
    (List.range 12).filterMap (fun p => ops.find? fun x => x.port == p) ++
      portRounds fuel ((List.range 12).foldl (fun l p => l.eraseP fun x => x.port == p) ops)

/-- The wait of core g on object o is registered, and evaluated (R288, R292). -/
def waitRegister (ch : Chip) (g : Nat) (o : ObjId) : Chip :=
  let new : Bool := match (coreOf ch g).syw with | some w => !w.reg | none => false
  let ch0 := if new then count ch (cntCluster (objCluster o) 4) 1 else ch
  let ch1 := updCore ch0 g fun k => { k with syw := k.syw.map fun w => { w with reg := true } }
  if objPoisoned ch1 o then faultWaits ch1 o else evalWaits ch1 o

/-- The waits on objects of a tower that came while its block was not ENABLED are registered (R304). -/
def waitsRegister (ch : Chip) (t : Nat) : Chip :=
  ch.cores.foldl (fun c p => match p.2.syw.bind SywWait.obj with
    | some o => if objTower o = t then waitRegister c p.1 o else c
    | none => c) ch

/-- The held operations of a tower are applied when its block is ENABLED; then its waits are evaluated (R290, R291). -/
def objRelease (ch : Chip) (t : Nat) : Chip :=
  let mine := ch.ports.filter fun p => objTower p.obj == t
  let ch1 := { ch with ports := ch.ports.filter fun p => objTower p.obj != t }
  waitsRegister ((portRounds mine.length mine).foldl portApply ch1) t

/-- The port through which core g reaches an object (R290). -/
def corePort (g : Nat) (o : ObjId) : Nat := if g / 8 = objCluster o then g % 8 else 8

def execSignal (o : ObjId) (port : Fin 12) (n : Word) (s : State) : Host.Outcome State Fault Refusal :=
  onChip s fun ch => objDeliver ch port.val o (.signal n)
def execReset (o : ObjId) (port : Fin 12) (s : State) : Host.Outcome State Fault Refusal :=
  onChip s fun ch => objDeliver ch port.val o .reset
def execArrive (o : ObjId) (port : Fin 12) (s : State) : Host.Outcome State Fault Refusal :=
  onChip s fun ch => objDeliver ch port.val o .arrive

/-- The scrub's read of an object (R292). -/
def execSyncObjectScrub (o : ObjId) (bad : Bool) (s : State) : Host.Outcome State Fault Refusal :=
  onChip s fun ch => if bad ∧ ¬ objPoisoned ch o then faultMark (poisonObj ch o) (objCluster o * 8) else ch

/-! ### Waits of a core (R225) -/

/-- The object id srcO + imm, inside the job's clusters or not (R25). -/
def objOwned (ch : Chip) (g : Nat) (id : Int) : Option ObjId :=
  if h : 0 ≤ id ∧ id.toNat < 65536 then
    let o : ObjId := ⟨id.toNat, h.2⟩
    match coreJob ch g with
    | some j => if owner ch (objCluster o) = some j then some o else none
    | none => none
  else none

def objectId (k : Core) (w : Dword) : Int := ((rdReg k (wb w 39 34)).toNat : Int) + sx 32 (wb w 31 0)

/-- The condition of a token wait: tc − v ≥ 0 as signed 32-bit. -/
def tokenHolds (k : Core) (tc : Nat) (v : Word) : Bool := !(tget k.tc 0 tc - v).msb

def sywStart (ch : Chip) (g : Nat) (w : SywWait) : Chip :=
  updCore ch g fun k => { advance k with run := .waiting, syw := some w }

def execSywToken (c : CoreId) (s : State) : Host.Outcome State Fault Refusal :=
  onChip s fun ch => issue ch c.val .sywToken fun ch1 k w =>
    let v := (rdReg k (wb w 45 40)).setWidth 32
    sywStart ch1 c.val ⟨wb w 48 46, none, false, v, false, tokenHolds k (wb w 48 46) v, islCycles ch1 (c.val / 128), k.pc, w⟩

/-- SYW GE and EQ register a wait, which is evaluated at once (R288); a poisoned object faults (R292). While the block is
not ENABLED the wait is held like every operation (R304). -/
def sywObject (ch : Chip) (g : Nat) (k : Core) (w : Dword) (eq : Bool) : Chip :=
  match objOwned ch g (objectId k w) with
  | none => faultWord ch g 5 w
  | some o =>
    let on := enabled ch .syn (objTower o)
    if on ∧ objPoisoned ch o then faultWord ch g 9 w
    else
      let v := (rdReg k (wb w 45 40)).setWidth 32
      let ch1 := sywStart ch g ⟨0, some o, eq, v, false, false, islCycles ch (g / 128), k.pc, w⟩
      if on then waitRegister ch1 g o else ch1

def execSywGe (c : CoreId) (s : State) : Host.Outcome State Fault Refusal :=
  onChip s fun ch => issue ch c.val .sywGe fun ch1 k w => sywObject ch1 c.val k w false
def execSywEq (c : CoreId) (s : State) : Host.Outcome State Fault Refusal :=
  onChip s fun ch => issue ch c.val .sywEq fun ch1 k w => sywObject ch1 c.val k w true

/-- Issue resumes once the condition was seen at the core (R225). -/
def execSywResume (c : CoreId) (s : State) : Host.Outcome State Fault Refusal :=
  onChip s fun ch =>
    let k := coreOf ch c.val
    match k.syw with
    | some w =>
      let met : Bool := match w.obj with | some _ => w.seen | none => w.seen || tokenHolds k w.token w.v
      if met ∧ k.run = .waiting ∧ coreAlive ch c.val ∧ (tcoreOf ch c.val).under = none then
        updCore ch c.val fun k => { k with run := .running, syw := none }
      else ch
    | none => ch

/-- A SYW longer than SEQ_CFG.wait_limit sets `long_wait` and keeps waiting; 0 disables it (R225, R239). -/
def execLongWait (c : CoreId) (s : State) : Host.Outcome State Fault Refusal :=
  onChip s fun ch =>
    let lim := (regGet ch .seqCfg c.val).toNat
    match (coreOf ch c.val).syw with
    | some w =>
      if lim ≠ 0 ∧ w.since + lim < islCycles ch (c.val / 128) then raise ch .seqLongWait c.val else ch
    | none => ch

/-! ### SYS (R226, R293, R294) -/

/-- Sends a SYS operation. A remote SIGNAL to the own package goes through port 8; to another package it leaves by a
Stolud link, or is dropped when none leads there. -/
def sysSend (ch : Chip) (g : Nat) (d : Deferred) (send : Chip → Nat → Nat → Word → Chip) : Chip :=
  let ch1 := countCore ch g 79 1
  if d.remote then
    let ch2 := countCore ch1 g 80 1
    if d.pkg = ch.nwl.pos.toNat then
      if h : d.obj < 65536 then
        let o : ObjId := ⟨d.obj, h⟩
        if (owner ch2 (objCluster o)).isSome ∧ owner ch2 (objCluster o) = coreJob ch2 g then
          objDeliverAs ch2 8 o (.signal d.n) ((coreJob ch2 g).map fun j => (jobOf ch2 j.val).jfid)
        else remoteReject ch2 o
      else ch2
    else send ch2 d.pkg d.obj d.n
  else if h : d.obj < 65536 then
    let o : ObjId := ⟨d.obj, h⟩
    objDeliver ch1 (corePort g o) o (match d.mode with | 0 => .signal d.n | 1 => .reset | _ => .arrive)
  else ch1

/-- Issues a SYS: checked, then sent at once, or kept until the named queues have completed what was issued before.
Operations of one core on one object, and its remote signals to one package, keep their issue order (R226, R293). -/
def sysIssue (ch : Chip) (g : Nat) (k : Core) (w : Dword) (mode : Nat) (send : Chip → Nat → Nat → Word → Chip) :
    Chip :=
  let remote := wb w 9 9 = 1
  let id : Int := ((rdReg k (wb w 37 32)).toNat : Int) + sx 16 (wb w 31 16)
  if remote ∧ mode ≠ 0 then faultWord ch g 2 w
  else if ¬ remote ∧ (objOwned ch g id).isNone then faultWord ch g 5 w
  else
    let obj := if remote then id.toNat % 65536 else id.toNat
    let d : Deferred := ⟨pendingSeqs k (wb w 48 44), mode, obj, (rdReg k (wb w 43 38)).setWidth 32, remote,
      if remote then wb w 15 10 else ch.nwl.pos.toNat⟩
    let behind := k.defer.any fun e => sendsAfter e d
    if d.seqs = [] ∧ ¬ behind then sysSend (updCore ch g advance) g d send
    else updCore ch g fun k => { advance k with defer := k.defer ++ [d] }

end Sys2Proof.Machine
end

