-- ==== Sys2Proof/Machine/Fabric.lean ====
section
/-! DEFINITION. Stolud links: credits, replay, routing and remote signals (14_fabric_collectives.md R306 to R317;
13_sync_newel.md R293, R294). -/

namespace Sys2Proof.Machine

/-! ### Links and ports -/

/-- A link that was never trained (R307, R333). -/
def linkReset : Link :=
  { st := 0, result := 7, jfid := 0, any := true, pos := 0, port := 0, since := 0, good := 0, seen := false,
    partner := none, txSeq := 0, rxSeq := 0, sent := [], wait := [], base := 0, used := [], back := [], given := [],
    owe := 0, nak := 0, retrained := false, ackAt := 0, replays := [], asm := [], ctrlOut := none, handOut := none }

def linkOf (ch : Chip) (l : Nat) : Link := tget ch.fab.links linkReset l
def updLink (ch : Chip) (l : Nat) (f : Link → Link) : Chip :=
  { ch with fab := { ch.fab with links := tput ch.fab.links l (f (linkOf ch l)) } }

def portOf (l : Nat) : Nat := l / 2
def portSplit (ch : Chip) (p : Nat) : Bool := (regGet ch .fabCfg p).getLsbD 0
/-- Link l exists: the second of a port only when the port is split (R307). -/
def linkExists (ch : Chip) (l : Nat) : Bool := decide (l < 32) && (l % 2 == 0 || portSplit ch (portOf l))
/-- The lanes of a link, as eye keys. -/
def lanesOf (ch : Chip) (l : Nat) : List Nat :=
  if portSplit ch (portOf l) then span (portOf l * 8 + l % 2 * 4) 4 else span (portOf l * 8) 8
def cntPort (l i : Nat) : Nat := cntTower (portOf l / 2) (32 + 8 * (portOf l % 2) + i)

/-- The port of a link runs; a STOPPING one sends what its replay buffers hold (R331). -/
def portRuns (ch : Chip) (l : Nat) : Bool :=
  decide (blkGet ch .fab (portOf l) ≠ .disabled) && islandRuns ch 18 && linkExists ch l
def linkUp (ch : Chip) (l : Nat) : Bool := portRuns ch l && (linkOf ch l).st == 3

/-- The credits per lane of the own receive buffer, by class (R311, R332). -/
def ownCredits (ch : Chip) (l : Nat) : List Nat :=
  let c := tget ch.fab.credits (64, 480, 480) (portOf l)
  let h := if portSplit ch (portOf l) then 2 else 1
  [c.1 / h, c.1 / h, c.2.1 / h, c.2.1 / h, c.2.2 / h, c.2.2 / h]

/-! ### Flits (R309) -/

/-- The header of a flit, with `wpar` 0. -/
def flitHead (f : Flit) : Dword :=
  f.ftype ++ f.vclass ++ BitVec.ofBool f.lane ++ BitVec.ofBool f.poison ++ f.seq ++ f.dst ++ f.src ++ f.jfid ++
    (0 : BitVec 16)

/-- The XOR of all bits of 32-bit word j of a flit. -/
def wordParity (bs : List Byte) (j : Nat) : Bool :=
  ((bs.drop (4 * j)).take 4).foldl (fun p b => (List.range 8).foldl (fun p i => Bool.xor p (b.getLsbD i)) p) false

/-- The parities of a flit's 64 words, folded sixteen apart (R309). -/
def wparOf (f : Flit) : BitVec 16 :=
  let bs := leBytes (flitHead f).toNat 8 ++ f.payload
  BitVec.ofNat 16 ((List.range 16).foldl (fun n j =>
    let bit := [j, j + 16, j + 32, j + 48].foldl (fun p k => Bool.xor p (wordParity bs k)) false
    n + b2n bit * 2 ^ j) 0)
def withWpar (f : Flit) : Flit := { f with wpar := wparOf f }

/-- A link carries sequenced flits of job-fabric id j (R315). -/
def carries (ch : Chip) (l : Nat) (j : BitVec 16) : Bool := (linkOf ch l).jfid == 0 || (linkOf ch l).jfid == j

/-! ### Sending (R311, R312, R315) -/

/-- The virtual channel of a flit: 2 × class + lane. -/
def chanOf (f : Flit) : Nat := 2 * f.vclass.toNat + b2n f.lane

/-- A credit is held for channel c. -/
def hasCredit (k : Link) (c : Nat) : Bool :=
  let init := match k.partner with | some h => h.credits.getD c 0 | none => 0
  (init + tget k.back 0 c + 65536 - tget k.used 0 c % 65536) % 65536 != 0

/-- A flit of a shard stream: a piece, an OPEN or a CLOSE. A link carries one stream after another, each in this order
(R340, R342). -/
def inStream (f : Flit) : Bool :=
  f.vclass == 2 && (!f.lane || f.payload.headD 0 == 1 || f.payload.headD 0 == 2)

/-- The first flit of channel c that its mover has handed over: one of a stream comes after those before it (R340). -/
def firstOf (c : Nat) (earlier l : List TxFlit) : Option TxFlit :=
  match l with
  | [] => none
  | x :: r =>
    if chanOf x.f = c ∧ ¬ (inStream x.f ∧ earlier.any fun y => inStream y.f && chanOf y.f != c) then some x
    else firstOf c (x :: earlier) r

/-- The flit of a channel that may leave: its first, with a credit (R311). -/
def readyFlit (k : Link) (c : Nat) : Option TxFlit := if hasCredit k c then firstOf c [] k.wait else none

/-- The channel that sends next: SIG first, then COLL and TWIN from the rotating base (R311, R377). -/
def nextChan (k : Link) : Option Nat :=
  if (readyFlit k 0).isSome then some 0
  else if (readyFlit k 1).isSome then some 1
  else ((List.range 4).map fun i => 2 + (k.base + i) % 4).find? fun c => (readyFlit k c).isSome

/-- Takes the first flit equal to x out of the list of waiting flits. -/
def takeFlit (l : List TxFlit) (x : TxFlit) : List TxFlit := l.erase x

/-- Sends waiting flits while credits and the replay buffer allow; a STOPPING port sends no new ones (R331). -/
def pump (ch : Chip) (l : Nat) : Nat → Chip
  | 0 => ch
  | fuel + 1 =>
    let k := linkOf ch l
    let room := decide (k.sent.length < (if portSplit ch (portOf l) then 1024 else 2048))
    if ¬ linkUp ch l ∨ ¬ enabled ch .fab (portOf l) ∨ ¬ room then ch else
    match nextChan k with
    | none => ch
    | some c =>
      match readyFlit k c with
      | none => ch
      | some x =>
        let y : TxFlit := { x with f := withWpar { x.f with seq := BitVec.ofNat 12 k.txSeq } }
        let ch1 := updLink (count ch (cntPort l 0) 1) l fun k =>
          { k with sent := k.sent ++ [y], wait := takeFlit k.wait x, txSeq := (k.txSeq + 1) % 4096
                   used := tput k.used c ((tget k.used 0 c + 1) % 65536)
                   base := if c < 2 then k.base else (k.base + 1) % 4
                   ackAt := if k.sent = [] then ch.us else k.ackAt }
        pump ch1 l fuel

/-- Sends flits on a link, in order; a transmitter sends none that breaks the link's job-fabric id (R315). -/
def sendFlits (ch : Chip) (l : Nat) (fs : List TxFlit) : Chip :=
  let ch1 := updLink ch l fun k => { k with wait := k.wait ++ fs.filter fun x => carries ch l x.f.jfid }
  pump ch1 l (linkOf ch1 l).wait.length

/-! ### Routing and remote signals (R293, R294, R316) -/

/-- The way to a position: its link, and whether the flit moves to lane 1; only a link that is UP and may carry the
flit leads there. -/
def routeTo (ch : Chip) (dst : Nat) (j : BitVec 16) : Option Route :=
  match ch.fab.routes.find? fun p => p.1 == dst with
  | some (_, r) => if r.valid ∧ linkUp ch r.link ∧ carries ch r.link j then some r else none
  | none => none

/-- A remote signal that its sender could not deliver (R294). -/
def remoteDrop (ch : Chip) (tower : Nat) : Chip := health (raise ch .synRemoteDrop tower)

/-- Sends a remote SIGNAL of core g (R293). -/
def remoteSend (ch : Chip) (g pkg obj : Nat) (n : Word) : Chip :=
  let j := match coreJob ch g with | some j => (jobOf ch j.val).jfid | none => 0
  match routeTo ch pkg j with
  | none => remoteDrop ch (g / 128)
  | some r =>
    let f : Flit := { ftype := 3, vclass := 0, lane := r.dateline, poison := false, seq := 0,
                      dst := BitVec.ofNat 6 pkg, src := ch.nwl.pos, jfid := j, wpar := 0,
                      payload := leBytes obj 2 ++ [0, 0] ++ leBytes n.toNat 4 ++ List.replicate 240 0 }
    sendFlits ch r.link [⟨f, g / 128, 0⟩]

/-- A remote SIGNAL arrives at its package (R294); a poisoned one poisons the object (R309; log 136). -/
def remoteArrive (ch : Chip) (f : Flit) : Chip :=
  let obj := leNat (f.payload.take 2)
  if h : obj < 65536 then
    let o : ObjId := ⟨obj, h⟩
    let op : ObjOp := if f.poison then .poison else .signal (BitVec.ofNat 32 (leNat ((f.payload.drop 4).take 4)))
    if remoteOk ch o f.jfid then objDeliverAs ch 9 o op (some f.jfid) else remoteReject ch o
  else ch

/-! ### Receiving (R312, R315) -/

/-- A receiver that could not take a flit owes a NAK. -/
def rejectFlit (ch : Chip) (l : Nat) (again : Bool) : Chip :=
  updLink ch l fun k => { k with nak := if k.nak = 0 ∨ again then 1 else k.nak }

/-- Receives a sequenced flit: its parity checked, accepted in sequence, its buffer given back, and checked against the
link's job. -/
def receive (ch : Chip) (l : Nat) (f : Flit) (k : Chip → Chip) : Chip :=
  let x := linkOf ch l
  if ¬ linkUp ch l then ch
  else if f.wpar ≠ wparOf f then rejectFlit (raise ch .fabParityReplay (portOf l)) l true
  else if f.seq.toNat ≠ x.rxSeq then rejectFlit ch l false
  else
    let c := chanOf f
    let ch1 := updLink (count ch (cntPort l 1) 1) l fun x =>
      { x with rxSeq := (x.rxSeq + 1) % 4096, owe := x.owe + 1, nak := 0
               given := tput x.given c ((tget x.given 0 c + 1) % 65536) }
    if carries ch1 l f.jfid then k ch1 else raise ch1 .fabJfidReject (portOf l)

/-- A SIG flit is delivered, forwarded, or dropped for want of a route (R316). -/
def execSigFlit (l : LinkId) (f : Flit) (s : State) : Host.Outcome State Fault Refusal :=
  onChip s fun ch =>
    if f.ftype ≠ 3 then ch else
    receive ch l.val f fun c =>
      if f.dst = c.nwl.pos then remoteArrive c f
      else match routeTo c f.dst.toNat f.jfid with
        | some r => sendFlits c r.link [⟨{ f with lane := f.lane || r.dateline }, portOf l.val / 2, 0⟩]
        | none => raise c .fabNoRoute (portOf l.val)

/-- The types of R310 that have a meaning. -/
def knownType (t : BitVec 4) : Bool := t == 1 || t == 2 || t == 3 || t == 4 || t == 5 || t == 15

/-- A flit of a reserved type that passes parity is discarded, once the link is trained (R310, R314). -/
def execProto (l : LinkId) (f : Flit) (s : State) : Host.Outcome State Fault Refusal :=
  onChip s fun ch =>
    if portRuns ch l.val ∧ ((linkOf ch l.val).st = 2 ∨ (linkOf ch l.val).st = 3) ∧ f.wpar = wparOf f ∧
        ¬ knownType f.ftype then raise ch .fabProto (portOf l.val)
    else ch

/-- A flit that failed FEC, parity or sequence (R312), or a codeword that FEC corrected (R333). -/
def execFlitReject (l : LinkId) (why : RejectCause) (s : State) : Host.Outcome State Fault Refusal :=
  onChip s fun ch =>
    if ¬ linkUp ch l.val then ch
    else
      let p := portOf l.val
      match why with
      | .fec => rejectFlit (regSat (count (raise ch .fabFecUncorr p) (cntPort l.val 4) 1) .fabFecCnt p 31 16 1) l.val true
      | .parity => rejectFlit (raise ch .fabParityReplay p) l.val true
      | .seq => rejectFlit ch l.val false
      | .corrected => regSat (count ch (cntPort l.val 3) 1) .fabFecCnt p 15 0 1

/-- The link's replay buffer is sent again (R312, R313). -/
def replayLink (ch : Chip) (l : Nat) : Chip :=
  let k := linkOf ch l
  let n := k.sent.length
  let p := portOf l
  let recent := (ch.us :: k.replays).filter fun t => decide (ch.us < t + 1000)
  let ch1 := updLink ch l fun k => { k with sent := k.sent.map fun x => { x with tries := x.tries + 1 }, replays := recent }
  let ch2 := regSat (count ch1 (cntPort l 2) n) .fabReplayCnt p (if l % 2 = 1 then 31 else 15) (if l % 2 = 1 then 16 else 0) n
  raiseIf (decide (16 < recent.length)) ch2 .fabReplayStorm p

/-- A CTRL flit: acknowledged flits leave the replay buffer, credits return, and a NAK replays the rest (R312). -/
def execCtrlFlit (l : LinkId) (f : Ctrl) (s : State) : Host.Outcome State Fault Refusal :=
  onChip s fun ch =>
    if ¬ linkUp ch l.val then ch
    else
      let k := linkOf ch l.val
      let n := match k.sent.findIdx? fun x => x.f.seq == f.ackSeq with | some i => i + 1 | none => 0
      let ch1 := updLink ch l.val fun k =>
        { k with sent := k.sent.drop n
                 ackAt := if n = 0 then k.ackAt else ch.us
                 back := (List.range 6).map fun c => (c, (f.credits.getD c 0).toNat) }
      let ch2 := if f.nak then replayLink ch1 l.val else ch1
      pump ch2 l.val (linkOf ch2 l.val).wait.length

/-- The receiver sends a CTRL flit for what it accepted, or its NAK (R312). -/
def execCtrlFlitSend (l : LinkId) (s : State) : Host.Outcome State Fault Refusal :=
  onChip s fun ch =>
    let k := linkOf ch l.val
    if ¬ linkUp ch l.val ∨ (k.owe = 0 ∧ k.nak ≠ 1) then ch
    else
      let c : Ctrl := { ackSeq := BitVec.ofNat 12 (k.rxSeq + 4095), nak := k.nak == 1
                        credits := (List.range 6).map fun i => BitVec.ofNat 16 (tget k.given 0 i) }
      updLink ch l.val fun k => { k with owe := 0, nak := if k.nak = 1 then 2 else k.nak, ctrlOut := some c }

/-! ### Handshake and eyes (R308, R314) -/

/-- A handshake fails the link (R314). -/
def handshakeFail (ch : Chip) (l result : Nat) : Chip :=
  raise (updLink ch l fun k => { k with st := 4, result := result }) .fabHandshakeFail (portOf l)

/-- The link layer of a link that becomes UP starts afresh (R312); the arbiter's base stays (R377). -/
def linkStart (k : Link) (us : Nat) : Link :=
  { k with st := 3, result := 0, txSeq := 0, rxSeq := 0, sent := [], wait := [], used := [], back := [], given := []
           owe := 0, nak := 0, ackAt := us, replays := [], asm := [] }

/-- What is wrong with a handshake, as FAB_TRAIN reports it; none when it is valid. -/
def handFault (ch : Chip) (l : Nat) (h : Hand) : Option Nat :=
  let k := linkOf ch l
  if h.version ≠ 0x0100 then some 6
  else if h.split ≠ portSplit ch (portOf l) then some 4
  else if ¬ k.any ∧ (h.pos.toNat ≠ k.pos ∨ h.port.toNat ≠ k.port) then some 4
  else if h.jfid ≠ k.jfid then some 5
  else none

def execHandshake (l : LinkId) (h : Hand) (s : State) : Host.Outcome State Fault Refusal :=
  onChip s fun ch =>
    let k := linkOf ch l.val
    if ¬ portRuns ch l.val ∨ k.st ≠ 2 then ch else
    match handFault ch l.val h with
    | some r => handshakeFail ch l.val r
    | none =>
      let good := if h.seen then k.good + 1 else 0
      let k1 := { k with since := ch.us, good := good, seen := true, partner := some h }
      updLink ch l.val fun _ => if 3 ≤ good then linkStart k1 ch.us else k1

/-- The identity, which a failed PUF check leaves 0 (R492). -/
def devIdOf (ch : Chip) : Dword := if ch.sys.sec.pufFail then 0 else Config.devId

/-- What this end says in a HANDSHAKE flit (R314). -/
def ownHand (ch : Chip) (l : Nat) : Hand :=
  { devId := devIdOf ch, pos := ch.nwl.pos, port := BitVec.ofNat 4 (portOf l), split := portSplit ch (portOf l)
    half := l % 2 == 1, jfid := (linkOf ch l).jfid, version := 0x0100, credits := ownCredits ch l
    seen := (linkOf ch l).seen }

def execHandshakeSend (l : LinkId) (s : State) : Host.Outcome State Fault Refusal :=
  onChip s fun ch =>
    if portRuns ch l.val ∧ ((linkOf ch l.val).st = 2 ∨ (linkOf ch l.val).st = 3) then
      updLink ch l.val fun k => { k with handOut := some (ownHand ch l.val) }
    else ch

/-- No valid HANDSHAKE for 10 ms (R314). -/
def execNoPartner (l : LinkId) (s : State) : Host.Outcome State Fault Refusal :=
  onChip s fun ch =>
    let k := linkOf ch l.val
    if portRuns ch l.val ∧ k.st = 2 ∧ k.since + 10000 ≤ ch.us then handshakeFail ch l.val 3 else ch

/-- The eyes of a link's lanes are recorded (R103). -/
def putEyes (ch : Chip) (l : Nat) (eyes : List Eye) : Chip :=
  { ch with fab := { ch.fab with
    eyes := ((lanesOf ch l).zip eyes).foldl (fun t p => tput t p.1 (p.2.width, p.2.height)) ch.fab.eyes } }
/-- A lane passes (R308). -/
def eyeOk (e : Eye) : Bool := decide (154 ≤ e.width ∧ 60 ≤ e.height)

def execEyeMeasure (l : LinkId) (eyes : List Eye) (s : State) : Host.Outcome State Fault Refusal :=
  onChip s fun ch =>
    if ¬ linkUp ch l.val ∨ eyes.length ≠ (lanesOf ch l.val).length then ch
    else
      let ch1 := putEyes ch l.val eyes
      if eyes.all eyeOk then ch1 else health (raise ch1 .fabEyeLow (portOf l.val))

/-- Training ends with the eye of every lane: to the handshake, or, a lane failing, once more to training and then to
FAILED (R308). -/
def execFabTrainingDone (l : LinkId) (obs : TrainObs) (s : State) : Host.Outcome State Fault Refusal :=
  onChip s fun ch =>
    if ¬ portRuns ch l.val ∨ (linkOf ch l.val).st ≠ 1 then ch else
    match obs with
    | .failed => updLink ch l.val fun k => { k with st := 4, result := 1 }
    | .trained eyes =>
      if eyes.length ≠ (lanesOf ch l.val).length then ch else
      let ch1 := putEyes ch l.val eyes
      if eyes.all eyeOk then
        updLink ch1 l.val fun k => { k with st := 2, since := ch.us, good := 0, seen := false, partner := none }
      else if ¬ (linkOf ch l.val).retrained then updLink ch1 l.val fun k => { k with retrained := true, since := ch.us }
      else updLink ch1 l.val fun k => { k with st := 4, result := 2 }

/-- A link leaves service with what its buffers held (R313): remote signals of this package are dropped. -/
def linkLost (ch : Chip) (l : Nat) : Chip :=
  let k := linkOf ch l
  let mine := (k.sent ++ k.wait).filter fun x => x.f.ftype == 3 && x.f.src == ch.nwl.pos
  let ch1 := mine.foldl (fun c x => remoteDrop c x.tower) ch
  health (raise (updLink ch1 l fun k => { k with st := 0, sent := [], wait := [], asm := [], partner := none }) .fabLinkDown (portOf l))

end Sys2Proof.Machine
end

