-- ==== Sys2Proof/Machine/Collective.lean ====
section
/-! DEFINITION. The collective engine: groups, operation records, ring and tree reductions, deadlines and deferral
(14_fabric_collectives.md R317 to R331). -/

namespace Sys2Proof.Machine

def groupOf (ch : Chip) (g : Nat) : Option Group := (ch.fab.groups.find? fun p => p.1 == g).map Prod.snd
def setGroup (ch : Chip) (g : Nat) (x : Group) : Chip :=
  { ch with fab := { ch.fab with groups := tput ch.fab.groups g x } }
def updGroup (ch : Chip) (g : Nat) (f : Group → Group) : Chip :=
  match groupOf ch g with | some x => setGroup ch g (f x) | none => ch
def updOp (ch : Chip) (g : Nat) (f : CollOp → CollOp) : Chip :=
  updGroup ch g fun x => { x with op := x.op.map f }

/-- The collective engine runs (R331, R363). -/
def colRuns (ch : Chip) : Bool := islandRuns ch 18 && enabled ch .col 0
/-- Operations in progress go on while the block stops (R331). -/
def colMoves (ch : Chip) : Bool := islandRuns ch 18 && decide (blkGet ch .col 0 ≠ .disabled)

/-! ### Operation records (R319) -/

def opKind (r : Nat) : Nat := eb r 0 0
def opN (r : Nat) : Nat := eb r 7 4
def opSrcF (r : Nat) : Nat := eb r 1 1
def opDstF (r : Nat) : Nat := eb r 2 2
def opTid (r : Nat) : Nat := eb r 33 32 % 4096
def recDa (x : Group) (k : Nat) : Nat := x.ring + 64 * (k % 64)

/-- Bytes of N elements and their chunk scales; a tensor in the job's reach (R319, R320). -/
def opReach (ch : Chip) (j : JobId) (fmt da sda n : Nat) (write : Bool) : Bool :=
  let b := if fmt = 1 then 4 else 2
  da % b == 0 && reaches ch j da (da + b * n - 1) write &&
    (fmt == 1 || (sda != 0 && reaches ch j sda (sda + (n + 255) / 256 - 1) write))

/-- A record that breaks no rule (R319); a heritage group moves F32 only (R164). -/
def opValid (ch : Chip) (x : Group) (r : Nat) : Bool :=
  let fmtOk (f s : Nat) : Bool := (f == 1 && s == 0) || (f == 0x0C && !x.heritage)
  decide (1 ≤ opKind r ∧ opKind r ≤ 3) && fmtOk (opSrcF r) (eb r 25 20) && fmtOk (opDstF r) (eb r 31 26) &&
    decide (1 ≤ opN r ∧ opN r ≤ x.nMax) && eb r 39 38 == 0 &&
    opReach ch x.job (opSrcF r) (eb r 13 8) (eb r 25 20) (opN r) false &&
    opReach ch x.job (opDstF r) (eb r 19 14) (eb r 31 26) (opN r) true

/-- The shard size of N elements over R ranks (R320). -/
def shardSize (n ranks : Nat) : Nat := 4096 * ((n + 4096 * ranks - 1) / (4096 * ranks))
/-- Segments, numbered through all shards, and the shard and ring of one. -/
def segCount (n : Nat) : Nat := (n + 4095) / 4096
def segShard (x : Group) (r q : Nat) : Nat := q * 4096 / shardSize (opN r) x.ranks
def segLen (r q : Nat) : Nat := min 4096 (opN r - 4096 * q)
def segRing (x : Group) (r q : Nat) : Nat :=
  (q - segShard x r q * (shardSize (opN r) x.ranks / 4096)) % max 1 x.next.length

/-! ### Elements (R163, R321) -/

/-- A word as a unit writes it: a NaN is the canonical one (R148). -/
def canonF32 (w : Word) : Word := if ofF32 w = .nan then f32Nan else w

/-- A source element in F32; none when it is poisoned. -/
def srcEl (ch : Chip) (r e : Nat) : Option Word :=
  if opSrcF r = 1 then
    let a := eb r 13 8 + 4 * e
    if anyPoi ch a 4 then none else some (canonF32 (BitVec.ofNat 32 (rdNat ch a 4)))
  else
    let a := eb r 13 8 + 2 * e
    let sa := eb r 25 20 + e / 256
    let sc := rdNat ch sa 1
    if anyPoi ch a 2 || anyPoi ch sa 1 || sc == 0xFF then none
    else match ffDecode ffF16 (rdNat ch a 2) with
      | .num s m x => some (toF32 (.num s (m * (sf8 sc).1) (x + (sf8 sc).2)))
      | v => some (toF32 v)

/-- The words of a segment message. -/
def msgEl (heritage : Bool) (m : SegMsg) (i : Nat) : Option Word :=
  if m.poison then none
  else if m.empty then some 0
  else if heritage then some (canonF32 (BitVec.ofNat 32 (leNat ((m.data.drop (4 * i)).take 4))))
  else
    let sc := (m.scales.getD (i / 256) 0).toNat
    if sc = 0xFF then none
    else match ffDecode ffF16 (leNat ((m.data.drop (2 * i)).take 2)) with
      | .num s n e => some (toF32 (.num s (n * (sf8 sc).1) (e + (sf8 sc).2)))
      | v => some (toF32 v)
def msgEls (heritage : Bool) (m : SegMsg) (n : Nat) : List (Option Word) := (List.range n).map (msgEl heritage m)

/-- One add with one rounding; poison stays. -/
def addEls (h : Bool) (a b : List (Option Word)) : List (Option Word) :=
  (a.zip b).map fun p => match p.1, p.2 with | some x, some y => some (f32Add h x y) | _, _ => none

/-- A segment's elements encoded into a payload: scales and codes, or F32 words, and what the watchers count. -/
structure SegEnc where
  scales : List Byte
  data : List Byte
  poison : Bool
  enc : Enc

/-- The element layout of one segment's payload, for the chunk encoder of R163. -/
def segDesc (n : Nat) : Desc := ⟨0, .f16s, 1, false, .normal, 0, 0, 65536, 0, 0, [n], [2], []⟩

def encSeg (heritage : Bool) (els : List (Option Word)) : SegEnc :=
  let bad := els.any Option.isNone
  if heritage then
    ⟨[], (els.flatMap fun e => leBytes (e.getD 0).toNat 4), bad, encNone⟩
  else
    let e := encRow (segDesc els.length) false false (fun _ => 0) none [] (els.map fun w => encOf (w.map ofF32))
    let sc := (e.out.els.filter fun t => t.bits == 8).map fun t => (BitVec.ofNat 8 (t.v.getD 0) : Byte)
    let cd := (e.out.els.filter fun t => t.bits == 16).flatMap fun t => leBytes (t.v.getD 0) 2
    ⟨sc, cd, bad, e⟩

/-- Counts an encoding for the job's tensor in the open step's bank (R174, R321). -/
def watchJob (ch : Chip) (j : JobId) (tid : Nat) (e : Enc) : Chip :=
  if tid = 0 ∨ e.els = [] then ch
  else
    let da := (jobOf ch j.val).stat
    let d := draw ch
    let a := da + recOff (hdrBank ch da) tid
    let r := recOf 3 (BitVec.ofNat 32 (Config.freeNat d.1 0)) e.els e.satB e.nonfB
    let c := landRange d.2 (some j) .normal a 64 true
    if recPoisoned ch a then c else recWrite c a (recAdd (recRead ch a) r)

/-! ### Segment messages (R323) -/

/-- The bytes of a message: the header (log 21), then scales and data, or F32 words, cut into flits. -/
def msgBytes (heritage : Bool) (m : SegMsg) : List Byte :=
  let hdr := leBytes m.group.val 1 ++ leBytes m.opIndex 1 ++ leBytes (b2n m.gather + 2 * b2n heritage) 1 ++
    leBytes m.segment 3 ++ leBytes (b2n m.empty) 1 ++ [0] ++ leBytes m.contributors.toNat 8
  let pad (n : Nat) (l : List Byte) : List Byte := l ++ List.replicate (n - l.length) 0
  if m.empty then hdr
  else if heritage then hdr ++ pad 16384 m.data
  else hdr ++ pad 16 m.scales ++ pad 8192 m.data

/-- How many bytes a message has, by its header. -/
def msgLen (bs : List Byte) : Nat :=
  let bit (i k : Nat) : Bool := (bs.getD i 0).getLsbD k
  16 + (if bit 6 0 then 0 else if bit 2 1 then 16384 else 8208)

/-- The message that arrived as bytes. -/
def msgOf (x : Group) (g : GroupId) (bs : List Byte) (poison : Bool) : SegMsg :=
  let at_ (i n : Nat) : List Byte := (bs.drop i).take n
  let f32 := (bs.getD 2 0).getLsbD 1
  let m : SegMsg :=
    { group := g, opIndex := leNat (at_ 1 1), gather := (bs.getD 2 0).getLsbD 0, shard := 0, segment := leNat (at_ 3 3)
      empty := (bs.getD 6 0).getLsbD 0, contributors := BitVec.ofNat 64 (leNat (at_ 8 8))
      scales := if f32 then [] else at_ 16 16, data := if f32 then at_ 16 16384 else at_ 32 8192, poison := poison }
  { m with shard := match x.op with | some o => segShard x o.rec_ m.segment | none => 0 }

def chunks248 (l : List Byte) : Nat → List (List Byte)
  | 0 => []
  | n + 1 => (l.take 248 ++ List.replicate (248 - l.length) 0) :: (if l.length ≤ 248 then [] else chunks248 (l.drop 248) n)

/-- Sends a segment message on a link. -/
def sendSeg (ch : Chip) (x : Group) (l : Nat) (m : SegMsg) : Chip :=
  let bs := msgBytes x.heritage m
  let dst := match (linkOf ch l).partner with | some h => h.pos | none => 0
  let f (p : List Byte) : TxFlit :=
    ⟨{ ftype := 4, vclass := 1, lane := false, poison := m.poison, seq := 0, dst := dst, src := ch.nwl.pos,
       jfid := (jobOf ch x.job.val).jfid, wpar := 0, payload := p }, l / 4, 0⟩
  sendFlits ch l ((chunks248 bs bs.length).map f)

/-- A message of group g for segment q of its running operation. -/
def mkMsg (g : GroupId) (x : Group) (r q : Nat) (gather empty : Bool) (con : BitVec 64) (e : SegEnc) : SegMsg :=
  { group := g, opIndex := x.k % 64, gather := gather, shard := segShard x r q, segment := q, empty := empty,
    contributors := con, scales := e.scales, data := e.data, poison := e.poison }

def rankBit (r : Nat) : BitVec 64 := BitVec.ofNat 64 (2 ^ r)
def encEmpty : SegEnc := ⟨[], [], false, encNone⟩

/-! ### What this rank contributes (R326 to R328) -/

/-- The deferred contribution of a record is added to an operation of the same op and N (R328). -/
def sameOp (a b : Nat) : Bool := opKind a == opKind b && opN a == opN b

/-- The work area of child slot c: its held sum (R327; log 22). -/
def kidArea (x : Group) (c : Nat) : Nat := x.work + 4 * x.nMax * (1 + c)

/-- This rank's elements of segment q, held contributions added before its first add or send (R328); none where it
has no part in the shard (R320). -/
def ownEls (ch : Chip) (x : Group) (o : CollOp) (q : Nat) : Option (List (Option Word)) :=
  let r := o.rec_
  let ix := span (4096 * q) (segLen r q)
  let mine := !o.empty && (opKind r != 3 || segShard x r q == x.rank)
  let base : Option (List (Option Word)) := if mine then some (ix.map (srcEl ch r)) else none
  let plus (b : Option (List (Option Word))) (h : List (Option Word)) : Option (List (Option Word)) :=
    match b with | some a => some (addEls x.heritage a h) | none => none
  let b1 := match o.plusOwn, x.heldOwn with
    | true, some h => plus base (ix.map (srcEl ch h))
    | _, _ => base
  o.plusKids.foldl (fun b c => plus b (ix.map fun e =>
    let a := kidArea x c + 4 * e
    if anyPoi ch a 4 then none else some (BitVec.ofNat 32 (rdNat ch a 4)))) b1

/-- The ranges that this rank's contribution to segment q is read from pass their home slices (R267). -/
def touchOwn (ch : Chip) (x : Group) (o : CollOp) (q : Nat) : Chip :=
  let n := segLen o.rec_ q
  let src (r : Nat) : List (Nat × Nat) :=
    if opSrcF r = 1 then [(eb r 13 8 + 16384 * q, 4 * n)]
    else [(eb r 13 8 + 8192 * q, 2 * n), (eb r 25 20 + 16 * q, (n + 255) / 256)]
  let held := if o.plusOwn then x.heldOwn.toList.flatMap src else []
  let runs := src o.rec_ ++ held ++ o.plusKids.map fun c => (kidArea x c + 16384 * q, 4 * n)
  if (ownEls ch x o q).isNone then ch
  else runs.foldl (fun c p => landRange c (some x.job) .normal p.1 p.2 false) ch

/-! ### Results (R320, R321) -/

/-- Writes poisoned words: marked, their data free (log 9). -/
def poisonWords (ch : Chip) (a n : Nat) : Chip :=
  let d := draw ch
  wrMem d.2 a ((List.range n).map fun i => Config.freeByte d.1 i) true

/-- Writes bytes of one unit through the home slices of their addresses (R267). -/
def wrLand (ch : Chip) (who : Option JobId) (hint : Hint) (a : Nat) (bs : List Byte) (poison : Bool) : Chip :=
  wrMem (landRange ch who hint a bs.length true) a bs poison

/-- Poisons words through the home slices of a job's memory (R267). -/
def landPoison (ch : Chip) (j : JobId) (a n : Nat) : Chip := poisonWords (landRange ch (some j) .normal a n true) a n

/-- Where a segment's result goes: element bytes and scales. -/
def dstRange (r q : Nat) : (Nat × Nat) × (Nat × Nat) :=
  let b := if opDstF r = 1 then 4 else 2
  let n := segLen r q
  ((eb r 19 14 + b * 4096 * q, b * n), if opDstF r = 1 then (0, 0) else (eb r 31 26 + 16 * q, (n + 255) / 256))

/-- Writes the result a payload holds: decoded to F32, or its F16S bits. A chunk that arrives with scale 0xFF is
poisoned (R153). -/
def writeSeg (ch : Chip) (x : Group) (r q : Nat) (m : SegMsg) : Chip :=
  let w := dstRange r q
  let n := segLen r q
  let put (c : Chip) (a : Nat) (bs : List Byte) : Chip := wrLand c (some x.job) .normal a bs false
  if m.poison then landPoison (landPoison ch x.job w.1.1 w.1.2) x.job w.2.1 w.2.2
  else if opDstF r = 1 then
    let els := msgEls x.heritage m n
    els.zipIdx.foldl (fun c p => match p.1 with
      | some v => put c (w.1.1 + 4 * p.2) (leBytes v.toNat 4)
      | none => landPoison c x.job (w.1.1 + 4 * p.2) 4) ch
  else if m.empty then put (put ch w.1.1 (List.replicate (2 * n) 0)) w.2.1 (List.replicate w.2.2 0)
  else
    (m.scales.take w.2.2).zipIdx.foldl (fun c p =>
      let k := min 256 (n - 256 * p.2)
      let a := w.1.1 + 512 * p.2
      if p.1 = 0xFF then landPoison (landPoison c x.job a (2 * k)) x.job (w.2.1 + p.2) 1
      else put (put c a ((m.data.drop (512 * p.2)).take (2 * k))) (w.2.1 + p.2) [p.1]) ch

/-- The contributors of what this rank wrote (R319): those in every segment, or of an ALL_GATHER in any. -/
def addMask (o : CollOp) (m : BitVec 64) : Option (BitVec 64) :=
  match o.mask with
  | none => some m
  | some k => some (if opKind o.rec_ = 3 then k ||| m else k &&& m)

/-- A result segment is written, if this rank writes it, and recorded. -/
def landSeg (ch : Chip) (g : GroupId) (q : Nat) (m : SegMsg) : Chip :=
  match groupOf ch g.val with
  | none => ch
  | some x => match x.op with
    | none => ch
    | some o =>
      let mine := opKind o.rec_ != 2 || segShard x o.rec_ q == x.rank
      let ch1 := if mine then writeSeg ch x o.rec_ q m else ch
      updOp ch1 g.val fun o =>
        { o with gat := sadd o.gat q, mask := if mine then addMask o m.contributors else o.mask }

/-! ### RING (R321, R324, R326) -/

def nextLink (x : Group) (r q : Nat) : Nat := x.next.getD (segRing x r q) 0

/-- How many reduce messages of a segment this rank handles: one of each rank before it, or one partial (R321, R324). -/
def reduceNeed (x : Group) (r q : Nat) : Nat :=
  let d := (x.rank + x.ranks - segShard x r q - 1 + x.ranks) % x.ranks
  if x.heritage then d else min 1 d

/-- The owner's sum of a shard: with heritage, the contributions in ascending rank order (R165, R324). -/
def heritageSum (n : Nat) (parts : List (Nat × List (Option Word))) : List (Option Word) :=
  let sorted := (List.range 64).flatMap fun k => (parts.filter fun p => p.1 == k).map Prod.snd
  match sorted with
  | [] => List.replicate n (some 0)
  | a :: rest => rest.foldl (addEls true) (a.map fun w => w.map ftz)

/-- The completed segment at its owner: written, and with ALL_REDUCE passed on. -/
def ringOwner (ch : Chip) (g : GroupId) (x : Group) (r q : Nat) (m : SegMsg) : Chip :=
  let ch1 := landSeg ch g q m
  if opKind r = 1 then sendSeg ch1 x (nextLink x r q) { m with gather := true } else ch1

/-- Starts what this rank sends of its own: its first shard, or with ALL_GATHER its own (R320, R321). -/
def ringStart (ch : Chip) (g : GroupId) : Chip :=
  match groupOf ch g.val with
  | none => ch
  | some x => match x.op with
    | none => ch
    | some o =>
      let r := o.rec_
      let first := if opKind r = 3 then x.rank else (x.rank + x.ranks - 1) % x.ranks
      let mine := (List.range (segCount (opN r))).filter fun q =>
        if x.heritage ∧ opKind r ≠ 3 then segShard x r q != x.rank else segShard x r q == first
      let gather := opKind r == 3
      mine.foldl (fun c q =>
        match ownEls c x o q with
        | some els =>
          let e := encSeg x.heritage els
          let m := mkMsg g x r q gather false (rankBit x.rank) e
          let c1 := sendSeg (watchJob (touchOwn c x o q) x.job (opTid r) e.enc) x (nextLink x r q) m
          if gather then landSeg c1 g q m else c1
        | none =>
          let m := mkMsg g x r q gather true 0 encEmpty
          let c1 := sendSeg c x (nextLink x r q) m
          if gather then landSeg c1 g q m else c1) ch

/-- A reduce message of a RING: added, forwarded, or at its owner completed. -/
def ringReduce (ch : Chip) (g : GroupId) (x : Group) (o : CollOp) (m : SegMsg) : Chip :=
  let r := o.rec_
  let q := m.segment
  let n := segLen r q
  let own := ownEls ch x o q
  let touch (c : Chip) : Chip := touchOwn c x o q
  let ch1 := updOp ch g.val fun o => { o with red := tput o.red q (tget o.red 0 q + 1) }
  let isOwner := segShard x r q == x.rank
  if x.heritage then
    if ¬ isOwner then sendSeg ch1 x (nextLink x r q) m
    else
      let parts := o.parts ++ (if m.empty then [] else [(0, m)])
      let ch2 := updOp ch1 g.val fun o => { o with parts := parts }
      if tget o.red 0 q + 1 < reduceNeed x r q then ch2
      else
        let theirs := (parts.filter fun p => p.2.segment == q).map fun p =>
          (Nat.log2 p.2.contributors.toNat, msgEls true p.2 n)
        let all := theirs ++ (match own with | some e => [(x.rank, e)] | none => [])
        let con := all.foldl (fun (b : BitVec 64) p => b ||| rankBit p.1) 0
        ringOwner (touch ch2) g x r q (mkMsg g x r q false (all == []) con (encSeg true (heritageSum n all)))
  else
    let out : SegMsg × Enc := match own with
      | none => (m, encNone)
      | some e =>
        let sum := if m.empty then addEls false (List.replicate n (some 0)) e else addEls false (msgEls false m n) e
        let c := encSeg false sum
        (mkMsg g x r q false false (m.contributors ||| rankBit x.rank) c, c.enc)
    let ch2 := watchJob (touch ch1) x.job (opTid r) out.2
    if isOwner then ringOwner ch2 g x r q out.1 else sendSeg ch2 x (nextLink x r q) out.1

/-- A gathered segment: written, and passed on unless the next rank is its owner. -/
def ringGather (ch : Chip) (g : GroupId) (x : Group) (o : CollOp) (m : SegMsg) : Chip :=
  let q := m.segment
  let ch1 := landSeg ch g q m
  if (x.rank + 1) % x.ranks = segShard x o.rec_ q then ch1 else sendSeg ch1 x (nextLink x o.rec_ q) m

/-! ### TREE (R322, R327) -/

/-- The child slots whose sums an operation waits for. -/
def liveKids (x : Group) (o : CollOp) : List Nat :=
  ((List.range 2).filter fun c => (x.kids.getD c none).isSome).filter fun c => !o.lateKids.contains c

/-- The sum of a segment leaves this rank once every part of it is here: to the parent, or from the root down. -/
def treeSum (ch : Chip) (g : GroupId) (q : Nat) : Chip :=
  match groupOf ch g.val with
  | none => ch
  | some x => match x.op with
    | none => ch
    | some o =>
      let r := o.rec_
      let n := segLen r q
      let kid (c : Nat) : Option SegMsg := (o.parts.find? fun p => p.1 == c && p.2.segment == q).map Prod.snd
      let live := liveKids x o
      if o.up.contains q ∨ ¬ (o.started ∨ o.empty) ∨ live.any (fun c => (kid c).isNone) then ch
      else
        let own := ownEls ch x o q
        let msgs := live.filterMap kid
        let none_ := own.isNone && msgs.all fun m => m.empty
        let con := msgs.foldl (fun (b : BitVec 64) m => b ||| m.contributors)
          (if own.isSome then rankBit x.rank else 0)
        let sum := msgs.foldl (fun (b : Option (List (Option Word))) m => match b with
          | some a => some (addEls false a (msgEls false m n))
          | none => some (msgEls false m n)) own
        let e := match sum with | some els => if none_ then encEmpty else encSeg false els | none => encEmpty
        let m := mkMsg g x r q x.parent.isNone none_ con e
        let ch1 := updOp (watchJob (touchOwn ch x o q) x.job (opTid r) e.enc) g.val fun o => { o with up := sadd o.up q }
        match x.parent with
        | some l => sendSeg ch1 x l m
        | none => (x.kids.filterMap id).foldl (fun c l => sendSeg c x l m) (landSeg ch1 g q m)

def treeSums (ch : Chip) (g : GroupId) (r : Nat) : Chip :=
  (List.range (segCount (opN r))).foldl (fun c q => treeSum c g q) ch

/-- The broadcast from the root: written and passed down. -/
def treeDown (ch : Chip) (g : GroupId) (x : Group) (m : SegMsg) : Chip :=
  (x.kids.filterMap id).foldl (fun c l => sendSeg c x l m) (landSeg ch g m.segment m)

/-! ### Late contributions (R326 to R328) -/

/-- A contribution is deferred or dropped, and counted. -/
def countLate (ch : Chip) (g : Nat) (x : Group) (defer : Bool) : Chip :=
  let ch1 := count (raise ch (if defer then .colDeferred else .colDropped) 0)
    (cntPkg (8 * x.job.val + (if defer then 1 else 2))) 1
  let bump (n : Nat) : Nat := min 0xFFFFFFFF (n + 1)
  updGroup ch1 g fun x => if defer then { x with deferred := bump x.deferred } else { x with dropped := bump x.dropped }

/-- What a group still holds when it cannot be added is dropped (R328). -/
def dropHeld (ch : Chip) (g : Nat) (own : Bool) (kids : List Nat) : Chip :=
  match groupOf ch g with
  | none => ch
  | some x =>
    let ch1 := if own ∧ x.heldOwn.isSome then countLate (updGroup ch g fun x => { x with heldOwn := none }) g x false
      else ch
    (kids.filter fun c => thas x.heldKids c).foldl (fun c k =>
      countLate (updGroup c g fun x => { x with heldKids := tdel x.heldKids k }) g x false) ch1

/-- A child's sum of operation n that came too late: held in the work area, or discarded (R327). What was held of the
child before is dropped, unless the running operation adds it (R328). -/
def lateKid (ch : Chip) (g : GroupId) (x : Group) (o : CollOp) (n c : Nat) (m : SegMsg) : Chip :=
  let defer := o.policy == 1
  let held := (x.heldKids.find? fun p => p.1 == c).map Prod.snd
  let first := if defer then held.map Prod.fst != some n else m.segment == 0
  let adding : Bool := match x.op with | some o => o.plusKids.contains c | none => false
  let ch1 := if first then
      let c1 := countLate ch g.val x defer
      if defer then
        updGroup (if adding then c1 else dropHeld c1 g.val false [c]) g.val fun x =>
          { x with heldKids := tput x.heldKids c (n, o.rec_) }
      else c1
    else ch
  if ¬ defer then ch1
  else
    (msgEls x.heritage m (segLen o.rec_ m.segment)).zipIdx.foldl (fun k p =>
      let a := kidArea x c + 4 * (4096 * m.segment + p.2)
      match p.1 with
      | some v => wrNat (landRange k (some x.job) .normal a 4 true) a 4 v.toNat
      | none => landPoison k x.job a 4) ch1

/-! ### Operations (R319, R325 to R329) -/

/-- The record of the group's next operation, read through its home slice (R267). -/
def nextRec (ch : Chip) (x : Group) : Nat := rdNat ch (recDa x x.k) 64
def touchRec (ch : Chip) (x : Group) : Chip := landRange ch (some x.job) .normal (recDa x x.k) 64 false

def newOp (ch : Chip) (x : Group) (r : Nat) : CollOp :=
  let jb := jobOf ch x.job.val
  { rec_ := r, bad := !opValid ch x r, started := false, empty := false, firstUs := tget x.heard ch.us (x.k % 64),
    startUs := ch.us, relUs := none,
    policy := jb.policy, deadline := (if eb r 37 34 = 0 then jb.deadline else eb r 37 34),
    timeout := jb.opTimeout * 1000, plusOwn := false, plusKids := [], lateKids := [], kidSeen := [], red := [],
    gat := [], parts := [], up := [], mask := none }

/-- The `start` wait of the next operation is released (R319). -/
def startReached (x : Group) (k : Nat) : Bool := decide (k ≤ x.rel)

/-- A segment message of the running operation is handled. -/
def handleSeg (ch : Chip) (g : GroupId) (l : Nat) (m : SegMsg) : Chip :=
  match groupOf ch g.val with
  | none => ch
  | some x => match x.op with
    | none => ch
    | some o =>
      if x.tree then
        if m.gather then treeDown ch g x m
        else match (List.range 2).find? fun c => x.kids.getD c none == some l with
          | none => ch
          | some c =>
            if o.lateKids.contains c then lateKid ch g x o x.k c m
            else treeSum (updOp ch g.val fun o =>
              { o with kidSeen := sadd o.kidSeen c, parts := o.parts ++ [(c, m)] }) g m.segment
      else if m.gather then ringGather ch g x o m
      else ringReduce ch g x o m

/-- The messages that waited for the operation are handled in order of arrival. -/
def handleWaiting (ch : Chip) (g : GroupId) : Chip :=
  match groupOf ch g.val with
  | none => ch
  | some x =>
    let now := x.waiting.filter fun p => p.2.opIndex == x.k % 64
    let ch1 := updGroup ch g.val fun x => { x with waiting := x.waiting.filter fun p => p.2.opIndex != x.k % 64 }
    now.foldl (fun c p => handleSeg c g p.1 p.2) ch1

/-- This rank takes part from now on: held contributions are chosen, its own segments leave, and what waited is
handled. -/
def beginOp (ch : Chip) (g : GroupId) : Chip :=
  match groupOf ch g.val with
  | none => ch
  | some x => match x.op with
    | none => ch
    | some o =>
      if o.bad then ch
      else
        let own := !o.empty && (match x.heldOwn with | some h => sameOp h o.rec_ | none => false)
        let kids := if o.empty then [] else (x.heldKids.filter fun p => sameOp p.2.2 o.rec_).map Prod.fst
        let ch1 := dropHeld ch g.val (!own) ((List.range 2).filter fun c => !kids.contains c)
        let ch2 := updOp ch1 g.val fun o => { o with plusOwn := own, plusKids := kids }
        let ch3 := if x.tree then treeSums ch2 g o.rec_ else ringStart ch2 g
        handleWaiting ch3 g

/-- The wait on `start` releases and the engine takes the operation record (R319). -/
def collStartWork (run : GroupRun) (ch : Chip) : Chip :=
  let g := run.group
  match groupOf ch g.val with
  | none => ch
  | some x =>
    if ¬ colRuns ch ∨ ¬ startReached x x.k then ch else
    match x.op with
    | none =>
      let o := { newOp ch x (nextRec ch x) with started := true, relUs := some ch.us }
      beginOp (updGroup (touchRec ch x) g.val fun x => { x with op := some o }) g
    | some o =>
      if o.started ∨ o.empty then ch
      else
        let n := newOp ch x (nextRec ch x)
        let o1 := { n with started := true, relUs := some ch.us, firstUs := o.firstUs, policy := o.policy, timeout := o.timeout,
                           lateKids := o.lateKids, kidSeen := o.kidSeen }
        beginOp (updGroup (touchRec ch x) g.val fun x => { x with op := some o1 }) g

def execCollStart (run : GroupRun) (s : State) : Host.Outcome State Fault Refusal :=
  onChip s (memWork .die run.bursts (collStartWork run))

/-- A segment of the group's next operation has arrived and its start wait is not released: its deadline runs (R325). -/
def announce (ch : Chip) (g : Nat) : Chip :=
  match groupOf ch g with
  | none => ch
  | some x =>
    if x.op.isNone ∧ x.waiting.any fun p => p.2.opIndex == x.k % 64 then
      updGroup (touchRec ch x) g fun x => { x with op := some (newOp ch x (nextRec ch x)) }
    else ch

/-- The child slot that a link leads to. -/
def kidOf (x : Group) (l : Nat) : Option Nat := (List.range 2).find? fun c => x.kids.getD c none == some l

/-- A segment message of an operation that has ended (R327, R328): a child's late sum of the last one is held or discarded;
of an older one it can be added no more, and counts as dropped. The rest was of an operation that failed. -/
def pastSeg (ch : Chip) (l : Nat) (x : Group) (m : SegMsg) : Chip :=
  match kidOf x l, x.last with
  | some c, some o =>
    if m.gather then ch
    else if m.opIndex = (x.k + 63) % 64 then
      if o.lateKids.contains c then lateKid ch m.group x o (x.k - 1) c m else ch
    else if (jobOf ch x.job.val).policy ≠ 0 ∧ m.segment = 0 then countLate ch m.group.val x false
    else ch
  | _, _ => ch

/-- A segment message arrives whole: of the running operation, of one that has not begun, or late (R325, R327). Operations
up to 32 ahead of the next record's index are to come, the others have been. -/
def segArrives (ch : Chip) (l : Nat) (m : SegMsg) : Chip :=
  match groupOf ch m.group.val with
  | none => ch
  | some x =>
    let ch1 := raiseIf m.poison ch .colPoisonIn 0
    let running : Bool := match x.op with | some o => o.started || o.empty | none => false
    if 32 ≤ (m.opIndex % 64 + 64 - x.k % 64) % 64 then pastSeg ch1 l x m
    else if m.opIndex = x.k % 64 ∧ running then handleSeg ch1 m.group l m
    else
      announce (updGroup ch1 m.group.val fun x =>
        { x with waiting := x.waiting ++ [(l, m)]
                 heard := if thas x.heard m.opIndex then x.heard else tput x.heard m.opIndex ch.us }) m.group.val

/-- A COLL flit, in its place in the message its lane brings: checked against its group and job, it completes the message
or is gathered for it (R323). A message that lost a flit brings nothing. -/
def collGather (ch : Chip) (l : Nat) (f : Flit) : Chip :=
  let old := ((linkOf ch l).asm.find? fun a => a.lane == f.lane).getD ⟨f.lane, [], false, false⟩
  let bs := old.bytes ++ f.payload
  let group := groupOf ch (bs.getD 0 0).toNat
  let known : Bool := match group with | some x => (jobOf ch x.job.val).jfid == f.jfid | none => false
  let a : CollAsm := ⟨f.lane, bs, old.poison || f.poison, old.lost || !known || !colMoves ch⟩
  let whole := decide (msgLen bs ≤ bs.length)
  let ch1 := updLink ch l fun k =>
    { k with asm := k.asm.filter (fun b => b.lane != f.lane) ++ if whole then [] else [a] }
  if ¬ colMoves ch then ch1
  else if ¬ known then raise ch1 .colCollReject 0
  else match group with
    | some x =>
      if h : (bs.getD 0 0).toNat < 64 then
        if whole ∧ ¬ a.lost then segArrives ch1 l (msgOf x ⟨(bs.getD 0 0).toNat, h⟩ bs a.poison) else ch1
      else ch1
    | none => ch1

/-- A COLL flit is never routed (R317). -/
def collFlitWork (l : LinkId) (f : Flit) (ch : Chip) : Chip :=
  if f.ftype ≠ 4 then ch else
  receive ch l.val f fun c =>
    if f.dst ≠ c.nwl.pos then raise c .fabMisroute (portOf l.val) else collGather c l.val f

def execCollFlit (l : LinkId) (f : Flit) (bursts : Bursts) (s : State) : Host.Outcome State Fault Refusal :=
  onChip s (memWork .die bursts (collFlitWork l f))

/-- A deadline expires: this rank becomes an empty contributor, or goes on without a child of which no segment has come
(R326, R327). The rank reads its record then; an invalid one completes INVALID (log 166). -/
def collDeadlineWork (g : GroupId) (child : Option Bool) (ch : Chip) : Chip :=
  match groupOf ch g.val with
  | none => ch
  | some x => match x.op with
    | none => ch
    | some o =>
      if ¬ colMoves ch ∨ o.policy = 0 ∨ ch.us ≤ o.firstUs + o.deadline then ch else
      match child with
      | none =>
        if o.started ∨ o.empty then ch
        else
          let ch1 := count (raise (touchRec ch x) .colEmptySent 0) (cntPkg (8 * x.job.val + 3)) 1
          let n := newOp ch x (nextRec ch x)
          let o1 := { n with empty := true, firstUs := o.firstUs, policy := o.policy, timeout := o.timeout,
                             lateKids := o.lateKids, kidSeen := o.kidSeen }
          beginOp (updGroup ch1 g.val fun x => { x with op := some o1, owe := x.owe ++ [(x.k, o1.rec_, o1.policy)] }) g
      | some b =>
        let c := b2n b
        let begun := o.kidSeen.contains c ||
          x.waiting.any fun p => kidOf x p.1 == some c && p.2.opIndex == x.k % 64 && !p.2.gather
        if ¬ x.tree ∨ o.bad ∨ ¬ (liveKids x o).contains c ∨ begun then ch
        else treeSums (updOp ch g.val fun o => { o with lateKids := sadd o.lateKids c }) g o.rec_

def execCollDeadline (g : GroupId) (child : Option Bool) (s : State) : Host.Outcome State Fault Refusal :=
  onChip s (memWork .die [] (collDeadlineWork g child))

/-- The start wait of an operation in which this rank was empty is released late (R326); where it still runs, its time-out
runs from then (R329). -/
def collLateStartWork (g : GroupId) (ch : Chip) : Chip :=
  match groupOf ch g.val with
  | none => ch
  | some x => match x.owe with
    | [] => ch
    | (k, r, policy) :: rest =>
      if ¬ colMoves ch ∨ ¬ startReached x k then ch
      else
        let ch1 := updGroup ch g.val fun x =>
          { x with owe := rest, op := if k = x.k then x.op.map fun o => { o with relUs := some ch.us } else x.op }
        if policy = 1 then
          countLate (updGroup (dropHeld ch1 g.val true []) g.val fun x => { x with heldOwn := some r }) g.val x true
        else countLate ch1 g.val x false

def execCollLateStart (g : GroupId) (s : State) : Host.Outcome State Fault Refusal :=
  onChip s (memWork .die [] (collLateStartWork g))

/-- Every segment this rank writes is written, and everything it passes on has left it. -/
def opFinished (x : Group) (o : CollOp) : Bool :=
  let r := o.rec_
  let all := List.range (segCount (opN r))
  let part := o.started || o.empty
  if x.tree then part && all.all fun q => o.up.contains q && o.gat.contains q
  else part &&
    (opKind r == 3 || all.all fun q => decide (reduceNeed x r q ≤ tget o.red 0 q)) &&
    (all.all fun q => o.gat.contains q || (opKind r == 2 && segShard x r q != x.rank))

/-- The shards this rank did not complete, and their bits (R319, R329). -/
def failedShards (x : Group) (o : CollOp) : BitVec 64 :=
  (List.range (segCount (opN o.rec_))).foldl (fun (b : BitVec 64) q =>
    if o.gat.contains q ∨ (opKind o.rec_ = 2 ∧ segShard x o.rec_ q ≠ x.rank) then b
    else b ||| rankBit (segShard x o.rec_ q)) 0

def allRanks (n : Nat) : BitVec 64 := BitVec.ofNat 64 (2 ^ n - 1)

/-- The ranks whose shards have no elements: they have nothing to give to an ALL_GATHER (R320). -/
def emptyShards (x : Group) (r : Nat) : BitVec 64 :=
  (List.range x.ranks).foldl (fun (b : BitVec 64) k =>
    if opN r ≤ k * shardSize (opN r) x.ranks then b ||| rankBit k else b) 0

/-- The contributors of a result (R319): a rank that had nothing to give misses from none (log 165). -/
def contributors (x : Group) (o : CollOp) : BitVec 64 :=
  let own : BitVec 64 := if o.empty then rankBit x.rank else 0
  (match o.mask with
    | none => allRanks x.ranks
    | some m => if opKind o.rec_ = 3 then m ||| emptyShards x o.rec_ else m) &&& ~~~own

/-- An operation ends with a status: unfinished shards are poisoned, the record is completed, the job is told, and
`done` is signalled (R319, R329). -/
def endOp (ch : Chip) (g : Nat) (status : Nat) : Chip :=
  match groupOf ch g with
  | none => ch
  | some x => match x.op with
    | none => ch
    | some o =>
      let r := o.rec_
      let bad := if o.bad then 0 else failedShards x o
      let ch1 := if o.bad then ch else
        (List.range (segCount (opN r))).foldl (fun c q =>
          if bad.getLsbD (segShard x r q) then
            let w := dstRange r q
            landPoison (landPoison c x.job w.1.1 w.1.2) x.job w.2.1 w.2.2
          else c) ch
      let own := if o.empty then (if o.policy = 1 then 1 else 2) else 0
      let fl := b2n o.plusOwn + 2 * b2n (o.plusKids != [])
      let con := if o.bad then 0 else if status ≤ 2 then contributors x o else o.mask.getD 0
      let ch2 := wrLand ch1 (some x.job) .normal (recDa x x.k + 40) (leBytes status 1 ++ leBytes own 1 ++ leBytes fl 1 ++ [0] ++
        leBytes (min 0xFFFFFFFF (ch.us - o.startUs)) 4 ++ leBytes con.toNat 8 ++ leBytes bad.toNat 8) false
      let ch3 := if status = 3 then raise ch2 .colOpTimeout 0 else if status = 4 then raise ch2 .colOpAbort 0 else ch2
      let ch4 := if status = 2 ∨ status = 3 ∨ status = 4 then
          notify ch3 x.job.val (3 + status) 0 0xFFFF g 0 (bad.setWidth 64)
        else ch3
      let ch5 := count (updGroup ch4 g fun x =>
        { x with op := none, last := some o, k := x.k + 1
                 heldOwn := if o.plusOwn then none else x.heldOwn
                 heldKids := x.heldKids.filter fun p => !o.plusKids.contains p.1 || p.2.1 == x.k
                 heard := tdel x.heard (x.k % 64)
                 waiting := x.waiting.filter fun p => p.2.opIndex != x.k % 64 }) (cntPkg (8 * x.job.val)) 1
      announce (objDeliver ch5 8 x.done (.signal 1)) g

/-- An operation of which every rank's part is done completes; an INVALID one touched no memory (R319). -/
def collCompleteWork (run : GroupRun) (ch : Chip) : Chip :=
  let g := run.group
  match groupOf ch g.val with
  | none => ch
  | some x => match x.op with
    | none => ch
    | some o =>
      if ¬ colMoves ch then ch
      else if o.bad ∧ (o.started ∨ o.empty) then endOp ch g.val 5
      else if ¬ o.bad ∧ opFinished x o then endOp ch g.val (if contributors x o = allRanks x.ranks then 1 else 2)
      else ch

def execCollComplete (run : GroupRun) (s : State) : Host.Outcome State Fault Refusal :=
  onChip s (memWork .die run.bursts (collCompleteWork run))

/-- An operation not complete within the job's `op_timeout` (R329). -/
def opTimeoutWork (g : GroupId) (ch : Chip) : Chip :=
  match groupOf ch g.val with
  | none => ch
  | some x => match x.op with
    | none => ch
    | some o =>
      let late : Bool := match o.relUs with | some t => decide (t + o.timeout ≤ ch.us) | none => false
      if colMoves ch ∧ ¬ o.bad ∧ late then endOp ch g.val 3 else ch

def execOpTimeout (g : GroupId) (s : State) : Host.Outcome State Fault Refusal :=
  onChip s (memWork .die [] (opTimeoutWork g))

/-! ### Aborts (R329, R331, R402) -/

def groupLinks (x : Group) : List Nat := x.next ++ x.prev ++ x.parent.toList ++ x.kids.filterMap id
def groupIds (ch : Chip) : List Nat := ch.fab.groups.map Prod.fst

def opRunning (x : Group) : Bool := match x.op with | some o => o.started || o.empty | none => false

/-- The running operations of groups that satisfy p end ABORTED. -/
def abortOps (ch : Chip) (p : Group → Bool) : Chip :=
  (groupIds ch).foldl (fun c g => match groupOf c g with
    | some x => if p x && opRunning x then endOp c g 4 else c
    | none => c) ch
def abortJobOps (ch : Chip) (j : JobId) : Chip := abortOps ch fun x => x.job == j
def abortLinkOps (ch : Chip) (l : Nat) : Chip := abortOps ch fun x => (groupLinks x).contains l

/-- A group is destroyed: its operation ends ABORTED, and what it held is dropped (R328, R329). -/
def destroyGroup (ch : Chip) (g : Nat) : Chip :=
  let ch1 := match groupOf ch g with
    | some x => if opRunning x then endOp ch g 4 else ch
    | none => ch
  let ch2 := dropHeld ch1 g true [0, 1]
  { ch2 with fab := { ch2.fab with groups := tdel ch2.fab.groups g } }

/-- A job has a collective operation running at this rank (R340). -/
def jobCollBusy (ch : Chip) (j : JobId) : Bool := ch.fab.groups.any fun p => p.2.job == j && opRunning p.2

end Sys2Proof.Machine
end

