-- ==== Sys2Proof/Machine/Cowslip.lean ====
section
/-! DEFINITION. What the other units need of the Cowslip converters: their blocks, their sequences, and the urgent
trigger that an alarm, a re-trace or NWL_TRIG fires (22_cowslip_sensors.md R470, R471, R473, R479). -/

namespace Sys2Proof.Machine

/-! ### The registers of converter k (R481) -/

def snBlk (k : Nat) : Blk × Nat := if k < 8 then (.snst, k) else (.sns, 0)
def snCfg (ch : Chip) (k : Nat) : Word := if k < 8 then regGet ch .snstCfg k else regGet ch .snsCfg 0
def snUnit (k : Nat) : Nat := if k < 8 then k else 0
def snEv (k : Nat) (t p : Ev) : Ev := if k < 8 then t else p
def snRaise (ch : Chip) (k : Nat) (t p : Ev) : Chip := raise ch (snEv k t p) (snUnit k)
def snOn (ch : Chip) (k : Nat) : Bool := enabled ch (snBlk k).1 (snBlk k).2 && islandRuns ch 21
/-- The converter finishes the conversion in progress while it is STOPPING (R479). -/
def snMoves (ch : Chip) (k : Nat) : Bool :=
  decide (blkGet ch (snBlk k).1 (snBlk k).2 ≠ .disabled) && islandRuns ch 21

def snEntry (ch : Chip) (k : Nat) (inj : Bool) (n : Nat) : Word :=
  if k < 8 then (if inj then regGet ch .snstInj k n else regGet ch .snstReg k n)
  else (if inj then regGet ch .snsInj 0 n else regGet ch .snsReg 0 n)

/-- The conversions of a sequence in order; an injected entry runs for the sources it names (R470). -/
def snSeq (ch : Chip) (k : Nat) (inj : Bool) (src : Nat) : List SnsPos :=
  (List.range (if inj then 4 else 16)).flatMap fun n =>
    let w := snEntry ch k inj n
    if w.getLsbD 31 ∧ (inj → fld w 26 23 &&& src ≠ 0) then
      (List.range (fld w 15 12 + 1)).map fun i => ⟨inj, n, fld w 4 0 + i⟩
    else []

/-! ### SNS_CTRL.reg_now and inj_now (R481) -/

def snCtrl (k : Nat) : Reg × Nat := if k < 8 then (.snstCtrl, k) else (.snsCtrl, 0)
/-- The bit of SNS_CTRL: 1 `reg_now`, 2 `inj_now`. -/
def snBit (ch : Chip) (k b : Nat) : Bool := (regGet ch (snCtrl k).1 (snCtrl k).2).getLsbD b
def snPutBit (ch : Chip) (k b : Nat) (v : Bool) : Chip := regPut ch (snCtrl k).1 (snCtrl k).2 b b (b2n v)

/-- The conversion in progress is one of a regular sequence, or of an injected run. -/
def snDoes (x : Adc) (inj : Bool) : Bool := match x.now with | some p => p.inj == inj | none => false

/-- The bits clear as the runs they asked for start, or are given up: a regular sequence or an injected run of the software
trigger is waiting while another conversion goes on. -/
def snBegun (ch : Chip) (k : Nat) : Chip :=
  let x := convOf ch k
  let reg := x.reg.isSome && !snDoes x false
  let inj := x.held.testBit 0 || (x.src.testBit 0 && !snDoes x true)
  let ch1 := if snBit ch k 1 && !reg then snPutBit ch k 1 false else ch
  if snBit ch k 2 && !inj then snPutBit ch1 k 2 false else ch1

/-- An urgent trigger with its sources: bit 0 software, 1 alarm, 2 calibration, 3 NWL_TRIG. -/
def snUrgent (ch : Chip) (k src : Nat) : Chip :=
  let x := convOf ch k
  if ¬ snOn ch k ∨ src = 0 then ch
  else if x.src ≠ 0 then
    (if x.held = 0 then updConv ch k fun x => { x with held := src }
     else snRaise ch k .snstInjOverrun .snsInjOverrun)
  else match (snSeq ch k true src).head? with
    | none => ch
    | some p => updConv ch k fun x => { x with src := src, now := if x.now.isNone then some p else x.now }

end Sys2Proof.Machine
end

