-- ==== Sys2Proof/Machine/Calib.lean ====
section
/-! DEFINITION. Calibration: traces, fields, column groups and their findings (04_calibration.md R88 to R105). -/

namespace Sys2Proof.Machine

/-! ### When fields and arrays become due (R96, R97) -/

def dtCal (ch : Chip) (t : Nat) : Nat := regFld ch .calPolicy t 7 0
def moved (a b : Int) (dt : Nat) : Bool := decide (dt < (a - b).natAbs)

/-- Every position of a field becomes due. -/
def queueField (ch : Chip) (g : Nat) : Chip := (List.range 128).foldl (fun c l => queueCal c g (physOf ch g l)) ch
def queueTower (ch : Chip) (t : Nat) : Chip := (span (128 * t) 128).foldl queueField ch

/-- Automatic calibration of a tower runs (R91, R105). -/
def calAuto (ch : Chip) (t : Nat) : Bool :=
  enabled ch .cal t && (regGet ch .calCtrl t).getLsbD 1 && !(towerOf ch t).fault

/-- The running mean of diode c of tower t in 1/16 °C, once it has its 8 samples (R476). -/
def diodeMean (ch : Chip) (t c : Nat) : Option Int :=
  let w := regGet ch .snstAvg t c
  if w.getLsbD 31 then some (sx 16 (fld w 15 0)) else none

/-- The temperature of a field: the mean of its cluster's diode, before that the last one seen (R96, R476). -/
def fieldTemp (ch : Chip) (g : Nat) : Int := (diodeMean ch (g / 128) (g % 128 / 8)).getD (fieldOf ch g).tNow

/-- The mean of a tower's 16 diodes (R90), over those that have a mean; rounded down (log 123). -/
def towerTemp (ch : Chip) (t : Nat) : Int :=
  let l := (List.range 16).filterMap (diodeMean ch t)
  if l = [] then (towerOf ch t).traceT else l.foldl (· + ·) 0 / l.length

/-- The temperature of the field of a tower's core is looked at: it becomes due, or its run is followed by another (R96).
In CALIBRATION the first look begins the field's run of that phase (R422; DESIGN CHOICE, log 148). -/
def execFieldDue (tower : TowerId) (core : Fin 128) (s : State) : Host.Outcome State Fault Refusal :=
  onChip s fun ch =>
    let t := tower.val
    let g := 128 * t + core.val
    let temp := fieldTemp ch g
    let ch1 := updField ch g fun f => { f with tNow := temp }
    let f := fieldOf ch g
    if ¬ islandRuns ch 21 then ch
    else if ch.phase = 2 ∧ ¬ f.running then updField ch1 g fun f => { f with running := true, tLast := temp }
    else if ¬ calAuto ch t ∨ ¬ moved temp f.tLast (dtCal ch t) then ch1
    else if ¬ f.running then queueField ch1 g
    else if f.again then ch1
    else countCore (raise (updField ch1 g fun f => { f with again := true }) .calTempRetrigger t) g 89 1

def execCalStarved (c : CoreId) (s : State) : Host.Outcome State Fault Refusal :=
  onChip s fun ch =>
    let f := fieldOf ch c.val
    if f.due ≠ [] ∧ f.dueAt + 1000000 < ch.us ∧ ¬ f.starved then
      raise (updField ch c.val fun f => { f with starved := true }) .calStarved (c.val / 128)
    else ch

/-! ### Traces (R90, R91) -/

/-- A re-trace starts: field runs pause until it ends. -/
def startTrace (ch : Chip) (t : Nat) : Chip := updTower ch t fun x => { x with busy := true }

def codeMoved (a b : BitVec 10) : Bool := decide (2 < a.toNat - b.toNat ∨ 2 < b.toNat - a.toNat)

/-- REFV is whole: within 1 % of 1.2000 V against the bandgap, and no open wire found on its pins (R91, R468, R475). -/
def refvOk (ch : Chip) (t : Nat) (obs : TraceObs) : Bool :=
  decide (100 * (Int.natAbs ((obs.refv.toNat : Int) - 8192)) ≤ 8192) && !obs.openWire &&
    !(regGet ch .snstLast t 21).getLsbD 14

/-- A trace of a tower ends (R90, R91). A pin that its open-wire currents find open is an open-wire result (R475). -/
def traceEnd (ch0 : Chip) (t : Nat) (full : Bool) (obs : TraceObs) : Chip :=
  let ch := if obs.openWire then health (snRaise ch0 t .snstOpenWire .snsOpenWire) else ch0
  let x := towerOf ch t
  let stamp (x : Tower) : Tower := { x with busy := false, traceAt := ch.us, traceT := towerTemp ch t }
  if refvOk ch t obs then
    let ch1 := updTower ch t fun x =>
      { stamp x with vrd := obs.vrd, vts := obs.vts, valid := true, fault := false, traced := full || x.traced }
    let ch2 := raise ch1 .calTraceDone t
    if codeMoved obs.vrd x.vrd ∨ codeMoved obs.vts x.vts then
      queueTower ((span (128 * t) 128).foldl (fun c g =>
        (fieldOf c g).due.foldl (fun c a => updArr c g a fun y => { y with cal := 0 }) c) ch2) t
    else ch2
  else
    let ch1 := updTower ch t fun x => { stamp x with valid := false, fault := true }
    health (raise (raise ch1 .calTraceDone t) .calRefFault t)

/-- The tower's mean temperature has moved since its last trace (R90). `auto_en` is for the triggers of R96 alone (R105); a
failed trace stops this one, for R91's retry takes its place (DESIGN CHOICE, log 149). -/
def traceDue (ch : Chip) (t : Nat) : Bool :=
  enabled ch .cal t && islandRuns ch 21 && !(towerOf ch t).fault && moved (towerTemp ch t) (towerOf ch t).traceT (dtCal ch t)

/-- A re-trace runs to its end; at its start the tower's calibration request goes to Cowslip (R473). -/
def retrace (ch : Chip) (t : Nat) (obs : TraceObs) : Chip := traceEnd (snUrgent ch t 4) t false obs

/-- A re-trace, requested or due by temperature. -/
def execRetrace (t : TowerId) (obs : TraceObs) (s : State) : Host.Outcome State Fault Refusal :=
  onChip s fun ch =>
    if islandRuns ch (8 + t.val) ∧ ((towerOf ch t.val).busy ∨ traceDue ch t.val) then retrace ch t.val obs else ch

/-- After a runtime reference fault the tower tries again, 100 ms after the trace that failed (R91). -/
def execTraceRetry (t : TowerId) (obs : TraceObs) (s : State) : Host.Outcome State Fault Refusal :=
  onChip s fun ch =>
    let x := towerOf ch t.val
    if x.fault ∧ x.traced ∧ x.traceAt + 100000 ≤ ch.us ∧ islandRuns ch (8 + t.val) ∧ enabled ch .cal t.val then
      retrace ch t.val obs
    else ch

/-! ### Column groups (R93 to R95, R98, R100, R102) -/

/-- The bursts of a batch that runs back to back hold its array (R55, R57, R63). -/
def burstsHold (ch : Chip) (g a : Nat) : Bool :=
  match (bankOf ch g).batch with
  | some t => t.phys == a && t.atomic
  | none => false

/-- The due array of lowest physical number that no read waits for and no batch holds (R98; that the numbers are physical
ones is the model's choice, log 62). -/
def nextCal (ch : Chip) (g : Nat) : Option Nat :=
  (fieldOf ch g).due.find? fun a => noReads ch g a && !burstsHold ch g a

/-- The codes of a group for its columns or rows lo … hi − 1. -/
def groupCodes (codes : List (Nat × Nat)) (lo hi : Nat) : List (Nat × Nat) :=
  codes.filter fun p => decide (lo ≤ p.1 ∧ p.1 < hi)

/-- What group n leaves in the staged bank, and whether a column trim, or a row offset, ended at an end code. -/
def runGroup (t : Trims) (n : Nat) (obs : CalObs) : Trims × Bool × Bool :=
  let put {α : Type} (f : Nat → α) (l : List (Nat × Nat)) (b : Tab α) : Tab α :=
    l.foldl (fun b p => tput b p.1 (f p.2)) b
  let off (v : Nat) : Int := sx 6 (v % 64)
  let endOff (p : Nat × Nat) : Bool := off p.2 == -32 || off p.2 == 31
  let endGain (p : Nat × Nat) : Bool := p.2 % 128 == 0 || p.2 % 128 == 127
  if n = 0 then ({ t with slope := obs.slope.toNat }, false, false)
  else if n ≤ 4 then
    let l := groupCodes obs.codes (130 * (n - 1)) (130 * n)
    ({ t with offset := put off l t.offset }, l.any endOff, false)
  else if n ≤ 8 then
    let l := groupCodes obs.codes (130 * (n - 5)) (130 * (n - 4))
    ({ t with gain := put (fun v => v % 128) l t.gain }, l.any endGain, false)
  else
    let l := groupCodes obs.codes 0 512
    ({ t with row := put off l t.row }, false, l.any endOff)

/-- A run's figures are judged (R102): refresh first, rotation if the refresh did not help. -/
def judgeResid (ch : Chip) (g a resid : Nat) : Chip :=
  let lim := regFld ch .prgRefreshCfg g 15 8
  let flag (v : Bool) (c : Chip) : Chip := updStat c g a fun x => { x with refreshedForResid := v }
  if resid = 0xFF then ch
  else if resid ≤ lim then flag false ch
  else
    let ch1 := raise ch .calResidHigh (g / 128)
    if ¬ (statOf ch g a).refreshedForResid then flag true (queueRefresh ch1 g a)
    else if (bankOf ch g).refreshQ.contains a then ch1
    else if (arrOf ch g a).role = 0 then
      leaveArray (flag false (raise ch1 .calResidRotate (g / 128))) g a true none
    else ch1

/-- The field run ends when no array is due; a queued further run starts it again (R96). -/
def endField (ch : Chip) (g : Nat) : Chip :=
  let f := fieldOf ch g
  if f.due ≠ [] then ch
  else
    let ch1 := updField ch g fun f => { f with running := false, starved := false, again := false }
    let ch2 := countCore (raise ch1 .calRunDone (g / 128)) g 87 1
    if f.again then queueField ch2 g else ch2

/-- The rms of n samples in whole units, to the nearest (R100; the rounding is the model's choice, log 124). -/
def rms (n : Nat) (l : List Int) : Nat := (isqrt (4 * ((l.take n).foldl (fun s v => s + v.natAbs * v.natAbs) 0) / n) 64 + 1) / 2

/-- A trim of a bank stands at an end code (R95, R105). -/
def trimAtEnd (t : Trims) : Bool :=
  let off (p : Nat × Int) : Bool := p.2 == -32 || p.2 == 31
  t.slope == 0 || t.slope == 255 || t.offset.any off || t.row.any off || t.gain.any fun p => p.2 == 0 || p.2 == 127

/-- The last group closes a run: the staged bank goes live (R93). -/
def endRun (ch : Chip) (g a : Nat) (obs : CalObs) : Chip :=
  let x := arrOf ch g a
  let resid := if x.loaded then min 0xFE (rms 32 obs.samples) else 0xFF
  let ch1 := updArr ch g a fun y => { y with live := y.staged, cal := 0 }
  let ch2 := updStat ch1 g a fun y =>
    { y with resid := resid, residT := min 0xFE (rms 1536 obs.rows), neverRun := false, suspect := false,
             trimLimit := trimAtEnd x.staged, runs := y.runs + 1 }
  endField (judgeResid (updField ch2 g fun f => { f with due := sdel f.due a }) g a resid) g

/-- A column trim at an end code: the programmer rotates the position (R95). A spare that a move has calibrated is given
up for another one, and is retired as one that cannot serve (DESIGN CHOICE, log 125). -/
def trimLimited (ch : Chip) (g a : Nat) : Chip :=
  let ch1 := raise (updStat ch g a fun x => { x with trimLimit := true }) .calTrimLimit (g / 128)
  let x := arrOf ch1 g a
  match (bankOf ch1 g).moves.find? fun m => m.new == a with
  | some m =>
    let ch2 := updArr (dropRun ch1 g a) g a fun y => { y with role := 2 }
    endField (startMove (updBank ch2 g fun b => { b with moves := b.moves.filter (· != m) }) g m.old m.fenced none) g
  | none => if x.role = 0 ∧ ¬ x.fenced then endField (leaveArray ch1 g a true none) g else ch1

/-- A field's controller runs one column group, once the device is READY (R422). The run of an array that was queued on its
own is a field run too: its start sets T_last and its end raises `run_done` (DESIGN CHOICE, log 126). A failed trace stops
the triggers of R96 alone: what is due already, or by R97, goes on (DESIGN CHOICE, log 149). -/
def execCalGroup (c : CoreId) (obs : CalObs) (s : State) : Host.Outcome State Fault Refusal :=
  onChip s fun ch =>
    let g := c.val
    let t := g / 128
    if ch.phase ≠ 4 ∨ ¬ enabled ch .cal t ∨ (towerOf ch t).busy ∨ ¬ islandRuns ch (8 + t) ∨ (towerOf ch t).fenced then ch
    else
    match nextCal ch g with
    | none => ch
    | some a =>
      let x := arrOf ch g a
      let r := runGroup x.staged x.cal obs
      let temp := fieldTemp ch g
      let ch1 := updField ch g fun f =>
        { f with cur := a, running := true, tNow := temp, tLast := if f.running then f.tLast else temp }
      let ch2 := countCore (updArr ch1 g a fun y => { y with staged := r.1, cal := y.cal + 1 }) g 88 1
      let ch3 := if r.2.2 then raise (updStat ch2 g a fun y => { y with trimLimit := true }) .calTrimLimit t else ch2
      if r.2.1 then trimLimited ch3 g a
      else if 9 ≤ x.cal then endRun ch3 g a obs
      else ch3

/-- The runs of a tower's fields are abandoned: the array clock was lost (R99). -/
def abandonRuns (ch : Chip) (t : Nat) : Chip :=
  (span (128 * t) 128).foldl (fun c g =>
    let c1 := (fieldOf c g).due.foldl (fun c a => updArr c g a fun y => { y with cal := 0 }) c
    updField c1 g fun f => { f with running := false, again := false }) ch

end Sys2Proof.Machine
end

