-- ==== Sys2Proof/Machine/Teasel.lean ====
section
/-! DEFINITION. Scrubs, test windows and fences (20_faults.md R424 to R432, R443, R444; 06_accumulation.md R145;
01_six_levels.md R21, R28; 05_engines.md R115). A window runs whole within its command, or from one command to
another (log 20). -/

namespace Sys2Proof.Machine

/-! ### Fences (R28, R430) -/

/-- The work of a core in a fenced tower is lost: no read delivers, nothing in its queues goes on (R28, R86); its window is
abandoned (R429). -/
def stopCore (ch : Chip) (g : Nat) : Chip :=
  let ch1 := updCore ch g fun k =>
    { k with run := if k.run = .running ∨ k.run = .waiting then .halted else k.run, halting := false, q := [],
             syw := none, fence := none, defer := [], held := none }
  updBank (updTcore ch1 g fun x => { x with under := none }) g fun b => { b with reads := [], batch := none }

/-- Teasel fences a tower, while it runs: the jobs that hold its clusters stop and are told (R28, R430, R431). -/
def fenceTower (ch : Chip) (t : Nat) : Chip :=
  if (towerOf ch t).fenced ∨ ¬ ctlRuns ch then ch
  else
    let ch1 := faultMark (updTower ch t fun x => { x with fenced := true, fenceCause := 4 }) (128 * t)
    let hit := (List.finRange 16).filter fun j => (clustersOf ch j).any fun c => c / 16 == t
    let ch2 := hit.foldl (fun c j => notify (haltJobCores c j) j.val 10 t 0xFFFF 0 0 0) ch1
    (span (128 * t) 128).foldl stopCore ch2

/-! ### Scrubs (R145, R425) -/

/-- The scrub reads an element of a non-EMPTY tile; a parity failure poisons the tile and fences the core. -/
def execTileScrub (c : CoreId) (tile : Fin 256) (_i _j : Fin 16) (bad : Bool) (s : State) :
    Host.Outcome State Fault Refusal :=
  onChip s fun ch =>
    if bad ∧ (tileOf ch c.val tile.val).st ≠ 0 then
      let ch1 := updTile ch c.val tile.val fun x => { x with poison := true }
      fenceCore (raise (raise ch1 .engAccScrubFound c.val) .engAccParityPoison c.val) c.val 2
    else ch

/-- The first byte of word w of a scrubbed memory; none past its end. -/
def scrubAddr (g : Nat) (m : ScrubMem) (w : Nat) : Option Nat :=
  match m with
  | .scratch => if 4 * w < scratchLen then some (scratchBase g + 4 * w) else none
  | .imem => if 4 * w < 0x20000 then some (imemBase g + 4 * w) else none
  | .desc => if 4 * w < 0x10000 then some (descBase g + 4 * w) else none

/-- The core scrub reads a word; a parity failure marks it poisoned and fences the core. -/
def execMemoryScrub (c : CoreId) (m : ScrubMem) (w : Nat) (bad : Bool) (s : State) :
    Host.Outcome State Fault Refusal :=
  onChip s fun ch =>
    match scrubAddr c.val m w with
    | some a => if bad then fenceCore (markPoi ch a 4) c.val 2 else ch
    | none => ch

/-! ### Windows (R428, R429) -/

def popcount (m : BitVec 64) : Nat := ((List.range 64).filter m.getLsbD).length

/-- A core is at a test point (R428). -/
def atTestPoint (ch : Chip) (g : Nat) : Bool :=
  let k := coreOf ch g
  (tcoreOf ch g).under.isNone &&
    (k.run == .idle || k.run == .halted || k.run == .faulted || (accOf ch g).tiles.all fun p => p.2.st == 0)

/-- Issued work has completed, so Teasel can take the core (R126, R86). -/
def workDone (ch : Chip) (g : Nat) : Bool :=
  (coreOf ch g).q.all (fun i => i.phase == .done) && (bankOf ch g).reads == []

/-- The core can be tested: neither it nor its tower is fenced, and its clocks run. -/
def testable (ch : Chip) (g : Nat) : Bool :=
  !(tcoreOf ch g).fenced && !(towerOf ch (g / 128)).fenced && islandRuns ch (g / 128) && islandRuns ch (8 + g / 128)

/-- Engines are fenced (R19, R115). -/
def fenceEngines (ch : Chip) (g : Nat) (m : BitVec 64) (cause : Nat) : Chip :=
  let new := m &&& ~~~(accOf ch g).fencedEng
  let ch1 := updAcc ch g fun a => { a with fencedEng := a.fencedEng ||| m }
  let ch2 := updTcore ch1 g fun x =>
    { x with engCause := ((List.range 64).filter new.getLsbD).foldl (fun t e => tput t e cause) x.engCause }
  if new = 0 then ch2 else faultMark ch2 g

/-- More than 16 engines fenced: the whole core is (R115). -/
def fenceIfMany (ch : Chip) (g cause : Nat) : Chip :=
  if 16 < popcount (accOf ch g).fencedEng then fenceCore ch g cause else ch

/-- Every tile is EMPTY and the stationary banks are gone after a window (R21, R129). -/
def emptyTiles (ch : Chip) (g : Nat) : Chip := updAcc ch g fun a => { a with tiles := [], banks := none }

/-- No core of the core's cluster is under test: Teasel tests one of them at a time (R428). -/
def clusterFree (ch : Chip) (g : Nat) : Bool := (span (g / 8 * 8) 8).all fun h => (tcoreOf ch h).under.isNone

/-- Teasel takes a core (R428). The watcher cache is flushed before (R188). Only a forced window reports lost tiles (R428,
R444): at a halted core's test point none are (log 138). -/
def beginWindow (ch0 : Chip) (g : Nat) (k : WindowKind) : Chip :=
  let ch := flushCache ch0 g
  let forced := k == .forced
  let lost := forced && (accOf ch g).tiles.any fun p => p.2.st != 0
  let ch1 := if forced then countCore (raise ch .tslForced 0) g 82 1 else ch
  let ch2 := if lost then
      let c := countCore (raise ch1 .tslTilesLost 0) g 83 1
      match coreJob c g with | some j => notify c j.val 12 0 g 0 0 0 | none => c
    else ch1
  updTcore (emptyTiles ch2 g) g fun x => { x with under := some k }

/-- A window ends with its outcome: true if it passes (R429, R430). A core that passes goes on where it was taken. -/
def endWindow (ch : Chip) (g : Nat) (obs : TestObs) : Chip × Bool :=
  let ch1 := windowOver ch g (obs == .pass)
  let ch2 := updTcore (fenceEngines ch1 g (tcoreOf ch1 g).engPend 5) g fun x => { x with engPend := 0 }
  match obs with
  | .begins | .pass => (fenceIfMany ch2 g 5, true)
  | .engines m => (fenceIfMany (fenceEngines ch2 g m 1) g 1, false)
  | .core => (fenceCore ch2 g 1, false)

/-- A window goes on: it begins where the core may be taken, and ends with its outcome, in the same command or a later
one (log 20); `some` passed when it has ended. -/
def runWindow (ch : Chip) (g : Nat) (k : WindowKind) (may : Bool) (obs : TestObs) : Chip × Option Bool :=
  let mine := (tcoreOf ch g).under == some k
  if ¬ mine ∧ ¬ (may ∧ clusterFree ch g) then (ch, none)
  else
    let ch1 := if mine then ch else beginWindow ch g k
    if obs = .begins then (ch1, none) else let r := endWindow ch1 g obs; (r.1, some r.2)

/-- Teasel's schedule runs (R426, R444). -/
def scheduleOn (ch : Chip) : Bool :=
  enabled ch .tsl 0 && (regGet ch .tslCtrl 0).getLsbD 1 && islandRuns ch 20

def periodUs (ch : Chip) : Nat := max 250 (min 60000 (regFld ch .tslPeriod 0 15 0)) * 1000

/-- The start of the present period. -/
def periodStart (ch : Chip) : Nat := ch.tsl.schedAt + (ch.us - ch.tsl.schedAt) / periodUs ch * periodUs ch

/-- The core's window of the present period is still owed (R428). -/
def windowOwed (ch : Chip) (g : Nat) : Bool :=
  match (tcoreOf ch g).lastAt with
  | some t => decide (t < periodStart ch)
  | none => true

/-- A scheduled window of a core (R428): the schedule runs, the core can be tested, and its window is owed. -/
def mayTest (ch : Chip) (g : Nat) : Bool := scheduleOn ch && testable ch g && windowOwed ch g && workDone ch g

def testWindowWork (c : CoreRun) (obs : TestObs) (ch : Chip) : Chip :=
  let g := c.core.val
  if ctlRuns ch then (runWindow ch g .point (mayTest ch g && atTestPoint ch g) obs).1 else ch

def execTestWindow (c : CoreRun) (obs : TestObs) (s : State) : Host.Outcome State Fault Refusal :=
  onChip s (memWork (.core (c.core.val / 128)) c.bursts (testWindowWork c obs))

/-- From 100 ms before the period ends Teasel takes the core at its next boundary (R428). -/
def forcedWindowWork (c : CoreRun) (obs : TestObs) (ch : Chip) : Chip :=
  let g := c.core.val
  if ctlRuns ch then
    (runWindow ch g .forced (mayTest ch g && !atTestPoint ch g && decide (periodStart ch + periodUs ch ≤ ch.us + 100000))
      obs).1
  else ch

def execForcedWindow (c : CoreRun) (obs : TestObs) (s : State) : Host.Outcome State Fault Refusal :=
  onChip s (memWork (.core (c.core.val / 128)) c.bursts (forcedWindowWork c obs))

end Sys2Proof.Machine
end

