-- ==== Sys2Proof/Machine/Twin.lean ====
section
/-! DEFINITION. The twin mover and its partner side (15_twin_copy.md R335 to R347), and what ends with a job or a link
(18_mailboxes_elbinik.md R402; 14_fabric_collectives.md R313, R329). -/

namespace Sys2Proof.Machine

def twinOf (ch : Chip) (j : Nat) : Option TwinSrc := (ch.fab.twins.find? fun p => p.1 == j).map Prod.snd
def updTwin (ch : Chip) (j : Nat) (f : TwinSrc → TwinSrc) : Chip :=
  match twinOf ch j with
  | some t => { ch with fab := { ch.fab with twins := tput ch.fab.twins j (f t) } }
  | none => ch
def restOf (ch : Chip) (j : Nat) : Option TwinRest := (ch.fab.rests.find? fun p => p.1 == j).map Prod.snd
def setRest (ch : Chip) (j : Nat) (x : TwinRest) : Chip :=
  { ch with fab := { ch.fab with rests := tput ch.fab.rests j x } }

/-! ### The shard stream (R335, R338, R340) -/

def histBytes : Nat := 0x40000
def shardBytes (regions : List (Nat × Nat)) (history : Bool) : Nat :=
  (regions.map Prod.snd).foldl (· + ·) 0 + (if history then histBytes else 0)
def pieceCount (bytes : Nat) : Nat := (bytes + 247) / 248
def slotLen (bytes : Nat) : Nat := 4096 + 248 * pieceCount bytes

/-- The areas of the stream in order: the regions, then the history. -/
def shardAreas (ch : Chip) (j : Nat) (regions : List (Nat × Nat)) (history : Bool) : List (Nat × Nat) :=
  regions ++ (if history then [((jobOf ch j).stat + 0xA2000, histBytes)] else [])

/-- Byte n of a stream: where it lies. -/
def areaAt (areas : List (Nat × Nat)) (n : Nat) : Option Nat :=
  match areas with
  | [] => none
  | (a, len) :: r => if n < len then some (a + n) else areaAt r (n - len)

def streamByte (ch : Chip) (areas : List (Nat × Nat)) (n : Nat) : Byte :=
  match areaAt areas n with | some a => mget ch.mem a | none => 0
def pieceAt (ch : Chip) (areas : List (Nat × Nat)) (f : Nat) : List Byte :=
  (List.range 248).map fun i => streamByte ch areas (248 * f + i)
def piecePoi (ch : Chip) (areas : List (Nat × Nat)) (f : Nat) : Bool :=
  (List.range 248).any fun i => match areaAt areas (248 * f + i) with | some a => anyPoi ch a 1 | none => false

/-! ### TWIN flits (R342) -/

def twinFlit (lane : Bool) (dst : Nat) (src : Nat) (j : BitVec 16) (payload : List Byte) : Flit :=
  { ftype := 5, vclass := 2, lane := lane, poison := false, seq := 0, dst := BitVec.ofNat 6 dst,
    src := BitVec.ofNat 6 src, jfid := j, wpar := 0, payload := payload }

/-- The fields of a control flit. -/
def ctlOf (f : Flit) : TwinCtl :=
  let at_ (b n : Nat) : Nat := leNat ((f.payload.drop (b - 8)).take n)
  { stream := at_ 9 1, streams := at_ 10 1, result := at_ 11 1, copy := at_ 12 4, pieces := at_ 16 8
    shardBytes := at_ 24 8, step := at_ 32 8, history := (at_ 40 1).testBit 0
    lengths := (List.range 16).map fun i => at_ (64 + 8 * i) 8, src := f.src, jfid := f.jfid }
/-- Its kind. -/
def ctlKind (f : Flit) : Nat := (f.payload.headD 0).toNat

/-- A control flit's bytes 8–255: kind 1 OPEN, 2 CLOSE, 3 COMMIT, 4 ABORT, 5 PULL. -/
def ctlBytes (kind : Nat) (m : TwinCtl) : List Byte :=
  let b := leBytes kind 1 ++ leBytes m.stream 1 ++ leBytes m.streams 1 ++ leBytes m.result 1 ++ leBytes m.copy 4 ++
    leBytes m.pieces 8 ++ leBytes m.shardBytes 8 ++ leBytes m.step 8 ++ leBytes (b2n m.history) 1 ++
    List.replicate 23 0 ++ (List.range 16).flatMap fun i => leBytes (m.lengths.getD i 0) 8
  b ++ List.replicate (248 - b.length) 0

/-- Sends a control flit on a link to its partner. -/
def sendCtl (ch : Chip) (l dst src kind : Nat) (m : TwinCtl) : Chip :=
  sendFlits ch l [⟨twinFlit true dst src m.jfid (ctlBytes kind m), l / 4, 0⟩]

def ctlNone : TwinCtl :=
  { stream := 0, streams := 0, result := 0, copy := 0, pieces := 0, shardBytes := 0, step := 0, history := false,
    lengths := [], src := 0, jfid := 0 }

/-- Streams areas on links: on each an OPEN, its pieces in ascending order, then a CLOSE (R340); a poisoned word ends
the stream with ABORT (R346). -/
def sendStream (ch : Chip) (links : List Nat) (dst : Nat) (m : TwinCtl) (areas : List (Nat × Nat)) : Chip × Bool :=
  let n := pieceCount m.shardBytes
  let L := links.length
  let own := ch.nwl.pos.toNat
  let bad := (List.range n).find? fun f => piecePoi ch areas f
  let stop := bad.getD n
  let c1 := links.zipIdx.foldl (fun c p =>
    let mine := (List.range stop).filter fun f => f % L == p.2
    let opens : TwinCtl := { m with stream := p.2, streams := L, pieces := (n + L - 1 - p.2) / L,
                                    lengths := if p.2 = 0 then m.lengths else [] }
    let c1 := sendCtl c p.1 dst own 1 opens
    let c2 := sendFlits c1 p.1 (mine.map fun f => ⟨twinFlit false dst own m.jfid (pieceAt c1 areas f), p.1 / 4, 0⟩)
    if bad.isSome then c2
    else sendCtl c2 p.1 dst own 2 { m with stream := p.2, streams := L, lengths := [] }) ch
  match bad with
  | some _ => (sendCtl c1 (links.headD 0) dst own 4 { m with result := 3, lengths := [] }, false)
  | none => (c1, true)

/-! ### Twin points and copies (R339, R340) -/

/-- The copy of a job ends: its result, its interrupt, and the job goes on (R339, R343, R353). -/
def endCopy (ch : Chip) (j result : Nat) : Chip :=
  match twinOf ch j with
  | none => ch
  | some t => match t.copy with
    | none => ch
    | some c =>
      let ch1 := updTwin ch j fun t =>
        { t with copy := none, lastResult := result
                 committed := if result = 0 then some (c.number, c.step) else t.committed
                 since := if result = 0 then 0 else t.since }
      let ch2 := if result = 0 then count ch1 (cntPkg (8 * j + 7)) 1 else health ch1
      objDeliver (msix ch2 (j + 1) 5) 8 t.resume (.signal 1)

/-- The gate wait of the next twin point is released: the job goes on at once, or a copy is due (R339). -/
def execTwinGate (j : JobId) (s : State) : Host.Outcome State Fault Refusal :=
  onChip s fun ch =>
    match twinOf ch j.val with
    | none => ch
    | some t =>
      let k := t.points + 1
      if ¬ colRuns ch ∨ ¬ t.enabled ∨ t.copy.isSome ∨ t.rel < k then ch
      else
        let due := decide (k % t.every = 0) || t.now
        let ch1 := updTwin ch j.val fun t =>
          { t with points := k, since := t.since + 1, now := t.now && !due
                   copy := if due then some ⟨t.lastNumber + 1, 0, false, ch.us⟩ else none }
        if due then ch1 else objDeliver ch1 8 t.resume (.signal 1)

/-- The mover streams the shard to the partner once no collective operation of the job runs (R340). With a link that has
failed there is no partner (R346). -/
def twinCopyWork (run : JobRun) (ch : Chip) : Chip :=
  let j := run.job
  match twinOf ch j.val with
  | none => ch
  | some t => match t.copy with
    | none => ch
    | some c =>
      if ¬ colMoves ch ∨ c.sent ∨ jobCollBusy ch j then ch
      else
        let step := hdrStep ch (jobOf ch j.val).stat
        let areas := shardAreas ch j.val t.regions t.history
        let ch1 := updTwin ch j.val fun t =>
          { t with lastNumber := c.number, copy := some ⟨c.number, step, true, ch.us⟩ }
        if t.links.any fun l => !linkUp ch l then endCopy ch1 j.val 2
        else
          let ch2 := areas.foldl (fun c a => landRange c (some j) .stream a.1 a.2 false) ch1
          let m : TwinCtl := { ctlNone with copy := c.number, shardBytes := shardBytes t.regions t.history, step := step
                                            history := t.history, lengths := t.regions.map Prod.snd
                                            jfid := (jobOf ch j.val).jfid }
          let r := sendStream ch2 t.links t.partner m areas
          if r.2 then r.1 else endCopy r.1 j.val 3

def execTwinCopy (run : JobRun) (s : State) : Host.Outcome State Fault Refusal :=
  onChip s (memWork .die run.bursts (twinCopyWork run))

/-- What a link has not yet sent of its stream is taken back. -/
def cutStream (ch : Chip) (l : Nat) : Chip := updLink ch l fun k => { k with wait := k.wait.filter fun x => !inStream x.f }

/-- A copy is given up: what is left of its streams is not sent, the partner is told, and the job goes on (R346). -/
def abortCopy (ch : Chip) (j result : Nat) : Chip :=
  match twinOf ch j with
  | some t => match t.copy with
    | some c =>
      let ch1 := if c.sent then
          sendCtl (t.links.foldl cutStream ch) (t.links.headD 0) t.partner ch.nwl.pos.toNat 4
            { ctlNone with result := result, copy := c.number, jfid := (jobOf ch j).jfid }
        else ch
      endCopy ch1 j result
    | none => ch
  | none => ch

/-- A control flit of a kind is received in sequence (R310, R342): one for another position is discarded, and one whose
words are poisoned is not acted on (log 164). -/
def receiveCtl (ch : Chip) (l kind : Nat) (f : Flit) (k : Chip → TwinCtl → Chip) : Chip :=
  if f.ftype ≠ 5 ∨ ¬ f.lane ∨ ctlKind f ≠ kind then ch
  else receive ch l f fun c =>
    if f.dst ≠ c.nwl.pos then raise c .fabMisroute (portOf l)
    else if colMoves c ∧ ¬ f.poison then k c (ctlOf f) else c

/-! ### The partner (R338, R340, R345) -/

def inKey (x : TwinIn) (src : Nat) (jf : BitVec 16) : Bool := x.src == src && x.jfid == jf
def inOf (ch : Chip) (src : Nat) (jf : BitVec 16) : Option TwinIn := ch.fab.ins.find? fun x => inKey x src jf
def setIn (ch : Chip) (x : TwinIn) : Chip :=
  { ch with fab := { ch.fab with ins := x :: ch.fab.ins.filter fun y => !inKey y x.src x.jfid } }
def dropIn (ch : Chip) (src : Nat) (jf : BitVec 16) : Chip :=
  { ch with fab := { ch.fab with ins := ch.fab.ins.filter fun y => !inKey y src jf } }

def holdOf (ch : Chip) (src : Nat) (jf : BitVec 16) : Option TwinHold :=
  ch.fab.holds.find? fun h => h.src == src && h.jfid == jf
/-- How long a slot is. The second one starts at the next multiple of 256 bytes, so two slots need that much more room (log
168). -/
def slotSize (h : TwinHold) : Nat := if h.single then h.len else h.len / 2
def slotSpan (h : TwinHold) : Nat := (slotSize h + 255) / 256 * 256
def holdSpan (h : TwinHold) : Nat := if h.single then h.len else 2 * slotSpan h
def slotsOf (h : TwinHold) : List Nat := if h.single then [h.da] else [h.da, h.da + slotSpan h]
/-- A slot holds a committed copy of the configuration's source and job-fabric id (R338, R345). -/
def slotValid (ch : Chip) (h : TwinHold) (a : Nat) : Bool :=
  (rdNat ch (a + 4) 1).testBit 0 && rdNat ch (a + 5) 1 == h.src && rdNat ch (a + 6) 2 == h.jfid.toNat
def slotCopy (ch : Chip) (a : Nat) : Nat := rdNat ch a 4
/-- The valid slot with the highest copy number. -/
def bestSlot (ch : Chip) (h : TwinHold) : Option Nat :=
  (slotsOf h).foldl (fun b a => if ¬ slotValid ch h a then b else match b with
    | some x => if slotCopy ch x < slotCopy ch a then some a else b
    | none => some a) none
/-- The slot a copy writes (R338). -/
def slotFor (ch : Chip) (h : TwinHold) : Nat :=
  match (slotsOf h).find? fun a => bestSlot ch h != some a with | some a => a | none => h.da

/-- A restore of this package's job that streams from a position are for. -/
def restFor (ch : Chip) (src : Nat) (jf : BitVec 16) : Option (Nat × TwinRest) :=
  ch.fab.rests.find? fun p => p.2.running && p.2.partner == src && p.2.jfid == jf

/-- A restore ends with a result (R345). -/
def endRest (ch : Chip) (j result : Nat) (f : TwinRest → TwinRest) : Chip :=
  match restOf ch j with
  | some x => setRest ch j { f x with running := false, result := result }
  | none => ch

/-- An OPEN: it begins a stream of a copy into a slot, or of a restore (R338, R340, R346). -/
def openStream (ch : Chip) (l : Nat) (m : TwinCtl) : Chip :=
  let src := m.src.toNat
  let own := ch.nwl.pos.toNat
  let refuse (r : Nat) : Chip := sendCtl ch l src own 4 { ctlNone with result := r, copy := m.copy, jfid := m.jfid }
  let join (x : TwinIn) : TwinIn :=
    { x with links := tput x.links l m.stream, lastUs := ch.us, streams := max 1 m.streams
             lengths := if m.stream = 0 then m.lengths else x.lengths }
  match inOf ch src m.jfid with
  | some x => if x.number = m.copy then setIn ch (join x) else refuse 4
  | none =>
    let start (job : Option JobId) (slot : Nat) : TwinIn :=
      { src := src, jfid := m.jfid, job := job, slot := slot, number := m.copy, step := m.step, bytes := m.shardBytes,
        history := m.history, streams := max 1 m.streams, lengths := if m.stream = 0 then m.lengths else [], links := [(l, m.stream)], got := [],
        closed := [], lastUs := ch.us }
    match restFor ch src m.jfid with
    | some (j, _) => if h : j < 16 then setIn ch (start (some ⟨j, h⟩) 0) else ch
    | none => match holdOf ch src m.jfid with
      | none => refuse 2
      | some h =>
        if slotSize h < slotLen m.shardBytes then refuse 5
        else
          let a := slotFor ch h
          setIn (wrLand ch none .stream (a + 4) [(mget ch.mem (a + 4)) &&& 0xFE] false) (start none a)

def openTwinWork (l : LinkId) (f : Flit) (ch : Chip) : Chip :=
  receiveCtl ch l.val 1 f fun c m => openStream c l.val m

def execOpenTwin (l : LinkId) (f : Flit) (s : State) : Host.Outcome State Fault Refusal :=
  onChip s (memWork .die [] (openTwinWork l f))

/-- Where byte n of an arriving stream goes. -/
def inAreas (ch : Chip) (x : TwinIn) : List (Nat × Nat) :=
  match x.job with
  | none => [(x.slot + 4096, 248 * pieceCount x.bytes)]
  | some j => match restOf ch j.val with
    | some r => shardAreas ch j.val r.regions x.history
    | none => []

/-- The address ranges of bytes n to n + len − 1 of a stream. -/
def areaRuns (areas : List (Nat × Nat)) (n len : Nat) : List (Nat × Nat) :=
  match areas with
  | [] => []
  | (a, k) :: r =>
    let here := min len (k - n)
    (if here = 0 then [] else [(a + n, here)]) ++ areaRuns r (n - k) (len - here)

/-- Writes a piece through the home slices; every word of a poisoned flit is poisoned (R309, R340). -/
def putPiece (ch : Chip) (x : TwinIn) (f : Nat) (bs : List Byte) (poison : Bool) : Chip :=
  ((areaRuns (inAreas ch x) (248 * f) bs.length).foldl (fun (p : Chip × List Byte) r =>
    (wrLand p.1 x.job .stream r.1 (p.2.take r.2) poison, p.2.drop r.2)) (ch, bs)).1

/-- A shard piece arrives on a link with an open stream (R340, R342). -/
def twinDataWork (run : LinkRun) (f : Flit) (ch : Chip) : Chip :=
  let l := run.link
  if f.ftype ≠ 5 ∨ f.lane then ch else
  receive ch l.val f fun c =>
    if f.dst ≠ c.nwl.pos then raise c .fabMisroute (portOf l.val)
    else if ¬ colMoves c then c
    else match inOf c f.src.toNat f.jfid with
      | none => c
      | some x => match x.links.find? fun p => p.1 == l.val with
        | none => c
        | some (_, st) =>
          let n := tget x.got 0 st
          let piece := n * x.streams + st
          let c1 := putPiece c x piece f.payload f.poison
          setIn c1 { x with got := tput x.got st (n + 1), lastUs := c.us }

def execTwinData (run : LinkRun) (f : Flit) (s : State) : Host.Outcome State Fault Refusal :=
  onChip s (memWork .die run.bursts (twinDataWork run f))

/-- The header of a committed slot, `valid` written last (R338). -/
def slotHeader (x : TwinIn) : List Byte :=
  leBytes x.number 4 ++ leBytes (1 + 2 * b2n x.history) 1 ++ leBytes x.src 1 ++ leBytes x.jfid.toNat 2 ++
    leBytes x.step 8 ++ leBytes x.bytes 8 ++ (List.range 16).flatMap (fun i => leBytes (x.lengths.getD i 0) 8) ++
    List.replicate 3944 0

/-- Every stream closed and every piece written. -/
def inComplete (x : TwinIn) : Bool :=
  decide (x.closed.length = x.streams) &&
    decide ((x.got.map Prod.snd).foldl (· + ·) 0 = pieceCount x.bytes)

/-- A restored shard: the step, and with it the history, go into the statistics region (R345). -/
def finishRest (ch : Chip) (x : TwinIn) (j : JobId) : Chip :=
  let da := (jobOf ch j.val).stat
  let ch1 := rgPut ch da 0 8 x.step
  let ch2 := rgPut ch1 da 9 1 (if x.history then 0 else 1)
  endRest ch2 j.val 0 fun r => { r with number := x.number, step := x.step, history := x.history }

/-- A CLOSE ends a stream; the last one commits (R340). -/
def closeTwinWork (run : LinkRun) (f : Flit) (ch : Chip) : Chip :=
  receiveCtl ch run.link.val 2 f fun ch m =>
  let l := run.link
  match inOf ch m.src.toNat m.jfid with
  | none => ch
  | some x =>
    if x.number ≠ m.copy then ch
    else
      let y := { x with closed := sadd x.closed m.stream, lastUs := ch.us }
      if ¬ inComplete y then setIn ch y
      else
        let ch1 := dropIn ch y.src y.jfid
        match y.job with
        | some j => finishRest ch1 y j
        | none =>
          let ch2 := wrLand ch1 none .stream y.slot (slotHeader y) false
          sendCtl ch2 l.val y.src ch.nwl.pos.toNat 3 { ctlNone with copy := y.number, step := y.step, jfid := y.jfid }

def execCloseTwin (run : LinkRun) (f : Flit) (s : State) : Host.Outcome State Fault Refusal :=
  onChip s (memWork .die run.bursts (closeTwinWork run f))

/-- The job whose copy a control flit of the partner is about. -/
def copyFor (ch : Chip) (m : TwinCtl) : Option Nat :=
  (ch.fab.twins.find? fun p => p.2.partner == m.src.toNat && (jobOf ch p.1).jfid == m.jfid &&
    (match p.2.copy with | some c => c.number == m.copy && c.sent | none => false)).map Prod.fst

def execCommitTwin (l : LinkId) (f : Flit) (s : State) : Host.Outcome State Fault Refusal :=
  onChip s fun ch => receiveCtl ch l.val 3 f fun ch m =>
    match copyFor ch m with | some j => endCopy ch j 0 | none => ch

/-- An ABORT fails the copy, the restore or the incoming copy that it numbers; a partial slot is discarded (R346). -/
def execAbortTwin (l : LinkId) (f : Flit) (s : State) : Host.Outcome State Fault Refusal :=
  onChip s fun ch => receiveCtl ch l.val 4 f fun ch m =>
    match copyFor ch m with
    | some j => endCopy ch j m.result
    | none =>
      let other : Bool := match inOf ch m.src.toNat m.jfid with | some x => x.number != m.copy | none => false
      if other then ch
      else match restFor ch m.src.toNat m.jfid with
      | some (j, _) => endRest (dropIn ch m.src.toNat m.jfid) j m.result id
      | none => dropIn ch m.src.toNat m.jfid

/-- The links of this package to a position that carry a job-fabric id, the given one first (R315, R337; log 23). -/
def linksTo (ch : Chip) (first pos : Nat) (jf : BitVec 16) : List Nat :=
  first :: (List.range 32).filter fun l => l != first && linkUp ch l && carries ch l jf &&
    (match (linkOf ch l).partner with | some h => h.pos.toNat == pos | none => false)

/-- The region lengths of a slot. -/
def slotLengths (ch : Chip) (a : Nat) : List Nat := (List.range 16).map fun i => rdNat ch (a + 24 + 8 * i) 8

/-- A PULL: the matching valid slot is streamed back (R345, R346). -/
def pullTwinWork (run : LinkRun) (f : Flit) (ch : Chip) : Chip :=
  receiveCtl ch run.link.val 5 f fun ch m =>
  let l := run.link
  let back := match (linkOf ch l.val).partner with | some h => h.pos.toNat | none => 0
  let refuse (r : Nat) : Chip := sendCtl ch l.val back ch.nwl.pos.toNat 4 { ctlNone with result := r, jfid := m.jfid }
  match (holdOf ch m.src.toNat m.jfid).bind fun h => bestSlot ch h with
  | none => refuse 7
  | some a =>
    let ls := slotLengths ch a
    if (List.range 16).any fun i => ls.getD i 0 != m.lengths.getD i 0 then refuse 6
    else
      let bytes := rdNat ch (a + 16) 8
      let c : TwinCtl := { ctlNone with copy := slotCopy ch a, shardBytes := bytes, step := rdNat ch (a + 8) 8
                                        history := (rdNat ch (a + 4) 1).testBit 1, lengths := ls, jfid := m.jfid }
      let ch1 := landRange ch none .stream (a + 4096) bytes false
      (sendStream ch1 ((linksTo ch l.val back m.jfid).take (max 1 m.streams)) back c [(a + 4096, bytes)]).1

def execPullTwin (run : LinkRun) (f : Flit) (s : State) : Host.Outcome State Fault Refusal :=
  onChip s (memWork .die run.bursts (pullTwinWork run f))

/-- An OPEN that the partner's link has not acknowledged after 10 ms (R346; log 24). -/
def execTwinOpenTimeout (j : JobId) (s : State) : Host.Outcome State Fault Refusal :=
  onChip s fun ch =>
    match twinOf ch j.val with
    | none => ch
    | some t => match t.copy with
      | none => ch
      | some c =>
        let opens (x : TxFlit) : Bool :=
          x.f.ftype == 5 && x.f.lane && x.f.jfid == (jobOf ch j.val).jfid && x.f.payload.headD 0 == 1
        let open_ := t.links.any fun l => ((linkOf ch l).sent ++ (linkOf ch l).wait).any opens
        if c.sent ∧ c.at_ + 10000 ≤ ch.us ∧ open_ then endCopy ch j.val 2 else ch

/-- No flit of an open copy for 100 ms: the partial slot is discarded, and the source hears of it (R346). -/
def execTwinStreamTimeout (src : BitVec 6) (jfid : BitVec 16) (s : State) : Host.Outcome State Fault Refusal :=
  onChip s fun ch =>
    match inOf ch src.toNat jfid with
    | none => ch
    | some x =>
      if ch.us < x.lastUs + 100000 then ch
      else
        let ch1 := dropIn ch src.toNat jfid
        match x.job with
        | some j => endRest ch1 j.val 8 id
        | none =>
          let l := (x.links.map Prod.fst).headD 0
          if linkUp ch l then
            sendCtl ch1 l src.toNat ch.nwl.pos.toNat 4 { ctlNone with result := 8, copy := x.number, jfid := jfid }
          else ch1

/-! ### A link leaves service, a job stops (R313, R329, R346, R402) -/

/-- A link goes DOWN, with its operations and copies. -/
def linkDown (ch : Chip) (l : Nat) : Chip :=
  let ch1 := abortLinkOps (linkLost ch l) l
  let ch2 := (ch1.fab.twins.filter fun p => p.2.copy.isSome && p.2.links.contains l).foldl
    (fun c p => endCopy c p.1 1) ch1
  let ch3 := (ch2.fab.rests.filter fun p => p.2.running && p.2.links.contains l).foldl
    (fun c p => endRest (dropIn c p.2.partner p.2.jfid) p.1 1 id) ch2
  { ch3 with fab := { ch3.fab with ins := ch3.fab.ins.filter fun x => !(thas x.links l) } }

/-- A link is taken out of service: an UP one as R313 says. -/
def takeDown (ch : Chip) (l : Nat) : Chip :=
  if (linkOf ch l).st = 3 then linkDown ch l else updLink ch l fun k => { k with st := 0, partner := none }

/-- A link that failed after replay goes DOWN, which the fault source sees (R313, R430, R462; log 101). -/
def linkFails (ch : Chip) (l : Nat) : Chip := faultMark (linkDown ch l) 0xFFFF

/-- A flit resent 8 times without acknowledgement (R313). -/
def execReplayExhausted (l : LinkId) (s : State) : Host.Outcome State Fault Refusal :=
  onChip s fun ch => if linkUp ch l.val ∧ (linkOf ch l.val).sent.any (fun x => decide (8 ≤ x.tries)) then linkFails ch l.val else ch

/-- No acknowledgement for 1 ms while flits are outstanding (R313). -/
def execLinkDown (l : LinkId) (s : State) : Host.Outcome State Fault Refusal :=
  onChip s fun ch =>
    let k := linkOf ch l.val
    if linkUp ch l.val ∧ k.sent ≠ [] ∧ k.ackAt + 1000 ≤ ch.us then linkFails ch l.val else ch

/-- A job is halted: its cores at their next boundary, its collective operations and its twin copy ABORTED (R402). -/
def haltJob (ch : Chip) (j : JobId) : Chip := abortCopy (abortJobOps (haltJobCores ch j) j) j.val 4

/-- A tower is fenced: what HALT_JOB ends, ends for its jobs too (R28, R346). -/
def fenceTowerJobs (ch : Chip) (t : Nat) : Chip :=
  if (towerOf ch t).fenced then ch
  else
    let hit := (List.finRange 16).filter fun j => (clustersOf ch j).any fun c => c / 16 == t
    hit.foldl haltJob (fenceTower ch t)

end Sys2Proof.Machine
end

