-- ==== Sys2Proof/Machine/Newel.lean ====
section
/-! DEFINITION. The Newel interface (13_sync_newel.md R295 to R303, R305). -/

namespace Sys2Proof.Machine

/-! ### Bindings (R299) -/

def objOfNat (n : Nat) : ObjId := ⟨n % 65536, Nat.mod_lt _ (by decide)⟩

def barBit (b : Nat) : BitVec 4 := BitVec.ofNat 4 (2 ^ b)
def updNwl (ch : Chip) (f : Newel → Newel) : Chip := { ch with nwl := f ch.nwl }
/-- The device releases line `b`, or drives it low, and then samples it low (R300, R305). With the clock lost every
output holds (R298). -/
def barOut (ch : Chip) (b : Nat) (release : Bool) : Chip :=
  if ch.nwl.clkLost ∨ ¬ islandRuns ch 23 then ch else updNwl ch fun n =>
    if release then { n with barOut := n.barOut ||| barBit b }
    else { n with barOut := n.barOut &&& ~~~(barBit b), barIn := n.barIn &&& ~~~(barBit b) }

/-- A binding that may become valid: a target, and both objects of one job (R299). -/
def bindOk (ch : Chip) (b done : Nat) : Bool :=
  let ja := owner ch (objCluster (objOfNat (bindArrive ch b)))
  decide (1 ≤ bindTarget ch b) && ja.isSome && ja == owner ch (objCluster (objOfNat done))

/-- The line's completion has yet to be sent or applied (R300). -/
def subOwed (ch : Chip) (b : Nat) : Bool :=
  ch.nwl.toSend.any (fun d => d.line == b) ||
    ch.ports.any fun p => match p.op with | .completion l _ => l == b | _ => false

/-- What the interface knows of line `b` ends with its binding: counts reported and on their way; the hold of a
completion stays until its subtraction is applied (R299, R300). -/
def dropLine (ch : Chip) (b : Nat) : Chip :=
  let owed := subOwed ch b
  updNwl ch fun n =>
    { n with rep := tdel n.rep b, flight := n.flight.filter fun r => r.line != b
             holdSub := if owed then n.holdSub else sdel n.holdSub b }

/-- A write of NWL_BINDb_A or _B (R299). While `valid` is 1, only `valid` can change. -/
def bindWrite (ch : Chip) (b : Nat) (second : Bool) (v : Word) : Chip :=
  if bound ch b then
    let ch1 := raise ch .nwlCfgIgnored 0
    if second ∧ ¬ v.getLsbD 31 then barOut (dropLine (regPut ch1 .nwlBindB 0 31 31 0 b) b) b (enabled ch1 .nwl 0)
    else ch1
  else if ¬ second then regSet ch .nwlBindA 0 v b
  else
    let ch1 := regSet ch .nwlBindB 0 (v &&& 0xFFFF) b
    if ¬ v.getLsbD 31 then ch1
    else if bindOk ch1 b (fld v 15 0) then
      reportCount (barOut (dropLine (regSet ch1 .nwlBindB 0 (v &&& 0x8000FFFF) b) b) b false)
        (objOfNat (bindArrive ch1 b)) none
    else raise ch1 .nwlBindReject 0

/-- Firmware takes a cluster away: bindings of its objects end (R299). -/
def unbindCluster (ch : Chip) (cl : Nat) : Chip :=
  (List.range 4).foldl (fun c b =>
    if bound c b ∧ (bindArrive c b / 512 = cl ∨ bindDone c b / 512 = cl) then
      barOut (dropLine (regPut c .nwlBindB 0 31 31 0 b) b) b (enabled c .nwl 0)
    else c) ch

/-! ### Barriers (R300, R302) -/

/-- The line is released: it has no binding, or the count reported reaches the target and no subtraction is owed
(R300). -/
def lineFree (ch : Chip) (b : Nat) : Bool :=
  !bound ch b || (!ch.nwl.holdSub.contains b &&
    match ch.nwl.rep.find? fun p => p.1 == b with | some p => decide (bindTarget ch b ≤ p.2.toNat) | none => false)

/-- The oldest report of a line's `arrive` object takes effect at the interface, and may release the line (R300,
R302). -/
def execNewelStateReport (b : LineId) (s : State) : Host.Outcome State Fault Refusal :=
  onChip s fun ch =>
    if ch.nwl.clkLost ∨ ¬ islandRuns ch 23 then ch
    else
      let ch1 := match ch.nwl.flight.find? fun r => r.line == b.val with
        | none => ch
        | some r => updNwl ch fun x =>
          { x with rep := tput x.rep b.val r.count, flight := x.flight.erase r
                   holdSub := if r.sub then sdel x.holdSub b.val else x.holdSub }
      if nwlRuns ch1 ∧ lineFree ch1 b.val then barOut ch1 b.val true else ch1

/-- An edge samples the line high: a completion is recorded, and the line goes low (R300). -/
def execBarrierCompletion (b : LineId) (s : State) : Host.Outcome State Fault Refusal :=
  onChip s fun ch =>
    let ch0 := updNwl ch fun x => { x with barIn := x.barIn ||| barBit b.val }
    if ¬ nwlRuns ch then ch
    else if ¬ ch.nwl.barOut.getLsbD b.val then ch
    else if ¬ bound ch b.val then ch0
    else
      updNwl (barOut (raise ch0 .nwlCompletion 0) b.val false) fun x =>
        { x with toSend := x.toSend ++ [⟨b.val, bindArrive ch b.val, bindTarget ch b.val, bindDone ch b.val⟩]
                 holdSub := sadd x.holdSub b.val }

/-- A recorded completion reaches the home arbiters: `target` off `arrive`, and SIGNAL(+1) to `done` (R300), unless the
clock is lost (R298). -/
def execCompletion (b : LineId) (s : State) : Host.Outcome State Fault Refusal :=
  onChip s fun ch =>
    if ch.nwl.clkLost ∨ ¬ islandRuns ch 23 then ch
    else match ch.nwl.toSend.find? fun d => d.line == b.val with
    | none => ch
    | some d =>
      let ch1 := updNwl ch fun x => { x with toSend := x.toSend.erase d }
      let ch2 := objDeliver ch1 10 (objOfNat d.arrive) (.completion b.val (BitVec.ofNat 32 d.target))
      objDeliver ch2 10 (objOfNat d.done) (.signal 1)

/-! ### Waits (R288) -/

/-- The wait of a core reaches its home arbiter and is evaluated, unless the block holds its operations (R304). -/
def execWaitRegister (c : CoreId) (s : State) : Host.Outcome State Fault Refusal :=
  onChip s fun ch =>
    match (coreOf ch c.val).syw with
    | some w => match w.obj with
      | some o =>
        if enabled ch .syn (objTower o) then waitRegister ch c.val o else ch
      | none => ch
    | none => ch

/-! ### The other shared lines (R298, R303) -/

/-- A falling NWL_TRIG is one snapshot trigger, and an urgent trigger of every converter (R473); it ends this device's
own pull. The line reads low until the next tick (log 31). -/
def execNwlTrigFall (s : State) : Host.Outcome State Fault Refusal :=
  onChip s fun ch =>
    if ¬ nwlRuns ch then ch
    else
      let ch0 := raise (updNwl ch fun x => { x with trigIn := false, trigPull := false }) .nwlTrigSeen 0
      let ch1 := (List.range 9).foldl (fun c k => snUrgent c k 8) ch0
      match ch1.obs.arm with
      | some m => if m.system ∨ bit m.sources 0 then { ch1 with obs := { ch1.obs with trigs := ch1.obs.trigs ++ [(1, 0)] } }
        else ch1
      | none => ch1

/-- The jobs that hold a bound object. -/
def boundJobs (ch : Chip) : List JobId :=
  (List.finRange 16).filter fun j => (List.range 4).any fun b =>
    bound ch b && (owner ch (bindArrive ch b / 512) == some j || owner ch (bindDone ch b / 512) == some j)

/-- A fence request is acted on as `fence_act` says (R303); the line must be sampled high before another (log 31). -/
def execFenceRequest (s : State) : Host.Outcome State Fault Refusal :=
  onChip s fun ch =>
    if ¬ nwlRuns ch ∨ ¬ ch.nwl.fenceArmed then ch
    else
      let ch1 := raise (updNwl ch fun x => { x with fenceArmed := false, fenceIn := false }) .nwlFenceSeen 0
      match regFld ch .nwlCfg 0 1 0 with
      | 0 => ch1
      | 1 => (boundJobs ch).foldl haltJob ch1
      | _ => ((List.finRange 16).filter fun j => jobExists ch j.val).foldl haltJob ch1

/-- The detector of an island fires (R366, R380). -/
def loseIsland (ch : Chip) (i : Nat) : Chip :=
  regSet { ch with islRun := ch.islRun &&& ~~~(BitVec.ofNat 25 (2 ^ i)) } .pwrIslLost 0
    (regGet ch .pwrIslLost 0 ||| BitVec.ofNat 32 (2 ^ i))

/-- NWL_CLK is lost: outputs hold, and nothing moves until it returns (R298). -/
def loseNwlClk (ch : Chip) : Chip :=
  if ch.nwl.clkLost then ch
  else raise (updNwl (loseIsland ch 23) fun x => { x with clkLost := true }) .nwlClkLost 0
def execNwlClkLost (s : State) : Host.Outcome State Fault Refusal := onChip s loseNwlClk

/-- Every line that is to be released is (R300). -/
def lines (ch : Chip) : Chip :=
  (List.range 4).foldl (fun c b => if nwlRuns c ∧ lineFree c b then barOut c b true else c) ch

/-- NWL_CLK returns: the interface resumes, once READY has started it (R298, log 26). -/
def execNwlClkReturn (s : State) : Host.Outcome State Fault Refusal :=
  onChip s fun ch =>
    let ch1 := updNwl ch fun x => { x with clkLost := false }
    if ch.nwl.clkLost ∧ ch.phase = 4 then lines { ch1 with islRun := ch1.islRun ||| BitVec.ofNat 25 (2 ^ 23) } else ch1

/-- Writing `fence_hold` drives NWL_FENCE low, or lets it go, while the block is ENABLED (R303, R305); the next tick
samples it high (log 31). -/
def fenceHold (ch : Chip) (hold : Bool) : Chip :=
  let ch1 := regPut ch .nwlCtrl 0 1 1 (b2n hold)
  if nwlRuns ch then updNwl ch1 fun x => { x with fenceIn := x.fenceIn && !hold } else ch1

/-- The block becomes ENABLED: unbound lines are released, and bound ones whose reported count reaches the target, and a
low NWL_FENCE may form a request (R300, R303). -/
def nwlEnable (ch : Chip) : Chip :=
  let hold := (regGet ch .nwlCtrl 0).getLsbD 1
  lines (updNwl ch fun x => { x with fenceArmed := true, fenceIn := !hold, trigIn := true })

/-- At a tick this device's pull of NWL_TRIG has ended, the other devices have let NWL_TRIG and NWL_FENCE go, and the
barrier lines are sampled low again (R303; log 31). -/
def tickNewel (ch : Chip) : Chip :=
  if ¬ nwlRuns ch then ch
  else
    let hold := (regGet ch .nwlCtrl 0).getLsbD 1
    updNwl ch fun x =>
      { x with trigIn := true, trigPull := false, barIn := 0, fenceIn := !hold, fenceArmed := x.fenceArmed || !hold }

/-- STOPPING ends: completions recorded are sent, then every line is driven low (R305). -/
def nwlStopped (ch : Chip) : Bool := ch.nwl.toSend == []
def nwlDisable (ch : Chip) : Chip :=
  updNwl ch fun x => { x with barOut := 0, barIn := 0, trigPull := false, fenceArmed := false }

end Sys2Proof.Machine
end

