-- ==== Sys2Proof/Machine/SysOps.lean ====
section
/-! DEFINITION. The SYS instructions, their sends, and FENCE (10_oanoine_control.md R226, R227). -/

namespace Sys2Proof.Machine

def execSysSignal (c : CoreId) (s : State) : Host.Outcome State Fault Refusal :=
  onChip s fun ch => issue ch c.val .sysSignal fun ch1 k w => sysIssue ch1 c.val k w 0 fun x => remoteSend x c.val
def execSysReset (c : CoreId) (s : State) : Host.Outcome State Fault Refusal :=
  onChip s fun ch => issue ch c.val .sysReset fun ch1 k w => sysIssue ch1 c.val k w 1 fun x => remoteSend x c.val
def execSysArrive (c : CoreId) (s : State) : Host.Outcome State Fault Refusal :=
  onChip s fun ch => issue ch c.val .sysArrive fun ch1 k w => sysIssue ch1 c.val k w 2 fun x => remoteSend x c.val

/-- An instruction named by a deferred operation or a fence has completed: no queue holds it (R226, R232). -/
def seqsDone (k : Core) (seqs : List Nat) : Bool :=
  seqs.all fun q => !(k.q.any fun i => i.seq == q && i.phase != .done)

/-- The first deferred operation that may be sent: its queues are done, and it overtakes none (R226, R293). -/
def nextSend (k : Core) (earlier : List Deferred) (l : List Deferred) : Option (Deferred × List Deferred) :=
  match l with
  | [] => none
  | d :: r =>
    if seqsDone k d.seqs && !(earlier.any fun e => sendsAfter e d) then some (d, earlier ++ r) else nextSend k (earlier ++ [d]) r

/-- A deferred SYS operation is sent (R226). -/
def execSysAfterSend (c : CoreId) (s : State) : Host.Outcome State Fault Refusal :=
  onChip s fun ch =>
    match nextSend (coreOf ch c.val) [] (coreOf ch c.val).defer with
    | none => ch
    | some (d, rest) =>
      sysSend (updCore ch c.val fun k => { k with defer := rest }) c.val d fun x => remoteSend x c.val

/-- FENCE holds the sequencer until the masked queues have completed (R227). -/
def execFence (c : CoreId) (s : State) : Host.Outcome State Fault Refusal :=
  onChip s fun ch => issue ch c.val .fence fun ch1 k w =>
    let mask := wb w 51 47
    updCore ch1 c.val fun k' => { advance k' with fence := some ⟨pendingSeqs k mask, mask, wb w 46 46 == 1⟩ }

/-- Issue resumes after the last condition of a FENCE; a fence of the DMA queue makes rewritten instruction memory
certain (R211, R227). -/
def execFenceResume (c : CoreId) (s : State) : Host.Outcome State Fault Refusal :=
  onChip s fun ch =>
    let k := coreOf ch c.val
    match k.fence with
    | none => ch
    | some f =>
      if seqsDone k f.seqs && coreAlive ch c.val then
        updCore ch c.val fun k => { k with fence := none, stale := if bit f.mask 3 then [] else k.stale }
      else ch

end Sys2Proof.Machine
end

