-- ==== Sys2Proof/Machine/RegView.lean ====
section
/-! DEFINITION. What each register reads as: the stored fields, and the status fields that follow from the state of
the block (the register tables of every chapter; 17_registers_islands.md R375). -/

namespace Sys2Proof.Machine

/-- A word from fields, each given with its lowest bit. -/
def pack (l : List (Nat × Nat)) : Word := BitVec.ofNat 32 (l.foldl (fun n p => n + p.2 * 2 ^ p.1) 0)

/-! ### Cores (R239, R127, R146, R189, R208, R262) -/

def runCode (ch : Chip) (g : Nat) : Nat :=
  if (tcoreOf ch g).under.isSome then 5
  else match (coreOf ch g).run with | .idle => 0 | .running => 1 | .waiting => 2 | .halted => 3 | .faulted => 4

/-- Instructions that a queue holds, and those it has started. -/
def queued (ch : Chip) (g : Nat) (q : Queue) : List QInstr :=
  (coreOf ch g).q.filter fun i => i.q == q && i.phase != .done
def startedOf (ch : Chip) (g : Nat) (q : Queue) : List QInstr :=
  (coreOf ch g).q.filter fun i => i.q == q && i.phase == .started

/-- Tile `t` in the layout of ENG_ACC_TILE. -/
def accTileView (ch : Chip) (g t : Nat) : Word :=
  let x := tileOf ch g t
  let pend := (coreOf ch g).q.filter fun i => unfinished ch g i && (instrTiles ch g i).contains t
  pack [(0, x.st), (2, b2n x.grad), (4, x.tag), (6, b2n x.poison), (8, min 15 pend.length), (12, x.lastq)]

def accStatusView (ch : Chip) (g : Nat) : Word :=
  let ts := (accOf ch g).tiles.map Prod.snd
  pack [(0, (ts.filter fun x => x.st != 0).length), (9, (ts.filter fun x => x.st != 0 && x.tag != 0).length),
        (18, (ts.filter fun x => x.poison).length)]

/-- A bit of SYN_OP of tower t reads 1 while its operation is held at port 8 (R304). -/
def synOpHeld (ch : Chip) (t : Nat) (reset : Bool) : Bool :=
  ch.ports.any fun p => p.bus && objTower p.obj == t && (p.op == .reset) == reset

/-- A started DMA has an end in the outbound window (R354). -/
def dmaOutbound (ch : Chip) (g : Nat) : Bool :=
  (startedOf ch g .dma).any fun i => outWindow (dmaSrc i) || outWindow (dmaDst g i)

/-- A started DMA has grains of the fine path to move (R262, R273). -/
def dmaFineNow (ch : Chip) (g : Nat) : Bool :=
  (startedOf ch g .dma).any fun i => match decodeWord i.word with | some op => dmaFine g op i | none => false

/-- A started operation evaluates special functions: SFU, or a drain whose epilogue does (R201, R208). -/
def sfuBusy (ch : Chip) (g : Nat) : Bool :=
  (startedOf ch g .vector).any fun i => match decodeWord i.word with
    | some .sfu => true
    | some .drn => sfuEvals (drnFwd i.fP) (drnAux i.fP) (drnDfn i.fP) != 0
    | _ => false

/-- Watcher entries are being flushed: a WFLUSH has started, or a STOPPING block still holds counts (R189). -/
def wchFlushing (ch : Chip) (g : Nat) : Bool :=
  ((startedOf ch g .vector).any fun i => decodeWord i.word == some .wflush) ||
    (blkGet ch .wch g == .stopping && (accOf ch g).cache.any entDirty)

/-! ### Arrays (R63, R87, R105) -/

def prgArrView (ch : Chip) (g a : Nat) : Word :=
  let x := arrOf ch g a
  pack [(0, x.role), (2, if x.role = 0 then x.logical else Config.freeNat ch.free 0 % 128), (9, b2n x.loaded), (10, b2n x.degraded),
        (11, b2n (decide (1000000 ≤ wearIdx ch g a))), (12, min 64 x.exc.length), (19, b2n x.fenced),
        (24, x.interval.getD (regFld ch .prgRefreshCfg g 7 0))]

/-- A position is unavailable: unloaded, fenced without a spare, or of a tower whose full trace failed; one whose spare is
being loaded is not (R19, R87, R91). -/
def posGone (ch : Chip) (g l : Nat) : Bool :=
  if posWaits ch g l then !((arrOf ch g (physOf ch g l)).loaded && (towerOf ch (g / 128)).traced) else !posLoaded ch g l

def arcArrView (ch : Chip) (g l : Nat) : Word :=
  let p := physOf ch g l
  let x := statOf ch g p
  pack [(0, x.lastConf), (5, b2n x.suspect), (7, b2n (posGone ch g l)), (16, min 255 x.devMax), (24, p)]

def calArrView (ch : Chip) (g l : Nat) : Word :=
  let p := physOf ch g l
  let x := statOf ch g p
  pack [(0, b2n x.neverRun), (1, b2n x.trimLimit), (8, x.resid), (16, x.residT), (24, (arrOf ch g p).live.slope)]

def calTrimView (ch : Chip) (g l col : Nat) : Word :=
  let t := (arrOf ch g (physOf ch g l)).live
  if col < 520 then
    pack [(0, (offsetCode t col % 64).toNat), (8, gainCode t col)]
  else pack [(0, (rowCode t (col - 520) % 64).toNat)]

/-- The logical position a run calibrates for: that of the array, or of the move that brings the spare in. -/
def runPos (ch : Chip) (g a : Nat) : Nat :=
  match (bankOf ch g).moves.find? fun m => m.new == a with
  | some m => m.logical
  | none => (arrOf ch g a).logical

def calFieldView (ch : Chip) (g : Nat) : Word :=
  let f := fieldOf ch g
  pack [(0, b2n (f.due != [])), (1, b2n f.running), (2, b2n (f.running && (towerOf ch (g / 128)).busy)),
        (3, b2n f.starved), (8, if f.running then runPos ch g f.cur else 0)]

/-- A temperature in 1/16 °C as 16 bits. -/
def temp16 (t : Int) : Nat := (t % 65536).toNat

/-! ### Package units (R283 to R285, R304, R305, R333, R334, R362, R382) -/

/-- Owners of ways 8h to 8h + 7 of slice t. -/
def ownersView (ch : Chip) (t h : Nat) : Word :=
  pack ((List.range 8).map fun i => (4 * i, match owner ch (16 * t + 8 * h + i) with | some j => j.val | none => 0))
def ownersValid (ch : Chip) (t : Nat) : Word :=
  pack ((List.range 16).map fun i => (i, b2n (owner ch (16 * t + i)).isSome))

/-- Waits registered by the cores of a tower and not released. -/
def waitsOf (ch : Chip) (t : Nat) : Nat :=
  (ch.cores.filter fun p => p.1 / 128 == t && (match p.2.syw with | some w => w.reg && !w.seen | none => false)).length

def partnerView (ch : Chip) (l : Nat) : Word :=
  match (linkOf ch l).partner with
  | some h => if (linkOf ch l).st = 3 then
      pack [(0, h.port.toNat), (8, h.pos.toNat), (15, 1), (16, h.jfid.toNat)] else 0
  | none => 0

def eyeView (ch : Chip) (p lane : Nat) : Word :=
  match (ch.fab.eyes.find? fun x => x.1 == p * 8 + lane).map Prod.snd with
  | some (w, h) => pack [(0, min 1023 w), (15, 1), (16, min 65535 h)]
  | none => 0

def routeView (ch : Chip) (d : Nat) : Word :=
  match (ch.fab.routes.find? fun p => p.1 == d).map Prod.snd with
  | some r => pack [(0, r.link), (30, b2n r.dateline), (31, b2n r.valid)]
  | none => 0

def groupView (x : Group) : Word :=
  pack [(0, x.ranks - 1), (6, x.rank), (12, (x.k + b2n (opRunning x)) % 64), (24, x.job.val), (28, b2n (x.heldOwn.isSome || x.heldKids != [])),
        (29, b2n x.heritage), (30, b2n x.tree), (31, 1)]
def groupSel (ch : Chip) : Option Group :=
  (ch.fab.groups.find? fun p => p.1 == regFld ch .colGrpSel 0 5 0).map Prod.snd

/-! ### Campion (R381, R382, R423) -/

def failedCause (ch : Chip) : Nat := regFld ch .pwrBootStat 0 31 24

/-- Firmware accepts commands: phases 1 to 4, and FAILED but for cause 3 (R412, R420), while a pair is left. -/
def fwReady (ch : Chip) : Bool :=
  decide (1 ≤ ch.phase ∧ ch.phase ≤ 5 ∧ (ch.phase = 5 → failedCause ch ≠ 3)) &&
    decide (ch.sys.camp.failed < 2) && islandRuns ch 20

def streamReset : FwStream :=
  { busy := false, rspValid := false, since := 0, phase := true, cmd := none, held := none, bg := [] }
def streamOf (ch : Chip) (k : Nat) : FwStream := tget ch.sys.camp.streams streamReset k

def mbxStatView (ch : Chip) (f : Nat) : Word :=
  let x := streamOf ch (2 * f)
  pack [(0, b2n (fwReady ch)), (1, b2n x.busy), (2, b2n x.rspValid),
        (3, b2n (decide (f ≠ 0) && jobExists ch (f - 1))), (4, blkCode (blkGet ch .mbx f)), (8, ch.phase)]

/-! ### Teasel (R426, R444 to R446) -/

def coresFenced (ch : Chip) : Nat := (ch.tcores.filter fun p => p.2.fenced).length

/-- Every core in service has completed a window since the schedule runs. -/
def allTested (ch : Chip) : Bool :=
  (List.range 1024).all fun g =>
    (tcoreOf ch g).fenced || (towerOf ch (g / 128)).fenced ||
      (match (tcoreOf ch g).lastAt with | some t => decide (ch.tsl.schedAt ≤ t) | none => false)

/-- The conditions of the guarantee hold (R426). -/
def guarantee (ch : Chip) : Bool := scheduleOn ch && decide (ch.sys.camp.failed < 2) && allTested ch

def tslCoreView (ch : Chip) (g : Nat) : Word :=
  let x := tcoreOf ch g
  let age := match x.lastAt with | some t => min 0xFFFF ((ch.us - t) / 1000) | none => 0xFFFF
  pack [(0, x.result), (3, b2n x.fenced), (4, b2n x.forced), (16, age)]

/-! ### Observation (R451, R466) -/

/-- The place of a counter: scope 0 core, 1 cluster, 2 tower, 3 package; none beyond the scope's units or counters. -/
def cntPlace (scope unit index : Nat) : Option Nat :=
  match scope with
  | 0 => if unit < 1024 ∧ index < 96 then some (cntCore unit index) else none
  | 1 => if unit < 128 ∧ index < 16 then some (cntCluster unit index) else none
  | 2 => if unit < 8 ∧ index < 48 then some (cntTower unit index) else none
  | _ => if unit = 0 ∧ index < 192 then some (cntPkg index) else none

/-- The counter that OBS_SEL selects. -/
def cntSel (ch : Chip) : Nat :=
  let w := regGet ch .obsSel 0
  match cntPlace (fld w 31 30) (fld w 29 20) (fld w 7 0) with
  | some k => tget ch.cnts 0 k
  | none => 0

/-! ### Converters, power and telemetry (R481, R495, R497, R498) -/

def convStatusView (ch : Chip) (k : Nat) (st : Nat) : Word :=
  let x := convOf ch k
  pack [(0, st), (3, b2n x.alarm), (4, x.settled.toNat), (8, match x.reg with | some p => p.ent | none => 0),
        (12, b2n (x.src != 0)), (13, b2n x.reg.isSome)]

def bits8 (f : Nat → Bool) : Nat := (List.range 8).foldl (fun n t => n + b2n (f t) * 2 ^ t) 0
def heldTowers (ch : Chip) : Nat := bits8 fun t => (pointOf ch t).held
def cappedTowers (ch : Chip) : Nat := bits8 fun t => (pointOf ch t).capped

def pointView (ch : Chip) (t : Nat) : Word :=
  let p := pointOf ch t
  pack [(0, p.f), (8, regFld ch .pwrTPoint t 13 8), (16, b2n p.held), (17, ch.sys.pwr.gate), (22, p.mv)]

/-- A diode code in 1/16 °C (R468). -/
def diodeTemp (code : Nat) : Int := (code : Int) / 4 - 1024

/-- The hottest diode of a tower among those that have a result; 0 when none has. -/
def hottest (ch : Chip) (t : Nat) : Int :=
  let ts := ((List.range 16).map fun c => regGet ch .snstLast t c).filter fun w => w.getLsbD 31
  match ts.map fun w => diodeTemp (fld w 13 0) with
  | [] => 0
  | x :: r => r.foldl max x

def causeNow (ch : Chip) : Word := regGet ch .pwrResetCause 0

/-- Dword k of the telemetry window from 0x0C (R495). -/
def tlmView (ch : Chip) (k : Nat) : Word :=
  match k with
  | 0 => pack [(0, ch.phase), (8, failedCause ch)]
  | 1 => pack [(0, regFld ch .pwrCap 0 11 0), (16, min 0xFFFF ch.sys.pwr.est)]
  | 2 => pack [(0, heldTowers ch), (8, cappedTowers ch)]
  | 13 => (devIdOf ch).extractLsb' 0 32
  | 14 => (devIdOf ch).extractLsb' 32 32
  | 15 => causeNow ch
  | _ =>
    if k ≤ 6 then pack [(0, temp16 (hottest ch (2 * (k - 3)))), (16, temp16 (hottest ch (2 * (k - 3) + 1)))]
    else if k ≤ 10 then pack ((List.range 4).map fun i => (8 * i, (stackOf ch (4 * (k - 7) + i)).temp % 256))
    else if k ≤ 12 then pack ((List.range 4).map fun i => (8 * i, (pointOf ch (4 * (k - 11) + i)).f))
    else 0

def bootStatView (ch : Chip) : Word :=
  let w := regGet ch .pwrBootStat 0
  pack [(0, ch.phase), (4, fld w 9 4), (10, b2n (decide (ch.phase ≠ 0) && ch.sys.camp.failed == 0)), (11, fld w 31 11)]

/-- The Bindweed queue that PCI_BW_SEL selects: entries read and not started, and in flight (R362). -/
def bwView (ch : Chip) : Word :=
  match (ch.pci.bw.find? fun p => p.1 == regFld ch .pciBwSel 0 3 0).map Prod.snd with
  | some q => pack [(0, (q.ents.filter fun e => e.started).length),
                    (16, min 0xFFFF (q.ents.filter fun e => !e.started).length)]
  | none => 0

/-! ### Every register -/

/-- The state field of a block. -/
def stOf (ch : Chip) (r : Reg) (u : Nat) : Nat := blkCode (blkGet ch (regInfo r).blk u)

/-- A CTRL register: `enable` reads 1 in ENABLED alone (R375). -/
def ctrlView (ch : Chip) (r : Reg) (u : Nat) : Word :=
  (regGet ch r u &&& 0xFFFFFFFE) ||| BitVec.ofNat 32 (b2n (enabled ch (regInfo r).blk u))

/-- What register r of unit u, element k reads as, without side effect (R8). ARC_STATUS.reads_queued counts the two slots of a
transposed column group as one read (DESIGN CHOICE, log 140). -/
def regView (ch : Chip) (r : Reg) (u k : Nat) : Word :=
  let st := stOf ch r u
  match r with
  | .seqCtrl | .engCtrl | .wchCtrl | .vecCtrl | .dmaCtrl | .synCtrl | .arcCtrl | .prgCtrl | .calCtrl | .lndCtrl
  | .galCtrl | .hbmCtrl | .fabCtrl | .snstCtrl | .snsCtrl | .nwlCtrl | .colCtrl | .tslCtrl | .obsCtrl | .pwrCtrl
  | .mbxRingCfg => ctrlView ch r u
  | .pciCtrl => pack [(0, b2n (enabled ch .pci 0)), (1, b2n (blkGet ch .pci 0 true == .enabled))]
  | .seqStatus => pack [(0, st), (8, runCode ch u), (16, (coreOf ch u).pc)]
  | .engStatus =>
    pack [(0, st), (2, b2n (engHolds ch u false)), (3, b2n (engHolds ch u true)), (4, b2n (accOf ch u).banks.isSome),
          (8, 64 - popcount (accOf ch u).fencedEng)]
  | .engFencedLo => (accOf ch u).fencedEng.extractLsb' 0 32
  | .engFencedHi => (accOf ch u).fencedEng.extractLsb' 32 32
  | .engAccTile => accTileView ch u (regFld ch .engAccSel u 7 0)
  | .engAccStatus => accStatusView ch u
  | .wchStatus =>
    let c := (accOf ch u).cache
    pack [(0, st), (2, b2n (wchFlushing ch u)), (3, b2n (accOf ch u).armed), (8, c.length), (16, (c.filter entDirty).length)]
  | .wchRegionLo => match statOfCore ch u with
    | some a => BitVec.ofNat 32 (a / 2 ^ 20 * 2 ^ 20)
    | none => 0
  | .wchRegionHi => match statOfCore ch u with
    | some a => BitVec.ofNat 32 (a / 2 ^ 32)
    | none => 0
  | .vecStatus =>
    pack [(0, st), (2, b2n (startedOf ch u .vector != [])), (3, b2n (sfuBusy ch u)), (16, (queued ch u .vector).length)]
  | .dmaStatus =>
    pack [(0, st), (2, b2n (startedOf ch u .dma != [])), (3, b2n (dmaFineNow ch u)), (4, b2n (dmaOutbound ch u)),
      (16, (queued ch u .dma).length)]
  | .synStatus => pack [(0, st), (16, waitsOf ch u)]
  | .synOp => pack [(0, b2n (synOpHeld ch u false)), (1, b2n (synOpHeld ch u true))]
  | .synCount =>
    let o := objOfNat (8192 * u + regFld ch .synSel u 12 0)
    if objPoisoned ch o then 0xFFFFFFFF else objGet ch o
  | .arcStatus =>
    let b := bankOf ch u
    let held (r : Rd) : Bool := r.doubt.isSome || match b.batch with | some t => t.phys == r.phys && t.atomic | none => false
    pack [(0, st), (2, b2n (b.reads.any fun r => !held r)), (16, min 0xFFFF b.reads.length)]
  | .arcArrStat => arcArrView ch u (regFld ch .arcSel u 6 0)
  | .prgStatus =>
    pack [(0, st), (2, b2n (bankOf ch u).batch.isSome), (3, b2n ((bankOf ch u).moves != [])),
          (8, (freeSpares ch u).length), (16, min 16384 ((bankOf ch u).xq.filter fun q => !q.refresh).length)]
  | .prgArrStat => prgArrView ch u (regFld ch .prgSel u 7 0)
  | .prgWearIdx => BitVec.ofNat 32 (min 0xFFFFFFFF (wearIdx ch u (regFld ch .prgSel u 7 0)))
  | .prgDriftLast => BitVec.ofNat 32 (min 0xFFFF (arrOf ch u (regFld ch .prgSel u 7 0)).driftLast)
  | .prgRemap => pack ((List.range 4).map fun i => (8 * i, physOf ch u (4 * k + i)))
  | .calStatus =>
    let n := (ch.fields.filter fun p => p.1 / 128 == u && p.2.running).length
    pack [(0, st), (2, b2n (towerOf ch u).busy), (3, b2n (towerOf ch u).valid), (16, n)]
  | .calRefTrim => pack [(0, (towerOf ch u).vrd.toNat), (16, (towerOf ch u).vts.toNat)]
  | .calFStatus => calFieldView ch u
  | .calFTemp => pack [(0, temp16 (fieldOf ch u).tLast), (16, temp16 (fieldTemp ch u))]
  | .calFArr => calArrView ch u (regFld ch .calFSel u 6 0)
  | .calFColtrim => calTrimView ch u (regFld ch .calFSel u 6 0) (regFld ch .calFSel u 26 16)
  | .lndStatus =>
    pack [(0, st), (16, ((ch.land.flushing.filter fun cl => cl / 16 == u).map fun cl => 2 ^ (cl % 16)).foldl (· + ·) 0)]
  | .galStatus => pack [(0, st)]
  | .lndOwnerLo => ownersView ch u 0
  | .lndOwnerHi => ownersView ch u 1
  | .lndOwnerValid => ownersValid ch u
  | .hbmStatus =>
    pack [(0, st), (2, b2n (stackOf ch u).hot), (3, b2n (stackOf ch u).repair.isSome), (24, min 255 (stackOf ch u).cands.length)]
  | .hbmTemp => BitVec.ofNat 32 ((stackOf ch u).temp % 256)
  | .hbmPartRate => partRate ch u (regFld ch .hbmPartSel u 3 0)
  | .hbmPartWait => tget (stackOf ch u).waits 0 (regFld ch .hbmPartSel u 3 0)
  | .fabStatus => pack [(0, st), (16, (linkOf ch (2 * u)).st), (20, (linkOf ch (2 * u + 1)).st)]
  | .fabPartner0 => partnerView ch (2 * u)
  | .fabPartner1 => partnerView ch (2 * u + 1)
  | .fabLaneEye => eyeView ch u (regFld ch .fabLaneSel u 2 0)
  | .fabRoute => routeView ch k
  | .tslCStat => tslCoreView ch u
  | .snstStatus => convStatusView ch u st
  | .snsStatus => convStatusView ch 8 st
  | .pwrTPoint => pointView ch u
  | .mbxStat => mbxStatView ch u
  | .pciStatus =>
    pack [(0, st), (2, blkCode (blkGet ch .pci 0 true)), (15, b2n ch.pci.flit), (16, ch.pci.speed), (20, ch.pci.width)]
  | .pciBwStat => bwView ch
  | .nwlStatus =>
    pack [(0, ch.nwl.barIn.toNat), (4, ch.nwl.barOut.toNat), (8, b2n ch.nwl.trigIn), (9, b2n ch.nwl.fenceIn), (12, st),
          (16, ch.nwl.pos.toNat)]
  | .colStatus =>
    pack [(0, st), (8, (ch.fab.groups.filter fun p => opRunning p.2).length), (16, ch.fab.groups.length)]
  | .colGrpStat => match groupSel ch with | some x => groupView x | none => 0
  | .colDeferred => match groupSel ch with | some x => BitVec.ofNat 32 (min 0xFFFFFFFF x.deferred) | none => 0
  | .colDropped => match groupSel ch with | some x => BitVec.ofNat 32 (min 0xFFFFFFFF x.dropped) | none => 0
  | .tslStatus =>
    pack [(0, st), (2, b2n ch.tsl.packLoaded), (3, b2n (guarantee ch)), (21, coresFenced ch)]
  | .tslPackVer => ch.tsl.packVer
  | .obsStatus =>
    pack [(0, st), (4, b2n ((regGet ch .obsFreeze 0).getLsbD 0)), (5, b2n ch.obs.cutBusy), (6, b2n ch.obs.snap.isSome),
          (7, b2n ch.obs.arm.isSome)]
  | .obsDumpSeqLo => BitVec.ofNat 32 ch.obs.doneSeq
  | .obsDumpSeqHi => BitVec.ofNat 32 (ch.obs.doneSeq / 2 ^ 32)
  | .obsCntLo => BitVec.ofNat 32 (cntSel ch)
  | .obsCntHi => ch.obs.cntHi
  | .pwrStatus =>
    pack [(0, st), (10, b2n ch.sys.sec.pufFail), (11, ch.sys.pwr.gate), (16, cappedTowers ch), (24, heldTowers ch)]
  | .pwrEst => BitVec.ofNat 32 (min 0xFFF ch.sys.pwr.est)
  | .pwrIslRun => BitVec.ofNat 32 ch.islRun.toNat
  | .pwrBootStat => bootStatView ch
  | .pwrTlm => tlmView ch k
  | _ => match (regInfo r).peek with
    | some p => regGet ch p u k
    | none => regGet ch r u k

end Sys2Proof.Machine
end

