-- ==== Sys2Proof/Machine/Enable.lean ====
section
/-! DEFINITION. The states of blocks: enabling, disabling and the work of STOPPING (17_registers_islands.md R375, R376),
and the actions that single bits of the registers start. -/

namespace Sys2Proof.Machine

/-! ### Where a block lives, and its flags -/

/-- The island of an instance of a block (R379). -/
def blkIsle (b : Blk) (u : Nat) : Nat :=
  let i := blkInfo b
  match i.island with
  | .core => u / i.count
  | .arr => 8 + u / i.count
  | .fixed n => n

/-- A register access of firmware: through a stopped island it ends with a bus error (R371). -/
def fwReg (ch : Chip) (r : Reg) (u : Nat) (f : Chip → Chip) : Chip :=
  if islandRuns ch (blkIsle (regInfo r).blk u) then f ch else raise ch .pwrBusLostTarget 0

/-- The event of a block's `early_enable` and of its `cfg_ignored`, with the unit it is raised in. -/
def earlyEv (b : Blk) : Option Ev :=
  match b with
  | .seq => some .seqEarlyEnable | .eng => some .engEarlyEnable | .wch => some .wchEarlyEnable
  | .vec => some .vecEarlyEnable | .dma => some .dmaEarlyEnable | .syn => some .synEarlyEnable
  | .arc => some .arcEarlyEnable | .prg => some .prgEarlyEnable | .cal => some .calEarlyEnable
  | .lnd => some .lndEarlyEnable | .gal => some .galEarlyEnable | .hbm => some .hbmEarlyEnable
  | .fab => some .fabEarlyEnable | .snst => some .snstEarlyEnable | .sns => some .snsEarlyEnable
  | .mbx => some .mbxEarlyEnable | .pci => some .pciEarlyEnable | .nwl => some .nwlEarlyEnable
  | .col => some .colEarlyEnable | .tsl => some .tslEarlyEnable | .obs => some .obsEarlyEnable
  | .pwr => some .pwrEarlyEnable
  | .calf | .fabr | .tslc | .obst | .obsp | .pwrt => none

def cfgEv (b : Blk) : Option Ev :=
  match b with
  | .seq => some .seqCfgIgnored | .eng => some .engCfgIgnored | .wch => some .wchCfgIgnored
  | .arc => some .arcCfgIgnored | .prg => some .prgCfgIgnored | .hbm => some .hbmCfgIgnored
  | .fab => some .fabCfgIgnored | .snst => some .snstCfgIgnored | .sns => some .snsCfgIgnored
  | .mbx => some .mbxCfgIgnored | .nwl => some .nwlCfgIgnored
  | .obs | .obst | .obsp => some .obsCfgIgnored
  | .vec | .dma | .syn | .cal | .lnd | .gal | .pci | .col | .tsl | .pwr | .calf | .fabr | .tslc | .pwrt => none

def raiseOpt (ch : Chip) (e : Option Ev) (u : Nat) : Chip := match e with | some e => raise ch e u | none => ch

/-- The CTRL register of a block with an enable. -/
def ctrlReg (b : Blk) : Option Reg :=
  match b with
  | .seq => some .seqCtrl | .eng => some .engCtrl | .wch => some .wchCtrl | .vec => some .vecCtrl
  | .dma => some .dmaCtrl | .syn => some .synCtrl | .arc => some .arcCtrl | .prg => some .prgCtrl
  | .cal => some .calCtrl | .lnd => some .lndCtrl | .gal => some .galCtrl | .hbm => some .hbmCtrl
  | .fab => some .fabCtrl | .snst => some .snstCtrl | .sns => some .snsCtrl | .mbx => some .mbxRingCfg
  | .pci => some .pciCtrl | .nwl => some .nwlCtrl | .col => some .colCtrl | .tsl => some .tslCtrl
  | .obs => some .obsCtrl | .pwr => some .pwrCtrl
  | .calf | .fabr | .tslc | .obst | .obsp | .pwrt => none

/-! ### Actions of single bits (R63, R105, R304) -/

/-- PRG_CTRL.refresh_now (R63): a refresh of the selected array is queued, and the bit stays set until it starts; or the
bit clears at once with `refresh_reject`. A refresh of the array that has begun is the one asked for, and one of an array
that is being moved is not taken (DESIGN CHOICE, log 147): the bit clears at once there too. -/
def refreshNow (ch : Chip) (g : Nat) : Chip :=
  let a := regFld ch .prgSel g 7 0
  let x := arrOf ch g a
  let b := bankOf ch g
  if x.role ≠ 0 ∨ x.fenced ∨ ¬ x.loaded then regPut (raise ch .prgRefreshReject g) .prgCtrl g 1 1 0
  else if b.refresh.any (fun r => r.phys == a) ∨ b.moves.any (fun m => m.old == a) then regPut ch .prgCtrl g 1 1 0
  else regPut (updBank (queueRefresh ch g a) g fun b => { b with nowFor := some a }) .prgCtrl g 1 1 1

/-- CAL_CTRL.trace_now (R105): a re-trace starts, or the bit waits until one may. -/
def traceNow (ch : Chip) (t : Nat) : Chip :=
  if enabled ch .cal t ∧ islandRuns ch (8 + t) then regPut (startTrace ch t) .calCtrl t 2 2 0
  else regPut ch .calCtrl t 2 2 1

/-- CAL_F_REQ.run_array and run_field (R105): the work is queued. -/
def runArray (ch : Chip) (g : Nat) : Chip := queueCal ch g (physOf ch g (regFld ch .calFSel g 6 0))
def runField (ch : Chip) (g : Nat) : Chip := queueField ch g

/-- The object that SYN_SEL of tower t selects (R304). -/
def synObj (ch : Chip) (t : Nat) : ObjId := objOfNat (8192 * t + regFld ch .synSel t 12 0)
def synOpDo (ch : Chip) (t : Nat) (op : ObjOp) : Chip :=
  if enabled ch .syn t then objApply ch 8 (synObj ch t) op
  else if synOpHeld ch t (op == .reset) then ch
  else { ch with ports := ch.ports ++ [⟨8, synObj ch t, op, true, none⟩] }
def synOpReset (ch : Chip) (t : Nat) : Chip := synOpDo ch t .reset
def synOpSignal (ch : Chip) (t : Nat) : Chip := synOpDo ch t (.signal (regGet ch .synArg t))

/-! ### Health monitors' windows (R461) -/

/-- The monitors by number: 32t + m of tower t, 256 + m of the package. Their register and unit. -/
def monReg (m : Nat) (r : Reg) (rp : Reg) : Reg × Nat := if m < 256 then (r, m) else (rp, m - 256)
def monSrc (ch : Chip) (m : Nat) : Word := let p := monReg m .obstHmSrc .obspHmSrc; regGet ch p.1 p.2
def monThr (ch : Chip) (m : Nat) : Word := let p := monReg m .obstHmThr .obspHmThr; regGet ch p.1 p.2
def monWinUs (ch : Chip) (m : Nat) : Nat := let p := monReg m .obstHmWin .obspHmWin; max 1 (regFld ch p.1 p.2 15 0)

/-- The counter that a monitor watches; none beyond the units and counters of its scope (R461, R466). A tower monitor
names its own tower's core or cluster. -/
def monCounter (m : Nat) (w : Word) : Option Nat :=
  let scope := fld w 26 25
  let unit := fld w 24 15
  let ix := fld w 7 0
  if m < 256 then
    let t := m / 32
    match scope with
    | 0 => if unit < 128 then cntPlace 0 (128 * t + unit) ix else none
    | 1 => if unit < 16 then cntPlace 1 (16 * t + unit) ix else none
    | 2 => if unit = 0 then cntPlace 2 t ix else none
    | _ => none
  else cntPlace scope unit ix

/-- The converter and channel that a sensor monitor watches. -/
def monSensor (m : Nat) (w : Word) : Option (Nat × Nat) :=
  let unit := fld w 24 15
  let c := fld w 7 0
  if 32 ≤ c then none
  else if m < 256 then (if unit = 0 then some (m / 32, c) else none)
  else if unit < 9 then some (unit, c) else none

def monOk (m : Nat) (w : Word) : Bool :=
  if w.getLsbD 30 then (monSensor m w).isSome else (monCounter m w).isSome

/-- A monitor's first window starts. -/
def monStart (ch : Chip) (m : Nat) : Chip :=
  let c := match monCounter m (monSrc ch m) with | some k => tget ch.cnts 0 k | none => 0
  { ch with obs := { ch.obs with mons := tput ch.obs.mons m ⟨ch.us, c, none⟩ } }

def monsOn (ch : Chip) : List Nat := (List.range 272).filter fun m => (monSrc ch m).getLsbD 31

/-! ### The command ring (R387) -/

/-- Entries of a ring, its base DA, and whether it lies where R387 allows. -/
def ringSize (ch : Chip) (f : Nat) : Nat := 2 ^ regFld ch .mbxRingCfg f 11 8
def ringBase (ch : Chip) (f : Nat) : Nat :=
  (regGet ch .mbxRingBaseLo f).toNat / 4096 * 4096 + regFld ch .mbxRingBaseHi f 15 0 * 2 ^ 32
def ringOk (ch : Chip) (f : Nat) : Bool :=
  let a := ringBase ch f
  let n := 128 * ringSize ch f
  decide (outBase ≤ a ∧ a + n ≤ 2 * outBase) ||
    (decide (f ≠ 0) && inJobMaps ch (f - 1) (!·) a n)

/-- A ring failure: the ring goes to DISABLED (R387). -/
def ringError (ch : Chip) (f : Nat) : Chip := blkSet (raise ch .mbxRingError f) .mbx f false .disabled

/-! ### Enables (R375) -/

/-- What begins when a block becomes ENABLED; a ring whose base lies in neither place stops at once (R387). -/
def enableStart (ch : Chip) (b : Blk) (u : Nat) : Chip :=
  match b with
  | .syn => objRelease ch u
  | .gal => stopReopens ch
  | .nwl => nwlEnable ch
  | .prg => if (regGet ch .prgCtrl u).getLsbD 1 then refreshNow ch u else ch
  | .cal => if (regGet ch .calCtrl u).getLsbD 2 then traceNow ch u else ch
  | .tsl => { ch with tsl := { ch.tsl with schedAt := ch.us } }
  | .obs => (monsOn ch).foldl monStart { ch with obs := { ch.obs with lastCut := ch.us } }
  | .snst => updConv ch u fun x => { x with settled := 0 }
  | .sns => updConv ch 8 fun x => { x with settled := 0 }
  | .mbx =>
    let ch1 := { ch with sys := { ch.sys with camp := { ch.sys.camp with
      streams := tput ch.sys.camp.streams (2 * u + 1) { streamOf ch (2 * u + 1) with phase := true } } } }
    if ringOk ch1 u then ch1 else ringError ch1 u
  | .seq | .eng | .wch | .vec | .dma | .arc | .lnd | .hbm | .fab | .pci | .col | .pwr | .calf | .fabr | .tslc
  | .obst | .obsp | .pwrt => ch

/-- Writing 1 to an enable. -/
def enableBlk (ch : Chip) (b : Blk) (u : Nat) (second : Bool) : Chip :=
  match blkGet ch b u second with
  | .disabled => enableStart (blkSet ch b u second .enabled) b u
  | .enabled => ch
  | .stopping => raiseOpt ch (earlyEv b) u

/-- Writing 0 to an enable; NWL lets go of NWL_TRIG (R305), and a port has 1 ms (R331). -/
def disableBlk (ch : Chip) (b : Blk) (u : Nat) (second : Bool) : Chip :=
  match blkGet ch b u second with
  | .enabled =>
    let ch1 := blkSet ch b u second .stopping
    match b with
    | .nwl => updNwl ch1 fun x => { x with trigPull := false }
    | .fab => { ch1 with fab := { ch1.fab with stopAt := tput ch1.fab.stopAt u ch.us } }
    | _ => ch1
  | .disabled | .stopping => ch

/-- The work of STOPPING is finished, as the block's chapter says. -/
def stopReady (ch : Chip) (b : Blk) (u : Nat) (second : Bool) : Bool :=
  match b with
  | .seq => (coreOf ch u).q.all fun i => i.phase == .done
  | .eng => queued ch u .engine == []
  | .vec => queued ch u .vector == []
  | .dma => queued ch u .dma == [] && (coreOf ch u).held.isNone
  | .arc => (bankOf ch u).reads == [] && queued ch u .array == []
  | .prg => (bankOf ch u).batch.isNone
  | .fab => decide (tget ch.fab.stopAt 0 u + 1000 ≤ ch.us) ||
    (span (2 * u) 2).all fun l => (linkOf ch l).st != 3 || (linkOf ch l).sent == []
  | .col => !(ch.fab.groups.any fun p => opRunning p.2)
  | .pci => !second || !(ch.pci.bw.any fun p => p.2.ents.any fun e => e.started)
  | .nwl => nwlStopped ch
  | .obs => !ch.obs.cutBusy && ch.obs.snap.isNone
  | .snst => (convOf ch u).now.isNone
  | .sns => (convOf ch 8).now.isNone
  | .mbx => (streamOf ch (2 * u + 1)).cmd.isNone && (streamOf ch (2 * u + 1)).held.isNone
  | .wch | .syn | .cal | .lnd | .gal | .hbm | .tsl | .pwr | .calf | .fabr | .tslc | .obst | .obsp | .pwrt => true

/-- A converter's sequences are abandoned, and its means are no longer valid (R479). -/
def convStop (ch : Chip) (k : Nat) : Chip :=
  let ch1 := snBegun (updConv ch k fun x =>
    { x with now := none, reg := none, src := 0, held := 0, means := [], low := [] }) k
  if k < 8 then (List.range 16).foldl (fun c i => regSet c .snstAvg k (regGet c .snstAvg k i &&& 0x7FFFFFFF) i) ch1
  else ch1

/-- Every dirty line of a slice is written back, and the slice holds nothing more (R282). -/
def landEmpty (ch : Chip) (t : Nat) : Chip :=
  let mine := ch.land.lines.filter fun p => p.1 / 393216 == t
  let dirty := mine.filter fun p => p.2.dirty
  let ch1 := dirty.foldl (fun c p =>
    let cl := 16 * t + p.1 % 16
    stackServes (count (count c (cntTower t 3) 1) (cntCluster cl 11) 1) none (owner c cl) p.2.da 256 1 8 true false true) ch
  mine.foldl (fun c p => landEvict c p.1 p.2) ch1

/-- What the end of STOPPING does besides. -/
def stopEnd (ch : Chip) (b : Blk) (u : Nat) : Chip :=
  match b with
  | .wch => flushCache ch u
  | .lnd => landEmpty ch u
  | .fab => (span (2 * u) 2).foldl takeDown ch
  | .nwl => nwlDisable ch
  | .snst => convStop ch u
  | .sns => convStop ch 8
  | .seq | .eng | .vec | .dma | .arc | .prg | .col | .pci | .obs | .mbx | .syn | .cal | .gal | .hbm | .tsl | .pwr
  | .calf | .fabr | .tslc | .obst | .obsp | .pwrt => ch

/-- A STOPPING block becomes DISABLED once its work is finished and its island runs (R375, R376). -/
def stopBlk (ch : Chip) (b : Blk) (u : Nat) (second : Bool) : Chip :=
  if blkGet ch b u second = .stopping ∧ islandRuns ch (blkIsle b u) ∧ stopReady ch b u second then
    blkSet (stopEnd ch b u) b u second .disabled
  else ch

/-- The block instance whose CTRL register has an address. -/
def blkAt (da : Nat) : Option (Blk × Nat) :=
  match busTarget da with
  | some t => if t.mirror then none else t.at?.bind fun r =>
      let b := (regInfo r.reg).blk
      if ctrlReg b = some r.reg then some (b, r.unit) else none
  | none => none

end Sys2Proof.Machine
end

