-- ==== Sys2Proof/Machine/RegBus.lean ====
section
/-! DEFINITION. Reads and writes on the register bus: access types, clamps and the actions of registers
(00_scope.md R8; 17_registers_islands.md R367 to R375; the register tables of every chapter). -/

namespace Sys2Proof.Machine

/-! ### Reads (R8, R372) -/

/-- The effect of a read: every RC field of the register clears, and the latches of R451 follow. -/
def regReadEffect (ch : Chip) (r : Reg) (u k : Nat) : Chip :=
  match r with
  | .obsCntLo => { ch with obs := { ch.obs with cntHi := BitVec.ofNat 32 (cntSel ch / 2 ^ 32) } }
  | .hbmPartWait => updStack ch u fun x => { x with waits := tput x.waits (regFld ch .hbmPartSel u 3 0) 0 }
  | _ => if (regInfo r).rc = 0 then ch else regSet ch r u (regGet ch r u k &&& ~~~(regInfo r).rc) k

/-- A read of a register through the bus: its value goes to `resp`. -/
def readReg (ch : Chip) (r : Reg) (u k : Nat) : Chip :=
  regReadEffect { ch with resp := ⟨.ok, leBytes (regView ch r u k).toNat 4, false⟩ } r u k

/-! ### Writes: checks and clamps -/

def clampN (lo hi v : Nat) : Nat := max lo (min hi v)

/-- Channels of a converter that are not reserved (R468). -/
def chanOk (k c : Nat) : Bool :=
  if k < 8 then decide (c ≤ 25) else decide (c ≤ 7 ∨ c = 16 ∨ c = 17 ∨ (21 ≤ c ∧ c ≤ 23))

/-- A sequence entry that may be valid (R470, R471). -/
def entryOk (k : Nat) (inj : Bool) (w : Word) : Bool :=
  let a := fld w 4 0
  let n := fld w 15 12
  decide (a + n ≤ 31) && ((List.range (n + 1)).all fun i => chanOk k (a + i)) && decide (fld w 30 29 ≠ 3) &&
    decide (fld w 28 27 ≠ 3) && (inj || decide (fld w 26 23 = 0))

/-- Firmware's own entries of a tower converter (R471). -/
def fwEntry (k : Nat) (inj : Bool) (n : Nat) : Bool := decide (k < 8) && (if inj then decide (n < 3) else decide (n = 0))

/-- An entry is stored, invalid where R471 refuses it. -/
def putEntry (ch : Chip) (r : Reg) (u k : Nat) (conv : Nat) (inj : Bool) (w : Word) : Chip :=
  let w1 := w &&& (regInfo r).wd
  if entryOk conv inj w1 then regSet ch r u w1 k
  else raise (regSet ch r u (w1 &&& 0x7FFFFFFF) k) (if conv < 8 then .snstEntryBad else .snsEntryBad) (if conv < 8 then conv else 0)

/-- What a register stores for a written value, and the event that a clamp sets. -/
def clampReg (r : Reg) (v : Word) : Word × Option Ev :=
  let n := v.toNat
  let w (x : Nat) : Word × Option Ev := (BitVec.ofNat 32 x, none)
  match r with
  | .arcCfg => if 4 < n % 8 then w (n - n % 8 + 4) else (v, none)
  | .prgPolicy => if n % 256 < 8 then (BitVec.ofNat 32 (n - n % 256 + 8), some .prgThetaClamped) else (v, none)
  | .prgCfg => if n % 256 = 0 then w (n + 1) else (v, none)
  | .prgSel => w (min 135 n)
  | .calPolicy => (BitVec.ofNat 32 (clampN 8 160 n), if clampN 8 160 n = n then none else some .calDtClamped)
  | .calFSel => if 1031 < n / 65536 then w (1031 * 65536 + n % 65536) else (v, none)
  | .fabCfg => if 2 ≤ n / 2 then w (n % 2) else (v, none)
  | .tslPeriod => w (clampN 250 60000 n)
  | .tslRefCfg =>
    w (n % 65536 + max 1 (n / 65536 % 256) * 65536 + max 1 (n / 2 ^ 24) * 2 ^ 24)
  | .obsDumpPeriod => w (clampN 50 1000000 n)
  | .obsDumpRecs => w (max 2 n)
  | .obstHmWin | .obspHmWin => w (max 1 n)
  | .snstTimer | .snsTimer => w (clampN 10 1000000 n)
  | .snstBufLen | .snsBufLen => w (n / 256 * 256)
  | .pwrCap => w (clampN 800 2150 n)
  | .pwrTPoint => w (clampN 18 42 (n / 256) * 256)
  | .nwlCfg => if n = 3 then w 2 else (v, none)
  | .mbxRingCfg => w (clampN 4 12 (n / 256) * 256)
  | _ => (v, none)

/-- A write by the rules of R8 and R374: RW fields are set, WD fields only while the block is DISABLED. -/
def plainWrite (ch : Chip) (r : Reg) (u k : Nat) (v : Word) : Chip :=
  let i := regInfo r
  let dis := blkGet ch i.blk u == .disabled
  let ch1 := if i.wd ≠ 0 ∧ ¬ dis then raiseOpt ch (cfgEv i.blk) u else ch
  let m := i.rw ||| (if dis then i.wd else 0)
  let c := clampReg r (v &&& m)
  if m = 0 then ch1
  else raiseOpt (regSet ch1 r u ((regGet ch r u k &&& ~~~m) ||| (c.1 &&& m)) k) c.2
    (match r with | .prgPolicy => u | .calPolicy => u | _ => 0)

/-! ### The mailbox registers (R382, R386, R387) -/

def updStream (ch : Chip) (k : Nat) (f : FwStream → FwStream) : Chip :=
  { ch with sys := { ch.sys with camp := { ch.sys.camp with
      streams := tput ch.sys.camp.streams k (f (streamOf ch k)) } } }

/-- Firmware accepts the command whose doorbell is rung (R386). -/
def acceptCmd (ch : Chip) (f : Nat) : Chip :=
  if fwReady ch ∧ ¬ (streamOf ch (2 * f)).busy ∧ (regGet ch .mbxDoorbell f).getLsbD 0 then
    regSet (updStream ch (2 * f) fun x => { x with busy := true, rspValid := false, since := ch.us, held := none })
      .mbxDoorbell f 0
  else ch

/-- MBX_DOORBELL.ring written 1 (R386): ignored while `busy` is 1. -/
def doorbell (ch : Chip) (f : Nat) : Chip :=
  if (streamOf ch (2 * f)).busy then raise ch .mbxDbIgnored f
  else acceptCmd (regSet ch .mbxDoorbell f 1) f

/-- An index register of the ring: a value at or beyond the size is ignored. -/
def ringIndex (ch : Chip) (r : Reg) (f : Nat) (v : Word) : Chip :=
  let i := (v &&& 0xFFF).toNat
  if ringSize ch f ≤ i then raise ch .mbxIndexBad f else regSet ch r f (BitVec.ofNat 32 i)

def writeEnable (ch : Chip) (b : Blk) (u : Nat) (second on : Bool) : Chip :=
  if on then enableBlk ch b u second else disableBlk ch b u second

/-- MBX_RING_CFG: the size while DISABLED, then the enable. -/
def ringCfg (ch : Chip) (f : Nat) (v : Word) : Chip :=
  let was := blkGet ch .mbx f
  let ch1 := if was = .disabled then regPut ch .mbxRingCfg f 11 8 (clampN 4 12 (fld v 11 8))
    else raise ch .mbxCfgIgnored f
  writeEnable ch1 .mbx f false (v.getLsbD 0)

/-! ### The other registers with actions -/

/-- A source is written to a health monitor (R461, R466). -/
def monWrite (ch : Chip) (r : Reg) (u m : Nat) (v : Word) : Chip :=
  let w := v &&& (regInfo r).rw
  let was := (regGet ch r u).getLsbD 31
  if monOk m w then
    let ch1 := regSet ch r u w
    if w.getLsbD 31 ∧ ¬ was then monStart ch1 m else ch1
  else raise (regSet ch r u (w &&& 0x7FFFFFFF)) .obsCfgIgnored 0

/-- A bit of a CTRL register besides `enable`. -/
def ctrlBits (ch : Chip) (r : Reg) (u : Nat) (v : Word) : Chip :=
  match r with
  | .prgCtrl => if v.getLsbD 1 then refreshNow ch u else ch
  | .calCtrl =>
    let ch1 := regPut ch .calCtrl u 1 1 (fld v 1 1)
    if v.getLsbD 2 then traceNow ch1 u else ch1
  | .tslCtrl =>
    let was := (regGet ch .tslCtrl 0).getLsbD 1
    let ch1 := regPut ch .tslCtrl 0 1 1 (fld v 1 1)
    if v.getLsbD 1 ∧ ¬ was then { ch1 with tsl := { ch1.tsl with schedAt := ch1.us } } else ch1
  | .obsCtrl => regPut ch .obsCtrl 0 1 1 (fld v 1 1)
  | .nwlCtrl => fenceHold ch (v.getLsbD 1)
  | _ => ch

end Sys2Proof.Machine
end

