-- ==== Sys2Proof/Machine/Sensors.lean ====
section
/-! DEFINITION. The Cowslip converters and the sensor monitors (22_cowslip_sensors.md R467 to R481; 21_observation.md
R461). -/

namespace Sys2Proof.Machine

/-! ### Monitors (R461) -/

def obsRuns (ch : Chip) : Bool := enabled ch .obs 0 && islandRuns ch 24

/-- A monitor fires: its flag, the health interrupt and the snapshot source as `action` says. -/
def fireMon (ch : Chip) (m : Nat) : Chip :=
  let p := monReg m .obstHmStat .obspHmStat
  let act := fld (monSrc ch m) 28 27
  let ch1 := regSet ch p.1 p.2 (regGet ch p.1 p.2 ||| 1)
  let ch2 := raiseIf (decide (256 ≤ m)) ch1 .obsMonitorFired 0
  let ch3 := if bit act 0 then count (health ch2) (cntPkg 148) 1 else ch2
  if bit act 1 then fireSource ch3 3 m else ch3

/-- The comparison of a monitor with its threshold. -/
def monHit (above : Bool) (v thr : Nat) : Bool := if above then decide (thr ≤ v) else decide (v < thr)

/-- A sensor monitor judges a converter result, at most once per ms. -/
def monSample (ch : Chip) (m code : Nat) : Chip :=
  let w := monSrc ch m
  let x := tget ch.obs.mons ⟨0, 0, none⟩ m
  let again : Bool := match x.firedAt with | some t => decide (t + 1000 ≤ ch.us) | none => true
  if monHit (w.getLsbD 29) code (fld (monThr ch m) 13 0) ∧ again then
    fireMon { ch with obs := { ch.obs with mons := tput ch.obs.mons m { x with firedAt := some ch.us } } } m
  else ch

/-- The sensor monitors of a channel judge its result. -/
def sensorMons (ch : Chip) (k c code : Nat) : Chip :=
  if ¬ obsRuns ch then ch
  else ((monsOn ch).filter fun m => (monSrc ch m).getLsbD 30 && monSensor m (monSrc ch m) == some (k, c)).foldl
    (fun x m => monSample x m code) ch

/-! ### Sequences and triggers (R470, R472, R473) -/

/-- The conversion after p in a sequence. -/
def snAfter (l : List SnsPos) (p : SnsPos) : Option SnsPos := ((l.dropWhile fun q => q != p).drop 1).head?

/-- The regular sequence of converter k starts, or the trigger is dropped. -/
def snStart (ch : Chip) (k : Nat) : Chip :=
  if ¬ snOn ch k then ch
  else if (convOf ch k).reg.isSome then snRaise ch k .snstRegOverrun .snsRegOverrun
  else
    let p := (snSeq ch k false 0).head?
    updConv ch k fun x => { x with reg := p, now := if x.now.isNone && x.src == 0 then p else x.now }

def snSync (ch : Chip) (k : Nat) : Bool := decide (k < 8) && (snCfg ch k).getLsbD 3

/-- A regular trigger of converter k; the package converter's starts every synchronised one. -/
def snTrigger (ch : Chip) (k : Nat) : Chip :=
  if snSync ch k then ch
  else
    let ch1 := snStart ch k
    if k = 8 ∧ snOn ch 8 then ((List.range 8).filter (snSync ch)).foldl snStart ch1 else ch1

def execSnsRegularTrigger (k : ConvId) (s : State) : Host.Outcome State Fault Refusal :=
  onChip s fun ch => if fld (snCfg ch k.val) 1 0 = 2 then ch else snTrigger ch k.val

def execSnsUrgentTrigger (k : ConvId) (src : BitVec 4) (s : State) : Host.Outcome State Fault Refusal :=
  onChip s fun ch => snUrgent ch k.val src.toNat

/-- SNS_CTRL.reg_now starts the sequence where `trig` is software (R472), and reads 1 until it starts (R481). The bit does
not stay set for a trigger that is dropped or that the converter does not take (DESIGN CHOICE, log 150). -/
def regNow (ch : Chip) (k : Nat) : Chip :=
  if fld (snCfg ch k) 1 0 = 2 then
    let ch1 := if snOn ch k && !snSync ch k && (convOf ch k).reg.isNone then snPutBit ch k 1 true else ch
    snBegun (snTrigger ch1 k) k
  else ch
/-- SNS_CTRL.inj_now is the software urgent trigger (R473), and reads 1 until its run starts (R481; log 150). -/
def injNow (ch : Chip) (k : Nat) : Chip :=
  snBegun (snUrgent (if snOn ch k && (convOf ch k).held == 0 then snPutBit ch k 2 true else ch) k 1) k

def execRegNow (k : ConvId) (s : State) : Host.Outcome State Fault Refusal := onChip s fun ch => regNow ch k.val
def execInjNow (k : ConvId) (s : State) : Host.Outcome State Fault Refusal := onChip s fun ch => injNow ch k.val

/-! ### Conversions (R467, R474 to R477) -/

/-- What converts after p (R473): injected entries, then a held trigger's, then the regular sequence again. -/
def snAdvance (ch : Chip) (k : Nat) (p : SnsPos) : Chip :=
  let x := convOf ch k
  let set (f : Adc → Adc) : Chip := updConv ch k f
  if blkGet ch (snBlk k).1 (snBlk k).2 = .stopping then set fun x => { x with now := none }
  else if p.inj then
    match snAfter (snSeq ch k true x.src) p with
    | some q => set fun x => { x with now := some q }
    | none => match (if x.held = 0 then none else (snSeq ch k true x.held).head?) with
      | some q => set fun x => { x with now := some q, src := x.held, held := 0 }
      | none => set fun x => { x with now := x.reg, src := 0, held := 0 }
  else
    let l := snSeq ch k false 0
    let r := match snAfter l p with
      | some q => some q
      | none => if fld (snCfg ch k) 1 0 = 3 ∧ ¬ snSync ch k then l.head? else none
    set fun x => { x with reg := r, now := if x.src = 0 then r else (snSeq ch k true x.src).head? }

/-- The next conversion begins, and with it what SNS_CTRL asked for (R481). -/
def snNext (ch : Chip) (k : Nat) (p : SnsPos) : Chip := snBegun (snAdvance ch k p) k

/-- The running mean of a diode over its last 8 results (R476); which neighbour a mean between two values of 1/16 °C
takes is left open (log 9). -/
def snMean (ch : Chip) (k c code : Nat) : Chip :=
  let l := (tget (convOf ch k).means [] c ++ [code])
  let l8 := l.drop (l.length - 8)
  let ch1 := updConv ch k fun x => { x with means := tput x.means c l8 }
  if l8.length < 8 then ch1
  else
    let n := l8.foldl (· + ·) 0
    let up := n % 32 != 0 && Config.freeBit ch1.free
    let m : Int := (n / 32 : Nat) + (if up then 1 else 0) - 1024
    regSet { ch1 with free := ch1.free + 1 } .snstAvg k (BitVec.ofNat 32 (2 ^ 31 + temp16 m)) c

/-- A diode result meets the alarm limits (R474). -/
def snAlarm (ch : Chip) (k c code : Nat) : Chip :=
  let w := regGet ch .snstAlarm k
  let x := convOf ch k
  if ¬ (snCfg ch k).getLsbD 4 then ch
  else if fld w 13 0 ≤ code then
    if x.alarm then updConv ch k fun x => { x with low := [] }
    else snUrgent (holdUpdate (raise (updConv ch k fun x => { x with alarm := true, low := [] }) .snstAlarm k) k) k 2
  else if code < fld w 29 16 then
    let l := sadd x.low c
    if x.alarm ∧ l.length = 16 then holdUpdate (updConv ch k fun x => { x with alarm := false, low := [] }) k
    else updConv ch k fun x => { x with low := l }
  else updConv ch k fun x => { x with low := [] }

/-- An open-wire result is flagged `open` (R475, log 115). -/
def snOpen (w : Word) (c code : Nat) : Bool :=
  (decide (fld w 30 29 = 1) && decide (16256 ≤ code)) || (decide (fld w 30 29 = 2) && decide (code ≤ 128)) ||
    (decide (fld w 30 29 ≠ 0 ∧ c = 21 ∧ fld w 28 27 = 0) && decide (410 < code - 8192 ∨ 410 < 8192 - code))

def snBufDa (ch : Chip) (k : Nat) : Nat :=
  if k < 8 then (regGet ch .snstBufLo k).toNat + fld (regGet ch .snstBufHi k) 15 0 * 2 ^ 32
  else (regGet ch .snsBufLo 0).toNat + fld (regGet ch .snsBufHi 0) 15 0 * 2 ^ 32
def snBufLen (ch : Chip) (k : Nat) : Nat := (if k < 8 then regGet ch .snstBufLen k else regGet ch .snsBufLen 0).toNat
def snBufIdx (ch : Chip) (k : Nat) : Nat := (if k < 8 then regGet ch .snstBufWidx k else regGet ch .snsBufWidx 0).toNat
def setBufIdx (ch : Chip) (k v : Nat) : Chip :=
  if k < 8 then regSet ch .snstBufWidx k (BitVec.ofNat 32 v) else regSet ch .snsBufWidx 0 (BitVec.ofNat 32 v)

/-- A result is written to the buffer (R477). -/
def snRecord (ch : Chip) (k : Nat) (rec8 : List Byte) (err : Bool) : Chip :=
  let len := snBufLen ch k
  let i := snBufIdx ch k % max 1 len
  let a := snBufDa ch k + i
  if len = 0 then ch
  else if err ∨ anyPoi ch (a / 256 * 256) 256 then snRaise ch k .snstBufError .snsBufError
  else
    let ch1 := postWrite ch .unit .stream none a rec8
    let ch2 := setBufIdx ch1 k (if len ≤ i + 8 then 0 else i + 8)
    let ch3 := if i < len / 2 ∧ len / 2 ≤ i + 8 then snRaise ch2 k .snstHalf .snsHalf else ch2
    if len ≤ i + 8 then snRaise ch3 k .snstWrap .snsWrap else ch3

/-- A conversion completes. -/
def execSnsConversion (k : ConvId) (obs : ConvObs) (s : State) : Host.Outcome State Fault Refusal :=
  onChip s fun ch =>
    let kv := k.val
    match (convOf ch kv).now with
    | none => ch
    | some p =>
      if ¬ snMoves ch kv then ch
      else
        let w := snEntry ch kv p.inj p.ent
        let c := p.chan
        let code := obs.code.toNat
        let raw := !((convOf ch kv).settled.getLsbD (fld w 28 27))
        let opn := snOpen w c code
        let ch1 := if kv < 8 then regSet ch .snstLast kv (pack [(0, code), (14, b2n opn), (15, b2n raw), (31, 1)]) c
          else regSet ch .snsLast 0 (pack [(0, code), (14, b2n opn), (15, b2n raw), (31, 1)]) c
        let ch2 := if raw then snRaise ch1 kv .snstUnsettled .snsUnsettled else ch1
        let ch3 := if opn then health (snRaise ch2 kv .snstOpenWire .snsOpenWire) else ch2
        let rec8 := leBytes (code + b2n opn * 2 ^ 14 + b2n raw * 2 ^ 15) 2 ++ leBytes c 1 ++
          leBytes (kv + b2n p.inj * 16 + b2n (fld w 30 29 != 0) * 32 + fld w 28 27 * 64) 1 ++
          leBytes (islCycles ch3 21) 4
        let ch4 := sensorMons (snRecord ch3 kv rec8 obs.bufError) kv c code
        let diode := decide (kv < 8 ∧ c < 16)
        let ch5 := if diode ∧ ¬ p.inj ∧ fld w 30 29 = 0 then snMean ch4 kv c code else ch4
        let ch6 := snNext ch5 kv p
        if diode then snAlarm ch6 kv c code else ch6

/-- A reference has settled (R469). -/
def execReferenceSettled (k : ConvId) (r : Fin 3) (s : State) : Host.Outcome State Fault Refusal :=
  onChip s fun ch =>
    if snOn ch k.val then updConv ch k.val fun x => { x with settled := x.settled ||| BitVec.ofNat 3 (2 ^ r.val) } else ch

end Sys2Proof.Machine
end

