-- ==== Sys2Proof/Machine/BusWrite.lean ====
section
/-! DEFINITION. Accesses to registers by address, and the commands that are one register access each
(17_registers_islands.md R367 to R375). -/

namespace Sys2Proof.Machine

/-- The effect of a write of v to element k of register r of unit u; `fw` tells firmware's own writes from host
software's, which never change firmware's sequence entries (R471). -/
def writeReg (ch : Chip) (fw : Bool) (r : Reg) (u k : Nat) (v : Word) : Chip :=
  match r with
  | .mbxCmd => if (streamOf ch (2 * u)).busy then raise ch .mbxCmdIgnored u else regSet ch .mbxCmd u v k
  | .mbxDoorbell => if v.getLsbD 0 then doorbell ch u else ch
  | .mbxRingCfg => ringCfg ch u v
  | .mbxRingTail | .mbxCplHead => ringIndex ch r u v
  | .pciCtrl => writeEnable (writeEnable ch .pci 0 false (v.getLsbD 0)) .pci 0 true (v.getLsbD 1)
  | .nwlBindA => bindWrite ch k false v
  | .nwlBindB => bindWrite ch k true v
  | .synOp =>
    let ch1 := if v.getLsbD 1 then synOpReset ch u else ch
    if v.getLsbD 0 then synOpSignal ch1 u else ch1
  | .calFReq =>
    let ch1 := if v.getLsbD 0 then runField ch u else ch
    if v.getLsbD 1 then runArray ch1 u else ch1
  | .hbmPartRate =>
    let j := regFld ch .hbmPartSel u 3 0
    let w := if fld v 30 16 = 0 then v ||| 0x10000 else v
    updStack ch u fun x => setRate x j w
  | .obstHmSrc => monWrite ch r u u v
  | .obspHmSrc => monWrite ch r u (256 + u) v
  | .snstReg | .snstInj =>
    if ¬ fw ∧ fwEntry u (r == .snstInj) k then ch
    else if blkGet ch .snst u ≠ .disabled then raise ch .snstCfgIgnored u
    else putEntry ch r u k u (r == .snstInj) v
  | .snsReg | .snsInj =>
    if blkGet ch .sns 0 ≠ .disabled then raise ch .snsCfgIgnored 0 else putEntry ch r 0 k 8 (r == .snsInj) v
  | .snstCtrl | .snsCtrl =>
    let c := if r == .snstCtrl then u else 8
    let ch1 := writeEnable ch (regInfo r).blk u false (v.getLsbD 0)
    let ch2 := if v.getLsbD 1 then regNow ch1 c else ch1
    if v.getLsbD 2 then injNow ch2 c else ch2
  | .pwrTlmBoard => updPwr (regSet ch .pwrTlmBoard 0 v) fun p => { p with boardAt := some ch.us }
  | .mbxCplTail | .mbxRingHead => ch
  | _ =>
    let b := (regInfo r).blk
    if ctrlReg b = some r then ctrlBits (writeEnable ch b u false (v.getLsbD 0)) r u v
    else plainWrite ch r u k v

/-! ### The bus (R16, R367, R371, R372) -/

/-- The island of a populated block number. -/
def targetIsle (t : BusTarget) (da : Nat) : Nat :=
  match t.at? with
  | some r => blkIsle (regInfo r.reg).blk r.unit
  | none =>
    match blksAt t.tower.isSome t.num with
    | b :: _ => blkIsle b ((t.tower.getD 0) * (blkInfo b).count)
    | [] => if (da - 0x200000000000) / 0x100000 % 256 = 8 then 22 else 20

/-- The bus reaches a target: its own island and the target's run. -/
def busReaches (ch : Chip) (t : BusTarget) (da : Nat) : Bool := islandRuns ch 20 && islandRuns ch (targetIsle t da)

/-- An access crosses into another island: how long it stalls there, at most 2.0 µs, and whether it found the port full are
free values (R368, R380; log 17). -/
def crossing (ch : Chip) (isle : Nat) : Chip :=
  if isle = 20 then ch
  else
    let d := draw ch
    let ch1 := regPut d.2 .pwrBusMaxstall 0 15 0 (max (regFld ch .pwrBusMaxstall 0 15 0) (Config.freeNat d.1 0 % 2001))
    regPut ch1 .pwrBusEvent 0 2 2 (max (regFld ch .pwrBusEvent 0 2 2) (b2n (Config.freeBit d.1)))

def busError (ch : Chip) : Chip :=
  raise { ch with resp := ⟨.busError, [0xFF, 0xFF, 0xFF, 0xFF], false⟩ } .pwrBusLostTarget 0

/-- A read of one dword through the bus. An unpopulated block is unmapped (R16). -/
def busRead (ch : Chip) (da : Nat) : Chip :=
  match busTarget da with
  | none => { ch with resp := ⟨.unsupported, [], false⟩ }
  | some t =>
    if ¬ busReaches ch t da then busError ch
    else
      let ch1 := crossing ch (targetIsle t da)
      match t.at? with
      | none => { ch1 with resp := ⟨.ok, [0, 0, 0, 0], false⟩ }
      | some r =>
        if t.mirror then { ch1 with resp := ⟨.ok, leBytes (regView ch1 r.reg r.unit r.elem).toNat 4, false⟩ }
        else readReg ch1 r.reg r.unit r.elem

/-- A write of one dword through the bus. -/
def busWrite (ch : Chip) (fw : Bool) (da : Nat) (v : Word) : Chip :=
  match busTarget da with
  | none => { ch with resp := ⟨.unsupported, [], false⟩ }
  | some t =>
    if ¬ busReaches ch t da then busError ch
    else
      let ch1 := { crossing ch (targetIsle t da) with resp := ⟨.ok, [], false⟩ }
      match t.at? with
      | none => ch1
      | some r => if t.mirror then ch1 else writeReg ch1 fw r.reg r.unit r.elem v

/-- An action on a register whose island runs; otherwise the access ends with a bus error (R371). -/
def onReg (s : State) (r : Reg) (u : Nat) (f : Chip → Chip) : Host.Outcome State Fault Refusal :=
  onChip s fun ch =>
    let isle := blkIsle (regInfo r).blk u
    if islandRuns ch 20 ∧ islandRuns ch isle then f { crossing ch isle with resp := ⟨.ok, [], false⟩ }
    else busError ch

/-! ### Commands that are one access -/

/-- Host software writes a register (R8). -/
def execRegisterWrite (addr : Nat) (v : Word) (s : State) : Host.Outcome State Fault Refusal :=
  onChip s fun ch => busWrite ch false addr v

def execNwlBindWrite (b : LineId) (second : Bool) (v : Word) (s : State) : Host.Outcome State Fault Refusal :=
  onReg s (if second then .nwlBindB else .nwlBindA) 0 fun ch => bindWrite ch b.val second v
def execNwlFenceHold (hold : Bool) (s : State) : Host.Outcome State Fault Refusal :=
  onReg s .nwlCtrl 0 fun ch => fenceHold ch hold

/-- An access to a stopped island ends with a bus error (R371). -/
def execRegisterBusTimeout (addr : Nat) (_write : Bool) (s : State) : Host.Outcome State Fault Refusal :=
  onChip s fun ch =>
    match busTarget addr with
    | some t => if busReaches ch t addr then ch else busError ch
    | none => ch

def execBlockEnable (addr : Nat) (second : Bool) (s : State) : Host.Outcome State Fault Refusal :=
  onChip s fun ch =>
    match blkAt addr with
    | some (b, u) => if islandRuns ch 20 ∧ islandRuns ch (blkIsle b u) then enableBlk ch b u second else busError ch
    | none => ch
def execBlockDisable (addr : Nat) (second : Bool) (s : State) : Host.Outcome State Fault Refusal :=
  onChip s fun ch =>
    match blkAt addr with
    | some (b, u) => if islandRuns ch 20 ∧ islandRuns ch (blkIsle b u) then disableBlk ch b u second else busError ch
    | none => ch
def execBlockStopped (addr : Nat) (second : Bool) (s : State) : Host.Outcome State Fault Refusal :=
  onChip s fun ch => match blkAt addr with | some (b, u) => stopBlk ch b u second | none => ch

def execRefreshNow (c : CoreId) (s : State) : Host.Outcome State Fault Refusal :=
  onReg s .prgCtrl c.val fun ch => refreshNow ch c.val
def execTraceNow (t : TowerId) (s : State) : Host.Outcome State Fault Refusal :=
  onReg s .calCtrl t.val fun ch => traceNow ch t.val
def execRunArray (c : CoreId) (s : State) : Host.Outcome State Fault Refusal :=
  onReg s .calFReq c.val fun ch => runArray ch c.val
def execRunField (c : CoreId) (s : State) : Host.Outcome State Fault Refusal :=
  onReg s .calFReq c.val fun ch => runField ch c.val
def execSynOpSignal (t : TowerId) (s : State) : Host.Outcome State Fault Refusal :=
  onReg s .synOp t.val fun ch => synOpSignal ch t.val
def execSynOpReset (t : TowerId) (s : State) : Host.Outcome State Fault Refusal :=
  onReg s .synOp t.val fun ch => synOpReset ch t.val
def execObsFreeze (freeze : Bool) (s : State) : Host.Outcome State Fault Refusal :=
  onReg s .obsFreeze 0 fun ch => regPut ch .obsFreeze 0 0 0 (b2n freeze)

/-! ### Reads that clear or latch (R8, R451) -/

/-- A read of a register through the bus as a command. -/
def readCmd (s : State) (r : Reg) (u : Nat) : Host.Outcome State Fault Refusal :=
  onReg s r u fun ch => readReg ch r u 0

def execPrgEventRead (c : CoreId) (s : State) : Host.Outcome State Fault Refusal := readCmd s .prgEvent c.val
def execArcEventRead (c : CoreId) (s : State) : Host.Outcome State Fault Refusal := readCmd s .arcEvent c.val
def execCalEventRead (t : TowerId) (s : State) : Host.Outcome State Fault Refusal := readCmd s .calEvent t.val
def execEngEventRead (c : CoreId) (s : State) : Host.Outcome State Fault Refusal := readCmd s .engEvent c.val
def execEngAccEventRead (c : CoreId) (s : State) : Host.Outcome State Fault Refusal := readCmd s .engAccEvent c.val
def execWchEventRead (c : CoreId) (s : State) : Host.Outcome State Fault Refusal := readCmd s .wchEvent c.val
def execVecEventRead (c : CoreId) (s : State) : Host.Outcome State Fault Refusal := readCmd s .vecEvent c.val
def execVecTileHoldRead (c : CoreId) (s : State) : Host.Outcome State Fault Refusal := readCmd s .vecTileHold c.val
def execSeqEventRead (c : CoreId) (s : State) : Host.Outcome State Fault Refusal := readCmd s .seqEvent c.val
def execDmaEventRead (c : CoreId) (s : State) : Host.Outcome State Fault Refusal := readCmd s .dmaEvent c.val
def execLndEventRead (t : TowerId) (s : State) : Host.Outcome State Fault Refusal := readCmd s .lndEvent t.val
def execHbmEventRead (k : StackId) (s : State) : Host.Outcome State Fault Refusal := readCmd s .hbmEvent k.val
def execHbmEccCntRead (k : StackId) (s : State) : Host.Outcome State Fault Refusal := readCmd s .hbmEccCnt k.val
def execHbmPartWaitRead (k : StackId) (s : State) : Host.Outcome State Fault Refusal := readCmd s .hbmPartWait k.val
def execGalEventRead (t : TowerId) (s : State) : Host.Outcome State Fault Refusal := readCmd s .galEvent t.val
def execGalReplayCntRead (t : TowerId) (s : State) : Host.Outcome State Fault Refusal := readCmd s .galReplayCnt t.val
def execSynEventRead (t : TowerId) (s : State) : Host.Outcome State Fault Refusal := readCmd s .synEvent t.val
def execNwlEventRead (s : State) : Host.Outcome State Fault Refusal := readCmd s .nwlEvent 0
def execFabEventRead (p : PortId) (s : State) : Host.Outcome State Fault Refusal := readCmd s .fabEvent p.val
def execFabReplayCntRead (p : PortId) (s : State) : Host.Outcome State Fault Refusal := readCmd s .fabReplayCnt p.val
def execFabFecCntRead (p : PortId) (s : State) : Host.Outcome State Fault Refusal := readCmd s .fabFecCnt p.val
def execColEventRead (s : State) : Host.Outcome State Fault Refusal := readCmd s .colEvent 0
def execPciEventRead (s : State) : Host.Outcome State Fault Refusal := readCmd s .pciEvent 0
def execPwrIslLostRead (s : State) : Host.Outcome State Fault Refusal := readCmd s .pwrIslLost 0
def execPwrBusEventRead (s : State) : Host.Outcome State Fault Refusal := readCmd s .pwrBusEvent 0
def execPwrBusMaxstallRead (s : State) : Host.Outcome State Fault Refusal := readCmd s .pwrBusMaxstall 0
def execMbxEventRead (f : FnId) (s : State) : Host.Outcome State Fault Refusal := readCmd s .mbxEvent f.val
def execPwrResetCauseRead (s : State) : Host.Outcome State Fault Refusal := readCmd s .pwrResetCause 0
def execTslEventRead (s : State) : Host.Outcome State Fault Refusal := readCmd s .tslEvent 0
def execTslCRefRead (c : CoreId) (s : State) : Host.Outcome State Fault Refusal := readCmd s .tslCRef c.val
def execObsEventRead (s : State) : Host.Outcome State Fault Refusal := readCmd s .obsEvent 0
/-- Monitors are numbered 32t + m for tower monitors and 256 + m for package monitors (R462). -/
def execObsHmStatRead (m : Fin 272) (s : State) : Host.Outcome State Fault Refusal :=
  if m.val < 256 then readCmd s .obstHmStat m.val else readCmd s .obspHmStat (m.val - 256)
def execSnsEventRead (k : ConvId) (s : State) : Host.Outcome State Fault Refusal :=
  if k.val < 8 then readCmd s .snstEvent k.val else readCmd s .snsEvent 0
def execPwrEventRead (s : State) : Host.Outcome State Fault Refusal := readCmd s .pwrEvent 0
/-- OBS_CNT_LO returns the low word and latches the high word (R451). -/
def execObsCntLoRead (s : State) : Host.Outcome State Fault Refusal := readCmd s .obsCntLo 0

end Sys2Proof.Machine
end

