-- ==== Sys2Proof/Machine/Observe.lean ====
section
/-! DEFINITION. Sorrel's cuts and records, Yarrow's snapshots, and counter monitors (21_observation.md R452 to R465). -/

namespace Sys2Proof.Machine

/-! ### Records (R454 to R457) -/

/-- What the header of a record says. -/
structure RecHead where
  kind : Nat
  job : Nat
  seq : Nat
  len : Nat
  counters : Nat
  truncated : Bool
  skipped : Bool
  cause : Nat
  detail : Nat
  snap : Nat
  mask : Nat
  deriving DecidableEq, Repr

def isleLost (ch : Chip) : Bool := (List.range 25).any fun i => !islandRuns ch i
def frozen (ch : Chip) : Bool := (regGet ch .obsFreeze 0).getLsbD 0

/-- The cycle stamp of an island, all ones when it does not run (R455). -/
def stamp (ch : Chip) (i : Nat) : Nat := if islandRuns ch i then islCycles ch i else 2 ^ 64 - 1

/-- The 256-byte header. -/
def headBytes (ch : Chip) (h : RecHead) : List Byte :=
  leBytes 0x4C525253 4 ++ leBytes 0x0100 2 ++ leBytes h.kind 1 ++ leBytes h.job 1 ++ leBytes h.seq 8 ++
    leBytes h.len 4 ++ leBytes h.counters 4 ++ leBytes ch.us 8 ++
    leBytes (b2n (frozen ch) + b2n h.truncated * 2 + b2n (isleLost ch) * 4 + b2n h.skipped * 8) 1 ++
    leBytes h.cause 1 ++ leBytes h.detail 2 ++ leBytes h.snap 4 ++ leBytes h.mask 16 ++
    (List.range 25).flatMap fun i => leBytes (stamp ch i) 8

def trailBytes (seq : Nat) : List Byte := leBytes seq 8 ++ List.replicate 56 0

def cntNow (ch : Chip) (k : Nat) : Nat := tget ch.cnts 0 k

/-- Every counter in the order of R456. -/
def allCounters (ch : Chip) : List Byte := (List.range 100928).flatMap fun k => leBytes (cntNow ch k) 8

def devRecLen : Nat := 807744

def deviceRecord (ch : Chip) (seq : Nat) (skipped : Bool) : List Byte :=
  headBytes ch ⟨0, 0xFF, seq, devRecLen, 100928, false, skipped, 0, 0, 0, 0⟩ ++ allCounters ch ++ trailBytes seq

/-- The counters of a cluster, then of its cores, by their places. -/
def clusterCounters (cl : Nat) : List Nat :=
  span (cntCluster cl 0) 16 ++ (coresOfCluster cl).flatMap fun g => span (cntCore g 0) 96

/-- A job record: values since the assignment of each cluster (R457). -/
def jobRecord (ch : Chip) (j : JobId) (d : JobDump) (seq : Nat) (skipped : Bool) : List Byte :=
  let all := (List.range 128).filter fun c => owner ch c == some j
  let cls := all.take d.maxClusters
  let mask := all.foldl (fun n c => n + 2 ^ c) 0
  let b := (jobOf ch j.val).base
  headBytes ch ⟨1, j.val, seq, 384 + 6272 * cls.length, 8 + 784 * cls.length, decide (cls.length < all.length), skipped,
      0, 0, 0, mask⟩ ++
    ((span (8 * j.val) 8).flatMap fun k => leBytes (cntNow ch k) 8) ++
    ((cls.flatMap clusterCounters).flatMap fun k => leBytes (cntNow ch k + 2 ^ 64 - tget b 0 k) 8) ++ trailBytes seq

/-! ### Cuts (R452, R453) -/

def updObs (ch : Chip) (f : Obs → Obs) : Chip := { ch with obs := f ch.obs }
def dumpPeriod (ch : Chip) : Nat := clampN 50 1000000 (regGet ch .obsDumpPeriod 0).toNat
/-- A dump period has expired since the last one that was acted on. -/
def periodOver (ch : Chip) : Bool := decide (ch.obs.lastCut + dumpPeriod ch ≤ ch.us)
/-- When the present dump period began. -/
def thisPeriod (ch : Chip) : Nat := ch.us - (ch.us - ch.obs.lastCut) % dumpPeriod ch

def dumpBase (ch : Chip) : Nat :=
  (regGet ch .obsDumpBaseLo 0).toNat + fld (regGet ch .obsDumpBaseHi 0) 15 0 * 2 ^ 32
def dumpRecs (ch : Chip) : Nat := max 2 (regFld ch .obsDumpRecs 0 15 0)

/-- The records of a cut. -/
def cutRecords (ch : Chip) (seq : Nat) : List (Option JobId × Nat × List Byte) :=
  (if (regGet ch .obsCtrl 0).getLsbD 1 then
    [(none, dumpBase ch + ch.obs.slot % dumpRecs ch * devRecLen, deviceRecord ch seq ch.obs.skipped)] else []) ++
  (List.finRange 16).filterMap fun j =>
    match (jobOf ch j.val).dump with
    | some d => some (some j, d.da + d.index * d.slot, jobRecord ch j d seq ch.obs.skipped)
    | none => none

/-- Sorrel takes a cut: every counter in one cycle. -/
def execSorrelCut (s : State) : Host.Outcome State Fault Refusal :=
  onChip s fun ch =>
    if obsRuns ch ∧ periodOver ch ∧ ¬ ch.obs.cutBusy then
      let n := ch.obs.seq + 1
      updObs ch fun o =>
        { o with seq := n, lastCut := thisPeriod ch, cutBusy := true, recs := cutRecords ch n, skipped := false }
    else ch

/-- A period expires while a cut is still being written. -/
def execCutSkipped (s : State) : Host.Outcome State Fault Refusal :=
  onChip s fun ch =>
    if obsRuns ch ∧ periodOver ch ∧ ch.obs.cutBusy then
      raise (updObs ch fun o => { o with lastCut := thisPeriod ch, skipped := true }) .obsCutSkipped 0
    else ch

/-- Bytes written by a unit of the device through the home slices with STREAM handling. -/
def streamWrite (ch : Chip) (a : Nat) (bs : List Byte) : Chip :=
  postWrite ch .unit .stream none a bs

/-- A record is in memory: its region goes on to the next slot. -/
def recordWritten (ch : Chip) (r : Option JobId × Nat × List Byte) : Chip :=
  let ch1 := streamWrite ch r.2.1 r.2.2
  match r.1 with
  | none =>
    let n := (ch.obs.slot + 1) % dumpRecs ch
    raiseIf (n == 0) (updObs ch1 fun o => { o with slot := n }) .obsRegionWrap 0
  | some j => match (jobOf ch1 j.val).dump with
    | none => ch1
    | some d =>
      let n := (d.index + 1) % d.records
      let half := decide (d.index < d.records / 2 ∧ d.records / 2 ≤ d.index + 1)
      let ch2 := updJob ch1 j.val fun b => { b with dump := some { d with index := n } }
      if n = 0 ∨ half then msix ch2 (j.val + 1) 4 else ch2

def execCutRecordsWritten (s : State) : Host.Outcome State Fault Refusal :=
  onChip s fun ch =>
    if ch.obs.cutBusy ∧ islandRuns ch 24 then
      updObs (ch.obs.recs.foldl recordWritten ch) fun o => { o with cutBusy := false, recs := [], doneSeq := o.seq }
    else ch

/-! ### Counter monitors (R461) -/

def execHealthMonitorWindow (m : Fin 272) (s : State) : Host.Outcome State Fault Refusal :=
  onChip s fun ch =>
    let w := monSrc ch m.val
    let x := tget ch.obs.mons ⟨0, 0, none⟩ m.val
    let win := monWinUs ch m.val
    if ¬ obsRuns ch ∨ ¬ w.getLsbD 31 ∨ w.getLsbD 30 ∨ ch.us < x.startUs + win then ch else
    match monCounter m.val w with
    | none => ch
    | some k =>
      let now := cntNow ch k
      let inc := (now + 2 ^ 64 - x.startCnt) % 2 ^ 64
      let p := monReg m.val .obstHmStat .obspHmStat
      let ch1 := regPut ch p.1 p.2 31 8 (min 0xFFFFFF inc)
      let ch2 := updObs ch1 fun o => { o with mons := tput o.mons m.val ⟨x.startUs + win, now, x.firedAt⟩ }
      if monHit (w.getLsbD 29) inc (monThr ch m.val).toNat then fireMon ch2 m.val else ch2

/-! ### Snapshots (R462 to R464) -/

/-- The register block instances of a tower or the package in the order of a snapshot: block, its unit, the number of
the instance, and the address of its offset 0. -/
def blockInsts (t : Nat) : List (Option Blk × Nat × Nat × Nat) :=
  let of (b : Blk) (n first : Nat) : List (Option Blk × Nat × Nat × Nat) :=
    (List.range n).map fun i =>
      let u := if t < 8 then t * (blkInfo b).count + i else i
      (some b, u, first + i, blkBase b u)
  if t < 8 then
    of .seq 128 0 ++ of .eng 128 0 ++ of .wch 128 0 ++ of .vec 128 0 ++ of .dma 128 0 ++ of .syn 1 0 ++ of .arc 128 0 ++
      of .prg 128 0 ++ of .cal 1 0 ++ of .calf 128 1 ++ of .lnd 1 0 ++ of .gal 1 0 ++ of .hbm 2 0 ++ of .fab 2 0 ++
      of .tslc 1 0 ++ of .obst 1 0 ++ of .snst 1 0 ++ of .pwrt 1 0
  else
    of .mbx 17 0 ++ of .pci 1 0 ++ of .nwl 1 0 ++ of .col 1 0 ++ of .tsl 1 0 ++ of .obs 1 0 ++ of .sns 1 0 ++ of .pwr 1 0 ++
      [(none, 0, 0, 0x200080800000)]

/-- A register's PEEK value (R372). -/
def peekAt (ch : Chip) (da : Nat) : Word :=
  match busTarget da with
  | some t => match t.at? with | some r => regView ch r.reg r.unit r.elem | none => 0
  | none => 0

/-- An entry of a snapshot; what the entry of a stopped island holds besides its head is left open (log 9). -/
def snapEntry (ch : Chip) (t : Nat) (e : Option Blk × Nat × Nat × Nat) (place : Nat) : List Byte :=
  let num := match e.1 with | some b => (blkInfo b).num | none => 8
  let isle := match e.1 with | some b => blkIsle b e.2.1 | none => 22
  let on := islandRuns ch isle
  let hd := leBytes num 1 ++ leBytes t 1 ++ leBytes isle 1 ++ leBytes (b2n on) 1 ++ leBytes e.2.2.1 2 ++ [0, 0]
  if ¬ on then hd ++ (List.range 120).map fun i => Config.freeByte ch.free (place + i)
  else
    let base := if e.1 = some .tslc ∨ e.1 = some .obst then e.2.2.2 / 0x100000 * 0x100000 else e.2.2.2
    let regs := (List.range 16).flatMap fun i => leBytes (peekAt ch (base + 4 * i)).toNat 4
    let tail := if e.1 = some .seq then
        let k := coreOf ch e.2.1
        leBytes k.pc 2 ++ [0, 0] ++ ((span 1 7).flatMap fun i => leBytes (tget k.tc 0 i).toNat 4) ++ List.replicate 16 0
      else List.replicate 48 0
    hd ++ leBytes (islCycles ch isle) 8 ++ regs ++ tail

def snapInsts : List (Nat × (Option Blk × Nat × Nat × Nat)) :=
  (List.range 9).flatMap fun t => (blockInsts t).map fun e => (t, e)

/-- Instances: 1,036 in each tower and 25 in the package; the length of a record. -/
def snapEntries : Nat := 8 * 1036 + 25
def snapLen : Nat := 256 + 8 * 100928 + 128 * snapEntries + 64

/-- Every block latches and the record is formed (R463, R464). -/
def takeSnap (ch : Chip) (cause detail da : Nat) : Chip :=
  let n := ch.obs.snapNum + 1
  let bs := headBytes ch ⟨2, 0xFF, ch.obs.seq, snapLen, 100928, false, false, cause, detail, n, 0⟩ ++
    allCounters ch ++ (snapInsts.zipIdx.flatMap fun p => snapEntry ch p.1.1 p.1.2 (128 * p.2)) ++
    trailBytes ch.obs.seq
  updObs { ch with free := ch.free + 1 } fun o =>
    { o with snap := some (da, bs), rearmed := false, snapNum := n, trigs := [] }

/-- The lowest code among the triggers that wait (R465). -/
def lowTrig (l : List (Nat × Nat)) : Nat := (l.map Prod.fst).foldl min 5

/-- A source's trigger reaches Yarrow. -/
def execYarrowTrigger (cause : Fin 4) (detail : Nat) (s : State) : Host.Outcome State Fault Refusal :=
  onChip s fun ch =>
    let t := (cause.val + 1, detail)
    match ch.obs.arm with
    | none => ch
    | some m =>
      if ¬ obsRuns ch ∨ ¬ ch.obs.trigs.contains t ∨ lowTrig ch.obs.trigs ≠ t.1 then ch
      else if ch.obs.snap.isSome then
        raise (updObs ch fun o => { o with trigs := o.trigs.filter fun x => x != t }) .obsSnapMissed 0
      else takeSnap ch t.1 detail m.da

/-- The record is in memory (R464); an arming made since the trigger stays. -/
def execSnapshotRecordWritten (s : State) : Host.Outcome State Fault Refusal :=
  onChip s fun ch =>
    match ch.obs.snap with
    | none => ch
    | some (da, bs) =>
      if ¬ islandRuns ch 24 then ch
      else
        let ch1 := streamWrite ch da bs
        health (raise (updObs ch1 fun o =>
          { o with snap := none, arm := if o.rearmed then o.arm else o.arm.filter fun m => m.rearm })
          .obsSnapDone 0)

end Sys2Proof.Machine
end

