-- ==== Sys2Proof/Machine/Power.lean ====
section
/-! DEFINITION. The power manager: operating points, the package cap, thermal holds and the trip
(23_power_security_management.md R482 to R488, R496). -/

namespace Sys2Proof.Machine

/-! ### Operating points (R482, R484) -/

/-- The nominal VDD_COREt level of a code in mV: 600 + (F − 18) × 125 ÷ 12, rounded up to the next 5 mV. -/
def nominalMv (f : Nat) : Nat := (7200 + (f - 18) * 125 + 59) / 60 * 5

/-- The voltage–frequency table in the lock region. -/
def vfMv (nv : NonVol) (t f : Nat) : Nat := tget nv.vf (nominalMv f) (t * 64 + f)

def ceilingOf (ch : Chip) (t : Nat) : Nat := regFld ch .pwrTPoint t 13 8
def capOf (ch : Chip) : Nat := regFld ch .pwrCap 0 11 0
def powerRuns (ch : Chip) : Bool := enabled ch .pwr 0 && islandRuns ch 20

/-- A new voltage is commanded. -/
def commandMv (p : PTower) (mv : Nat) : PTower :=
  if p.mv = mv then p else { p with mvOld := p.mv, mv := mv, ramp := true }

/-- A tower is to go to code g: on a rise the voltage is commanded first, on a fall after the last step (R484). -/
def aim (p : PTower) (g mv : Nat) : PTower :=
  let q := { p with goal := g }
  if g < p.f then q else commandMv q mv

/-- The goal of a tower moves. -/
def aimTower (ch : Chip) (nv : NonVol) (t g : Nat) : Chip := updPoint ch t fun p => aim p g (vfMv nv t g)

/-! ### The package cap (R485, R486) -/

/-- The estimate allows a rise: below 98 % of the cap with the gate open. -/
def mayRise (ch : Chip) : Bool := decide (ch.sys.pwr.est * 100 < 98 * capOf ch) && ch.sys.pwr.gate == 16

/-- The code that a tower goes for in this interval: one down for the cap, a hold or a ceiling, one up when the
estimate allows it. Cap and hold together are one step (R496). -/
def nextGoal (ch : Chip) (t : Nat) : Nat :=
  let p := pointOf ch t
  let c := ceilingOf ch t
  let above := decide (capOf ch < ch.sys.pwr.est)
  let cold := !islandRuns ch 21
  if (above ∨ p.held ∨ cold) ∧ 18 < p.goal then p.goal - 1
  else if c < p.goal then p.goal - 1
  else if mayRise ch ∧ ¬ p.held ∧ ¬ p.cooling ∧ ¬ cold ∧ p.goal < c then p.goal + 1
  else p.goal

/-- One tower's part of an interval. -/
def towerInterval (ch : Chip) (nv : NonVol) (t : Nat) : Chip :=
  let above := decide (capOf ch < ch.sys.pwr.est)
  let g := nextGoal ch t
  updPoint (aimTower ch nv t g) t fun p =>
    { p with capped := (p.capped || above) && decide (g < ceilingOf ch t) }

/-- The slot gate of the next interval, and whether the cap cannot be met. -/
def gateInterval (ch : Chip) (allLow : Bool) : Chip :=
  let p := ch.sys.pwr
  if capOf ch < p.est then
    if ¬ allLow then ch
    else if 8 < p.gate then updPwr ch fun p => { p with gate := p.gate - 1 }
    else health (raise ch .pwrCapUnmet 0)
  else if p.est * 100 < 98 * capOf ch ∧ p.gate < 16 then updPwr ch fun p => { p with gate := p.gate + 1 }
  else ch

/-- A control interval of 20 µs ends with an estimate of the package power, to which the bias is added. -/
def execPowerInterval (estimate : Nat) (s : State) : Host.Outcome State Fault Refusal :=
  onChip s fun ch =>
    if ¬ powerRuns ch then ch
    else
      let ch0 := updPwr ch fun p => { p with est := ((estimate : Int) + p.bias).toNat }
      let allLow := (List.range 8).all fun t => (pointOf ch0 t).goal == 18
      let ch1 := (List.range 8).foldl (fun c t => towerInterval c s.nv t) ch0
      let ch2 := gateInterval ch1 allLow
      updPwr ch2 fun p => { p with capMs := p.capMs || cappedTowers ch2 != 0, holdMs := p.holdMs || heldTowers ch2 != 0 }

/-- The bias follows the board's measured input power, unless that value is older than 10 ms. -/
def execPowerBiasCorrect (s : State) : Host.Outcome State Fault Refusal :=
  onChip s fun ch =>
    match ch.sys.pwr.boardAt with
    | none => ch
    | some t =>
      if ¬ powerRuns ch ∨ t + 10000 < ch.us then ch
      else updPwr ch fun p =>
        { p with bias := p.bias + ((regGet ch .pwrTlmBoard 0).toNat / 1000 : Nat) - (p.est : Int) }

/-! ### Steps of a change (R484, R496) -/

/-- The PLL glides by one code. After the last step of a fall the voltage is lowered, unless the tower is held and
falls on. -/
def glide (p : PTower) (mv : Nat → Nat) : PTower :=
  if p.goal < p.f then
    let q := { p with f := p.f - 1 }
    if q.f = p.goal ∧ ¬ (p.held ∧ 18 < q.f) then commandMv q (mv q.f) else q
  else if p.f < p.goal ∧ ¬ p.ramp then { p with f := p.f + 1 }
  else p

def execFreqGlide (t : TowerId) (s : State) : Host.Outcome State Fault Refusal :=
  onChip s fun ch =>
    if islandRuns ch 20 then updPoint ch t.val fun p => glide p (vfMv s.nv t.val) else ch

/-- A ramp ends; after a regulator port error the tower holds its point. -/
def execVoltageRampDone (t : TowerId) (portError : Bool) (s : State) : Host.Outcome State Fault Refusal :=
  onChip s fun ch =>
    if ¬ (pointOf ch t.val).ramp ∨ ¬ islandRuns ch 20 then ch
    else if portError then
      health (raise (updPoint ch t.val fun p => { p with ramp := false, goal := p.f, mv := p.mvOld }) .pwrVrError 0)
    else updPoint ch t.val fun p => { p with ramp := false }

/-! ### Thermal holds and the trip (R487, R488) -/

/-- 1 ms after a hold ends, and every ms after, the tower rises by one code as the cap allows, up to its ceiling. -/
def execThermalHoldRaise (t : TowerId) (s : State) : Host.Outcome State Fault Refusal :=
  onChip s fun ch =>
    let p := pointOf ch t.val
    let c := ceilingOf ch t.val
    if ¬ powerRuns ch ∨ p.held ∨ ¬ p.cooling ∨ ¬ islandRuns ch 21 ∨ ch.us < p.since + 1000 then ch
    else if c ≤ p.goal then updPoint ch t.val fun p => { p with cooling := false }
    else if ¬ mayRise ch then ch
    else
      updPoint (aimTower ch s.nv t.val (p.goal + 1)) t.val fun p =>
        { p with since := ch.us, cooling := decide (p.goal < c) }

/-- A diode reaches the trip point: THERMTRIP_N goes low, every clock stops, the links go to electrical idle and the
NWL_BAR lines low. -/
def execThermtrip (_t : TowerId) (s : State) : Host.Outcome State Fault Refusal :=
  onChip s fun ch =>
    { ch with
      islRun := 0
      nwl := { ch.nwl with barOut := 0 }
      pci := { ch.pci with width := 0, speed := 0, flit := false }
      fab := { ch.fab with links := ch.fab.links.map fun p => (p.1, { p.2 with st := 0, partner := none }) }
      sys := { ch.sys with pins := { ch.sys.pins with trip := true } } }

end Sys2Proof.Machine
end

