-- ==== Sys2Proof/Machine/Bindweed.lean ====
section
/-! DEFINITION. Bindweed, the activation offload and prefetch engine (16_host_link.md R356 to R361, R349). -/

namespace Sys2Proof.Machine

/-! ### Queues -/

def bwOf (ch : Chip) (j : Nat) : Option BwQ := (ch.pci.bw.find? fun p => p.1 == j).map Prod.snd
def setBw (ch : Chip) (j : Nat) (q : BwQ) : Chip := { ch with pci := { ch.pci with bw := tput ch.pci.bw j q } }
def updBw (ch : Chip) (j : Nat) (f : BwQ → BwQ) : Chip :=
  match bwOf ch j with | some q => setBw ch j (f q) | none => ch
def bwRuns (ch : Chip) : Bool := blkGet ch .pci 0 true == .enabled && islandRuns ch 19

/-- Entry k of a queue (R357). -/
def bwAddr (q : BwQ) (k : Nat) : Nat := q.qda + 64 * (k % 1024)

def bwKind (r : Nat) : Nat := eb r 0 0
def bwConvert (r : Nat) : Bool := ebit r 1 0 0 == 1
def bwIrq (r : Nat) : Bool := ebit r 1 1 1 == 1
def bwDev (r : Nat) : Nat := eb r 13 8
def bwHost (r : Nat) : Nat := eb r 21 16
def bwN (r : Nat) : Nat := eb r 31 24
def bwScale (r : Nat) : Nat := eb r 37 32
def bwTid (r : Nat) : Nat := eb r 39 38
def bwNeed (r : Nat) : Nat := eb r 7 4
def bwDoneObj (r : Nat) : ObjId := objOfNat (eb r 41 40)

/-- Bytes of n elements, a padded format to a multiple of 32 (R150, R155). -/
def bwBytes (f : Fmt) (n : Nat) : Nat := ((if padded f then padTo n 32 else n) * fmtBits f + 7) / 8

def floatSide (f : Fmt) : Bool := f == .f32 || f == .bf16 || f == .f16
def blockSide (f : Fmt) : Bool := f == .be4m3 || f == .be2m1 || f == .bint4

/-- An entry obeys R357 and R358: kind, formats, alignment, and ranges in the job's HBM and in the host window. -/
def bwValid (ch : Chip) (j : JobId) (q : BwQ) (r : Nat) : Bool :=
  match fmtOfCode (eb r 2 2), fmtOfCode (eb r 3 3) with
  | some fd, some fh =>
    let n := bwN r
    let dl := bwBytes fd n
    let hl := bwBytes fh n
    let inWin (a l : Nat) : Bool := decide (q.wbase ≤ a ∧ a + l ≤ q.wbase + q.wlen) && inJobMaps ch j.val id a l
    (bwKind r == 1 || bwKind r == 2) && decide (1 ≤ n) &&
      (if bwConvert r then floatSide fd && blockSide fh else fd == fh) &&
      decide (bwDev r % 256 = 0 ∧ bwHost r % 256 = 0 ∧ bwTid r < 4096) &&
      decide (bwDev r + dl ≤ hbmEnd) && inJobMaps ch j.val (!·) (bwDev r) dl &&
      inWin (bwHost r) hl && (!bwConvert r || inWin (bwScale r) ((n + 31) / 32)) &&
      owner ch (objCluster (bwDoneObj r)) == some j
  | _, _ => false

/-! ### Completion (R360) -/

/-- An entry completes: its status and elapsed time are written, `done` is signalled, and a requested interrupt
raised. -/
def bwEnd (ch : Chip) (j : JobId) (q : BwQ) (e : BwEnt) (status : Nat) : Chip :=
  let el := if e.started then ch.us - e.at_ else 0
  let a := bwAddr q e.k + 48
  let ch1 := wrMem (landRange ch (some j) .normal a 8 true) a
    (leBytes status 1 ++ [0, 0, 0] ++ leBytes (min 0xFFFFFFFF el) 4) false
  let ch2 := count ch1 (cntPkg (8 * j.val + 4)) 1
  let ch3 := if status = 2 ∨ status = 3 then notify ch2 j.val (status + 6) 0 0xFFFF (e.k % 1024) 0 0 else ch2
  let ch4 := raiseIf (status == 4) ch3 .pciBwInvalid 0
  let ch5 := if owner ch4 (objCluster (bwDoneObj e.raw)) = some j then objDeliver ch4 8 (bwDoneObj e.raw) (.signal 1)
    else ch4
  if bwIrq e.raw then msix ch5 (j.val + 1) 3 else ch5

/-! ### Reading and starting entries (R357, R359) -/

def bwFlying (q : BwQ) : Nat := (q.ents.filter fun e => e.started).length
def bwStartEnt (q : BwQ) (us : Nat) (k : Nat) : BwQ :=
  { q with ents := q.ents.map fun e => if e.k = k then { e with started := true, at_ := us } else e }

/-- OFFLOAD entries start in push order while fewer than four are in flight. -/
def startOffloads (ch : Chip) (j : Nat) : Nat → Chip
  | 0 => ch
  | n + 1 =>
    match bwOf ch j with
    | none => ch
    | some q =>
      if 4 ≤ bwFlying q ∨ ¬ bwRuns ch then ch else
      match q.ents.find? fun e => !e.started && bwKind e.raw == 1 with
      | some e => startOffloads (setBw ch j (bwStartEnt q ch.us e.k)) j n
      | none => ch

/-- The push wait of a queue releases: the next entry is read. An entry with a poisoned word is INVALID. -/
def bindweedPushWork (run : JobRun) (ch : Chip) : Chip :=
  let j := run.job
  match bwOf ch j.val with
  | none => ch
  | some q =>
    if ¬ bwRuns ch ∨ q.closing ∨ q.rel < q.next then ch
    else
      let a := bwAddr q q.next
      let bad := anyPoi ch a 64
      let e : BwEnt := ⟨q.next, rdNat ch a 64, false, 0, false⟩
      let q1 := { q with next := q.next + 1, pushed := q.pushed + 1 }
      let ch1 := setBw (landRange ch (some j) .normal a 64 false) j.val q1
      if bad ∨ ¬ bwValid ch j q e.raw then bwEnd ch1 j q1 e 4
      else startOffloads (setBw ch1 j.val { q1 with ents := q1.ents ++ [e] }) j.val 4

def execBindweedPush (run : JobRun) (s : State) : Host.Outcome State Fault Refusal :=
  onChip s (memWork .die run.bursts (bindweedPushWork run))

/-- The eligible PREFETCH entry that goes first: the lowest `need`, ties in push order. -/
def nextPrefetch (ch : Chip) (q : BwQ) : Option BwEnt :=
  let p := (objGet ch q.progress).toNat
  (q.ents.filter fun e => !e.started && bwKind e.raw == 2 && decide (bwNeed e.raw ≤ p + q.lead)).foldl
    (fun b e => match b with
      | some x => if bwNeed e.raw < bwNeed x.raw then some e else b
      | none => some e) none

def execPrefetchStart (j : JobId) (s : State) : Host.Outcome State Fault Refusal :=
  onChip s fun ch =>
    match bwOf ch j.val with
    | none => ch
    | some q =>
      if ¬ bwRuns ch ∨ 4 ≤ bwFlying q then ch else
      match nextPrefetch ch q with
      | some e => setBw ch j.val (bwStartEnt q ch.us e.k)
      | none => ch

/-! ### Moving the data (R358, R360) -/

/-- A tensor of one dimension. -/
def lineDesc (base : Nat) (f : Fmt) (scale n : Nat) : Desc :=
  ⟨base, f, 1, false, .normal, 0, 0, scale, 0, 0, [n], [elemBytes f], []⟩

/-- Element bytes from `src` to `dst`; from byte `badFrom` on they are poison. -/
def byteMove (ch : Chip) (src dst n badFrom : Nat) : Out :=
  outAll ((List.range n).map fun i =>
    outEl (8 * (dst + i : Nat)) 8 (mget ch.mem (src + i)).toNat (decide (badFrom ≤ i) || anyPoi ch (src + i) 1))

/-- What an entry moves: `fail` ends it after `moved` elements. -/
def bwMove (ch : Chip) (r moved : Nat) (fail : Bool) (fr : Nat → Nat) : Enc :=
  match fmtOfCode (eb r 2 2), fmtOfCode (eb r 3 3) with
  | some fd, some fh =>
    let n := bwN r
    if bwKind r = 1 then
      let k := if fail then min n moved else n
      if bwConvert r then
        let k32 := if fail then k / 32 * 32 else k
        let src := lineDesc (bwDev r) fd 0 k32
        encRow (lineDesc (bwHost r) fh (bwScale r) k32) false false fr none []
          ((List.range k32).map fun i => encOf (readEl ch src [i]))
      else
        let b := if fail then k * fmtBits fd / 8 else bwBytes fd n
        { encNone with out := byteMove ch (bwDev r) (bwHost r) b b }
    else
      let good := if fail then min n moved else n
      if bwConvert r then
        let src := lineDesc (bwHost r) fh (bwScale r) n
        encRow (lineDesc (bwDev r) fd 0 n) false false fr none []
          ((List.range n).map fun i => encOf (if good ≤ i then none else readEl ch src [i]))
      else
        let b := bwBytes fd n
        { encNone with out := byteMove ch (bwHost r) (bwDev r) b (if good < n then good * fmtBits fd / 8 else b) }
  | _, _ => encNone

/-- The bytes an entry reads carry poison. -/
def bwSrcPoi (ch : Chip) (r : Nat) : Bool :=
  match fmtOfCode (eb r 2 2), fmtOfCode (eb r 3 3) with
  | some fd, some fh =>
    if bwKind r = 1 then anyPoi ch (bwDev r) (bwBytes fd (bwN r))
    else anyPoi ch (bwHost r) (bwBytes fh (bwN r)) || (bwConvert r && anyPoi ch (bwScale r) ((bwN r + 31) / 32))
  | _, _ => false

/-- The ranges of n elements at the host side of an entry. -/
def bwHostRuns (r n : Nat) : List (Nat × Nat) :=
  match fmtOfCode (eb r 3 3) with
  | some fh => (bwHost r, bwBytes fh n) :: (if bwConvert r then [(bwScale r, (n + 31) / 32)] else [])
  | none => []

/-- A queue that closes goes once nothing of it is in flight (R356). -/
def bwClose (ch : Chip) (j : Nat) : Chip :=
  match bwOf ch j with
  | some q => if q.closing ∧ q.ents = [] then { ch with pci := { ch.pci with bw := tdel ch.pci.bw j } } else ch
  | none => ch

/-- An entry in flight ends: its data has moved as far as the host let it. -/
def bindweedEntryDoneWork (j : JobId) (k : Nat) (obs : BwObs) (ch : Chip) : Chip :=
  match bwOf ch j.val with
  | none => ch
  | some q => match q.ents.find? fun e => e.k == k && e.started with
    | none => ch
    | some e =>
      let r := e.raw
      let fail := obs.hostErr || e.cut || !hostOpen ch
      let ch1 := if bwKind r = 2 then hostCells ch obs.cells else ch
      let came := if bwKind r = 2 then obs.ep.foldl (fun c p => markPoi c p.1 p.2) ch1 else ch1
      let fb := freeBits ch1
      let poi := bwSrcPoi came r
      let x := bwMove came r obs.moved fail fb.1
      let dl := match fmtOfCode (eb r 2 2) with | some f => bwBytes f (bwN r) | none => 0
      let ch2 := landRange fb.2 (some j) .normal (bwDev r) dl (bwKind r == 2)
      let ch3 := applyOut ch2 x.out
      let ch4 := if bwConvert r then watchJob ch3 j (bwTid r) x else ch3
      let ch5 := raiseIf fail (raiseIf (obs.ep != [] && bwKind r == 2) ch4 .pciEpIn 0) .pciHostError 0
      let runs := bwHostRuns r (if fail then min obs.moved (bwN r) else bwN r)
      let ch6 := count (count (sendTlps ch5 (j.val + 1) (bwKind r == 1) runs) (if bwKind r = 1 then 129 else 128)
        (runBytes runs)) (cntPkg (8 * j.val + 5)) (runBytes runs)
      let ch7 := setBw ch6 j.val { q with ents := q.ents.filter fun x => x.k != k }
      bwClose (startOffloads (bwEnd ch7 j q e (if fail then 3 else if poi then 2 else 1)) j.val 4) j.val

def execBindweedEntryDone (j : JobId) (k : Nat) (obs : BwObs) (s : State) : Host.Outcome State Fault Refusal :=
  onChip s (memWork .die obs.bursts (bindweedEntryDoneWork j k obs))

/-! ### Ends from outside (R349, R355, R356) -/

/-- The entries that were pushed and not read. -/
def bwUnread (ch : Chip) (q : BwQ) : List BwEnt :=
  (List.range (q.rel + 1 - q.next)).map fun i => ⟨q.next + i, rdNat ch (bwAddr q (q.next + i)) 64, false, 0, false⟩

/-- Entries that have not started complete with CANCELLED, read or not. -/
def bwCancel (ch : Chip) (j : JobId) : Chip :=
  match bwOf ch j.val with
  | none => ch
  | some q =>
    let unread := bwUnread ch q
    let q1 := { q with ents := q.ents.filter (fun e => e.started), next := q.next + unread.length
                       pushed := q.pushed + unread.length }
    ((q.ents.filter fun e => !e.started) ++ unread).foldl (fun c e => bwEnd c j q1 e 5) (setBw ch j.val q1)

/-- Entries in flight will end with HOST_ERROR. -/
def bwCut (ch : Chip) (j : Nat) : Chip :=
  updBw ch j fun q => { q with ents := q.ents.map fun e => { e with cut := e.cut || e.started } }

/-- DISABLE of a queue (R356). -/
def bwDisable (ch : Chip) (j : JobId) : Chip :=
  bwClose (updBw (bwCancel ch j) j.val fun q => { q with closing := true }) j.val

end Sys2Proof.Machine
end

