-- ==== Sys2Proof/Machine/Mailbox.lean ====
section
/-! DEFINITION. The mailboxes: streams, checks and responses of commands, and Campion's failover
(18_mailboxes_elbinik.md R381 to R394). -/

namespace Sys2Proof.Machine

/-! ### Commands and responses (R383, R384, R392) -/

/-- Payload bytes lo..hi of a command. -/
def pb (raw hi lo : Nat) : Nat := eb raw (hi + 16) (lo + 16)
/-- Bits hi..lo of payload byte b. -/
def pbit (raw b hi lo : Nat) : Nat := ebit raw (b + 16) hi lo
def cmdOp (raw : Nat) : Nat := eb raw 1 0
def cmdLen (raw : Nat) : Nat := eb raw 3 2
/-- The job a command names; 0xFF when device-scoped. -/
def cmdJob (raw : Nat) : Nat := eb raw 6 6
def jobId (n : Nat) : JobId := ⟨n % 16, Nat.mod_lt _ (by decide)⟩

/-- Payload bytes at or beyond `length` read as 0. -/
def cutRaw (raw : Nat) : Nat := if 48 ≤ cmdLen raw then raw else raw % 256 ^ (16 + cmdLen raw)

/-- What a response says: status, detail, defined payload bytes. -/
structure Rsp where
  status : Nat
  detail : Nat
  len : Nat
  bytes : List Byte
  deriving DecidableEq, Repr

def rspOk : Rsp := ⟨0, 0, 0, []⟩
def rspOf (status : Nat) : Rsp := ⟨status, 0, 0, []⟩
/-- INVALID_PARAMETER for a payload byte. -/
def rspBad (b : Nat) : Rsp := ⟨0x12, b + 16, 0, []⟩
def rspData (status n : Nat) (bs : List Byte) : Rsp := ⟨status, 0, n, bs⟩

/-- The 64 bytes of a response. -/
def rspBytes (raw : Nat) (r : Rsp) (elapsed : Nat) : List Byte :=
  let p := (r.bytes.take r.len) ++ List.replicate (48 - (r.bytes.take r.len).length) 0
  leBytes (cmdOp raw) 2 ++ leBytes r.len 2 ++ leBytes (eb raw 5 4) 2 ++ leBytes (cmdJob raw) 1 ++ [0] ++
    leBytes r.status 2 ++ leBytes r.detail 2 ++ leBytes (min 0xFFFFFFFF elapsed) 4 ++ p.take 48

/-! ### The command table (R393) -/

/-- The scope of a command: device, job, device on the PF and job on a VF, or by its payload. -/
inductive CmdScope where
  | dev | job | either | twin
  deriving DecidableEq, Repr

/-- Scope of an opcode, and whether the PF alone may issue it; none when it is not listed. -/
def cmdInfo (op : Nat) : Option (CmdScope × Bool) :=
  match op with
  | 0x01 => some (.dev, false)
  | 0x10 | 0x11 | 0x12 | 0x20 | 0x21 | 0x22 => some (.job, true)
  | 0x30 | 0x31 | 0x32 | 0x40 | 0x41 | 0x42 => some (.job, false)
  | 0x50 | 0x51 => some (.dev, true)
  | 0x52 => some (.either, false)
  | 0x60 | 0x61 => some (.dev, true)
  | 0x62 | 0x63 => some (.job, false)
  | 0x70 => some (.twin, true)
  | 0x71 => some (.job, false)
  | 0x72 => some (.job, true)
  | 0x80 | 0x81 => some (.dev, true)
  | 0x82 => some (.either, false)
  | 0x83 => some (.dev, true)
  | 0x90 | 0x91 => some (.job, true)
  | 0x92 | 0xA0 => some (.dev, true)
  | 0xB0 => some (.dev, false)
  | 0xB1 | 0xC0 | 0xC1 => some (.dev, true)
  | 0xD0 => some (.job, false)
  | 0xE0 => some (.dev, true)
  | _ => none

/-- A command of function f is job-scoped. TWIN_CFG is so for SOURCE, QUERY and REMOVE of a SOURCE. -/
def jobScoped (sc : CmdScope) (f raw : Nat) : Bool :=
  match sc with
  | .dev => false
  | .job => true
  | .either => f != 0
  | .twin => pb raw 0 0 == 0 || pb raw 0 0 == 3 || (pb raw 0 0 == 2 && pb raw 1 1 == 0)

/-- Checks 1 to 5 of R385, as the status of the first that fails. -/
def headCheck (ch : Chip) (f raw : Nat) : Option Rsp :=
  match cmdInfo (cmdOp raw) with
  | none => some (rspOf 0x10)
  | some (sc, pf) =>
    let j := cmdJob raw
    let js := jobScoped sc f raw
    let named := if f = 0 then (if js then decide (j < 16) else j == 0xFF) else j == f - 1
    if 48 < cmdLen raw then some ⟨0x11, 2, 0, []⟩
    else if ch.phase ≠ 4 ∧ cmdOp raw ≠ 1 then some (rspOf 0x16)
    else if (pf ∧ f ≠ 0) ∨ ¬ named then some (rspOf 0x13)
    else if js ∧ cmdOp raw ≠ 0x10 ∧ ¬ jobExists ch j then some (rspOf 0x17)
    else none

/-- Reserved bytes that are not 0, with the fields out of range: the command byte that fails first (R385, check 6).
`used` lists the payload ranges that hold fields, `bad` the payload bytes of fields out of range. -/
def fieldCheck (raw : Nat) (used : List (Nat × Nat)) (bad : List Nat) : Option Nat :=
  let resv := (List.range 48).filter fun b => pb raw b b != 0 && !(used.any fun u => decide (u.1 ≤ b ∧ b ≤ u.2))
  let head := (span 7 9).filter fun b => eb raw b b != 0
  match head ++ (resv ++ bad).map (· + 16) with
  | [] => none
  | x :: r => some (r.foldl min x)

/-- A field out of range, as its payload byte. -/
def badIf (c : Bool) (b : Nat) : List Nat := if c then [b] else []

/-- The state of the job excludes the command (R394). -/
def stateBusy (ch : Chip) (raw : Nat) : Bool :=
  let op := cmdOp raw
  match (jobOf ch (cmdJob raw)).state with
  | .none => false
  | .idle => op == 0x10
  | .running | .halting => op == 0x10 || op == 0x12 || op == 0x21 || op == 0x30 || op == 0x31

/-! ### Responding (R386, R387, R391, R349) -/

def streamIx (s : Stream) : Nat := 2 * s.fn.val + b2n s.ring

/-- A response goes to the response registers. -/
def mbxRespond (ch : Chip) (f : Nat) (bs : List Byte) : Chip :=
  let ch1 := (List.range 16).foldl (fun c i =>
    regSet c .mbxRsp f (BitVec.ofNat 32 (leNat ((bs.drop (4 * i)).take 4))) i) ch
  let ch2 := count (updStream ch1 (2 * f) fun x => { x with busy := false, rspValid := true, held := none }) 134 1
  if (regGet ch .mbxIrqEn f).getLsbD 0 then msix ch2 f 0 else ch2

/-- Bytes of firmware at a DA, for function f: through the window, or through the home slices. -/
def fwWrite (ch : Chip) (f a : Nat) (bs : List Byte) : Chip :=
  if outBase ≤ a then
    (if hostOpen ch then wrMem (hostWrite ch f [(a, bs.length)]) a bs false else hostWrite ch f [(a, bs.length)])
  else postWrite ch .firmware .normal none a bs

/-- A response goes to the completion ring. -/
def ringRespond (ch : Chip) (f : Nat) (bs : List Byte) : Chip :=
  let k := 2 * f + 1
  let x := streamOf ch k
  let ch0 := updStream ch k fun x => { x with held := none }
  let t := regFld ch .mbxCplTail f 11 0
  let a := ringBase ch f + 64 * (ringSize ch f + t)
  if blkGet ch .mbx f = .disabled then ch0
  else if ¬ ringOk ch f then ringError ch0 f
  else if outBase ≤ a ∧ ¬ hostOpen ch then ringError (fwWrite ch0 f a bs) f
  else
    let ch1 := fwWrite ch0 f a (bs.set 7 (BitVec.ofNat 8 (b2n x.phase)))
    let t1 := (t + 1) % ringSize ch f
    let ch2 := updStream (regSet ch1 .mbxCplTail f (BitVec.ofNat 32 t1)) k fun x =>
      { x with phase := if t1 = 0 then !x.phase else x.phase }
    let ch3 := count ch2 135 1
    if (regGet ch .mbxIrqEn f).getLsbD 1 then msix ch3 f 1 else ch3

def deliverRsp (ch : Chip) (k : Nat) (bs : List Byte) : Chip :=
  if k % 2 = 0 then mbxRespond ch (k / 2) bs else ringRespond ch (k / 2) bs

/-- A command has its response, which waits while the PCI Express link is down. -/
def respond (ch : Chip) (k : Nat) (c : Cmd) (r : Rsp) : Chip :=
  let bs := rspBytes c.raw r (ch.us - c.since)
  let ch1 := updStream ch k fun x => { x with cmd := none }
  if ch.pci.width = 0 then updStream ch1 k fun x => { x with held := some bs } else deliverRsp ch1 k bs

/-! ### Starting commands (R385 to R389) -/

/-- The ring has an entry to consume, and room to complete it. -/
def ringFull (ch : Chip) (f : Nat) : Bool :=
  (regFld ch .mbxCplTail f 11 0 + 1) % ringSize ch f == regFld ch .mbxCplHead f 11 0
def ringWaits (ch : Chip) (f : Nat) : Bool :=
  enabled ch .mbx f && regFld ch .mbxRingTail f 11 0 != regFld ch .mbxRingHead f 11 0

/-- Stream k may start a command. -/
def streamReady (ch : Chip) (k : Nat) : Bool :=
  let x := streamOf ch k
  x.cmd.isNone && x.held.isNone && (if k % 2 = 0 then x.busy else ringWaits ch (k / 2) && !ringFull ch (k / 2))

/-- The stream that the arbitration of R377 grants. -/
def granted (ch : Chip) : Option Nat :=
  ((List.range 34).map fun i => (ch.sys.camp.base + i) % 34).find? (streamReady ch)

def updCamp (ch : Chip) (f : Campion → Campion) : Chip := { ch with sys := { ch.sys with camp := f ch.sys.camp } }

/-- The 16 words of MBX_CMD. -/
def mbxRaw (ch : Chip) (f : Nat) : Nat :=
  (List.range 16).foldl (fun n i => n + (regGet ch .mbxCmd f i).toNat * 2 ^ (32 * i)) 0

/-- A command that was read is checked, and starts or is answered. -/
def startCmd (ch : Chip) (k raw0 since : Nat) : Chip :=
  let raw := cutRaw raw0
  let c : Cmd := ⟨raw, since, ch.sys.camp.next, false, []⟩
  match headCheck ch (k / 2) raw with
  | some r => respond ch k c r
  | none => updCamp (updStream ch k fun x => { x with cmd := some c }) fun p => { p with next := p.next + 1 }

/-- A read of HBM by firmware waits for a repair (R281). -/
def fwReadWaits (ch : Chip) (a n : Nat) : Bool :=
  memHeld ch .firmware (touched (fun c => landRange c none .normal a n false) ch)

/-- What firmware reads of a command's data in the outbound window, and whether that fails (R354, R360). -/
def fetchHost (ch : Chip) (h : HostIn) (runs : List (Nat × Nat)) : Chip × Bool :=
  let o := runs.filter fun r => decide (outBase ≤ r.1)
  if o = [] then (ch, false) else (hostRead ch 0 h o, hostBad ch h)

/-- The next entry of a ring is read: HEAD advances, unless the read fails. -/
def ringRead (ch : Chip) (f : Nat) (h : HostIn) : Chip :=
  let hd := regFld ch .mbxRingHead f 11 0
  let a := ringBase ch f + 64 * hd
  let out := decide (outBase ≤ a)
  let ch1 := if out then hostRead ch f h [(a, 64)] else landRange ch none .normal a 64 false
  if ¬ ringOk ch f ∨ (out ∧ hostBad ch h) ∨ anyPoi ch1 a 64 then ringError ch1 f
  else
    let ch2 := regSet ch1 .mbxRingHead f (BitVec.ofNat 32 ((hd + 1) % ringSize ch f))
    startCmd ch2 (2 * f + 1) (rdNat ch1 a 64) ch.us

/-- Firmware starts a command of the stream that arbitration grants; a full completion ring stalls its own. -/
def execCommandStart (s : Stream) (h : HostIn) (st : State) : Host.Outcome State Fault Refusal :=
  onChip st fun ch =>
    let k := streamIx s
    let f := s.fn.val
    if ¬ fwReady ch then ch
    else if s.ring ∧ ringWaits ch f ∧ ringFull ch f then raise ch .mbxCplFull f
    else if granted ch ≠ some k then ch
    else
      let ch1 := updCamp ch fun p => { p with base := (p.base + 1) % 34 }
      if s.ring ∧ fwReadWaits ch (ringBase ch f + 64 * regFld ch .mbxRingHead f 11 0) 64 then ch
      else if s.ring then ringRead ch1 f h else startCmd ch1 k (mbxRaw ch1 f) (streamOf ch k).since

/-! ### Running commands (R388 to R390, R397, R405) -/

/-- What a command did: its response if it has one, what it remembers, and whether its work goes on after it. -/
structure Did where
  chip : Chip
  rsp : Option Rsp
  memo : List Nat
  bg : Bool

def reply (ch : Chip) (r : Rsp) : Did := ⟨ch, some r, [], false⟩
def stay (ch : Chip) (memo : List Nat) : Did := ⟨ch, none, memo, false⟩

/-- Commands that are applied only when they respond: JOB_DESTROY, JOB_ASSIGN_CLUSTERS, PROG_LOAD and ARRAY_PROGRAM. -/
def appliedLast (op : Nat) : Bool := op == 0x11 || op == 0x12 || op == 0x30 || op == 0x40

/-- An earlier command of the same job has not taken effect (R389); a JOB_DESTROY waits for every earlier response (R405). -/
def blocked (ch : Chip) (k : Nat) (c : Cmd) : Bool :=
  cmdJob c.raw != 0xFF && ((List.range 34).any fun i => i != k &&
    (match (streamOf ch i).cmd with
      | some d => cmdJob d.raw == cmdJob c.raw && decide (d.order < c.order) &&
          (!d.committed || appliedLast (cmdOp d.raw) || cmdOp c.raw == 0x11)
      | none => false))

/-- A command that changes the state is done or goes on. -/
def settle (k : Nat) (c : Cmd) (d : Did) : Chip :=
  match d.rsp with
  | none => updStream d.chip k fun x => { x with cmd := some { c with committed := true, memo := d.memo } }
  | some r =>
    let ch1 := respond d.chip k c r
    if d.bg then updStream ch1 k fun x => { x with bg := x.bg ++ [{ c with committed := true, memo := d.memo }] } else ch1

/-- The command that stream k runs under an opcode. -/
def cmdIn (ch : Chip) (k op : Nat) (mine : Nat → Bool) : Option Cmd :=
  match (streamOf ch k).cmd with
  | some c => if fwReady ch && cmdOp c.raw == op && mine c.raw then some c else none
  | none => none

/-- A command about to take effect: what answers it at once, if anything does (R385, R394, R397). -/
def refuse (ch : Chip) (k : Nat) (c : Cmd) (used : List (Nat × Nat)) (bad : List Nat) : Option Rsp :=
  match headCheck ch (k / 2) c.raw with
  | some r => some r
  | none =>
    match fieldCheck c.raw used bad with
    | some b => some ⟨0x12, b, 0, []⟩
    | none =>
      let js : Bool := match cmdInfo (cmdOp c.raw) with | some i => jobScoped i.1 (k / 2) c.raw | none => false
      if js ∧ stateBusy ch c.raw then some (rspOf 0x14) else none

/-- Runs a command: `start` when it takes effect, `go` while it only waits. -/
def runCmdOn (ch : Chip) (s : Stream) (op : Nat) (mine : Nat → Bool) (chk : Nat → List (Nat × Nat) × List Nat)
    (start go : Chip → Cmd → Did) : Chip :=
  let k := streamIx s
  match cmdIn ch k op mine with
  | none => ch
  | some c =>
    if c.committed then settle k c (go ch c)
    else if blocked ch k c then ch
    else
      match refuse ch k c (chk c.raw).1 (chk c.raw).2 with
      | some r => respond ch k c r
      | none => settle k c (start ch c)

def runCmd (st : State) (s : Stream) (op : Nat) (mine : Nat → Bool) (chk : Nat → List (Nat × Nat) × List Nat)
    (start go : Chip → Cmd → Did) : Host.Outcome State Fault Refusal :=
  onChip st fun ch => runCmdOn ch s op mine chk start go

/-- A command that responds as it takes effect. -/
def runNow (st : State) (s : Stream) (op : Nat) (mine : Nat → Bool) (chk : Nat → List (Nat × Nat) × List Nat)
    (f : Chip → Cmd → Chip × Rsp) : Host.Outcome State Fault Refusal :=
  runCmd st s op mine chk (fun ch c => let r := f ch c; reply r.1 r.2) stay'
where
  stay' (ch : Chip) (c : Cmd) : Did := stay ch c.memo

/-- The one row of an opcode. -/
def anyRow (_ : Nat) : Bool := true
/-- The row of an action in payload byte 0; the first action's row also answers values that are none. -/
def actRow (a n : Nat) (raw : Nat) : Bool := pb raw 0 0 == a || (a == 0 && decide (n ≤ pb raw 0 0))

/-- Commands that change what outlives resets. -/
def runNv (st : State) (s : Stream) (op : Nat) (mine : Nat → Bool) (chk : Nat → List (Nat × Nat) × List Nat)
    (f : Chip → NonVol → Cmd → Chip × NonVol × Rsp) : Host.Outcome State Fault Refusal :=
  .next (if ¬ live st.chip then st else
    let ch := st.chip
    let k := streamIx s
    match cmdIn ch k op mine with
    | none => st
    | some c =>
      if blocked ch k c then st
      else match refuse ch k c (chk c.raw).1 (chk c.raw).2 with
        | some r => { st with chip := respond ch k c r }
        | none =>
          let d := f ch st.nv c
          { st with chip := respond d.1 k c d.2.2, nv := d.2.1 })

/-! ### Failover (R381) -/

/-- The device enters FAILED with a cause of R420; the boot ROM answers but for cause 3. -/
def enterFailed (ch : Chip) (cause : Nat) : Chip :=
  let ch0 := { ch with phase := 5, sys := { ch.sys with pins := { ch.sys.pins with spi := none } } }
  let ch1 := regPut ch0 .pwrBootStat 0 31 24 cause
  if cause = 3 then updCamp ch1 fun p => { p with failed := 2 } else acceptCmd ch1 0

/-- A pair fails its compare during BOOT: the spare pair restarts BOOT, or both have failed (R414, R420). -/
def bootPairFails (ch : Chip) : Chip :=
  if 1 ≤ ch.sys.camp.failed then enterFailed ch 3
  else regPut (count (updCamp ch fun p => { p with failed := 1 }) 136 1) .pwrBootStat 0 5 5 1

/-- The active pair fails its compare: commands that have not committed end RESTARTED, and the spare pair takes over;
with no pair left nothing responds. The fault source of a snapshot sees the pair fail (R430, R462; log 101). -/
def execLockstepMismatch (st : State) : Host.Outcome State Fault Refusal :=
  onChip st fun ch =>
    if 2 ≤ ch.sys.camp.failed ∨ ¬ islandRuns ch 20 then ch
    else if ch.phase = 0 then bootPairFails ch
    else if ch.sys.camp.failed = 1 then faultMark (updCamp ch fun p => { p with failed := 2 }) 0xFFFF
    else
      let ch1 := (List.range 34).foldl (fun c k =>
        match (streamOf c k).cmd with
        | some d => if d.committed then c else respond c k d (rspOf 0x1E)
        | none => c) ch
      faultMark (health (count (updCamp ch1 fun p => { p with failed := 1 }) 136 1)) 0xFFFF

/-! ### The registers (R386, R387) -/

/-- A write to a register of mailbox instance f, on the PF's or the VF's BAR. -/
def mbxWrite (s : State) (r : Reg) (f : FnId) (v : Word) : Host.Outcome State Fault Refusal :=
  onReg s r f.val fun ch => writeReg ch false r f.val 0 v

def execMbxDoorbell (f : FnId) (s : State) : Host.Outcome State Fault Refusal := mbxWrite s .mbxDoorbell f 1
def execMbxRingTail (f : FnId) (v : Word) (s : State) : Host.Outcome State Fault Refusal := mbxWrite s .mbxRingTail f v
def execMbxCplHead (f : FnId) (v : Word) (s : State) : Host.Outcome State Fault Refusal := mbxWrite s .mbxCplHead f v
def execMbxRingEnable (f : FnId) (v : Word) (s : State) : Host.Outcome State Fault Refusal :=
  mbxWrite s .mbxRingCfg f v

end Sys2Proof.Machine
end

