-- ==== Sys2Proof/Machine/Jobs.lean ====
section
/-! DEFINITION. DEV_QUERY and the commands of jobs: creation, clusters, mappings, program images, launch and halt
(18_mailboxes_elbinik.md R394 to R402; 12_memory.md R265, R284; 10_oanoine_control.md R237, R238). -/

namespace Sys2Proof.Machine

/-! ### DEV_QUERY (R395) -/

/-- The available cores of a cluster (R23); a VF sees those of its job's clusters alone. -/
def coreMask (ch : Chip) (f cl : Nat) : Nat :=
  if f = 0 ∨ owner ch cl = some (jobId (f - 1)) then
    bits8 fun k => !(tcoreOf ch (8 * cl + k)).fenced && !(towerOf ch (cl / 16)).fenced
  else 0

/-- Page 0; the boot ROM of a device in FAILED answers it with firmware release 0.0 (R420). -/
def queryPage0 (ch : Chip) : List Byte :=
  let jobs := (List.range 16).foldl (fun n j => n + b2n (jobExists ch j) * 2 ^ j) 0
  let stkBits := (List.range 16).foldl (fun n k => n + b2n (stackOf ch k).inService * 2 ^ k) 0
  leBytes 0x8016 2 ++ [0xA2, if ch.phase = 5 then 0 else 1, 0, 1, 0] ++ leBytes ch.phase 1 ++ leBytes ch.nwl.pos.toNat 1 ++
    leBytes (b2n (ch.sys.camp.failed == 0)) 1 ++ leBytes jobs 2 ++ leBytes (bits8 fun t => (towerOf ch t).fault) 1 ++
    leBytes (bits8 fun t => (towerOf ch t).fenced) 1 ++ leBytes stkBits 2 ++ leBytes (devIdOf ch).toNat 8

def queryBytes (ch : Chip) (f page : Nat) : List Byte :=
  let masks (a n : Nat) : List Byte := (span a n).flatMap fun cl => leBytes (coreMask ch f cl) 1
  match page with
  | 0 => queryPage0 ch
  | 1 => masks 0 48
  | 2 => masks 48 48
  | 3 => masks 96 32
  | _ => (List.range 32).flatMap fun l => leBytes (linkOf ch l).st 1

def execDevQuery (s : Stream) (st : State) : Host.Outcome State Fault Refusal :=
  runNow st s 0x01 anyRow (fun raw => ([(0, 0)], badIf (4 < pb raw 0 0) 0)) fun ch c =>
    (ch, if ch.phase = 5 ∧ pb c.raw 0 0 ≠ 0 then rspOf 0x16 else rspData 0 48 (queryBytes ch s.fn.val (pb c.raw 0 0)))

/-! ### Placing HBM (R265, R399, R416) -/

/-- HBM that firmware has given out: mappings, hold areas, dump regions and buffers. -/
def taken (ch : Chip) : List (Nat × Nat) :=
  (ch.jobs.flatMap fun p => (p.2.maps.filter fun m => !m.host).map fun m => (m.da, m.len)) ++
  (ch.fab.holds.map fun h => (h.da, holdSpan h)) ++
  (ch.jobs.filterMap fun p => p.2.dump.map fun d => (d.da, d.slot * d.records)) ++
  (ch.obs.recs.map fun r => (r.2.1, r.2.2.length)) ++
  (ch.sys.convs.filterMap fun p => p.2.buf) ++
  (if (regGet ch .obsCtrl 0).getLsbD 1 then [(dumpBase ch, dumpRecs ch * devRecLen)] else [])

def layerUsed (ch : Chip) (i : Nat) : Bool :=
  (taken ch).any fun r => decide (r.1 < hbmEnd) && layerOfDa r.1 == i

/-- A piece of layer i in tower t may take what is asked in a mode. -/
def pieceOk (ch : Chip) (isGlobal : Bool) (t i : Nat) : Bool :=
  (!layerUsed ch i || ch.globalLayers.contains i == isGlobal) &&
    (if isGlobal then (List.range 16).all fun k => (stackOf ch k).inService
     else (stackOf ch (2 * t)).inService && (stackOf ch (2 * t + 1)).inService)

def mib : Nat := 0x100000

/-- The lowest free 1 MiB-aligned place for n bytes in a piece. -/
def freeIn (ch : Chip) (base n : Nat) : Option Nat :=
  let used := taken ch
  let ends := (used.filter fun r => decide (base < r.1 + r.2 ∧ r.1 < base + 0x400000000)).map fun r =>
    (r.1 + r.2 + mib - 1) / mib * mib
  (ends.foldl sadd [base]).find? fun a =>
    decide (a + n ≤ base + 0x400000000) && used.all fun r => decide (a + n ≤ r.1 ∨ r.1 + r.2 ≤ a)

/-- The lowest free DA for n bytes in a tower's range, or in any (0xFF). -/
def placeHbm (ch : Chip) (isGlobal : Bool) (tower n : Nat) : Option Nat :=
  ((List.range 48).filter fun p => (tower == 0xFF || p / 6 == tower) && pieceOk ch isGlobal (p / 6) (p % 6)).findSome?
    fun p => freeIn ch (p / 6 * 0x1800000000 + p % 6 * 0x400000000) n

/-- A layer takes the mode of its first mapping, and is LOCAL again once it holds nothing. -/
def setLayer (ch : Chip) (isGlobal : Bool) (da : Nat) : Chip :=
  if isGlobal then { ch with globalLayers := sadd ch.globalLayers (layerOfDa da) } else ch
def freeLayers (ch : Chip) : Chip := { ch with globalLayers := ch.globalLayers.filter (layerUsed ch) }

/-- A mapping of HBM is created and zeroed. -/
def mapHbm (ch : Chip) (j da n : Nat) : Chip :=
  let ch1 := zeroRange (setLayer ch (jobOf ch j).global da) da n
  updJob ch1 j fun b => { b with maps := b.maps ++ [⟨da, n, false⟩] }

/-- A mapping is removed; Landing lines of an HBM mapping are dropped in all slices. -/
def unmap (ch : Chip) (j : Nat) (m : MapEnt) : Chip :=
  let ch1 := if m.host then ch else landInvalidate ch m.da m.len
  freeLayers (updJob ch1 j fun b => { b with maps := b.maps.filter fun x => x.da != m.da || x.host != m.host })

def towerOk (t : Nat) : Bool := decide (t < 8 ∨ t = 0xFF)

/-! ### JOB_CREATE and JOB_DESTROY (R396, R397) -/

/-- Every partition bucket of the job is unlimited. -/
def openRates (ch : Chip) (j : Nat) : Chip :=
  (List.range 16).foldl (fun c k => fwReg c .hbmPartRate k fun c =>
    updStack c k fun x => setRate x j (partRate c k j ||| 0xFFFF)) ch

def execJobCreate (s : Stream) (st : State) : Host.Outcome State Fault Refusal :=
  runNow st s 0x10 anyRow
    (fun raw => ([(0, 3)], badIf (1 < pb raw 0 0) 0 ++ badIf (!towerOk (pb raw 1 1)) 1)) fun ch c =>
    let j := cmdJob c.raw
    let isGlobal := pb c.raw 0 0 == 1
    match placeHbm ch isGlobal (pb c.raw 1 1) mib with
    | none => (ch, rspOf 0x15)
    | some da =>
      let ch1 := updJob ch j fun _ =>
        { jobReset with state := .idle, global := isGlobal, tower := pb c.raw 1 1
                        jfid := BitVec.ofNat 16 (pb c.raw 3 2), stat := da }
      let ch2 := openRates (mapHbm ch1 j da mib) j
      ({ ch2 with cnts := (span (8 * j) 8).foldl tdel ch2.cnts }, rspData 0 8 (leBytes da 6))

/-- Every core of the job stopped and its queues are empty. -/
def jobQuiet (ch : Chip) (j : JobId) : Bool :=
  (coresOfJob ch j).all fun g =>
    let k := coreOf ch g
    k.run != .running && k.run != .waiting && k.q.all (fun i => i.phase == .done) && (bankOf ch g).reads == []

/-! ### Background work (R388) -/

/-- The core that a tower byte and a core byte name. -/
def coreAt (t c : Nat) : Nat := 128 * t + c
def apCore (raw : Nat) : Nat := coreAt (pb raw 0 0) (pb raw 1 1)
def apAuto (raw : Nat) : Bool := pbit raw 4 0 0 == 1
def arCore (raw : Nat) : Nat := coreAt (pb raw 0 0) (pb raw 1 1)

/-- The byte ranges an ARRAY_PROGRAM uses: masters, scales and images (R403). -/
def apMasters (raw : Nat) : Nat × Nat := (pb raw 13 8, pb raw 3 3 * 0x40000)
def apScales (raw : Nat) : Nat × Nat := (pb raw 21 16, if apAuto raw then 0 else pb raw 3 3 * 128)
def apImages (raw : Nat) : Nat × Nat := (pb raw 29 24, pb raw 3 3 * 0x40000)

/-- Arrays of a background ARRAY_REFRESH whose refresh is still to end. -/
def refreshLeft (ch : Chip) (c : Cmd) : List Nat :=
  let g := arCore c.raw
  c.memo.filter fun a => (bankOf ch g).refreshQ.contains a && decide ((arrOf ch g a).loadAt ≤ c.since)

/-- Some background work of an earlier command is p's. -/
def anyBg (ch : Chip) (p : Cmd → Bool) : Bool := (List.range 34).any fun k => (streamOf ch k).bg.any p
/-- Background work of an earlier ARRAY_PROGRAM or ARRAY_REFRESH holds the core (R388). -/
def coreBusy (ch : Chip) (g : Nat) : Bool :=
  anyBg ch fun c => (cmdOp c.raw == 0x40 && apCore c.raw == g) ||
    (cmdOp c.raw == 0x42 && arCore c.raw == g && refreshLeft ch c != [])
/-- Background work of an earlier ARRAY_PROGRAM uses a range of memory. -/
def rangeBusy (ch : Chip) (a n : Nat) : Bool :=
  anyBg ch fun c => cmdOp c.raw == 0x40 && [apMasters c.raw, apScales c.raw, apImages c.raw].any fun r =>
    decide (r.1 < a + n ∧ a < r.1 + r.2)

/-! ### JOB_ASSIGN_CLUSTERS (R398) -/

/-- A core whose cluster changes owner: memories zeroed, tiles EMPTY, arrays unloaded, its image removed. -/
def clearCore (ch : Chip) (g : Nat) : Chip :=
  let ch1 := zeroRange (zeroRange (zeroRange ch (scratchBase g) scratchLen) (imemBase g) 0x20000) (descBase g) 0x10000
  let ch2 := setAcc ch1 g { accReset with fencedEng := (accOf ch1 g).fencedEng }
  let ch3 := (List.range 136).foldl (fun c a =>
    let x := arrOf c g a
    if x.role = 0 ∨ x.loaded then
      updArr (dropRefresh (dropTransfers c g a) g a) g a fun y => { y with loaded := false, job := none }
    else c) ch2
  setCore ch3 g { coreReset with seq := (coreOf ch3 g).seq }

/-- What the ports hold for objects of a cluster that is taken away goes: remote SIGNALs are refused (R291, R294), the rest
of its job's operations lapse with the counts (R286, log 162); a completion's subtraction is owed no more. -/
def rejectHeld (ch : Chip) (cl : Nat) : Chip :=
  let mine (p : PortOp) : Bool := !p.bus && objCluster p.obj == cl
  (ch.ports.filter mine).foldl (fun c p => match p.jfid, p.op with
    | some _, _ => remoteReject c p.obj
    | none, .completion b _ => updNwl c fun n => { n with holdSub := sdel n.holdSub b }
    | none, _ => c) { ch with ports := ch.ports.filter fun p => !mine p }

/-- A cluster changes owner. -/
def moveCluster (ch : Chip) (dest : Option JobId) (cl : Nat) : Chip :=
  let ch1 := landFlushWay (rejectHeld (unbindCluster ch cl) cl) cl
  let ch2 := (coresOfCluster cl).foldl clearCore ch1
  let ch3 := { ch2 with
    objs := ch2.objs.filter fun p => p.1 / 512 != cl
    objPoi := ch2.objPoi.filter fun o => o / 512 != cl }
  let mine := clusterCounters cl
  match dest with
  | none =>
    let c := match owner ch3 cl with
      | some j => updJob ch3 j.val fun b => { b with base := b.base.filter fun p => !mine.contains p.1 }
      | none => ch3
    { c with clus := tdel c.clus cl }
  | some j =>
    updJob { ch3 with clus := tput ch3.clus cl j } j.val fun b =>
      { b with base := mine.foldl (fun t k => tput t k (cntNow ch3 k)) b.base }

/-- The clusters of the mask. -/
def maskClusters (raw : Nat) : List Nat := (List.range 128).filter fun cl => (pb raw 31 16).testBit cl

/-- A dirty line of a cluster's way waits for a repair of its pseudo-channel (R281, R282). -/
def wayWaits (ch : Chip) (cl : Nat) : Bool :=
  ch.land.lines.any fun p => p.1 / 393216 == cl / 16 && p.1 % 16 == cl % 16 && p.2.dirty &&
    (stackOf ch (stackLine ch p.2.da).1).repair == some (lineGeo (stackLine ch p.2.da).2).1

/-- The command takes effect once no core of a cluster that changes owner is under test (R22, R405) and its way can be
written back; meanwhile that way is being flushed (R269, R283). -/
def clusterCmd (ch : Chip) (c : Cmd) (give : Bool) : Did :=
  let j := jobId (cmdJob c.raw)
  let cls := maskClusters c.raw
  let ok := cls.all fun cl => if give then owner ch cl == none || owner ch cl == some j else owner ch cl == some j
  let change := cls.filter fun cl => !give || owner ch cl == none
  let tested := change.any fun cl => (coresOfCluster cl).any fun g => (tcoreOf ch g).under.isSome
  if ¬ ok ∨ (¬ give ∧ change.any fun cl => (coresOfCluster cl).any (coreBusy ch)) then reply ch (rspOf 0x14)
  else if tested ∨ change.any (wayWaits ch) then
    stay { ch with land := { ch.land with flushing := if tested then [] else change.filter (wayWaits ch) } } []
  else
    reply (change.foldl (fun x cl => moveCluster x (if give then some j else none) cl)
      { ch with land := { ch.land with flushing := [] } }) rspOk

def assignChk (raw : Nat) : List (Nat × Nat) × List Nat := ([(0, 0), (16, 31)], badIf (1 < pb raw 0 0) 0)

def execJobAssignClustersAssign (s : Stream) (st : State) : Host.Outcome State Fault Refusal :=
  runCmd st s 0x12 (actRow 0 2) assignChk (fun ch c => clusterCmd ch c true) fun ch c => clusterCmd ch c true
def execJobAssignClustersRelease (s : Stream) (st : State) : Host.Outcome State Fault Refusal :=
  runCmd st s 0x12 (actRow 1 2) assignChk (fun ch c => clusterCmd ch c false) fun ch c => clusterCmd ch c false

/-! ### JOB_DESTROY (R397) -/

/-- The job's function has no command without a response any more: they complete with NO_JOB. -/
def dropCommands (ch : Chip) (f k : Nat) : Chip :=
  [2 * f, 2 * f + 1].foldl (fun c i =>
    if i = k then c else
    match (streamOf c i).cmd with
    | some d => respond c i d (rspOf 0x17)
    | none =>
      if i % 2 = 0 ∧ (streamOf c i).busy ∧ (streamOf c i).held = none then
        respond c i ⟨cutRaw (mbxRaw c f), (streamOf c i).since, 0, false, []⟩ (rspOf 0x17)
      else c) ch

/-- Steps 2 to 4, once the job's cores stopped. -/
def destroyUnits (ch : Chip) (j : JobId) : Chip :=
  let ch1 := abortCopy ch j.val 4
  let ch2 := { ch1 with fab := { ch1.fab with twins := tdel ch1.fab.twins j.val, rests := tdel ch1.fab.rests j.val } }
  let ch3 := (groupIds ch2).foldl (fun c g => match groupOf c g with
    | some x => if x.job = j then destroyGroup c g else c
    | none => c) ch2
  bwDisable ch3 j

/-- Steps 5 and 6, and the job is NONE. -/
def destroyJob (ch : Chip) (j : JobId) : Chip :=
  let ch1 := (clustersOf ch j).foldl (fun c cl => moveCluster c none cl) ch
  let ch2 := (jobOf ch1 j.val).maps.foldl (fun c m => unmap c j.val m) ch1
  freeLayers { ch2 with jobs := tdel ch2.jobs j.val }

/-- A record of the cut in progress has yet to be written to the job's dump region (R453, R458). -/
def dumpBusy (ch : Chip) (j : Nat) : Bool :=
  ch.obs.cutBusy && islandRuns ch 24 && ch.obs.recs.any fun r => match r.1 with | some i => i.val == j | none => false

/-- A destroy goes on once the cores have stopped, nothing of the offload queue is in flight, and the cut in progress
has been written (R397, R458). -/
def destroyGo (ch : Chip) (k : Nat) (j : JobId) : Did :=
  if ¬ jobQuiet ch j then stay ch []
  else
    let ch1 := destroyUnits ch j
    if (bwOf ch1 j.val).isSome ∨ dumpBusy ch1 j.val then stay ch1 []
    else reply (dropCommands (destroyJob ch1 j) (j.val + 1) k) rspOk

def execJobDestroy (s : Stream) (st : State) : Host.Outcome State Fault Refusal :=
  runCmd st s 0x11 anyRow (fun _ => ([], []))
    (fun ch c =>
      let j := jobId (cmdJob c.raw)
      if (coresOfJob ch j).any (coreBusy ch) then reply ch (rspOf 0x14) else destroyGo (haltJob ch j) (streamIx s) j)
    (fun ch c => destroyGo ch (streamIx s) (jobId (cmdJob c.raw)))

/-! ### MEM_MAP and MEM_UNMAP (R399), PART_SET_RATE (R284) -/

def memMapChk (raw : Nat) : List (Nat × Nat) × List Nat :=
  let n := pb raw 15 8
  let a := pb raw 21 16
  if pb raw 0 0 = 1 then
    ([(0, 1), (8, 15), (16, 21)], badIf (!towerOk (pb raw 1 1)) 1 ++
      badIf (n == 0 || n % 4096 != 0) 8 ++ badIf (decide (a < outBase ∨ 2 * outBase < a + n) || a % 4096 != 0) 16)
  else
    ([(0, 1), (8, 15), (16, 21)], badIf (1 < pb raw 0 0) 0 ++ badIf (!towerOk (pb raw 1 1)) 1 ++
      badIf (n == 0 || n % mib != 0 || decide (0x400000000 < n)) 8 ++ badIf (a != 0) 16)

def execMemMap (s : Stream) (st : State) : Host.Outcome State Fault Refusal :=
  runNow st s 0x20 anyRow memMapChk fun ch c =>
    let j := cmdJob c.raw
    let n := pb c.raw 15 8
    if 128 ≤ (jobOf ch j).maps.length then (ch, rspOf 0x15)
    else if pb c.raw 0 0 = 1 then
      (updJob ch j fun b => { b with maps := b.maps ++ [⟨pb c.raw 21 16, n, true⟩] },
        rspData 0 8 (leBytes (pb c.raw 21 16) 6))
    else match placeHbm ch (jobOf ch j).global (pb c.raw 1 1) n with
      | none => (ch, rspOf 0x15)
      | some da => (mapHbm ch j da n, rspData 0 8 (leBytes da 6))

def execMemUnmap (s : Stream) (st : State) : Host.Outcome State Fault Refusal :=
  runNow st s 0x21 anyRow (fun _ => ([(0, 5)], [])) fun ch c =>
    let j := cmdJob c.raw
    let da := pb c.raw 5 0
    match (jobOf ch j).maps.find? fun m => m.da == da with
    | none => (ch, rspBad 0)
    | some m =>
      if da = (jobOf ch j).stat then (ch, rspBad 0)
      else if rangeBusy ch m.da m.len then (ch, rspOf 0x14)
      else (unmap ch j m, rspOk)

/-- The fields of HBM_PART_RATE of a job on named stacks. -/
def execPartSetRate (s : Stream) (st : State) : Host.Outcome State Fault Refusal :=
  runNow st s 0x22 anyRow
    (fun raw => ([(0, 0), (2, 8)], badIf (15 < pb raw 0 0) 0 ++
      badIf (0x7FFF < pb raw 7 6) 6 ++ badIf (1 < pb raw 8 8) 8)) fun ch c =>
    let j := pb c.raw 0 0
    let w : Word := pack [(0, pb c.raw 5 4), (16, max 1 (pb c.raw 7 6)), (31, pb c.raw 8 8)]
    (((List.range 16).filter fun k => (pb c.raw 3 2).testBit k).foldl (fun x k => fwReg x .hbmPartRate k fun x =>
      updStack x k fun y => setRate y j w) ch, rspOk)

/-! ### PROG_LOAD (R237, R400) -/

def inMaps (ch : Chip) (j : JobId) (lo n : Nat) : Bool :=
  inJobMaps ch j.val (fun _ => true) lo n

/-- A section of a program image. -/
structure Sect where
  kind : Nat
  target : Nat
  size : Nat
  off : Nat
  deriving DecidableEq, Repr

def sectAt (ch : Chip) (da i : Nat) : Sect :=
  let a := da + 64 + 16 * i
  ⟨rdNat ch a 1, rdNat ch (a + 4) 4, rdNat ch (a + 8) 4, rdNat ch (a + 12) 4⟩
def sections (ch : Chip) (da : Nat) : List Sect := (List.range (rdNat ch (da + 6) 2)).map (sectAt ch da)

/-- A section lies within its constraint. -/
def sectOk (len : Nat) (x : Sect) : Bool :=
  decide (x.off + x.size ≤ len) &&
  match x.kind with
  | 1 => x.size % 8 == 0 && decide (x.target + x.size / 8 ≤ 16384)
  | 2 => x.target % 64 == 0 && decide (x.target + x.size ≤ 65536)
  | 3 => decide (x.target + x.size ≤ scratchLen)
  | 4 => x.target == 0 && x.size == 512
  | _ => false

/-- Sections of one type that overlap; type 1 counts words. -/
def sectClash (a b : Sect) : Bool :=
  let n (x : Sect) : Nat := if x.kind = 1 then x.size / 8 else x.size
  a.kind == b.kind && decide (a.target < b.target + n b ∧ b.target < a.target + n a)
def anyClash (l : List Sect) : Bool :=
  match l with
  | [] => false
  | x :: r => r.any (sectClash x) || anyClash r

/-- The image at an address obeys R237. -/
def imageOk (ch : Chip) (da : Nat) : Bool :=
  let n := rdNat ch (da + 6) 2
  let len := rdNat ch (da + 16) 8
  rdNat ch da 4 == 0x314E414F && rdNat ch (da + 4) 2 == 0x0100 && decide (1 ≤ n ∧ n ≤ 16) &&
    decide (rdNat ch (da + 8) 4 ≤ 16383) && rdNat ch (da + 12) 4 == 0 && rdNat ch (da + 24) 40 == 0 &&
    decide (64 + 16 * n ≤ len) && ((List.range n).all fun i => rdNat ch (da + 64 + 16 * i + 1) 3 == 0) &&
    (sections ch da).all (sectOk len) && !anyClash (sections ch da)

/-- Instruction and descriptor memory of a core are zeroed and its image removed. -/
def clearImage (ch : Chip) (g : Nat) : Chip :=
  updCore (zeroRange (zeroRange ch (imemBase g) 0x20000) (descBase g) 0x10000) g fun k =>
    { k with image := none, stale := [] }

/-- The image is loaded into a core. -/
def loadImage (ch : Chip) (j : JobId) (da g : Nat) : Chip :=
  let put (c : Chip) (x : Sect) : Chip :=
    let bs := rdBytes ch (da + x.off) x.size
    match x.kind with
    | 1 => wrMem c (imemBase g + 8 * x.target) bs false
    | 2 => wrMem c (descBase g + x.target) bs false
    | 3 => wrMem c (scratchBase g + x.target) bs false
    | _ => c
  let regs := match (sections ch da).find? fun x => x.kind == 4 with
    | some x => rdBytes ch (da + x.off) 512
    | none => []
  updCore ((sections ch da).foldl put (clearImage ch g)) g fun k => { k with image := some ⟨j, rdNat ch (da + 8) 4, regs⟩ }

/-- What a PROG_LOAD that reads an image is refused for; none when it may be loaded. -/
def imageRefusal (ch : Chip) (j : JobId) (da : Nat) : Option Rsp :=
  let len := rdNat ch (da + 16) 8
  if ¬ inMaps ch j da 64 then some (rspOf 0x1C)
  else if anyPoi ch da 64 then some (rspOf 0x1D)
  else if len < 64 then some (rspOf 0x19)
  else if ¬ inMaps ch j da len then some (rspOf 0x1C)
  else if anyPoi ch da len then some (rspOf 0x1D)
  else if ¬ imageOk ch da then some (rspOf 0x19)
  else none

def coreFenced (ch : Chip) (g : Nat) : Bool := (tcoreOf ch g).fenced || (towerOf ch (g / 128)).fenced

def progLoadChk (raw : Nat) : List (Nat × Nat) × List Nat :=
  ([(0, 3), (8, 13)], badIf (7 < pb raw 0 0) 0 ++ badIf (15 < pb raw 1 1) 1 ++ badIf (1 < pb raw 3 3) 3)

/-- The image is read, from the host where it lies there, and loaded into the cores `gs`; `mask` names them. -/
def loadFrom (ch : Chip) (h : HostIn) (j : JobId) (da mask : Nat) (gs : List Nat) : Did :=
  let len := max 64 (rdNat (if outBase ≤ da then hostIn ch h else ch) (da + 16) 8)
  let n := if inMaps ch j da len then len else 64
  let f := fetchHost ch h [(da, n)]
  if ¬ inMaps ch j da 64 then reply ch (rspOf 0x1C)
  else if fwReadWaits ch da n then stay ch []
  else if f.2 then reply f.1 (rspOf 0x1D)
  else match imageRefusal f.1 j da with
    | some r => reply f.1 r
    | none =>
      let ch1 := landRange f.1 none .normal da (rdNat f.1 (da + 16) 8) false
      reply (gs.foldl (fun x g => loadImage x j da g) ch1) (rspData 0 1 (leBytes mask 1))

/-- PROG_LOAD waits for the test of a core it names (R400). -/
def progLoadGo (h : HostIn) (ch : Chip) (c : Cmd) : Did :=
  let j := jobId (cmdJob c.raw)
  let cl := 16 * pb c.raw 0 0 + pb c.raw 1 1
  let gs := (coresOfCluster cl).filter fun g => (pb c.raw 2 2).testBit (g % 8)
  if owner ch cl ≠ some j then reply ch (rspOf 0x13)
  else if gs.any (coreFenced ch) then reply ch (rspOf 0x18)
  else if gs.any fun g => (tcoreOf ch g).under.isSome then stay ch []
  else if pbit c.raw 3 0 0 = 1 then reply (gs.foldl clearImage ch) (rspData 0 1 [0])
  else loadFrom ch h j (pb c.raw 13 8) (pb c.raw 2 2) gs

def execProgLoad (x : CmdIn) (st : State) : Host.Outcome State Fault Refusal :=
  runCmd st x.stream 0x30 anyRow progLoadChk (progLoadGo x.host) (progLoadGo x.host)

/-! ### LAUNCH and HALT_JOB (R238, R401, R402) -/

/-- The state in which a core starts its image (R238). -/
def startCore (ch : Chip) (g : Nat) (m : Image) : Chip :=
  let b (i n : Nat) : Nat := leNat ((m.regs.drop i).take n)
  let has := m.regs != []
  let k := coreOf ch g
  let k1 : Core := { coreReset with
    run := .running, pc := m.entry, image := some m, seq := k.seq, stale := k.stale, launchAt := islCycles ch (g / 128)
    s := if has then (List.range 32).map fun i => (i, BitVec.ofNat 64 (b (8 * i) 8)) else []
    a := if has then (List.range 16).map fun i => (i, BitVec.ofNat 48 (b (256 + 8 * i) 8)) else []
    d := if has then ((List.range 64).filter fun i => (b (384 + 2 * i) 2).testBit 15).map fun i =>
      (i, BitVec.ofNat 10 (b (384 + 2 * i) 2)) else [] }
  readArmed (setCore ch g k1) g

def execLaunch (s : Stream) (st : State) : Host.Outcome State Fault Refusal :=
  runNow st s 0x31 anyRow (fun _ => ([], [])) fun ch c =>
    let j := jobId (cmdJob c.raw)
    let gs := (coresOfJob ch j).filter fun g => (coreOf ch g).image.isSome
    if gs.any (coreFenced ch) then (ch, rspOf 0x18)
    else if gs = [] then (ch, rspOf 0x12)
    else
      let ch1 := gs.foldl (fun x g => match (coreOf x g).image with | some m => startCore x g m | none => x) ch
      (updJob ch1 j.val fun b => { b with state := .running }, rspData 0 4 (leBytes gs.length 4))

def jobIdleNow (ch : Chip) (j : Nat) : Bool := (jobOf ch j).state == .idle

def execHaltJob (s : Stream) (st : State) : Host.Outcome State Fault Refusal :=
  runCmd st s 0x32 anyRow (fun raw => ([(0, 0)], badIf (1 < pb raw 0 0) 0))
    (fun ch c =>
      let j := jobId (cmdJob c.raw)
      let ch1 := haltJob ch j
      if pbit c.raw 0 0 0 = 0 ∨ jobIdleNow ch1 j.val then reply ch1 rspOk else stay ch1 [])
    (fun ch c => if jobIdleNow ch (cmdJob c.raw) then reply ch rspOk else stay ch [])

/-- Every launched core of the job is HALTED or FAULTED: the job is IDLE (R394). -/
def execJobIdle (j : JobId) (s : State) : Host.Outcome State Fault Refusal :=
  onChip s fun ch =>
    let done := (coresOfJob ch j).all fun g => (coreOf ch g).run != .running && (coreOf ch g).run != .waiting
    if done ∧ ((jobOf ch j.val).state = .running ∨ (jobOf ch j.val).state = .halting) then
      updJob ch j.val fun b => { b with state := .idle }
    else ch

end Sys2Proof.Machine
end

