-- ==== Sys2Proof/Machine/ArrayCmd.lean ====
section
/-! DEFINITION. The array and calibration commands (18_mailboxes_elbinik.md R403, R404; 04_calibration.md R104). -/

namespace Sys2Proof.Machine

/-- The memory of function f (R16, R29): its job's for a VF, HBM and the window for the PF. -/
def fnReach (ch : Chip) (f lo n : Nat) (write : Bool) : Bool :=
  if n = 0 then true
  else if f = 0 then decide (lo + n ≤ hbmEnd) || decide (outBase ≤ lo ∧ lo + n ≤ 2 * outBase)
  else reaches ch (jobId (f - 1)) lo (lo + n - 1) write

/-- A command's positions first … first + count − 1. -/
def posRange (first n : Nat) : List Nat := span first n
def rangeBad (first n : Nat) : Bool := n == 0 || decide (128 < first + n)

/-! ### ARRAY_PROGRAM (R403) -/

def apPos (raw : Nat) : List Nat := posRange (pb raw 2 2) (pb raw 3 3)

def arrayProgramChk (raw : Nat) : List (Nat × Nat) × List Nat :=
  ([(0, 5), (8, 13), (16, 21), (24, 29)],
    badIf (7 < pb raw 0 0) 0 ++ badIf (127 < pb raw 1 1) 1 ++ badIf (127 < pb raw 2 2) 2 ++
    badIf (rangeBad (pb raw 2 2) (pb raw 3 3)) 3 ++ badIf (3 < pb raw 4 4) 4 ++
    badIf (pb raw 5 5 != 0x01 && pb raw 5 5 != 0x0B) 5 ++ badIf (apAuto raw && pb raw 21 16 != 0) 16 ++
    badIf (pb raw 29 24 % 256 != 0) 24)

/-- The arrays of the command can be loaded now (R57, R86). -/
def programReady (ch : Chip) (raw : Nat) : Bool :=
  let g := apCore raw
  progReady ch g && (bankOf ch g).batch.isNone &&
    (apPos raw).all fun l => noReads ch g (physOf ch g l) && !(bankOf ch g).moves.any fun m => m.logical == l

/-- The arrays of the command that are not loaded after it, bit k for array k (R436); the 64 bits reach array 63 (log
137). -/
def programFailed (ch : Chip) (raw : Nat) : Nat :=
  let g := apCore raw
  ((apPos raw).take 64).zipIdx.foldl (fun n p =>
    let x := arrOf ch g (physOf ch g p.1)
    n + b2n (!serves ch g p.1 || !x.loaded) * 2 ^ p.2) 0

/-- Loads every array of the command in ascending position; the response says what came of it. Where the scale bytes
have come to hold 0xFF since the command was accepted, it writes no array (R37, R403). -/
def loadAll (ch : Chip) (raw : Nat) (obs : List (Nat × CellObs)) : Chip × Rsp :=
  let g := apCore raw
  let ff (i : Nat) : Bool := !anyPoi ch (pb raw 21 16 + i * 128) 128 &&
    (readScales ch (pb raw 21 16 + i * 128)).contains 0xFF
  let one (p : Chip × Nat × Nat × Bool) (l : Nat) : Chip × Nat × Nat × Bool :=
    let i := l - pb raw 2 2
    let m := pb raw 13 8 + i * 0x40000
    let sa := pb raw 21 16 + i * 128
    let c := p.1
    let a := physOf c g l
    if ¬ serves c g l then p
    else
      let scales := if apAuto raw then autoScales c m else readScales c sa
      let bad := !apAuto raw && anyPoi c sa 128
      let c1 := loadPosition c g l m (pb raw 29 24 + i * 0x40000) scales bad
        (obs.filterMap fun o => if o.1 = l then some o.2 else none)
      let x := arrOf c1 g a
      (c1, p.2.1 + b2n x.loaded, p.2.2.1 + (x.exc.length - (arrOf c g a).exc.length), p.2.2.2 || !x.loaded)
  let moves (c : Chip) : Nat := (bankOf c g).moves.length
  let r := (apPos raw).foldl one (ch, 0, 0, false)
  if ¬ apAuto raw ∧ (List.range (pb raw 3 3)).any ff then (ch, rspBad 16)
  else (r.1, rspData (if r.2.2.2 then 0x1D else 0) 16
    (leBytes r.2.1 2 ++ leBytes (min 0xFFFF r.2.2.1) 2 ++ leBytes (moves r.1 - moves ch) 1 ++ leBytes 0 3 ++
      leBytes (programFailed r.1 raw) 8))

/-- The load with what the host sends of it; what fails on the way is poison in it (R354, R360). -/
def programAll (ch : Chip) (raw : Nat) (h : HostIn) (obs : List (Nat × CellObs)) : Chip × Rsp :=
  let runs := [apMasters raw, apScales raw].filter fun r => decide (outBase ≤ r.1 ∧ 0 < r.2)
  let f := fetchHost ch h runs
  if ¬ f.2 then loadAll f.1 raw obs
  else
    let r := loadAll (runs.foldl (fun c p => markPoi c p.1 p.2) f.1) raw obs
    (runs.foldl (fun c p => clearPoi c p.1 p.2) r.1, r.2)

/-- The load can be done now: its arrays are free, and no access of it waits. -/
def programNow (ch : Chip) (raw : Nat) (h : HostIn) (obs : List (Nat × CellObs)) : Bool :=
  programReady ch raw && !memHeld ch .firmware (touched (fun c => (programAll c raw h obs).1) ch)

/-- What an ARRAY_PROGRAM is refused for. -/
def programRefusal (ch : Chip) (c : Cmd) : Option Rsp :=
  let raw := c.raw
  let j := jobId (cmdJob raw)
  let g := apCore raw
  let n := pb raw 3 3
  let hbmMap (a l : Nat) : Bool := inJobMaps ch j.val (!·) a l
  if coreJob ch g ≠ some j then some (rspOf 0x13)
  else if coreFenced ch g then some (rspOf 0x18)
  else if coreBusy ch g then some (rspOf 0x14)
  else if ¬ hbmMap (pb raw 29 24) (n * 0x40000) then some (rspBad 24)
  else if ¬ reaches ch j (pb raw 13 8) (pb raw 13 8 + n * 0x40000 - 1) false then some (rspOf 0x1C)
  else if apAuto raw then none
  else if ¬ reaches ch j (pb raw 21 16) (pb raw 21 16 + n * 128 - 1) false then some (rspOf 0x1C)
  else if (List.range n).any fun i => (readScales ch (pb raw 21 16 + i * 128)).contains 0xFF then some (rspBad 16)
  else none

/-- The work of ARRAY_PROGRAM that goes on after its response, when it can be done. -/
def programBg (ch : Chip) (k : Nat) (h : HostIn) (obs : List (Nat × CellObs)) : Chip :=
  match (streamOf ch k).bg.find? fun c => cmdOp c.raw == 0x40 with
  | none => ch
  | some c =>
    if ¬ programNow ch c.raw h obs then ch
    else (programAll (updStream ch k fun x => { x with bg := x.bg.erase c }) c.raw h obs).1

/-- The command loads its arrays when it can; without `wait` it is answered at once, and loads in the background (R392). -/
def programGo (h : HostIn) (obs : List (Nat × CellObs)) (ch : Chip) (c : Cmd) : Did :=
  if pbit c.raw 4 1 1 = 0 then ⟨ch, some (rspData 0 16 []), [], true⟩
  else if programNow ch c.raw h obs then let r := programAll ch c.raw h obs; reply r.1 r.2
  else stay ch []

def execArrayProgram (x : CmdIn) (obs : List (Nat × CellObs)) (st : State) : Host.Outcome State Fault Refusal :=
  onChip st fun ch =>
    let k := streamIx x.stream
    match cmdIn ch k 0x40 anyRow with
    | none => programBg ch k x.host obs
    | some _ => runCmdOn ch x.stream 0x40 anyRow arrayProgramChk
      (fun ch c => match programRefusal (hostIn ch x.host) c with
        | some r => reply ch r
        | none => programGo x.host obs ch c)
      (programGo x.host obs)

/-! ### ARRAY_TRANSFER_POLICY and ARRAY_REFRESH (R404) -/

def policyChk (raw : Nat) : List (Nat × Nat) × List Nat :=
  ([(0, 4)], badIf (1 < pb raw 0 0) 0 ++
    (if pb raw 0 0 = 0 then badIf (pb raw 1 1 != 0) 1 ++ badIf (pb raw 2 2 != 0) 2
     else badIf (7 < pb raw 1 1) 1 ++ badIf (127 < pb raw 2 2) 2) ++ badIf (1 < pb raw 4 4) 4)

def execArrayTransferPolicy (s : Stream) (st : State) : Host.Outcome State Fault Refusal :=
  runNow st s 0x41 anyRow policyChk fun ch c =>
    let j := jobId (cmdJob c.raw)
    let g := coreAt (pb c.raw 1 1) (pb c.raw 2 2)
    let th := pb c.raw 3 3
    let w : Word := pack [(0, max 8 th), (8, pb c.raw 4 4)]
    if pb c.raw 0 0 = 1 ∧ coreJob ch g ≠ some j then (ch, rspOf 0x13)
    else
      ((if pb c.raw 0 0 = 1 then [g] else coresOfJob ch j).foldl (fun x g => fwReg x .prgPolicy g fun x => regSet x .prgPolicy g w) ch,
        rspOf (if th < 8 then 2 else 0))

/-- The physical arrays an ARRAY_REFRESH names. -/
def arArrays (ch : Chip) (raw : Nat) : List (Nat × Nat) :=
  (posRange (pb raw 2 2) (pb raw 3 3)).map fun l => (l, physOf ch (arCore raw) l)

def refreshChk (raw : Nat) : List (Nat × Nat) × List Nat :=
  ([(0, 4)], badIf (7 < pb raw 0 0) 0 ++ badIf (127 < pb raw 1 1) 1 ++ badIf (127 < pb raw 2 2) 2 ++
    badIf (rangeBad (pb raw 2 2) (pb raw 3 3)) 3 ++ badIf (1 < pb raw 4 4) 4)

/-- The response of an ARRAY_REFRESH on the arrays `as`: how many were refreshed, and the drifted cells found. -/
def refreshRsp (ch : Chip) (status g : Nat) (as : List Nat) : Rsp :=
  rspData status 8 (leBytes as.length 2 ++ [0, 0] ++ leBytes ((as.map fun a => (arrOf ch g a).driftLast).foldl (· + ·) 0) 4)

/-- ARRAY_REFRESH queues its refreshes; with `wait` it remembers its arrays and is over once none is queued or running. -/
def execArrayRefresh (f : FnId) (ring : Bool) (st : State) : Host.Outcome State Fault Refusal :=
  runCmd st ⟨f, ring⟩ 0x42 anyRow refreshChk
    (fun ch c =>
      let g := arCore c.raw
      if coreJob ch g ≠ some (jobId (cmdJob c.raw)) then reply ch (rspOf 0x13)
      else if coreFenced ch g then reply ch (rspOf 0x18)
      else if coreBusy ch g then reply ch (rspOf 0x14)
      else if (arArrays ch c.raw).any fun p => !posLoaded ch g p.1 then reply ch (rspBad 2)
      else
        let ch1 := (arArrays ch c.raw).foldl (fun x p => queueRefresh x g p.2) ch
        let as := (arArrays ch c.raw).map Prod.snd
        if pbit c.raw 4 0 0 = 1 then stay ch1 as
        else
          let done (d : Cmd) : Bool := cmdOp d.raw == 0x42 && refreshLeft ch1 d == []
          ⟨updStream ch1 (streamIx ⟨f, ring⟩) fun x => { x with bg := x.bg.filter fun d => !done d },
            some (rspData 0 8 []), as, true⟩)
    (fun ch c =>
      let g := arCore c.raw
      if c.memo.any (bankOf ch g).refreshQ.contains then stay ch c.memo else reply ch (refreshRsp ch 0 g c.memo))

/-! ### CAL_RUN, CAL_POLICY, CAL_QUALITY (R104) -/

def calScope (raw : Nat) : Nat := pb raw 0 0
/-- The towers that a CAL_RUN names. -/
def calTowers (raw : Nat) : List Nat := if calScope raw = 4 then List.range 8 else [pb raw 1 1]
/-- The cores whose arrays it names. -/
def calCores (raw : Nat) : List Nat :=
  match calScope raw with
  | 0 | 1 => [coreAt (pb raw 1 1) (pb raw 2 2)]
  | 2 => coresOfCluster (16 * pb raw 1 1 + pb raw 2 2)
  | 3 | 4 => (calTowers raw).flatMap fun t => span (128 * t) 128
  | _ => []
/-- The physical arrays it names. -/
def calArrays (ch : Chip) (raw : Nat) : List (Nat × Nat) :=
  if calScope raw = 0 then (calCores raw).map fun g => (g, physOf ch g (pb raw 3 3))
  else (calCores raw).flatMap fun g => (List.range 128).map fun l => (g, physOf ch g l)

def calRunChk (raw : Nat) : List (Nat × Nat) × List Nat :=
  let sc := calScope raw
  ([(0, 4)], badIf (5 < sc) 0 ++ badIf (sc != 4 && decide (7 < pb raw 1 1)) 1 ++
    badIf ((decide (sc ≤ 1) && decide (127 < pb raw 2 2)) || (sc == 2 && decide (15 < pb raw 2 2))) 2 ++
    badIf (sc == 0 && decide (127 < pb raw 3 3)) 3 ++ badIf (1 < pb raw 4 4) 4)

/-- What a waiting CAL_RUN remembers of an array: its physical number and the runs completed so far. -/
def calMark (ch : Chip) (p : Nat × Nat) : Nat := (statOf ch p.1 p.2).runs * 256 + p.2
/-- The named arrays as the command found them, by their marks, in the order of `calArrays`. -/
def calNamed (raw : Nat) (memo : List Nat) : List (Nat × Nat × Nat) :=
  let gs := if calScope raw = 0 then calCores raw else (calCores raw).flatMap fun g => List.replicate 128 g
  (gs.zip memo).map fun p => (p.1, p.2 % 256, p.2 / 256)

/-- How many of the named arrays were calibrated, and the worst residuals among them: the plain maximum, so an array that
was not measured gives 0xFF (DESIGN CHOICE, log 127). -/
def calReport (ch : Chip) (raw : Nat) (memo : List Nat) : Nat × Nat × Nat :=
  let done := (calNamed raw memo).filter fun p => decide (p.2.2 < (statOf ch p.1 p.2.1).runs)
  (done.length, (done.map fun p => (statOf ch p.1 p.2.1).resid).foldl max 0,
    (done.map fun p => (statOf ch p.1 p.2.1).residT).foldl max 0)
def calRsp (ch : Chip) (raw status : Nat) (memo : List Nat) : Rsp :=
  let r := calReport ch raw memo
  rspData status 6 (leBytes r.1 4 ++ leBytes r.2.1 1 ++ leBytes r.2.2 1)
/-- Nothing that the command started is left. -/
def calOver (ch : Chip) (raw : Nat) (memo : List Nat) : Bool :=
  ((calNamed raw memo).all fun p => !(fieldOf ch p.1).due.contains p.2.1) &&
    (decide (calScope raw < 3) || (calTowers raw).all fun t => !(towerOf ch t).busy)

def calStart (ch : Chip) (raw : Nat) : Chip :=
  let ch1 := if 3 ≤ calScope raw then (calTowers raw).foldl startTrace ch else ch
  (calArrays ch1 raw).foldl (fun c p => queueCal c p.1 p.2) ch1

/-- A tower that the command names has a reference fault (R91). -/
def calFault (ch : Chip) (raw : Nat) : Bool := (calTowers raw).any fun t => (towerOf ch t).fault

def execCalRun (s : Stream) (st : State) : Host.Outcome State Fault Refusal :=
  runCmd st s 0x50 anyRow calRunChk
    (fun ch c =>
      if calFault ch c.raw then reply ch (rspOf 0x1A)
      else
        let ch1 := calStart ch c.raw
        if pbit c.raw 4 0 0 = 1 then stay ch1 ((calArrays ch c.raw).map (calMark ch)) else reply ch1 (rspData 0 6 []))
    (fun ch c =>
      if calFault ch c.raw then reply ch (rspOf 0x1A)
      else if calOver ch c.raw c.memo then reply ch (calRsp ch c.raw 0 c.memo) else stay ch c.memo)

/-- CAL_POLICY answers CLAMPED where it clamps dt_cal; `dt_clamped` is left to writes of the register (DESIGN CHOICE, log
128). -/
def execCalPolicy (s : Stream) (st : State) : Host.Outcome State Fault Refusal :=
  runNow st s 0x51 anyRow (fun raw => ([(0, 3)], badIf (1 < pb raw 1 1) 1)) fun ch c =>
    let dt := pb c.raw 3 2
    (((List.range 8).filter fun t => (pb c.raw 0 0).testBit t).foldl (fun x t =>
      fwReg x .calPolicy t fun x =>
        regPut (regPut x .calPolicy t 7 0 (clampN 8 160 dt)) .calCtrl t 1 1 (pb c.raw 1 1)) ch,
      rspOf (if clampN 8 160 dt = dt then 0 else 2))

/-- The quality record of a position. -/
def arrayQuality (ch : Chip) (g l : Nat) : List Byte :=
  let p := physOf ch g l
  let x := statOf ch g p
  let high := x.resid != 0xFF && decide (regFld ch .prgRefreshCfg g 15 8 < x.resid)
  leBytes l 1 ++ leBytes p 1 ++ leBytes x.resid 1 ++ leBytes x.residT 1 ++ leBytes (temp16 (fieldOf ch g).tLast) 2 ++
    leBytes (arrOf ch g p).live.slope 1 ++
    leBytes (b2n x.suspect + 2 * b2n (decide (1000000 ≤ wearIdx ch g p)) + 4 * b2n high + 8 * b2n x.neverRun) 1

/-- The quality record of a fabric lane. -/
def laneQuality (ch : Chip) (p lane : Nat) : List Byte :=
  let e := (ch.fab.eyes.find? fun x => x.1 == p * 8 + lane).map Prod.snd
  leBytes p 1 ++ leBytes lane 1 ++ leBytes (min 0xFFFF (e.getD (0, 0)).1) 2 ++ leBytes (min 0xFFFF (e.getD (0, 0)).2) 2 ++
    leBytes (b2n e.isSome + 2 * b2n (portSplit ch p)) 1 ++ [0]

/-- The checks of CAL_QUALITY; with kind 1, bytes 3 and 4 are not read and all 8 lanes of the port are reported (DESIGN
CHOICE, log 129). -/
def calQualityChk (raw : Nat) : List (Nat × Nat) × List Nat :=
  ([(0, 4), (8, 15)], badIf (1 < pb raw 0 0) 0 ++
    (if pb raw 0 0 = 1 then badIf (15 < pb raw 1 1) 1
     else badIf (7 < pb raw 1 1) 1 ++ badIf (127 < pb raw 2 2) 2 ++ badIf (127 < pb raw 3 3) 3 ++
      badIf (rangeBad (pb raw 3 3) (pb raw 4 4)) 4))

/-- Bytes that a command writes to a buffer of its function; ADDRESS when they do not lie in its reach. -/
def toBuffer (ch : Chip) (f a : Nat) (bs : List Byte) (r : Rsp) : Chip × Rsp :=
  if ¬ fnReach ch f a bs.length true then (ch, rspOf 0x1C)
  else if bs = [] then (ch, r)
  else (fwWrite ch 0 a bs, r)

def execCalQuality (s : Stream) (st : State) : Host.Outcome State Fault Refusal :=
  runNow st s 0x52 anyRow calQualityChk fun ch c =>
    let f := s.fn.val
    let g := coreAt (pb c.raw 1 1) (pb c.raw 2 2)
    if f ≠ 0 ∧ (pb c.raw 0 0 = 1 ∨ coreJob ch g ≠ some (jobId (f - 1))) then (ch, rspOf 0x13)
    else
      let bs := if pb c.raw 0 0 = 1 then (List.range 8).flatMap (laneQuality ch (pb c.raw 1 1))
        else (posRange (pb c.raw 3 3) (pb c.raw 4 4)).flatMap (arrayQuality ch g)
      toBuffer ch f (pb c.raw 15 8) bs rspOk

end Sys2Proof.Machine
end

