-- ==== Sys2Proof/Machine/FabCmd.lean ====
section
/-! DEFINITION. The commands of fabric ports, collective groups and the straggler policy
(14_fabric_collectives.md R318, R325, R329, R332). -/

namespace Sys2Proof.Machine

/-! ### FAB_PORT_CFG -/

def portLinks (ch : Chip) (p : Nat) : List Nat := (span (2 * p) 2).filter (linkExists ch)

/-- What is configured of a link: its job-fabric id and expected partner. -/
def cfgLink (ch : Chip) (l jf expect : Nat) : Chip :=
  updLink ch l fun k =>
    { k with jfid := BitVec.ofNat 16 jf, any := expect.testBit 15, pos := expect / 256 % 64, port := expect % 16 }

/-- A port's configuration takes effect. -/
def cfgPort (ch : Chip) (p : Nat) (cfg : Nat) (jf0 jf1 e0 e1 : Nat) (cr : Nat × Nat × Nat) : Chip :=
  fwReg ch .fabCfg p fun ch =>
  let ch1 := regSet ch .fabCfg p (BitVec.ofNat 32 cfg)
  let ch2 := cfgLink (cfgLink ch1 (2 * p) jf0 e0) (2 * p + 1) jf1 e1
  { ch2 with fab := { ch2.fab with credits := tput ch2.fab.credits p cr } }

def portCfgChk (raw : Nat) : List (Nat × Nat) × List Nat :=
  let odd (b : Nat) : List Nat := badIf (pb raw b b % 256 / 16 != 0) b ++ badIf (pbit raw (b + 1) 6 6 != 0) (b + 1)
  ([(0, 2), (4, 17)], badIf (1 < pb raw 0 0) 0 ++ badIf (15 < pb raw 1 1) 1 ++ badIf (3 < pb raw 2 2) 2 ++ odd 8 ++ odd 10 ++
    badIf (2048 < 2 * (pb raw 13 12 + pb raw 15 14 + pb raw 17 16)) 12)

def execFabPortCfgPort (s : Stream) (st : State) : Host.Outcome State Fault Refusal :=
  runNow st s 0x60 (actRow 0 2) portCfgChk fun ch c =>
    let r := c.raw
    let p := pb r 1 1
    if (span (2 * p) 2).any fun l => (linkOf ch l).st != 0 then (ch, rspOf 0x14)
    else (cfgPort ch p (pb r 2 2) (pb r 5 4) (pb r 7 6) (pb r 9 8) (pb r 11 10) (pb r 13 12, pb r 15 14, pb r 17 16), rspOk)

def execFabPortCfgRoute (s : Stream) (st : State) : Host.Outcome State Fault Refusal :=
  runNow st s 0x60 (actRow 1 2)
    (fun raw => ([(0, 3)], badIf (63 < pb raw 1 1) 1 ++ badIf (31 < pb raw 2 2) 2 ++ badIf (3 < pb raw 3 3) 3)) fun ch c =>
    let d := pb c.raw 1 1
    let r : Route := ⟨pb c.raw 2 2, pbit c.raw 3 1 1 == 1, pbit c.raw 3 0 0 == 1⟩
    (fwReg ch .fabRoute 0 fun ch => { ch with fab := { ch.fab with routes := tput ch.fab.routes d r } }, rspOk)

/-! ### FAB_TRAIN -/

/-- A link begins training (R308, R332). -/
def trainLink (ch : Chip) (l : Nat) : Chip :=
  updLink ch l fun k => { k with st := 1, result := 7, since := ch.us, partner := none, good := 0, seen := false, retrained := false }

/-- The results and partners of a port's links. -/
def trainRsp (ch : Chip) (raw status : Nat) : Rsp :=
  let l := 2 * pb raw 0 0
  let id (k : Nat) : List Byte := leBytes (match (linkOf ch k).partner with | some h => h.devId.toNat | none => 0) 8
  rspData status 24 (leBytes (linkOf ch l).result 1 ++ leBytes (linkOf ch (l + 1)).result 1 ++ leBytes 0 6 ++ id l ++
    id (l + 1))

/-- No link of the port is in training or in its handshake. -/
def trainOver (ch : Chip) (raw : Nat) : Bool :=
  (portLinks ch (pb raw 0 0)).all fun l => (linkOf ch l).st != 1 && (linkOf ch l).st != 2

def trainChk (raw : Nat) : List (Nat × Nat) × List Nat :=
  ([(0, 2)], badIf (15 < pb raw 0 0) 0 ++ badIf (2 < pb raw 1 1) 1 ++ badIf (1 < pb raw 2 2) 2)
/-- The rows of FAB_TRAIN by its action, which stands in payload byte 1. -/
def trainRow (a : Nat) (raw : Nat) : Bool := pb raw 1 1 == a || (a == 0 && decide (3 ≤ pb raw 1 1))

def trainGo (ch : Chip) (c : Cmd) : Did :=
  if trainOver ch c.raw ∨ pbit c.raw 2 0 0 = 0 then reply ch (trainRsp ch c.raw 0) else stay ch []

def execFabTrainTrain (s : Stream) (st : State) : Host.Outcome State Fault Refusal :=
  runCmd st s 0x61 (trainRow 0) trainChk
    (fun ch c =>
      let ls := portLinks ch (pb c.raw 0 0)
      if ls.any fun l => (linkOf ch l).st != 0 && (linkOf ch l).st != 4 then reply ch (rspOf 0x14)
      else trainGo (ls.foldl trainLink ch) c)
    trainGo

def execFabTrainTakeDown (s : Stream) (st : State) : Host.Outcome State Fault Refusal :=
  runNow st s 0x61 (trainRow 1) trainChk fun ch c =>
    let ch1 := (portLinks ch (pb c.raw 0 0)).foldl takeDown ch
    (ch1, trainRsp ch1 c.raw 0)

def execFabTrainRetrain (s : Stream) (st : State) : Host.Outcome State Fault Refusal :=
  runCmd st s 0x61 (trainRow 2) trainChk
    (fun ch c =>
      let ls := portLinks ch (pb c.raw 0 0)
      if ls.any fun l => (linkOf ch l).st == 1 || (linkOf ch l).st == 2 then reply ch (rspOf 0x14)
      else trainGo (ls.foldl (fun x l => trainLink (takeDown x l) l) ch) c)
    trainGo

/-! ### COLL_GROUP_CFG -/

def cgTree (raw : Nat) : Bool := pb raw 2 2 == 1
def cgNext (raw : Nat) : List Nat := (List.range (pb raw 6 6)).map fun i => pb raw (8 + 2 * i) (8 + 2 * i)
def cgPrev (raw : Nat) : List Nat := (List.range (pb raw 6 6)).map fun i => pb raw (9 + 2 * i) (9 + 2 * i)
def cgSlot (raw b : Nat) : Option Nat := if pb raw b b = 0xFF then none else some (pb raw b b)
/-- The links a group names, with their payload bytes. -/
def cgLinks (raw : Nat) : List (Nat × Nat) :=
  if cgTree raw then (span 8 3).filterMap fun b => (cgSlot raw b).map fun l => (l, b)
  else (span 8 (2 * pb raw 6 6)).map fun b => (pb raw b b, b)
def cgKids (raw : Nat) : Nat := ((span 9 2).filter fun b => pb raw b b != 0xFF).length
def cgWork (raw : Nat) : Nat := 4 * pb raw 43 40 * (1 + if cgTree raw then cgKids raw else 0)

def groupChk (raw : Nat) : List (Nat × Nat) × List Nat :=
  let base := badIf (63 < pb raw 0 0) 0 ++ badIf (1 < pb raw 1 1) 1
  if pb raw 1 1 = 1 then ([(0, 1)], base)
  else
    let rings := pb raw 6 6
    let used := if cgTree raw then [(0, 5), (8, 10)] else [(0, 6), (8, 15)]
    (used ++ [(16, 21), (24, 29), (32, 37), (40, 43)], base ++ badIf (1 < pb raw 2 2) 2 ++
      badIf (decide (1 < pb raw 3 3) || (cgTree raw && pb raw 3 3 == 1)) 3 ++
      badIf (decide (pb raw 4 4 < 2 ∨ 64 < pb raw 4 4)) 4 ++ badIf (decide (pb raw 4 4 ≤ pb raw 5 5)) 5 ++
      (if cgTree raw then [] else badIf (decide (rings = 0 ∨ 4 < rings)) 6) ++
      (if rings ≤ 4 then (cgLinks raw).flatMap fun p => badIf (31 < p.1) p.2 else []) ++
      badIf (pb raw 21 20 == 0) 20 ++ badIf (pb raw 29 24 % 64 != 0) 24 ++ badIf (pb raw 43 40 == 0) 40)

/-- What a group's creation is refused for. -/
def groupRefusal (ch : Chip) (f : Nat) (c : Cmd) : Option Rsp :=
  let r := c.raw
  let j := jobId (cmdJob r)
  let mine (o : Nat) : Bool := owner ch (objCluster (objOfNat o)) == some j
  let dedicated (l : Nat) : Bool := (linkOf ch l).jfid == 0 || (linkOf ch l).jfid == (jobOf ch j.val).jfid
  if (groupOf ch (pb r 0 0)).isSome then some (rspOf 0x14)
  else if ¬ mine (pb r 17 16) ∨ ¬ mine (pb r 19 18) then some (rspOf 0x13)
  else if f ≠ 0 ∧ (cgLinks r).any fun p => !dedicated p.1 then some (rspOf 0x13)
  else match (cgLinks r).find? fun p => !linkUp ch p.1 with
    | some p => some (rspBad p.2)
    | none =>
      if ¬ reaches ch j (pb r 29 24) (pb r 29 24 + 4095) true then some (rspOf 0x1C)
      else if ¬ reaches ch j (pb r 37 32) (pb r 37 32 + cgWork r - 1) true then some (rspOf 0x1C)
      else none

/-- A new group (R318): its first operation is number 1. -/
def newGroup (ch : Chip) (r : Nat) : Group :=
  { job := jobId (cmdJob r), tree := cgTree r, heritage := pb r 3 3 == 1, ranks := pb r 4 4, rank := pb r 5 5
    next := if cgTree r then [] else cgNext r, prev := if cgTree r then [] else cgPrev r
    parent := if cgTree r then cgSlot r 8 else none
    kids := if cgTree r then [cgSlot r 9, cgSlot r 10] else []
    start := objOfNat (pb r 17 16), done := objOfNat (pb r 19 18), target := pb r 21 20, ring := pb r 29 24
    work := pb r 37 32, nMax := pb r 43 40, k := 1, rel := (objGet ch (objOfNat (pb r 17 16))).toNat / max 1 (pb r 21 20), op := none, waiting := [], last := none, owe := []
    heldOwn := none, heldKids := [], heard := [], deferred := 0, dropped := 0 }

/-- The rows of COLL_GROUP_CFG by its action, which stands in payload byte 1. -/
def groupRow (a : Nat) (raw : Nat) : Bool := pb raw 1 1 == a || (a == 0 && decide (2 ≤ pb raw 1 1))

def execCollGroupCreate (s : Stream) (st : State) : Host.Outcome State Fault Refusal :=
  runNow st s 0x62 (groupRow 0) groupChk fun ch c =>
    match groupRefusal ch s.fn.val c with
    | some r => (ch, r)
    | none => (setGroup ch (pb c.raw 0 0) (newGroup ch c.raw), rspOk)

def execCollGroupDestroy (s : Stream) (st : State) : Host.Outcome State Fault Refusal :=
  runNow st s 0x62 (groupRow 1) groupChk fun ch c =>
    match groupOf ch (pb c.raw 0 0) with
    | none => (ch, rspBad 0)
    | some x => if x.job ≠ jobId (cmdJob c.raw) then (ch, rspOf 0x13) else (destroyGroup ch (pb c.raw 0 0), rspOk)

/-! ### STRAGGLER_POLICY -/

def stragglerChk (raw : Nat) : List (Nat × Nat) × List Nat :=
  ([(0, 0), (4, 11)], badIf (2 < pb raw 0 0) 0 ++
    badIf (decide (pb raw 7 4 = 0 ∨ 1000000 < pb raw 7 4)) 4 ++
    badIf (decide (pb raw 11 8 = 0 ∨ 60000 < pb raw 11 8)) 8)

def execStragglerPolicy (s : Stream) (st : State) : Host.Outcome State Fault Refusal :=
  runNow st s 0x63 anyRow stragglerChk fun ch c =>
    (updJob ch (cmdJob c.raw) fun b =>
      { b with policy := pb c.raw 0 0, deadline := pb c.raw 7 4, opTimeout := pb c.raw 11 8 }, rspOk)

end Sys2Proof.Machine
end

