-- ==== Sys2Proof/Machine/TwinCmd.lean ====
section
/-! DEFINITION. The commands of twin copies (15_twin_copies.md R335 to R347). -/

namespace Sys2Proof.Machine

/-! ### Region tables and links (R335, R337) -/

/-- The regions of a table: up to 16 entries, ended by the first of length 0. -/
def tableAt (ch : Chip) (da : Nat) : List (Nat × Nat) :=
  ((List.range 16).map fun i => (rdNat ch (da + 16 * i) 6, rdNat ch (da + 16 * i + 8) 8)).takeWhile fun r => r.2 != 0

def regionsClash (l : List (Nat × Nat)) : Bool :=
  match l with
  | [] => false
  | x :: r => (r.any fun y => decide (x.1 < y.1 + y.2 ∧ y.1 < x.1 + x.2)) || regionsClash r

/-- The regions obey R335. -/
def regionsOk (ch : Chip) (j : JobId) (da : Nat) : Bool :=
  let l := tableAt ch da
  (l.all fun r => r.1 % 256 == 0 && r.2 % 256 == 0 &&
    inJobMaps ch j.val (!·) r.1 r.2) &&
    ((List.range l.length).all fun i => rdNat ch (da + 16 * i + 6) 2 == 0) && !regionsClash l

/-- What a region table is refused for; `b` is the payload byte of its address. -/
def tableRefusal (ch : Chip) (j : JobId) (da b : Nat) : Option Rsp :=
  if ¬ inMaps ch j da 256 then some (rspOf 0x1C)
  else if anyPoi ch da 256 then some (rspOf 0x1D)
  else if ¬ regionsOk ch j da then some (rspBad b)
  else none

def tcLinks (raw : Nat) : List Nat := (List.range (pb raw 1 1)).map fun i => pb raw (2 + i) (2 + i)
def linksChk (raw : Nat) : List Nat :=
  badIf (decide (pb raw 1 1 = 0 ∨ 4 < pb raw 1 1)) 1 ++
    (if pb raw 1 1 ≤ 4 then (List.range (pb raw 1 1)).flatMap fun i => badIf (31 < pb raw (2 + i) (2 + i)) (2 + i) else [])

/-- A link that may carry the job's twin flits to the partner. -/
def twinLinkOk (ch : Chip) (jf : BitVec 16) (partner l : Nat) : Bool :=
  linkUp ch l && carries ch l jf && (match (linkOf ch l).partner with | some h => h.pos.toNat == partner | none => false)

/-! ### TWIN_CFG (R347) -/

def sourceChk (raw : Nat) : List (Nat × Nat) × List Nat :=
  ([(0, 17), (24, 29)], badIf (3 < pb raw 0 0) 0 ++ linksChk raw ++ badIf (63 < pb raw 6 6) 6 ++ badIf (3 < pb raw 7 7) 7 ++
    badIf (decide (pb raw 11 8 = 0 ∨ 1000000 < pb raw 11 8)) 8 ++
    badIf (decide (pb raw 17 16 = 0 ∨ 1024 < pb raw 17 16)) 16)

def newSource (ch : Chip) (r : Nat) : TwinSrc :=
  { links := tcLinks r, partner := pb r 6 6, history := pbit r 7 0 0 == 1, enabled := pbit r 7 1 1 == 1
    every := pb r 11 8, gate := objOfNat (pb r 13 12), resume := objOfNat (pb r 15 14), gateTarget := pb r 17 16
    regions := tableAt ch (pb r 29 24), points := 0
    rel := (objGet ch (objOfNat (pb r 13 12))).toNat / max 1 (pb r 17 16), now := false, lastNumber := 0, committed := none, lastResult := 0
    since := 0, copy := none }

def execTwinCfgSource (s : Stream) (st : State) : Host.Outcome State Fault Refusal :=
  runNow st s 0x70 (actRow 0 4) sourceChk fun ch c =>
    let r := c.raw
    let j := jobId (cmdJob r)
    let mine (o : Nat) : Bool := owner ch (objCluster (objOfNat o)) == some j
    if (twinOf ch j.val).isSome then (ch, rspOf 0x14)
    else if ¬ mine (pb r 13 12) ∨ ¬ mine (pb r 15 14) then (ch, rspOf 0x13)
    else if pb r 6 6 = ch.nwl.pos.toNat then (ch, rspBad 6)
    else match (List.range (pb r 1 1)).find? fun i => !twinLinkOk ch (jobOf ch j.val).jfid (pb r 6 6) (pb r (2 + i) (2 + i)) with
      | some i => (ch, rspBad (2 + i))
      | none => match tableRefusal ch j (pb r 29 24) 24 with
        | some x => (ch, x)
        | none => ({ ch with fab := { ch.fab with twins := tput ch.fab.twins j.val (newSource ch r) } }, rspOk)

def holdChk (raw : Nat) : List (Nat × Nat) × List Nat :=
  ([(0, 4), (8, 13), (16, 23)], badIf (63 < pb raw 1 1) 1 ++ badIf (1 < pb raw 4 4) 4 ++
    badIf (pb raw 13 8 % 256 != 0) 8 ++
    badIf (decide (pb raw 23 16 < (4096 + 248) * (2 - pbit raw 4 0 0))) 16)

def execTwinCfgHold (s : Stream) (st : State) : Host.Outcome State Fault Refusal :=
  runNow st s 0x70 (actRow 1 4) holdChk fun ch c =>
    let r := c.raw
    let h : TwinHold := ⟨pb r 1 1, BitVec.ofNat 16 (pb r 3 2), pbit r 4 0 0 == 1, pb r 13 8, pb r 23 16⟩
    if h.src = ch.nwl.pos.toNat then (ch, rspBad 1)
    else if hbmEnd < h.da + holdSpan h then (ch, rspOf 0x1C)
    else if (holdOf ch h.src h.jfid).isSome ∨ (taken ch).any fun x => decide (h.da < x.1 + x.2 ∧ x.1 < h.da + holdSpan h) then
      (ch, rspOf 0x14)
    else ({ ch with fab := { ch.fab with holds := ch.fab.holds ++ [h] } }, rspOk)

def removeChk (raw : Nat) : List (Nat × Nat) × List Nat :=
  ([(0, 1)] ++ (if pb raw 1 1 = 1 then [(2, 2)] else []), badIf (1 < pb raw 1 1) 1 ++
    badIf (pb raw 1 1 == 1 && decide (63 < pb raw 2 2)) 2)

def execTwinCfgRemove (s : Stream) (st : State) : Host.Outcome State Fault Refusal :=
  runNow st s 0x70 (actRow 2 4) removeChk fun ch c =>
    if pb c.raw 1 1 = 0 then
      let j := cmdJob c.raw
      if (twinOf ch j).isNone then (ch, rspBad 1)
      else
        let ch1 := abortCopy ch j 4
        ({ ch1 with fab := { ch1.fab with twins := tdel ch1.fab.twins j } }, rspOk)
    else
      let p := pb c.raw 2 2
      if ¬ ch.fab.holds.any fun h => h.src == p then (ch, rspBad 2)
      else
        ({ ch with fab := { ch.fab with
            holds := ch.fab.holds.filter fun h => h.src != p
            ins := ch.fab.ins.filter fun x => x.job.isSome || x.src != p } }, rspOk)

def execTwinCfgQuery (s : Stream) (st : State) : Host.Outcome State Fault Refusal :=
  runNow st s 0x70 (actRow 3 4) (fun _ => ([(0, 0)], [])) fun ch c =>
    match twinOf ch (cmdJob c.raw) with
    | none => (ch, rspData 0 24 [])
    | some t =>
      let k := t.committed.getD (0, 0)
      (ch, rspData 0 24 (leBytes k.1 4 ++ leBytes k.2 8 ++ leBytes t.lastResult 1 ++ leBytes 0 3 ++ leBytes t.since 8))

/-! ### TWIN_COPY_NOW and TWIN_RESTORE -/

/-- A copy asked for is over, with its result. -/
def copyOver (ch : Chip) (j : Nat) : Option Nat :=
  match twinOf ch j with
  | none => some 4
  | some t => if t.now || t.copy.isSome then none else some t.lastResult

def execTwinCopyNow (s : Stream) (st : State) : Host.Outcome State Fault Refusal :=
  runCmd st s 0x71 anyRow (fun raw => ([(0, 0)], badIf (1 < pb raw 0 0) 0))
    (fun ch c =>
      let j := cmdJob c.raw
      match twinOf ch j with
      | none => reply ch (rspOf 0x12)
      | some t =>
        let ch1 := if t.copy.isSome then ch else updTwin ch j fun t => { t with now := true }
        if pbit c.raw 0 0 0 = 1 then stay ch1 [] else reply ch1 (rspData 0 1 []))
    (fun ch c => match copyOver ch (cmdJob c.raw) with
      | some r => reply ch (rspData 0 1 (leBytes r 1))
      | none => stay ch [])

def restoreChk (raw : Nat) : List (Nat × Nat) × List Nat :=
  ([(1, 9), (16, 22)], linksChk raw ++ badIf (63 < pb raw 6 6) 6 ++ badIf (63 < pb raw 7 7) 7 ++ badIf (1 < pb raw 22 22) 22)

def restoreRsp (x : TwinRest) : Rsp :=
  rspData 0 17 (leBytes x.result 1 ++ leBytes 0 3 ++ leBytes x.number 4 ++ leBytes x.step 8 ++ leBytes (b2n x.history) 1)

/-- A restore starts: PULL on its first link (log 23). -/
def startRestore (ch : Chip) (r : Nat) : Chip :=
  let j := cmdJob r
  let jf := BitVec.ofNat 16 (pb r 9 8)
  let regs := tableAt ch (pb r 21 16)
  let x : TwinRest := { links := tcLinks r, partner := pb r 6 6, orig := pb r 7 7, jfid := jf, regions := regs
                        running := true, result := 0, number := 0, step := 0, history := false }
  let m : TwinCtl := { ctlNone with streams := pb r 1 1, jfid := jf, lengths := regs.map Prod.snd }
  let l := pb r 2 2
  let ch1 := setRest ch j x
  if linkUp ch l then sendCtl ch1 l x.partner x.orig 5 m else endRest ch1 j 1 id

def restoreGo (ch : Chip) (c : Cmd) : Did :=
  match restOf ch (cmdJob c.raw) with
  | some x => if x.running then stay ch [] else reply ch (restoreRsp x)
  | none => reply ch (rspOf 0)

def execTwinRestore (s : Stream) (st : State) : Host.Outcome State Fault Refusal :=
  runCmd st s 0x72 anyRow restoreChk
    (fun ch c =>
      let j := jobId (cmdJob c.raw)
      let busy : Bool := match restOf ch j.val with | some x => x.running | none => false
      if busy then reply ch (rspOf 0x14)
      else match tableRefusal ch j (pb c.raw 21 16) 16 with
        | some x => reply ch x
        | none =>
          let ch1 := startRestore ch c.raw
          if pbit c.raw 22 0 0 = 1 then restoreGo ch1 c else reply ch1 (rspData 0 17 []))
    restoreGo

end Sys2Proof.Machine
end

