-- ==== Sys2Proof/Machine/TestCmd.lean ====
section
/-! DEFINITION. Teasel's commands: test packs, the schedule, fences and readmission (20_faults.md R432, R435, R441,
R443). -/

namespace Sys2Proof.Machine

/-! ### TEST_PACK_LOAD (R441, R443) -/

/-- A test pack of n bytes at an address obeys R441; `minVer` is the lowest security version allowed. -/
def packOk (ch : Chip) (a n minVer : Nat) : Bool :=
  let items := rdNat ch (a + 20) 2
  decide (64 ≤ n) && rdNat ch a 4 == 0x4B505354 && rdNat ch (a + 4) 2 == 0x0100 && rdNat ch (a + 6) 1 == 0xA2 &&
    decide (minVer ≤ rdNat ch (a + 12) 4) && decide (rdNat ch (a + 16) 4 ≤ 200) && decide (1 ≤ items ∧ items ≤ 4096) &&
    decide (64 + 16 * items + rdNat ch (a + 24) 4 + 29792 ≤ n)

/-- The pack at an address becomes the active one; the response names it. -/
def installPack (ch : Chip) (a : Nat) (v : Verdict) : Chip × Rsp :=
  let ver : Word := BitVec.ofNat 32 (rdNat ch (a + 8) 4)
  let ch1 := { ch with
    tsl := { ch.tsl with packVer := ver, packLoaded := true, packMeasure := v.measure }
    sys := { ch.sys with sec := { ch.sys.sec with packSec := BitVec.ofNat 32 (rdNat ch (a + 12) 4) } } }
  (ch1, rspData 0 12 (leBytes ver.toNat 4 ++ leBytes v.measure.toNat 8))

/-- Bytes that firmware reads from the host for a command: ADDRESS outside the window, POISON when they fail. -/
def fromHost (ch : Chip) (a n : Nat) (h : HostIn) (f : Chip → Chip × NonVol × Rsp) (nv : NonVol) : Chip × NonVol × Rsp :=
  if a < outBase ∨ 2 * outBase < a + n then (ch, nv, rspOf 0x1C)
  else
    let ch1 := hostRead ch 0 h [(a, n)]
    if hostBad ch h then (ch1, nv, rspOf 0x1D) else f ch1

def minVerOf (nv : NonVol) (i : Nat) : Nat := (nv.minVer.getD i 0).toNat

def execTestPackLoad (s : Stream) (h : HostIn) (v : Verdict) (st : State) : Host.Outcome State Fault Refusal :=
  runNv st s 0x80 anyRow (fun raw => ([(0, 5), (8, 11)], badIf (0x200000 < pb raw 11 8) 8)) fun ch nv c =>
    let a := pb c.raw 5 0
    let n := pb c.raw 11 8
    fromHost ch a n h (fun ch1 =>
      if v.vendorOk ∧ packOk ch1 a n (minVerOf nv 2) then
        let r := installPack ch1 a v
        (r.1, nv, r.2)
      else (raise ch1 .tslPackRejected 0, nv, rspOf 0x1B)) nv

/-! ### TEST_SCHEDULE (R443) -/

def schedUnit (raw : Nat) : Nat := pb raw 3 3
def schedCore (raw : Nat) : Nat := coreAt (pb raw 1 1) (pb raw 2 2)

/-- An index out of the range of its unit: core, engine 0–63, array position 0–127. -/
def unitBad (u i : Nat) : Bool :=
  match u with | 0 => i != 0 | 1 => decide (63 < i) | _ => decide (127 < i)

def scheduleChk (raw : Nat) : List (Nat × Nat) × List Nat :=
  if pb raw 0 0 = 0 then ([(0, 0), (4, 8)], badIf (1 < pb raw 8 8) 8)
  else ([(0, 4)], badIf (2 < pb raw 0 0) 0 ++ badIf (7 < pb raw 1 1) 1 ++ badIf (127 < pb raw 2 2) 2 ++
    badIf (2 < schedUnit raw) 3 ++ badIf (unitBad (schedUnit raw) (pb raw 4 4)) 4)

def execTestScheduleSet (s : Stream) (st : State) : Host.Outcome State Fault Refusal :=
  runNow st s 0x81 (actRow 0 3) scheduleChk fun ch c =>
    let p := pb c.raw 7 4
    let was := (regGet ch .tslCtrl 0).getLsbD 1
    let on := pbit c.raw 8 0 0 == 1
    let ch1 := regPut (regPut ch .tslPeriod 0 15 0 (clampN 250 60000 p)) .tslCtrl 0 1 1 (b2n on)
    (if on ∧ ¬ was then { ch1 with tsl := { ch1.tsl with schedAt := ch1.us } } else ch1,
      rspOf (if clampN 250 60000 p = p then 0 else 2))

/-- A TEST_NOW goes on: its window runs at the core's next test point; the memo says that it has begun. One that a fence
ended meanwhile did not pass (R429, R444). -/
def testNowGo (ch : Chip) (c : Cmd) (obs : TestObs) : Did :=
  let g := schedCore c.raw
  let answer (ch : Chip) (passed : Bool) : Did := reply ch (rspData 0 1 [if passed then 1 else 2])
  let on := (tcoreOf ch g).under == some .now
  if c.memo ≠ [] ∧ ¬ on then answer ch false
  else if coreFenced ch g then reply ch (rspOf 0x14)
  else if ¬ ctlRuns ch ∨ (c.memo = [] ∧ on) then stay ch c.memo
  else
    let free := !memHeld ch (.core (g / 128)) (touched (fun x => flushCache x g) ch)
    let r := runWindow ch g .now (atTestPoint ch g && workDone ch g && free) obs
    match r.2 with
    | some passed => answer r.1 passed
    | none => stay r.1 (if (tcoreOf r.1 g).under = some .now then [1] else [])

def execTestNow (s : Stream) (obs : TestObs) (st : State) : Host.Outcome State Fault Refusal :=
  runCmd st s 0x81 (actRow 1 3) scheduleChk (fun ch c => testNowGo ch c obs) (fun ch c => testNowGo ch c obs)

/-- The host fences a unit: an engine in its core's next window, an array by the position it serves. -/
def fenceUnit (ch : Chip) (g u i : Nat) : Chip :=
  if coreFenced ch g then ch
  else match u with
    | 0 => fenceCore ch g 5
    | 1 => if (accOf ch g).fencedEng.getLsbD i then ch
      else updTcore ch g fun x => { x with engPend := x.engPend ||| BitVec.ofNat 64 (2 ^ i) }
    | _ => fenceArray ch g (physOf ch g i) 5

def execTestScheduleFence (s : Stream) (st : State) : Host.Outcome State Fault Refusal :=
  runNow st s 0x81 (actRow 2 3) scheduleChk fun ch c =>
    (fenceUnit ch (schedCore c.raw) (schedUnit c.raw) (pb c.raw 4 4), rspOk)

/-! ### FENCE_QUERY (R443, R435) -/

/-- A fence as FENCES lists it: unit, tower, core within tower, index, cause. -/
def fenceRec (u t c i cause : Nat) : List Byte := ([u, t, c, i, cause].flatMap fun x => leBytes x 1) ++ [0, 0, 0]

/-- The fences of a core, then of its tower in the place of core 0. -/
def coreFences (ch : Chip) (g : Nat) : List (List Byte) :=
  let t := g / 128
  let c := g % 128
  let x := tcoreOf ch g
  (if x.fenced then [fenceRec 0 t c 0 x.cause] else []) ++
    (((List.range 64).filter (accOf ch g).fencedEng.getLsbD).map fun e => fenceRec 1 t c e (tget x.engCause 1 e)) ++
    (((List.range 136).filter fun a => (arrOf ch g a).fenced).map fun a => fenceRec 2 t c a (arrOf ch g a).fenceCause)

/-- The list of current fences that function f sees. -/
def fencesOf (ch : Chip) (f : Nat) : List (List Byte) :=
  (List.range 1024).flatMap fun g =>
    let t := towerOf ch (g / 128)
    (if f = 0 ∨ coreJob ch g = some (jobId (f - 1)) then coreFences ch g else []) ++
      (if f = 0 ∧ g % 128 = 0 ∧ t.fenced then [fenceRec 3 (g / 128) 0 0 t.fenceCause] else [])

def noteRec (n : Note) : List Byte :=
  leBytes n.seq 8 ++ leBytes n.us 8 ++ leBytes n.reason 1 ++ leBytes n.detail 1 ++ leBytes n.core 2 ++ leBytes n.tid 2 ++
    leBytes n.tile 1 ++ [0] ++ leBytes n.bitmap.toNat 8

/-- The notifications that function f sees: of its job, or of every job in ascending order on the physical one. -/
def notesOf (ch : Chip) (f : Nat) : List Note :=
  if f = 0 then (List.range 16).flatMap fun j => (jobOf ch j).notes else (jobOf ch (f - 1)).notes

def fenceQueryChk (raw : Nat) : List (Nat × Nat) × List Nat :=
  ([(0, 0), (8, 21), (24, 27)], badIf (1 < pb raw 0 0) 0)

def queryRsp (n next : Nat) : Rsp := rspData 0 16 (leBytes n 4 ++ [0, 0, 0, 0] ++ leBytes next 8)

def execFenceQueryFences (s : Stream) (st : State) : Host.Outcome State Fault Refusal :=
  runNow st s 0x82 (actRow 0 2) fenceQueryChk fun ch c =>
    let first := pb c.raw 15 8
    let l := ((fencesOf ch s.fn.val).drop first).take (pb c.raw 27 24)
    toBuffer ch s.fn.val (pb c.raw 21 16) l.flatten (queryRsp l.length (first + l.length))

def execFenceQueryNotify (s : Stream) (st : State) : Host.Outcome State Fault Refusal :=
  runNow st s 0x82 (actRow 1 2) fenceQueryChk fun ch c =>
    let first := pb c.raw 15 8
    let l := ((notesOf ch s.fn.val).filter fun n => decide (first ≤ n.seq)).take (pb c.raw 27 24)
    let next := match l.getLast? with | some n => n.seq + 1 | none => first
    toBuffer ch s.fn.val (pb c.raw 21 16) (l.flatMap noteRec) (queryRsp l.length next)

/-! ### READMIT (R432) -/

def readmitChk (raw : Nat) : List (Nat × Nat) × List Nat :=
  let u := pb raw 0 0
  ([(0, 3)], badIf (3 < u) 0 ++ badIf (7 < pb raw 1 1) 1 ++ badIf (if u = 3 then pb raw 2 2 != 0 else decide (127 < pb raw 2 2)) 2 ++
    badIf (match u with | 1 => decide (63 < pb raw 3 3) | 2 => decide (135 < pb raw 3 3) | _ => pb raw 3 3 != 0) 3)

/-- What the test content finds on core g, or on a unit of it; nothing observed is a pass (log 7). -/
def contentPasses (obs : List (Nat × TestObs)) (g : Nat) : Bool :=
  match obs.find? fun o => o.1 == g % 128 with
  | some o => o.2 == .pass
  | none => true

/-- A core returns to service: its tiles EMPTY, without an image, its field due (R432, R97). -/
def readmitCore (ch : Chip) (g : Nat) : Chip :=
  let ch1 := emptyTiles (updTcore ch g fun x => { x with fenced := false, cause := 0, result := 1 }) g
  queueField (updCore ch1 g fun k => { k with image := none }) g

/-- Blocks of a readmitted island that were STOPPING are DISABLED (R376). -/
def settleBlocks (ch : Chip) (t : Nat) : Chip :=
  let one (b : Blk) (c : Chip) : Chip := (span (t * (blkInfo b).count) (blkInfo b).count).foldl (fun c u =>
    if blkGet c b u = .stopping then blkSet c b u false .disabled else c) c
  [Blk.seq, .eng, .wch, .vec, .dma, .syn, .arc, .prg, .cal].foldl (fun c b => one b c) ch

/-- A tower whose clocks run is tested core by core; the cores that pass return with it. -/
def readmitTower (ch : Chip) (t : Nat) (obs : List (Nat × TestObs)) : Chip × Nat :=
  let gs := span (128 * t) 128
  let good := gs.filter (contentPasses obs)
  let bad := gs.filter fun g => !contentPasses obs g
  let marked := bad.foldl (fun c g => updTcore (emptyTiles c g) g fun x =>
    { x with fenced := true, cause := if x.fenced then x.cause else 1, result := 2 }) ch
  if good = [] then (marked, 1)
  else
    let ch1 := updTower marked t fun x => { x with fenced := false, fenceCause := 0 }
    (queueTower (settleBlocks (good.foldl readmitCore ch1) t) t, 0)

/-- The tower's clocks run within range again: an observation of number 128 says so (log 7). -/
def clocksBack (ch : Chip) (t : Nat) (obs : List (Nat × TestObs)) : Bool :=
  (islandRuns ch t && islandRuns ch (8 + t)) || obs.any fun o => o.1 == 128 && o.2 == .pass
def runClocks (ch : Chip) (t : Nat) : Chip :=
  { ch with islRun := ch.islRun ||| BitVec.ofNat 25 (2 ^ t) ||| BitVec.ofNat 25 (2 ^ (8 + t)) }

/-- A unit of a core is tested while the core is at a test point, or has stopped. -/
def readmitReady (ch : Chip) (g : Nat) : Bool :=
  atTestPoint ch g && workDone ch g

def readmitGo (ch : Chip) (raw : Nat) (obs : List (Nat × TestObs)) : Did :=
  let t := pb raw 1 1
  let g := coreAt t (pb raw 2 2)
  let i := pb raw 3 3
  let answer (c : Chip) (n : Nat) : Did := reply c (rspData 0 1 (leBytes n 1))
  let passed := contentPasses obs g
  if pb raw 0 0 = 3 then
    if ¬ (towerOf ch t).fenced then answer ch 2
    else if ¬ clocksBack ch t obs then answer ch 3
    else let r := readmitTower (runClocks ch t) t obs; answer r.1 r.2
  else if (towerOf ch t).fenced then answer ch 4
  else match pb raw 0 0 with
    | 0 =>
      if ¬ (tcoreOf ch g).fenced then answer ch 2
      else if ¬ readmitReady ch g then stay ch []
      else if passed then answer (readmitCore ch g) 0
      else answer (updTcore (emptyTiles ch g) g fun x => { x with result := 2 }) 1
    | 1 =>
      if ¬ (accOf ch g).fencedEng.getLsbD i then answer ch 2
      else if ¬ readmitReady ch g then stay ch []
      else if passed then
        answer (updTcore (updAcc (emptyTiles ch g) g fun a => { a with fencedEng := a.fencedEng &&& ~~~(BitVec.ofNat 64 (2 ^ i)) }) g
          fun x => { x with engCause := tdel x.engCause i }) 0
      else answer (emptyTiles ch g) 1
    | _ =>
      if ¬ (arrOf ch g i).fenced then answer ch 2
      else if ¬ readmitReady ch g then stay ch []
      else if passed then
        answer (updArr (emptyTiles ch g) g i fun x =>
          { (if (bankOf ch g).moves.any fun m => m.old == i then x else retired x 1) with
            fenced := false, fenceCause := 0, role := 1 }) 0
      else answer (emptyTiles ch g) 1

def execReadmit (s : Stream) (obs : List (Nat × TestObs)) (st : State) : Host.Outcome State Fault Refusal :=
  runCmd st s 0x83 anyRow readmitChk (fun ch c => readmitGo ch c.raw obs) (fun ch c => readmitGo ch c.raw obs)

end Sys2Proof.Machine
end

