-- ==== Sys2Proof/Machine/ObsCmd.lean ====
section
/-! DEFINITION. The commands of counters, dumps, snapshots and converters (21_observation.md R458, R459, R462;
22_cowslip_sensors.md R480). -/

namespace Sys2Proof.Machine

/-! ### CTR_ACCESS_GRANT (R459) -/

def accessChk (raw : Nat) : List (Nat × Nat) × List Nat := ([(0, 0)], badIf (1 < pb raw 0 0) 0)

def dumpRsp (d : JobDump) : Rsp := rspData 0 12 (leBytes d.da 6 ++ [0, 0] ++ leBytes d.slot 4)

/-- The job's reach to its dump region begins or ends. -/
def setGrant (ch : Chip) (c : Cmd) (on : Bool) : Chip × Rsp :=
  let j := cmdJob c.raw
  match (jobOf ch j).dump with
  | none => (ch, if on then rspOf 0x15 else rspOk)
  | some d => (updJob ch j fun b => { b with dump := some { d with granted := on } }, if on then dumpRsp d else rspOk)

def execCtrAccessGrant (s : Stream) (st : State) : Host.Outcome State Fault Refusal :=
  runNow st s 0x90 (actRow 0 2) accessChk fun ch c => setGrant ch c true
def execCtrAccessRevoke (s : Stream) (st : State) : Host.Outcome State Fault Refusal :=
  runNow st s 0x90 (actRow 1 2) accessChk fun ch c => setGrant ch c false

/-! ### CTR_DUMP_CFG (R457, R458) -/

def dumpSlot (maxClusters : Nat) : Nat := 384 + 6272 * maxClusters

def execCtrDumpEnable (s : Stream) (st : State) : Host.Outcome State Fault Refusal :=
  runNow st s 0x91 (actRow 0 2)
    (fun raw => ([(0, 1), (4, 5)], badIf (1 < pb raw 0 0) 0 ++ badIf (decide (pb raw 1 1 = 0 ∨ 128 < pb raw 1 1)) 1 ++
      badIf (pb raw 5 4 < 2) 4)) fun ch c =>
    let j := cmdJob c.raw
    let jb := jobOf ch j
    let slot := dumpSlot (pb c.raw 1 1)
    let n := pb c.raw 5 4
    if jb.dump.isSome then (ch, rspOf 0x14)
    else match placeHbm ch jb.global jb.tower (slot * n) with
      | none => (ch, rspOf 0x15)
      | some da =>
        let d : JobDump := ⟨da, slot, pb c.raw 1 1, n, 0, false⟩
        (updJob (setLayer ch jb.global da) j fun b => { b with dump := some d }, dumpRsp d)

/-- A dump ends, and its region is free, after the cut in progress (R458). -/
def endDump (ch : Chip) (j : Nat) : Did :=
  if dumpBusy ch j then stay ch []
  else reply (freeLayers (updJob ch j fun b => { b with dump := none })) rspOk

def execCtrDumpDisable (s : Stream) (st : State) : Host.Outcome State Fault Refusal :=
  runCmd st s 0x91 (actRow 1 2) (fun _ => ([(0, 0)], [])) (fun ch c => endDump ch (cmdJob c.raw))
    fun ch c => endDump ch (cmdJob c.raw)

/-! ### SNAP_ARM (R462, R465) -/

def armChk (raw : Nat) : List (Nat × Nat) × List Nat :=
  ([(0, 7), (16, 21), (24, 31)], badIf (2 < pb raw 0 0) 0 ++ badIf (1 < pb raw 1 1) 1 ++ badIf (15 < pb raw 2 2) 2 ++
    badIf (1 < pb raw 3 3) 3 ++ badIf (271 < pb raw 7 6) 6 ++ badIf (pb raw 31 24 < snapLen) 24)

/-- A destination lies in the outbound window, or in HBM that no job maps. -/
def snapDest (ch : Chip) (da n : Nat) : Bool :=
  decide (outBase ≤ da ∧ da + n ≤ 2 * outBase) ||
    (decide (da + n ≤ hbmEnd) && ch.jobs.all fun p => p.2.maps.all fun m =>
      m.host || decide (m.da + m.len ≤ da ∨ da + n ≤ m.da))

def snapRsp : Rsp := rspData 0 4 (leBytes snapLen 4)

def execSnapArm (s : Stream) (st : State) : Host.Outcome State Fault Refusal :=
  runNow st s 0x92 (actRow 0 3) armChk fun ch c =>
    let r := c.raw
    if ¬ snapDest ch (pb r 21 16) (pb r 31 24) then (ch, rspOf 0x1C)
    else
      let m : Arm := ⟨pb r 1 1 == 1, pb r 2 2, pb r 3 3 == 1, pb r 5 4, pb r 7 6, pb r 21 16, pb r 31 24⟩
      (updObs ch fun o => { o with arm := some m, rearmed := true, trigs := [] }, snapRsp)

def execSnapDisarm (s : Stream) (st : State) : Host.Outcome State Fault Refusal :=
  runNow st s 0x92 (actRow 1 3) (fun _ => ([(0, 0)], [])) fun ch _ =>
    (updObs ch fun o => { o with arm := none, trigs := [] }, rspOk)

/-- A snapshot at once, to the armed destination. -/
def execSnapTriggerNow (s : Stream) (st : State) : Host.Outcome State Fault Refusal :=
  runNow st s 0x92 (actRow 2 3) (fun _ => ([(0, 0)], [])) fun ch _ =>
    match ch.obs.arm with
    | none => (ch, rspOf 0x14)
    | some m =>
      if ¬ obsRuns ch then (ch, rspOf 0x14)
      else if ch.obs.snap.isSome then (raise ch .obsSnapMissed 0, snapRsp)
      else (takeSnap ch 5 0 m.da, snapRsp)

/-! ### SENSOR_CFG (R480) -/

def scConv (raw : Nat) : Nat := pb raw 1 1
def scBad (raw : Nat) : List Nat := badIf (8 < scConv raw) 1

/-- Stored values of a converter's registers. -/
def snReg (ch : Chip) (k : Nat) (t p : Reg) : Word := if k < 8 then regGet ch t k else regGet ch p 0
def snPut (ch : Chip) (k : Nat) (t p : Reg) (v : Nat) : Chip :=
  if k < 8 then regSet ch t k (BitVec.ofNat 32 v &&& ((regInfo t).rw ||| (regInfo t).wd))
  else regSet ch p 0 (BitVec.ofNat 32 v &&& ((regInfo p).rw ||| (regInfo p).wd))
def snPutEntry (ch : Chip) (k : Nat) (inj : Bool) (n : Nat) (w : Word) : Chip :=
  if k < 8 then (if inj then regSet ch .snstInj k w n else regSet ch .snstReg k w n)
  else (if inj then regSet ch .snsInj 0 w n else regSet ch .snsReg 0 w n)

/-- A change of WD fields is applied once the converter is DISABLED; one that this command stopped is enabled again. -/
def snGo (ch : Chip) (c : Cmd) (memo : List Nat) (change : Chip → Cmd → Chip × Rsp) : Did :=
  let b := snBlk (scConv c.raw)
  let ch1 := stopBlk ch b.1 b.2 false
  if ¬ islandRuns ch 21 ∨ blkGet ch1 b.1 b.2 ≠ .disabled then stay ch memo
  else
    let r := change ch1 c
    reply (if memo = [] then r.1 else enableBlk r.1 b.1 b.2 false) r.2

/-- A SENSOR_CFG action: refused, applied at once, or by way of STOPPING. -/
def sensorCmd (st : State) (s : Stream) (a : Nat) (chk : Nat → List (Nat × Nat) × List Nat)
    (no : Chip → Nat → Option Rsp) (wd : Chip → Nat → Bool) (change : Chip → Cmd → Chip × Rsp) :
    Host.Outcome State Fault Refusal :=
  runCmd st s 0xA0 (actRow a 4) chk
    (fun ch c =>
      let b := snBlk (scConv c.raw)
      match no ch c.raw with
      | some r => reply ch r
      | none =>
        if ¬ islandRuns ch 21 then reply ch (rspOf 0x14)
        else if ¬ wd ch c.raw then let r := change ch c; reply r.1 r.2
        else snGo (disableBlk ch b.1 b.2 false) c (if blkGet ch b.1 b.2 = .disabled then [] else [1]) change)
    (fun ch c => snGo ch c c.memo change)

def converterChk (raw : Nat) : List (Nat × Nat) × List Nat :=
  ([(0, 3), (6, 11)], badIf (3 < pb raw 0 0) 0 ++ scBad raw ++ badIf (3 < pb raw 2 2) 2 ++ badIf (7 < pb raw 3 3) 3 ++
    badIf (4095 < pb raw 7 6) 6 ++ badIf (decide (pb raw 11 8 < 10 ∨ 1000000 < pb raw 11 8)) 8)

def converterCfg (raw : Nat) : Nat := pb raw 2 2 + 4 * pb raw 3 3

def putConverter (ch : Chip) (c : Cmd) : Chip × Rsp :=
  let k := scConv c.raw
  (snPut (snPut (snPut ch k .snstCfg .snsCfg (converterCfg c.raw)) k .snstTimer .snsTimer (pb c.raw 11 8)) k
    .snstDelay .snsDelay (pb c.raw 7 6), rspOk)

def execSensorCfgConverter (s : Stream) (st : State) : Host.Outcome State Fault Refusal :=
  sensorCmd st s 0 converterChk (fun _ _ => none)
    (fun ch raw =>
      let k := scConv raw
      let w : Word := BitVec.ofNat 32 (converterCfg raw) &&& (regInfo (if k < 8 then .snstCfg else .snsCfg)).wd
      snReg ch k .snstCfg .snsCfg != w || (snReg ch k .snstTimer .snsTimer).toNat != pb raw 11 8) putConverter

def sqInj (raw : Nat) : Bool := pb raw 2 2 == 1
/-- The entries that a SEQUENCE writes, with their indices. -/
def sqWords (raw : Nat) : List (Nat × Word) :=
  (List.range (pb raw 5 4)).map fun i => (pb raw 3 3 + i, BitVec.ofNat 32 (pb raw (11 + 4 * i) (8 + 4 * i)))

def sequenceChk (raw : Nat) : List (Nat × Nat) × List Nat :=
  let n := pb raw 5 4
  let ok := decide (1 ≤ n ∧ n ≤ 10)
  let words := (List.range 10).filter fun i => decide (i < n) &&
    (let w : Word := BitVec.ofNat 32 (pb raw (11 + 4 * i) (8 + 4 * i))
     !entryOk (scConv raw) (sqInj raw) w || w &&& 0x007F0FE0 != 0)
  ([(0, 5), (8, 7 + 4 * min 10 n)], scBad raw ++ badIf (1 < pb raw 2 2) 2 ++
    badIf (decide ((if sqInj raw then 4 else 16) < pb raw 3 3 + n)) 3 ++ badIf (!ok) 4 ++ words.map fun i => 8 + 4 * i)

def execSensorCfgSequence (s : Stream) (st : State) : Host.Outcome State Fault Refusal :=
  sensorCmd st s 1 sequenceChk
    (fun ch raw =>
      if (sqWords raw).any fun p => fwEntry (scConv raw) (sqInj raw) p.1 && snEntry ch (scConv raw) (sqInj raw) p.1 != p.2
      then some (rspBad 3) else none)
    (fun ch raw => (sqWords raw).any fun p => snEntry ch (scConv raw) (sqInj raw) p.1 != p.2)
    (fun ch c => ((sqWords c.raw).foldl (fun x p => snPutEntry x (scConv c.raw) (sqInj c.raw) p.1 p.2) ch, rspOk))

def bufferChk (raw : Nat) : List (Nat × Nat) × List Nat :=
  let da := pb raw 13 8
  let n := pb raw 19 16
  let win := pb raw 2 2 == 1 && n != 0
  ([(0, 2), (8, 13), (16, 19)], scBad raw ++ badIf (1 < pb raw 2 2) 2 ++
    badIf (if win then da % 256 != 0 else da != 0) 8 ++ badIf (n % 256 != 0) 16)

/-- The converter's buffer becomes n bytes at a DA; `hbm` keeps an allocation of HBM. -/
def putBuffer (ch : Chip) (k da n : Nat) (hbm : Bool) : Chip :=
  let ch1 := snPut (snPut (snPut ch k .snstBufLo .snsBufLo (da % 2 ^ 32)) k .snstBufHi .snsBufHi (da / 2 ^ 32)) k
    .snstBufLen .snsBufLen n
  updConv (setBufIdx ch1 k 0) k fun x => { x with buf := if hbm then some (da, n) else none }

def bufferRsp (da : Nat) : Rsp := rspData 0 6 (leBytes da 6)

def changeBuffer (ch : Chip) (c : Cmd) : Chip × Rsp :=
  let k := scConv c.raw
  let n := pb c.raw 19 16
  let ch1 := freeLayers (putBuffer ch k 0 0 false)
  if n = 0 then (ch1, bufferRsp 0)
  else if pb c.raw 2 2 = 1 then (putBuffer ch1 k (pb c.raw 13 8) n false, bufferRsp (pb c.raw 13 8))
  else match placeHbm ch1 false 0xFF n with
    | none => (ch, rspOf 0x15)
    | some da => (putBuffer ch1 k da n true, bufferRsp da)

def execSensorCfgBuffer (s : Stream) (st : State) : Host.Outcome State Fault Refusal :=
  sensorCmd st s 2 bufferChk
    (fun _ raw =>
      let a := pb raw 13 8
      let n := pb raw 19 16
      if pb raw 2 2 = 1 ∧ n ≠ 0 ∧ (a < outBase ∨ 2 * outBase < a + n) then some (rspOf 0x1C) else none)
    (fun _ _ => true) changeBuffer

def execSensorCfgAlarm (s : Stream) (st : State) : Host.Outcome State Fault Refusal :=
  sensorCmd st s 3
    (fun raw => ([(0, 5)], scBad raw ++ badIf (16383 < pb raw 3 2) 2 ++ badIf (decide (pb raw 3 2 ≤ pb raw 5 4)) 4))
    (fun _ _ => none) (fun _ _ => false)
    (fun ch c => (snPut ch (scConv c.raw) .snstAlarm .snsAlarm (pb c.raw 3 2 + pb c.raw 5 4 * 65536), rspOk))

end Sys2Proof.Machine
end

