-- ==== Sys2Proof/Machine/UnitCmd.lean ====
section
/-! DEFINITION. The commands of the offload queue, the power cap and the stacks' repair, and the bound of commands that
wait (16_host_link.md R356; 23_power_security_management.md R486; 12_memory.md R280, R281; 18_mailboxes_elbinik.md
R390). -/

namespace Sys2Proof.Machine

/-! ### OFFLOAD_CFG (R356) -/

def offloadChk (raw : Nat) : List (Nat × Nat) × List Nat :=
  let da := pb raw 13 8
  let w := pb raw 21 16
  let n := pb raw 31 24
  ([(0, 0), (2, 6), (8, 13), (16, 21), (24, 31)], badIf (1 < pb raw 0 0) 0 ++ badIf (15 < pb raw 6 6) 6 ++
    badIf (da % 0x10000 != 0) 8 ++ badIf (w % 4096 != 0 || decide (w < outBase)) 16 ++
    badIf (n == 0 || n % 4096 != 0) 24)

/-- What an ENABLE is refused for: objects outside the job's clusters, a queue enabled already, or ranges that the job
does not map. -/
def offloadRefusal (ch : Chip) (j : JobId) (raw : Nat) : Option Rsp :=
  let mine (o : Nat) : Bool := owner ch (objCluster (objOfNat o)) == some j
  let inMap (host : Bool) (a n : Nat) : Bool := inJobMaps ch j.val (· == host) a n
  if ¬ mine (pb raw 3 2) ∨ ¬ mine (pb raw 5 4) then some (rspOf 0x13)
  else if (bwOf ch j.val).isSome then some (rspOf 0x14)
  else if ¬ inMap false (pb raw 13 8) 0x10000 ∨ ¬ inMap true (pb raw 21 16) (pb raw 31 24) then some (rspOf 0x1C)
  else none

def newQueue (ch : Chip) (raw : Nat) : BwQ :=
  { push := objOfNat (pb raw 3 2), progress := objOfNat (pb raw 5 4), lead := pb raw 6 6, qda := pb raw 13 8
    wbase := pb raw 21 16, wlen := pb raw 31 24, next := 1
    rel := (objGet ch (objOfNat (pb raw 3 2))).toNat, pushed := 0, ents := [], closing := false }

def execOffloadCfgEnable (s : Stream) (st : State) : Host.Outcome State Fault Refusal :=
  runNow st s 0xD0 (actRow 0 2) offloadChk fun ch c =>
    let j := jobId (cmdJob c.raw)
    match offloadRefusal ch j c.raw with
    | some r => (ch, r)
    | none => (setBw ch j.val (newQueue ch c.raw), rspOk)

def execOffloadCfgDisable (s : Stream) (st : State) : Host.Outcome State Fault Refusal :=
  runNow st s 0xD0 (actRow 1 2) (fun _ => ([(0, 0), (2, 6), (8, 13), (16, 21), (24, 31)], [])) fun ch c => (bwDisable ch (jobId (cmdJob c.raw)), rspOk)

/-! ### POWER_CAP_SET (R486) -/

def capChk (raw : Nat) : List (Nat × Nat) × List Nat :=
  ([(0, 9)], (span 2 8).flatMap fun b => badIf (pb raw b b != 0 && decide (pb raw b b < 18 ∨ 42 < pb raw b b)) b)

def execPowerCapSet (s : Stream) (st : State) : Host.Outcome State Fault Refusal :=
  runNow st s 0xE0 anyRow capChk fun ch c =>
    let v := pb c.raw 1 0
    let w := if v = 0 then ch.sys.cap0 else v
    let cap := clampN 800 2150 w
    let ch1 := (List.range 8).foldl (fun x t =>
      if pb c.raw (2 + t) (2 + t) = 0 then x else regPut x .pwrTPoint t 13 8 (pb c.raw (2 + t) (2 + t)))
      (regPut ch .pwrCap 0 11 0 cap)
    (ch1, rspData (if v = 0 ∨ cap = v then 0 else 2) 4 (leBytes cap 2 ++ leBytes ch.sys.pwr.est 2))

/-! ### HBM_REPAIR (R280, R281) -/

def appliedIn (l : List (Nat × Nat × Nat × Nat)) (k pc : Nat) : Nat := (l.filter fun r => r.1 == k && r.2.1 == pc).length
def appliedBank (l : List (Nat × Nat × Nat × Nat)) (k pc b : Nat) : Nat :=
  (l.filter fun r => r.1 == k && r.2.1 == pc && r.2.2.1 == b).length

def repairList (nv : NonVol) (kind : Nat) : List (Nat × Nat × Nat × Nat) := if kind = 0 then nv.soft else nv.hard

/-- Spare rows of a kind left in a bank, and in a pseudo-channel. -/
def sparesLeft (nv : NonVol) (k pc b kind : Nat) : Nat :=
  Config.hbmSpares k pc b kind - appliedBank (repairList nv kind) k pc b
def pcLeft (nv : NonVol) (k pc kind : Nat) : Nat :=
  ((List.range 64).map fun b => sparesLeft nv k pc b kind).foldl (· + ·) 0
def stackLeft (nv : NonVol) (k kind : Nat) : Nat := ((List.range 64).map fun pc => pcLeft nv k pc kind).foldl (· + ·) 0

def le16 (n : Nat) : List Byte := leBytes (min 0xFFFF n) 2

def pcRecord (nv : NonVol) (k pc : Nat) : List Byte :=
  le16 (pcLeft nv k pc 0) ++ le16 (pcLeft nv k pc 1) ++ le16 (appliedIn nv.soft k pc) ++ le16 (appliedIn nv.hard k pc)
def candRecord (c : Cand) : List Byte :=
  leBytes c.pc 1 ++ leBytes c.bank 1 ++ le16 c.row ++ le16 c.corr ++ le16 c.uncorr ++
    leBytes (b2n c.repaired + 2 * b2n c.soft) 1 ++ leBytes 0 7

def execHbmRepairQuery (s : Stream) (st : State) : Host.Outcome State Fault Refusal :=
  runNv st s 0xC0 anyRow (fun raw => ([(0, 0), (8, 15)], badIf (15 < pb raw 0 0) 0)) fun ch nv c =>
    let k := pb c.raw 0 0
    let cs := (stackOf ch k).cands
    let r := toBuffer ch s.fn.val (pb c.raw 15 8) ((List.range 64).flatMap (pcRecord nv k) ++ cs.flatMap candRecord)
      (rspData 0 6 (le16 (stackLeft nv k 0) ++ le16 (stackLeft nv k 1) ++ leBytes cs.length 2))
    (r.1, nv, r.2)

/-- Rows of a bank: six layers of 2^25 lines in 64 pseudo-channels of 64 banks, four lines a row (R265, R266). -/
def hbmRows : Nat := 12288

/-- The four stack lines of a row. -/
def rowLines (pc b row : Nat) : List Nat :=
  (List.range 4).map fun i => let q := row * 256 + b * 4 + i; q * 64 + (pc ^^^ (q / 64 % 64))

/-- The DA of a line of a stack (the inverse of R265). -/
def lineDa (ch : Chip) (k l : Nat) : Nat :=
  let i := l / 0x2000000
  let m := l % 0x2000000
  if ch.globalLayers.contains i then
    let g := 16 * m + (k ^^^ (m / 2 ^ 6 % 16) ^^^ (m / 2 ^ 16 % 16))
    g * 256 / 0x400000000 * 0x1800000000 + i * 0x400000000 + g * 256 % 0x400000000
  else
    let g := 2 * m + (k % 2 ^^^ (m / 2 ^ 7 % 2) ^^^ (m / 2 ^ 15 % 2))
    k / 2 * 0x1800000000 + i * 0x400000000 + g * 256

/-- A repaired line reads as undefined data (log 9); under a Landing line only what lies beneath it does. -/
def forgetLine (ch : Chip) (a : Nat) : Chip :=
  let sl := stackLine ch a
  let slice := sl.1 / 2
  let set := landSet sl
  let bs := (List.range 256).map fun i => Config.freeByte ch.free i
  let ch1 := { ch with free := ch.free + 1 }
  match landFind ch slice set a with
  | some (w, l) =>
    landPut ch1 (landKey slice set w) { l with
      back := some ((bs.zipIdx.filter fun p => p.1 != memDefault).map fun p => (a + p.2, p.1)), backPoi := [] }
  | none => wrMem ch1 a bs false

def applyChk (raw : Nat) : List (Nat × Nat) × List Nat :=
  ([(0, 6)], badIf (15 < pb raw 0 0) 0 ++ badIf (63 < pb raw 1 1) 1 ++ badIf (1 < pb raw 2 2) 2 ++ badIf (63 < pb raw 3 3) 3 ++
    badIf (decide (hbmRows ≤ pb raw 5 4)) 4 ++ badIf (1 < pb raw 6 6) 6)

/-- A repair is recorded: the candidate's flags, and what outlives resets. -/
def noteRepair (ch : Chip) (k pc b row kind : Nat) : Chip :=
  let ch1 := updStack ch k fun x => { x with cands := x.cands.map fun c =>
    if c.pc = pc ∧ c.bank = b ∧ c.row = row then { c with repaired := true, soft := decide (kind = 0) } else c }
  count ch1 (cntTower (k / 2) (8 + 12 * (k % 2) + 10)) 1

/-- A repair begins: busy while another runs on the stack, no-resource without a spare; else the pseudo-channel is
blocked. -/
def repairStart (ch : Chip) (nv : NonVol) (raw : Nat) : Chip × Option Rsp :=
  let k := pb raw 0 0
  let pc := pb raw 1 1
  if (stackOf ch k).repair.isSome then (ch, some (rspOf 0x14))
  else if sparesLeft nv k pc (pb raw 3 3) (pb raw 2 2) = 0 then (ch, some (rspOf 0x15))
  else (updStack ch k fun x => { x with repair := some pc }, none)

/-- It ends: the row is repaired, the requests that waited go on, and the repair is recorded. -/
def repairEnd (ch : Chip) (nv : NonVol) (raw : Nat) : Chip × NonVol :=
  let k := pb raw 0 0
  let pc := pb raw 1 1
  let kind := pb raw 2 2
  let b := pb raw 3 3
  let row := pb raw 5 4
  let ch1 := if pbit raw 6 0 0 = 1 then ch
    else (rowLines pc b row).foldl (fun x l => forgetLine x (lineDa x k l)) ch
  let e := (k, pc, b, row)
  (repairOver (noteRepair ch1 k pc b row kind) k,
    if kind = 0 then { nv with soft := nv.soft ++ [e] } else { nv with hard := nv.hard ++ [e] })

/-- The command begins its repair when it takes effect; the next time it runs, which is at most 1 ms or 250 ms later
(R281; log 20), the repair is over and it responds. -/
def execHbmRepairApply (s : Stream) (st : State) : Host.Outcome State Fault Refusal :=
  .next (if ¬ live st.chip then st else
    let ch := st.chip
    let k := streamIx s
    match cmdIn ch k 0xC1 anyRow with
    | none => st
    | some c =>
      if c.committed then
        let d := repairEnd ch st.nv c.raw
        { st with chip := respond d.1 k c rspOk, nv := d.2 }
      else if blocked ch k c then st
      else match refuse ch k c (applyChk c.raw).1 (applyChk c.raw).2 with
        | some r => { st with chip := respond ch k c r }
        | none => match repairStart ch st.nv c.raw with
          | (ch1, some r) => { st with chip := respond ch1 k c r }
          | (ch1, none) => { st with chip := settle k c (stay ch1 []) })

/-! ### COMMAND_BOUND (R390, R393) -/

/-- The bound in µs of a command that waits; none for the others. -/
def waitBound (op : Nat) : Option Nat :=
  match op with
  | 0x32 | 0x42 | 0x50 => some 1000000
  | 0x40 => some 3000000
  | 0x61 => some 1600000
  | 0x71 | 0x72 => some 60000000
  | _ => none

/-- The PARTIAL response of a waiting command. -/
def partialRsp (ch : Chip) (c : Cmd) : Rsp :=
  match cmdOp c.raw with
  | 0x40 => rspData 1 16 []
  | 0x42 =>
    let g := arCore c.raw
    refreshRsp ch 1 g (c.memo.filter fun a => !(bankOf ch g).refreshQ.contains a)
  | 0x50 => calRsp ch c.raw 1 c.memo
  | 0x61 => trainRsp ch c.raw 1
  | _ => rspOf 1

/-- A waiting command reaches its bound: it responds, and its work goes on in the background. -/
def execCommandBound (s : Stream) (st : State) : Host.Outcome State Fault Refusal :=
  onChip st fun ch =>
    let k := streamIx s
    match (streamOf ch k).cmd with
    | none => ch
    | some c => match waitBound (cmdOp c.raw) with
      | none => ch
      | some n =>
        if ¬ c.committed ∨ ¬ fwReady ch ∨ ch.us < c.since + n then ch
        else settle k c ⟨ch, some (partialRsp ch c), c.memo, cmdOp c.raw == 0x40 || cmdOp c.raw == 0x42⟩

end Sys2Proof.Machine
end

