-- ==== Sys2Proof/Machine/Security.lean ====
section
/-! DEFINITION. The security commands: attestation, updates and owners (23_power_security_management.md R490 to R494). -/

namespace Sys2Proof.Machine

/-! ### ATTEST_REPORT (R493) -/

/-- Bytes of a 512-bit measurement. -/
def measBytes (m : BitVec 512) : List Byte := leBytes m.toNat 64

/-- Bytes that the spec leaves open: the identity public key, then its certificate, then the measurement of the base
test pack (log 9). -/
def identityBytes (a n : Nat) : List Byte := (span a n).map Config.measureByte
def certLen : Nat := 64 + 29792
def baseMeasure : List Byte := identityBytes (64 + certLen) 64
def packMeasure (ch : Chip) : List Byte := if ch.tsl.packLoaded then measBytes ch.tsl.packMeasure else baseMeasure

/-- A list cut or filled with zeros to n bytes. -/
def fitBytes (bs : List Byte) (n : Nat) : List Byte := bs.take n ++ List.replicate (n - bs.length) 0

/-- The owner's key in force is the highest used slot's (R491). -/
def ownerKey (nv : NonVol) : List Byte := match nv.owners.getLast? with | some k => fitBytes k 64 | none => fitBytes [] 64
def ownerSlot (nv : NonVol) : Nat := if nv.owners = [] then 0xFF else nv.owners.length - 1

/-- Bytes 0 to 511 of a report for function f. -/
def reportHead (ch : Chip) (nv : NonVol) (f : Nat) (nonce : Nat) : List Byte :=
  leBytes 0x54505452 4 ++ leBytes 0x0100 2 ++ leBytes 0x8016 2 ++ [0xA2, 1, 0, 1, 0] ++
    leBytes (if f = 0 then 0xFF else f - 1) 1 ++ [0, 0] ++ leBytes nonce 32 ++ leBytes (devIdOf ch).toNat 8 ++
    identityBytes 0 64 ++ measBytes ch.sys.sec.cfgMeasure ++ measBytes ch.sys.sec.fwMeasure ++ packMeasure ch ++
    ownerKey nv ++ leBytes (ownerSlot nv) 1 ++ [0, 0, 0] ++
    ((List.range 3).flatMap fun i => leBytes (minVerOf nv i) 4) ++ leBytes ch.us 8 ++
    leBytes (regGet ch .pwrTlmTime 0 0).toNat 4 ++ leBytes (regGet ch .pwrTlmTime 0 1).toNat 4 ++ List.replicate 104 0

def attestChk (raw : Nat) : List (Nat × Nat) × List Nat := ([(0, 37), (40, 40)], badIf (1 < pb raw 40 40) 40)

/-- The signature comes with the command (log 13). -/
def execAttestReport (s : Stream) (sig : List Byte) (st : State) : Host.Outcome State Fault Refusal :=
  runNv st s 0xB0 anyRow attestChk fun ch nv c =>
    let f := s.fn.val
    let cert := if pbit c.raw 40 0 0 = 1 then identityBytes 64 certLen else []
    let bs := reportHead ch nv f (pb c.raw 31 0) ++ fitBytes sig 29792 ++ cert
    if ¬ islandRuns ch 22 then (ch, nv, rspOf 0x14)
    else if ch.sys.sec.pufFail then (ch, nv, rspOf 0x1B)
    else
      let r := toBuffer ch f (pb c.raw 37 32) bs (rspData 0 4 (leBytes bs.length 4))
      (r.1, nv, r.2)

/-! ### FW_UPDATE (R491, R494) -/

def updateChk (raw : Nat) : List (Nat × Nat) × List Nat :=
  ([(0, 0), (8, 13), (16, 19)], badIf (3 < pb raw 0 0) 0)

/-- Fields of an image's header: the security version and the body length (R410). -/
def headVer (h : List Byte) : Nat := leNat ((h.drop 8).take 4)
def headBody (h : List Byte) : Nat := leNat ((h.drop 12).take 4)
/-- A header of a kind (1 configuration, 2 firmware) obeys R410 and R411 but for the verdict on its image. -/
def headFits (h : List Byte) (kind minVer : Nat) : Bool :=
  leNat ((h.drop 4).take 1) == kind && decide (headBody h ≤ if kind = 1 then 35680 else 4164448) &&
    ((h.drop 5).take 3 ++ (h.drop 16).take 48).all (· == 0) && decide (minVer ≤ headVer h)

/-- The signer of an image or an enrolment record: for an `owned` one the owner in force where there is one, else the
vendor (R411, R491). -/
def signed (nv : NonVol) (owned : Bool) (v : Verdict) : Bool :=
  if owned && nv.owners != [] then v.ownerOk else v.vendorOk

/-- An image of a kind that lies in memory obeys R410 and R411. -/
def imageFits (ch : Chip) (nv : NonVol) (v : Verdict) (a n kind : Nat) : Bool :=
  let h := rdBytes ch a 64
  v.magicOk && signed nv (kind == 1) v && headFits h kind (minVerOf nv (kind - 1)) && decide (64 + headBody h + 29792 ≤ n)

/-- An update of one slot: the object is read from the host and verified, and what outlives resets changes. -/
def updateFrom (ch : Chip) (nv : NonVol) (c : Cmd) (h : HostIn) (ok : Chip → Nat → Nat → Bool) (put : NonVol → NonVol) :
    Chip × NonVol × Rsp :=
  let a := pb c.raw 13 8
  let n := pb c.raw 19 16
  if ¬ islandRuns ch 22 then (ch, nv, rspOf 0x14)
  else fromHost ch a n h (fun ch1 => if ok ch1 a n then (ch1, put nv, rspOk) else (ch1, nv, rspOf 0x1B)) nv

def fwSlotB (ch : Chip) : Bool := (regGet ch .pwrBootStat 0).getLsbD 9
def cfgSlotB (ch : Chip) : Bool := (regGet ch .pwrBootStat 0).getLsbD 8

def execFwUpdateFirmware (s : Stream) (h : HostIn) (v : Verdict) (st : State) : Host.Outcome State Fault Refusal :=
  runNv st s 0xB1 (actRow 0 4) updateChk fun ch nv c =>
    updateFrom ch nv c h (fun x a n => imageFits x nv v a n 2)
      fun nv => { nv with preferFwB := !fwSlotB ch }

def execFwUpdateConfiguration (s : Stream) (h : HostIn) (v : Verdict) (st : State) : Host.Outcome State Fault Refusal :=
  runNv st s 0xB1 (actRow 1 4) updateChk fun ch nv c =>
    updateFrom ch nv c h (fun x a n => imageFits x nv v a n 1)
      fun nv => { nv with preferCfgB := !cfgSlotB ch }

/-- An enrolment record for the lowest unused slot of this device. -/
def recordOk (ch : Chip) (nv : NonVol) (a n : Nat) : Bool :=
  decide (29872 ≤ n) && rdNat ch a 4 == 0x524E574F && decide (nv.owners.length < 4) &&
    rdNat ch (a + 4) 1 == nv.owners.length && rdNat ch (a + 8) 8 == (devIdOf ch).toNat

/-- The key of the record that the host sent. -/
def recordKey (h : HostIn) (ch : Chip) (a : Nat) : List Byte := rdBytes (hostIn ch h) (a + 16) 64

def execFwUpdateOwner (s : Stream) (h : HostIn) (v : Verdict) (st : State) : Host.Outcome State Fault Refusal :=
  runNv st s 0xB1 (actRow 2 4) updateChk fun ch nv c =>
    updateFrom ch nv c h (fun x a n => signed nv true v && recordOk x nv a n)
      fun nv => { nv with owners := nv.owners ++ [recordKey h ch (pb c.raw 13 8)] }

/-- The security versions that run: configuration, firmware, active test pack. -/
def runningVer (ch : Chip) : List Word :=
  [ch.sys.sec.cfgVer, ch.sys.sec.fwVer, if ch.tsl.packLoaded then ch.sys.sec.packSec else Config.basePackSec]

/-- A version counter of the lock region never decreases: a lower value is ignored (R490). -/
def raiseVer (old new : Word) : Word := if old.toNat ≤ new.toNat then new else old
def raiseAll (old new : List Word) : List Word :=
  match old, new with
  | o :: os, n :: ns => raiseVer o n :: raiseAll os ns
  | os, _ => os

def anyLower (old new : List Word) : Bool := (old.zip new).any fun p => decide (p.2.toNat < p.1.toNat)

def execFwUpdateRaise (s : Stream) (st : State) : Host.Outcome State Fault Refusal :=
  runNv st s 0xB1 (actRow 3 4) (fun _ => ([(0, 0)], [])) fun ch nv _ =>
    if ¬ islandRuns ch 22 then (ch, nv, rspOf 0x14)
    else (raiseIf (anyLower nv.minVer (runningVer ch)) ch .pwrLockRefused 0,
      { nv with minVer := raiseAll nv.minVer (runningVer ch) }, rspOk)

end Sys2Proof.Machine
end

