-- ==== Sys2Proof/Machine/Pcie.lean ====
section
/-! DEFINITION. Requests that the host sends over PCI Express, its link, and Function Level Resets (16_host_link.md R349
to R355; 19_power_up.md R412, R415). -/

namespace Sys2Proof.Machine

/-! ### Refusals (R351, R371) -/

/-- AER of function f logs an error (R348). -/
def aerLog (ch : Chip) (f : Nat) (e : AerErr) : Chip :=
  if ch.pci.aer.contains (f, e) then ch else { ch with pci := { ch.pci with aer := (f, e) :: ch.pci.aer } }

def urResp (ch : Chip) (f : Nat) : Chip :=
  raise (aerLog { ch with resp := ⟨.unsupported, [], false⟩ } f .unsupported) .pciUrIn 0
/-- A completion with Completer Abort status (R371, R431). -/
def caResp (ch : Chip) (f : Nat) : Chip := aerLog { ch with resp := ⟨.aborted, [], false⟩ } f .abort

/-- A bus error and an unsupported access as the host sees them. -/
def hostView (ch : Chip) (f : Nat) : Chip :=
  match ch.resp.status with
  | .busError => caResp ch f
  | .unsupported => urResp ch f
  | _ => ch

/-- A register access from the host; a write with EP set is discarded. -/
def hostReg (ch : Chip) (r : BarReq) (da : Nat) : Chip :=
  match r.write with
  | none => hostView (busRead ch da) r.fn.val
  | some bs => if r.ep then { ch with resp := ⟨.ok, [], false⟩ }
    else hostView (busWrite ch false da (BitVec.ofNat 32 (leNat bs))) r.fn.val

/-- Every register access is one aligned dword (R367). -/
def isDword (r : BarReq) : Bool := r.len == 4 && r.offset % 4 == 0
def notDword (ch : Chip) (f : Nat) : Chip := raise (urResp ch f) .pwrBusUnaligned 0

/-! ### MSI-X structures (R350, R353) -/

def vectorsOf (f : Nat) : Nat := if f = 0 then 1024 else 64

/-- Dword d of table entry v of function f; a vector is masked at reset. -/
def msixDw (ch : Chip) (f v d : Nat) : Word := tget ch.pci.msix (if d = 3 then 1 else 0) (f * 4096 + v * 4 + d)

/-- A vector that was unmasked fires if it is pending. -/
def msixUnmask (ch : Chip) (f v : Nat) : Chip :=
  let k := f * 1024 + v
  if ch.pci.msixPend.contains k ∧ ¬ (msixDw ch f v 3).getLsbD 0 then
    msix { ch with pci := { ch.pci with msixPend := sdel ch.pci.msixPend k } } f v
  else ch

def msixPut (ch : Chip) (f v d : Nat) (w : Word) : Chip :=
  let x : Word := if d = 3 then w &&& 1 else if d = 0 then w &&& 0xFFFFFFFC else w
  let ch1 := { ch with pci := { ch.pci with msix := tput ch.pci.msix (f * 4096 + v * 4 + d) x } }
  if d = 3 then msixUnmask ch1 f v else ch1

/-- The words of a write, from dword number i on. -/
def msixWrite (ch : Chip) (f i : Nat) : List Byte → Chip
  | b0 :: b1 :: b2 :: b3 :: r =>
    msixWrite (msixPut ch f (i / 4) (i % 4) (BitVec.ofNat 32 (leNat [b0, b1, b2, b3]))) f (i + 1) r
  | _ => ch

/-- A dword of the pending-bit array. -/
def pbaDw (ch : Chip) (f i : Nat) : Nat :=
  (List.range 32).foldl (fun n b =>
    n + b2n (decide (32 * i + b < vectorsOf f) && ch.pci.msixPend.contains (f * 1024 + 32 * i + b)) * 2 ^ b) 0

def okData (ch : Chip) (bs : List Byte) (poison : Bool) : Chip := { ch with resp := ⟨.ok, bs, poison⟩ }

def msixAccess (ch : Chip) (r : BarReq) (off : Nat) : Chip :=
  let f := r.fn.val
  match r.write with
  | some bs => if r.ep then okData ch [] false else msixWrite (okData ch [] false) f (off / 4) bs
  | none => okData ch ((List.range (r.len / 4)).flatMap fun i =>
      leBytes (msixDw ch f ((off / 4 + i) / 4) ((off / 4 + i) % 4)).toNat 4) false

def pbaAccess (ch : Chip) (r : BarReq) (off : Nat) : Chip :=
  match r.write with
  | some _ => okData ch [] false
  | none => okData ch ((List.range (r.len / 4)).flatMap fun i => leBytes (pbaDw ch r.fn.val (off / 4 + i)) 4) false

/-- The BAR that holds a function's mailbox and MSI-X structures, at `tab` and `pba`. -/
def mailBar (ch : Chip) (r : BarReq) (tab pba : Nat) : Chip :=
  let f := r.fn.val
  let o := r.offset
  if r.len % 4 ≠ 0 ∨ o % 4 ≠ 0 ∨ r.len = 0 then notDword ch f
  else if o + r.len ≤ 0x1000 then (if isDword r then hostReg ch r (blkBase .mbx f + o) else notDword ch f)
  else if tab ≤ o ∧ o + r.len ≤ tab + 16 * vectorsOf f then msixAccess ch r (o - tab)
  else if pba ≤ o ∧ o + r.len ≤ pba + vectorsOf f / 8 then pbaAccess ch r (o - pba)
  else urResp ch f

/-! ### HBM (R350 to R352) -/

def fnWho (f : Nat) : Who := if f = 0 then .pf else .job (jobId (f - 1))

/-- What a host read of HBM does at the home slices; the ways are those of the function's job, and it is not regulated
(R352). -/
def hostData (r : BarReq) (ch : Chip) : Chip :=
  okData (landRangeBy ch (whoJob (fnWho r.fn.val)) none .normal r.offset r.len false) (rdBytes ch r.offset r.len)
    (anyPoi ch r.offset r.len)

/-- A host access to HBM. What a DISABLED stop or a repair holds waits: a write line by line, and a read until the host
repeats it (R281, R285; log 135). -/
def hostHbm (ch : Chip) (r : BarReq) : Chip :=
  match r.write with
  | some bs => okData (postWrite ch (fnWho r.fn.val) .normal (some r.ep) r.offset bs) [] false
  | none =>
    let ts := touched (hostData r) ch
    if memHeld ch .die ts then { memWaits ch .die ts with resp := ⟨.waiting, [], false⟩ }
    else memWork .die r.bursts (hostData r) ch

/-- A VF reaches its job's mappings of HBM, and reads a granted dump region (R350, R459). -/
def vfReach (ch : Chip) (j : JobId) (a n : Nat) (write : Bool) : Bool :=
  let jb := jobOf ch j.val
  jobExists ch j.val && (inJobMaps ch j.val (!·) a n ||
    (match jb.dump with
      | some d => !write && d.granted && decide (d.da ≤ a ∧ a + n ≤ d.da + d.slot * d.records)
      | none => false))

/-- The HBM BARs are served from CALIBRATION on (R412). -/
def hbmServes (ch : Chip) : Bool := decide (2 ≤ ch.phase ∧ ch.phase ≤ 4)

/-! ### INBOUND_REQUEST -/

/-- BAR0 registers and mailboxes complete with Completer Abort while CK_CTL is lost (R431). -/
def needCtl (ch : Chip) (fn : Nat) (f : Chip → Chip) : Chip := if islandRuns ch 20 then f ch else caResp ch fn

/-- A posted write of the function still waits for its home slice, or there. -/
def writeHeld (ch : Chip) (f : Nat) : Bool :=
  let mine (q : LReq) : Bool := q.host.isSome && q.acc.who == fnWho f && q.acc.write.isSome
  ch.land.held.any mine || ch.stks.any fun p => p.2.queue.any mine

/-- A request that is ordered behind earlier posted writes: a read, or a write to a mailbox doorbell (R352). -/
def orderedBehind (r : BarReq) : Bool :=
  r.write.isNone || (r.bar == (if r.fn.val = 0 then 2 else 0) && decide (r.offset = 0x40))

/-- A VF is there once SR-IOV enables it (R348), and never in FAILED (R412). -/
def fnThere (ch : Chip) (f : Nat) : Bool :=
  f == 0 || (ch.phase != 5 && ch.pci.vfOn && decide (f ≤ ch.pci.numVfs))
/-- The memory of a function is open: its enable is set, and it is in D0 (R348, R351; log 169). -/
def fnOpen (ch : Chip) (f : Nat) : Bool :=
  fnThere ch f && (if f = 0 then ch.pci.mem else ch.pci.vfMem) && !ch.pci.d3.contains f

/-- What a request does, once it has arrived. -/
def serveBar (ch : Chip) (r : BarReq) : Chip :=
  let f := r.fn.val
  let end_ := r.offset + r.len
  if ch.phase = 0 ∨ (ch.phase = 5 ∧ failedCause ch = 3) ∨ ¬ fnOpen ch f then urResp ch f
  else if f = 0 then
    match r.bar with
    | 0 => if 0x100000000 < end_ then urResp ch f
      else if ¬ isDword r then notDword ch f
      else needCtl ch f fun c => hostReg c r (0x200000000000 + r.offset)
    | 2 => needCtl ch f fun c => mailBar c r 0x80000 0x90000
    | 4 => if hbmServes ch ∧ end_ ≤ hbmEnd then hostHbm ch r else urResp ch f
    | _ => urResp ch f
  else
    match r.bar with
    | 0 => needCtl ch f fun c => mailBar c r 0x8000 0xC000
    | 2 => if hbmServes ch ∧ vfReach ch (jobId (f - 1)) r.offset r.len r.write.isSome then hostHbm ch r else urResp ch f
    | _ => urResp ch f

/-- The payload of a write is as long as the request says. -/
def barFit (r : BarReq) : BarReq :=
  match r.write with
  | some bs => { r with write := some (fitBytes bs r.len) }
  | none => r

/-! ### Configuration requests (R348, R412, R415; log 169) -/

/-- How a configuration request to function f ends: until BOOT ends, and in FAILED with cause 3, with Request Retry
Status. -/
def cfgStatus (ch : Chip) (f : Nat) : RespStatus :=
  if ch.phase = 0 ∨ (ch.phase = 5 ∧ failedCause ch = 3) then .retry
  else if fnThere ch f then .ok else .unsupported

def aerBit (e : AerErr) : Nat := match e with | .unsupported => 1 | .abort => 2 | .ecrc => 4
/-- SR-IOV is shown by the physical function, but not in FAILED. -/
def sriovShown (ch : Chip) (f : Nat) : Bool := f == 0 && ch.phase != 5

/-- The value of a field of function f. -/
def cfgGet (ch : Chip) (f : Nat) (x : CfgField) : Nat :=
  let p := ch.pci
  match x with
  | .identity => match p.ident with | some d => d.vendor.toNat + 65536 * d.device.toNat | none => Config.defaultIdentity.toNat
  | .memEnable => b2n (f == 0 && p.mem)
  | .vfEnable => b2n (sriovShown ch f && p.vfOn)
  | .vfMemEnable => b2n (sriovShown ch f && p.vfMem)
  | .numVfs => if sriovShown ch f then p.numVfs else 0
  | .maxPayload => if f = 0 then p.mps else 0
  | .maxReadRequest => if f = 0 then p.mrrs else 0
  | .ecrcGenerate => b2n (f == 0 && p.ecrcGen)
  | .ecrcCheck => b2n (f == 0 && p.ecrcCheck)
  | .completionTimeout => if f = 0 then p.cto else 0
  | .powerState => if p.d3.contains f then 3 else 0
  | .aerStatus => ((p.aer.filter fun q => q.1 == f).map fun q => aerBit q.2).foldl (· + ·) 0

/-- A field of function f is written with a value; a value that is not supported changes nothing. -/
def cfgPut (ch : Chip) (f : Nat) (x : CfgField) (v : Nat) : Chip :=
  let p := ch.pci
  let put (p : Pci) : Chip := { ch with pci := p }
  match x with
  | .identity => ch
  | .memEnable => if f = 0 then put { p with mem := v.testBit 0 } else ch
  | .vfEnable => if sriovShown ch f then put { p with vfOn := v.testBit 0 } else ch
  | .vfMemEnable => if sriovShown ch f then put { p with vfMem := v.testBit 0 } else ch
  | .numVfs => if sriovShown ch f ∧ ¬ p.vfOn ∧ v ≤ (match p.ident with | some d => d.totalVfs.val | none => 16) ∧ v ≤ 16 then
      put { p with numVfs := v } else ch
  | .maxPayload => if f = 0 ∧ v ≤ 2 then put { p with mps := v } else ch
  | .maxReadRequest => if f = 0 ∧ v ≤ 5 then put { p with mrrs := v } else ch
  | .ecrcGenerate => if f = 0 then put { p with ecrcGen := v.testBit 0 } else ch
  | .ecrcCheck => if f = 0 then put { p with ecrcCheck := v.testBit 0 } else ch
  | .completionTimeout => if f = 0 ∧ [0, 1, 2, 5, 6, 9, 10, 13, 14].contains (v % 16) ∧ v < 32 then put { p with cto := v } else ch
  | .powerState => if v % 4 = 3 then put { p with d3 := sadd p.d3 f } else if v % 4 = 0 then put { p with d3 := sdel p.d3 f } else ch
  | .aerStatus => put { p with aer := p.aer.filter fun q => q.1 != f || !v.testBit (match q.2 with
      | .unsupported => 0 | .abort => 1 | .ecrc => 2) }

def cfgAccess (ch : Chip) (r : BarReq) (x : CfgField) : Chip :=
  let f := r.fn.val
  match cfgStatus ch f with
  | .ok => match r.write with
    | some bs => okData (if r.ep then ch else cfgPut ch f x (leNat bs)) [] false
    | none => okData ch (leBytes (cfgGet ch f x) 4) false
  | .unsupported => urResp ch 0
  | st => { ch with resp := ⟨st, [], false⟩ }

def execInboundRequest (r : BarReq) (s : State) : Host.Outcome State Fault Refusal :=
  onChip s fun ch =>
    if ch.pci.width = 0 ∨ ¬ islandRuns ch 19 then ch
    else
      let n := if r.write.isSome then r.len else 0
      let ch1 := raiseIf r.ep (count ch 128 n) .pciEpIn 0
      if r.ecrcBad ∧ ch.pci.ecrcCheck then aerLog ch1 r.fn.val .ecrc
      else match r.cfg with
      | some x => cfgAccess ch1 r x
      | none =>
        let ch2 := if orderedBehind r ∧ writeHeld ch1 r.fn.val then { ch1 with resp := ⟨.waiting, [], false⟩ }
          else serveBar ch1 (barFit r)
        count ch2 129 (if r.write.isNone ∧ ch2.resp.status = .ok then r.len else 0)

/-- A configuration request to the physical function; one to a virtual function, or to a field, is an INBOUND_REQUEST with
`cfg` (log 169). -/
def execConfigurationRequest (s : State) : Host.Outcome State Fault Refusal :=
  onChip s fun ch => if ch.pci.width = 0 then ch else { ch with resp := ⟨cfgStatus ch 0, [], false⟩ }

/-! ### The link (R348, R349) -/

/-- The link goes down: entries in flight will end with HOST_ERROR. -/
def pcieDown (ch : Chip) : Chip :=
  if ch.pci.width = 0 then ch
  else
    let ch1 := raise { ch with pci := { ch.pci with width := 0, speed := 0, flit := false } } .pciLinkDown 0
    (List.range 16).foldl bwCut ch1

def execPcieLinkDown (s : State) : Host.Outcome State Fault Refusal := onChip s pcieDown

/-- Responses held while the link was down are written. -/
def deliverHeld (ch : Chip) : Chip :=
  (List.range 34).foldl (fun c k => match (streamOf c k).held with | some bs => deliverRsp c k bs | none => c) ch

/-- The link is up at a width and a rate; FLIT mode is that of 64 GT/s. -/
def execPcieLinkUp (width : Fin 6) (speed : Fin 7) (_flit : Bool) (s : State) : Host.Outcome State Fault Refusal :=
  onChip s fun ch =>
    if width.val = 0 ∨ speed.val = 0 ∨ ¬ islandRuns ch 19 then ch
    else deliverHeld { ch with pci := { ch.pci with
      width := width.val, speed := speed.val, flit := decide (speed.val = 6) } }

/-! ### Function Level Reset (R355) -/

/-- Commands of a function without a response are discarded; of its ring, the entries not consumed too. -/
def dropStreams (ch : Chip) (f : Nat) : Chip :=
  let ch1 := updStream (updStream ch (2 * f) fun x => { x with busy := false, cmd := none, held := none }) (2 * f + 1)
    fun x => { x with cmd := none, held := none }
  let ch2 := regSet ch1 .mbxDoorbell f 0
  regSet ch2 .mbxRingHead f (regGet ch2 .mbxRingTail f)

/-- A function's MSI-X state returns to reset. -/
def msixReset (ch : Chip) (f : Nat) : Chip :=
  { ch with pci := { ch.pci with
      msix := ch.pci.msix.filter fun p => p.1 / 4096 != f
      msixPend := ch.pci.msixPend.filter fun k => k / 1024 != f } }

/-- Steps 1 to 4 for the function of job j. -/
def flrJob (ch : Chip) (j : JobId) : Chip :=
  let ch1 := if jobExists ch j.val then haltJob ch j else ch
  let ch2 := dropStreams ch1 (j.val + 1)
  msixReset (bwCut (bwCancel ch2 j) j.val) (j.val + 1)

/-- The mailbox of the physical function is as after reset. -/
def resetPfMailbox (ch : Chip) : Chip :=
  let lo := blkBase .mbx 0
  let ch1 := { ch with
    regs := ch.regs.filter fun p => !(decide (lo ≤ p.1) && decide (p.1 < lo + 0x1000))
    blks := tdel ch.blks (blkKey .mbx 0 false) }
  updStream (updStream ch1 0 fun x => { streamReset with bg := x.bg }) 1 fun x => { streamReset with bg := x.bg }

def flrOk (ch : Chip) : Bool := decide (1 ≤ ch.phase) && ch.pci.width != 0 && islandRuns ch 19

def execFlrVf (j : JobId) (s : State) : Host.Outcome State Fault Refusal :=
  onChip s fun ch => if flrOk ch then raise (flrJob ch j) .pciFlr 0 else ch

def execFlrPf (s : State) : Host.Outcome State Fault Refusal :=
  onChip s fun ch =>
    if flrOk ch then raise (msixReset (resetPfMailbox ((List.finRange 16).foldl flrJob ch)) 0) .pciFlr 0 else ch

end Sys2Proof.Machine
end

