-- ==== Sys2Proof/Machine/ClockLoss.lean ====
section
/-! DEFINITION. The loss of a clock island (01_six_levels.md R28; 20_faults.md R431; 17_registers_islands.md R366). -/

namespace Sys2Proof.Machine

/-- CK_COREt or CK_ARRt is lost: the tower is fenced. -/
def loseTower (ch : Chip) (t : Nat) (arr : Bool) : Chip :=
  let i := if arr then 8 + t else t
  if islandRuns ch i then fenceTowerJobs (loseIsland (if arr then abandonRuns ch t else ch) i) t else ch

def execClockLossTower (t : TowerId) (arr : Bool) (s : State) : Host.Outcome State Fault Refusal :=
  onChip s fun ch => loseTower ch t.val arr

/-- CK_FAB is lost: every link goes DOWN, collective operations end ABORTED and twin copies fail. -/
def loseFabric (ch : Chip) : Chip :=
  let ch1 := ((List.range 32).filter (linkExists ch)).foldl takeDown ch
  (List.finRange 16).foldl (fun c j => abortCopy (abortJobOps c j) j.val 1) ch1

/-- An island with its consequences in the table of R431. What the others entail, the units find in the island's
state: HBM accesses end poisoned, the power manager holds every tower at F = 18, tests and counters stand still. -/
def loseOther (ch : Chip) (i : Nat) : Chip :=
  match i with
  | 18 => loseFabric (loseIsland ch 18)
  | 19 => pcieDown (loseIsland ch 19)
  | 23 => loseNwlClk ch
  | _ => loseIsland ch i

def execClockLossIsland (i : IslandId) (s : State) : Host.Outcome State Fault Refusal :=
  onChip s fun ch =>
    if i.val < 16 then loseTower ch (i.val % 8) (decide (8 ≤ i.val))
    else if islandRuns ch i.val then loseOther ch i.val
    else ch

end Sys2Proof.Machine
end

