-- ==== Sys2Proof/Machine/Bringup.lean ====
section
/-! DEFINITION. Resets and bring-up from reset release to READY or FAILED (19_power_up.md R406 to R423). -/

namespace Sys2Proof.Machine

/-! ### Reset (R406 to R408) -/

/-- The cells of the arrays are resistive and keep their levels; everything else of an array is as at reset. -/
def keepCells (ch : Chip) : Tab Arr :=
  ch.arrs.map fun p => (p.1, { arrReset (p.1 / 136) (p.1 % 136) with cells := p.2.cells })

/-- The chip held in reset: what outlives it is the sampled position, the cells, the test access port and what the
caller puts into PWR_RESET_CAUSE. -/
def heldChip (ch : Chip) (cause : Word) (pins : Pins) : Chip :=
  let c : Chip := { Chip.reset with
    free := ch.free, us := ch.us, islRun := 0, arrs := keepCells ch
    nwl := { Chip.reset.nwl with pos := ch.nwl.pos }
    sys := { Chip.reset.sys with pins := pins, tap := ch.sys.tap } }
  regSet c .pwrResetCause 0 cause

def onPins (s : State) (f : Chip → Chip) : Host.Outcome State Fault Refusal := .next { s with chip := f s.chip }

/-- PWR_OK rises: the straps are sampled, and the PLLs lock for 2 ms (R297, R407). A reset input that is low then sets its
cause as well (R423). -/
def execPwrOkRise (x : PowerOn) (s : State) : Host.Outcome State Fault Refusal :=
  onPins s fun ch =>
    if ch.sys.pins.powered then ch
    else
      let rst := ch.sys.pins.sysRst || x.sysRst
      let c := heldChip ch (BitVec.ofNat 32 (1 + 2 * b2n x.perst + 4 * b2n rst)) ⟨true, true, false, rst, 2000, none⟩
      { c with us := 0, nwl := { c.nwl with pos := x.pos } }

/-- PWR_OK falls: a power-on reset of the whole device (R406, R422). -/
def execPwrOkFall (s : State) : Host.Outcome State Fault Refusal :=
  onPins s fun ch =>
    if ¬ ch.sys.pins.powered then ch
    else
      let c := heldChip ch 1 ⟨false, true, false, ch.sys.pins.sysRst, 0, none⟩
      { c with us := 0 }

/-- A warm reset: PWR_RESET_CAUSE keeps its bits and gets its own; a reset that is already held goes on. -/
def warmReset (ch : Chip) (b : Nat) (sys : Bool) : Chip :=
  let p := ch.sys.pins
  if ¬ p.powered then { ch with sys := { ch.sys with pins := { p with sysRst := p.sysRst || sys } } }
  else
    heldChip ch (regGet ch .pwrResetCause 0 ||| BitVec.ofNat 32 (2 ^ b))
      ⟨true, true, false, p.sysRst || sys, if p.held then p.relAt else 0, none⟩

def execPerstAssert (s : State) : Host.Outcome State Fault Refusal := onPins s fun ch => warmReset ch 1 false
def execSysRstAssert (s : State) : Host.Outcome State Fault Refusal := onPins s fun ch => warmReset ch 2 true

/-- Every reset input is inactive and the PLLs have locked: reset release, and BOOT starts (R407, R414). -/
def execResetRelease (s : State) : Host.Outcome State Fault Refusal :=
  onPins s fun ch =>
    let p := ch.sys.pins
    if ¬ p.powered ∨ ¬ p.held ∨ ch.us < p.relAt then ch
    else
      { ch with
        us := 0, isl := [], cnts := [], islRun := Chip.reset.islRun, phase := 0
        sys := { ch.sys with pins := ⟨true, false, false, false, 0, some 0x6C⟩ } }

/-! ### BOOT (R409 to R415, R420, R421) -/

def msNow (ch : Chip) : Nat := min 0xFFFF (ch.us / 1000)
def startIslands (ch : Chip) (m : BitVec 25) : Chip := { ch with islRun := ch.islRun ||| m }

/-- The slot that byte i of the directory prefers; slot A where its magic is wrong (DESIGN CHOICE, log 38). -/
def dirPrefersB (obs : BootObs) (i : Nat) : Bool := leNat (obs.dir.take 4) == 0x534D524C && obs.dir.getD i 0 == 1
def preferFwB (obs : BootObs) : Bool := dirPrefersB obs 4
def preferCfgB (obs : BootObs) : Bool := dirPrefersB obs 5

/-- An image of a kind that passes R410 and R411. -/
def slotOk (nv : NonVol) (kind : Nat) (x : SlotObs) : Bool :=
  x.readable && x.verdict.magicOk && signed nv (kind == 1) x.verdict && headFits x.header kind (minVerOf nv (kind - 1))

/-- The slot of a kind that the boot ROM takes: the preferred one first; true for slot B. -/
def pickSlot (nv : NonVol) (kind : Nat) (preferB : Bool) (a b : SlotObs) : Option (Bool × SlotObs) :=
  let first := if preferB then b else a
  let other := if preferB then a else b
  if slotOk nv kind first then some (preferB, first)
  else if slotOk nv kind other then some (!preferB, other)
  else none

/-- Doorbells rung before firmware was ready are accepted now (R386). -/
def acceptAll (ch : Chip) : Chip := (List.range 17).foldl acceptCmd ch

/-- The slots that BOOT used so far are shown: `fw`, `cfg`, and whether one was not preferred (R423). -/
def showSlots (ch : Chip) (fw cfg back : Bool) : Chip :=
  regPut (regPut (regPut ch .pwrBootStat 0 9 9 (b2n fw)) .pwrBootStat 0 8 8 (b2n cfg)) .pwrBootStat 0 4 4 (b2n back)

/-- Firmware runs: what the images and the PUF check gave, and MEMORY starts. -/
def enterMemory (ch : Chip) (obs : BootObs) (cfg fw : Bool × SlotObs) : Chip :=
  let cap := clampN 800 2150 obs.cap
  let ch1 := { ch with
    phase := 1
    pci := { ch.pci with ident := some obs.ident }
    sys := { ch.sys with
      cap0 := cap, ports := obs.ports, pins := { ch.sys.pins with spi := none }
      sec := { ch.sys.sec with
        cfgVer := BitVec.ofNat 32 (headVer cfg.2.header), fwVer := BitVec.ofNat 32 (headVer fw.2.header)
        cfgMeasure := cfg.2.verdict.measure, fwMeasure := fw.2.verdict.measure, pufFail := !obs.pufOk } } }
  let ch2 := showSlots ch1 fw.1 cfg.1 (cfg.1 != preferCfgB obs || fw.1 != preferFwB obs)
  let ch3 := regPut (regPut ch2 .pwrBootTime0 0 15 0 (msNow ch)) .pwrCap 0 11 0 cap
  acceptAll (enableBlk (startIslands ch3 0x30000) .pwr 0 false)

/-- BOOT ends: firmware is verified and started, or the device has FAILED. -/
def bootChip (ch : Chip) (nv : NonVol) (obs : BootObs) : Chip :=
  let ch1 := (List.range obs.pairFail.val).foldl (fun c _ => if c.phase = 0 then bootPairFails c else c) ch
  if ch1.phase ≠ 0 then ch1
  else if ¬ obs.spiOk then enterFailed ch1 4
  else if ¬ obs.lockOk then enterFailed ch1 5
  else match pickSlot nv 1 (preferCfgB obs) obs.cfgA obs.cfgB with
    | none => enterFailed ch1 1
    | some cfg => match pickSlot nv 2 (preferFwB obs) obs.fwA obs.fwB with
      | none => enterFailed (showSlots ch1 false cfg.1 (cfg.1 != preferCfgB obs)) 2
      | some fw => enterMemory ch1 obs cfg fw

def execBootEnd (obs : BootObs) (s : State) : Host.Outcome State Fault Refusal :=
  .next (if live s.chip ∧ s.chip.phase = 0 ∧ islandRuns s.chip 20 then
    { s with
      chip := bootChip s.chip s.nv obs
      nv := if obs.spiOk then { s.nv with preferFwB := preferFwB obs, preferCfgB := preferCfgB obs } else s.nv }
  else s)

/-- Bring-up cannot go on in BOOT. -/
def execFailed (cause : Fin 6) (s : State) : Host.Outcome State Fault Refusal :=
  onChip s fun ch => if ch.phase = 0 ∧ cause.val ≠ 0 then enterFailed ch cause.val else ch

/-! ### MEMORY (R416) -/

/-- Enables n instances of a block from unit u. -/
def enableAll (ch : Chip) (b : Blk) (n : Nat) : Chip := (List.range n).foldl (fun c u => enableBlk c b u false) ch

/-- The wear log of core g is written into the remap table and the arrays (R45). -/
def restoreCore (ch : Chip) (g : Nat) (w : WearCore) : Chip :=
  let ch1 := updBank ch g fun b => { b with remap := w.remap }
  let serving := (List.range 128).map fun l => tget w.remap l l
  w.arrs.foldl (fun c p => updArr c g p.1 fun x =>
    { x with role := if serving.contains p.1 then 0 else if p.2.retired then 2 else if p.1 < 128 then 1 else x.role
             logical := match serving.findIdx? (fun q => q == p.1) with | some l => l | none => x.logical
             exc := p.2.exc, eMaj := p.2.eMaj, eMin := p.2.eMin }) ch1

/-- What the two copies of the wear log are after a boot whose checks passed as A and B say (R416): the newer copy that
passes is restored, with the soft repairs it holds (R281). -/
def wearBoot (nv : NonVol) (wearA wearB : Bool) : NonVol :=
  if (if nv.wearNewB then wearB else wearA) then nv
  else if (if nv.wearNewB then wearA else wearB) then
    { nv with wear := nv.wearOld, wearOld := [], wearNewB := !nv.wearNewB, soft := nv.softOld, softOld := [] }
  else { nv with wear := [], wearOld := [], soft := [], softOld := [] }

/-- The entry of R470 for channels first … first + n − 1 against a reference, for injected sources. -/
def snsEnt (first n ref src : Nat) : Word := pack [(0, first), (12, n - 1), (23, src), (27, ref), (31, 1)]

/-- The converters get the defaults of R478. -/
def snsDefaults (ch : Chip) : Chip :=
  let tower (c : Chip) (t : Nat) : Chip :=
    let c1 := regSet (regSet c .snstReg t (snsEnt 0 16 1 0) 0) .snstReg t (snsEnt 16 5 1 0) 1
    let c2 := regSet (regSet (regSet c1 .snstInj t (snsEnt 0 16 1 10) 0) .snstInj t (snsEnt 24 2 1 4) 1) .snstInj t
      (snsEnt 21 1 0 4) 2
    regSet (regSet c2 .snstCfg t 0x10) .snstTimer t 1000
  let c := (List.range 8).foldl tower ch
  let c1 := regSet (regSet c .snsReg 0 (snsEnt 16 2 1 0) 0) .snsReg 0 (snsEnt 21 1 0 0) 1
  regSet (regSet c1 .snsCfg 0 0) .snsTimer 0 1000

/-- CALIBRATION starts: its islands run and its blocks are enabled (R421, R478). -/
def startCalibration (ch : Chip) : Chip :=
  let ch1 := enableBlk (enableAll (snsDefaults (startIslands ch 0x20FFFF)) .snst 8) .sns 0 false
  let ch2 := enableAll (enableAll ch1 .cal 8) .syn 8
  [Blk.arc, .prg, .seq, .eng, .wch, .vec, .dma].foldl (fun c b => enableAll c b 1024) ch2

/-- Every stack is trained or out of service, and the wear log is restored. -/
def memoryChip (ch : Chip) (nv : NonVol) (inService : BitVec 16) (wearA wearB : Bool) : Chip :=
  let ch1 := (List.range 16).foldl (fun c k =>
    if inService.getLsbD k then enableBlk (updStack c k fun x => { x with inService := true }) .hbm k false else c) ch
  let ch2 := enableAll (enableAll ch1 .gal 8) .lnd 8
  let ch3 := if wearA ∨ wearB then
      (wearBoot nv wearA wearB).wear.foldl (fun c p => restoreCore c p.1 p.2) ch2
    else regPut ch2 .pwrBootStat 0 12 12 1
  let ch4 := regPut ch3 .pwrBootStat 0 11 11 (b2n (inService != 0xFFFF))
  startCalibration (regPut { ch4 with phase := 2 } .pwrBootTime0 0 31 16 (msNow ch))

def execMemoryEnd (inService : BitVec 16) (wearA wearB : Bool) (s : State) : Host.Outcome State Fault Refusal :=
  .next (if live s.chip ∧ s.chip.phase = 1 ∧ fwReady s.chip then
    { s with
      chip := memoryChip s.chip s.nv inService wearA wearB
      nv := wearBoot s.nv wearA wearB }
  else s)

/-! ### CALIBRATION (R417) -/

/-- The first run of a field: every position calibrated, its codes left open but for end codes (log 9), RESID not measured.
T_last is the temperature at which the run was seen to begin; a field that moved since is queued again and runs after READY
(R96, R422). -/
def firstRun (ch : Chip) (g : Nat) : Chip :=
  let one (c : Chip) (l : Nat) : Chip :=
    let a := physOf c g l
    let d := draw c
    let t : Trims := { trimsReset with seed := some d.1, slope := Config.freeNat d.1 2000 % 256 }
    updStat (updArr d.2 g a fun x => { x with live := t, staged := t }) g a fun x =>
      { x with neverRun := false, runs := x.runs + 1, residT := Config.freeNat d.1 2001 % 255, trimLimit := trimAtEnd t }
  let f := fieldOf ch g
  let ch1 := (List.range 128).foldl one ch
  let ch2 := updField ch1 g fun y =>
    { y with due := [], running := false, again := false, cur := physOf ch1 g 127, tNow := fieldTemp ch g
             tLast := if f.running then f.tLast else fieldTemp ch g }
  let ch3 := countCore (countCore (raise ch2 .calRunDone (g / 128)) g 87 1) g 88 1280
  if f.again then queueField ch3 g else ch3

/-- A code as a bank of trims holds it. -/
def putTrim (t : Trims) (k : TrimKind) (ix : Nat) (code : BitVec 7) : Trims :=
  match k with
  | .gain => { t with gain := tput t.gain ix code.toNat }
  | .offset => { t with offset := tput t.offset ix (sx 6 (code.toNat % 64)) }
  | .row => { t with row := tput t.row ix (sx 6 (code.toNat % 64)) }

/-- A code is an end code of its trim. -/
def endCode (k : TrimKind) (code : BitVec 7) : Bool :=
  match k with
  | .gain => code == 0 || code == 127
  | .offset | .row => sx 6 (code.toNat % 64) == -32 || sx 6 (code.toNat % 64) == 31

/-- A code that a first run ended with. At an end code of a column trim its position is rotated, at one of a row offset
`trim_limit` alone is set (R95). -/
def firstTrim (ch : Chip) (x : FirstTrim) : Chip :=
  let g := x.core.val
  let a := physOf ch g x.pos.val
  if x.kind = .row ∧ 512 ≤ x.ix.val then ch
  else
    let put (t : Trims) : Trims := putTrim t x.kind x.ix.val x.code
    let ch1 := updArr ch g a fun y => { y with live := put y.live, staged := put y.staged }
    if ¬ endCode x.kind x.code then ch1
    else if x.kind = .row then raise (updStat ch1 g a fun y => { y with trimLimit := true }) .calTrimLimit (g / 128)
    else trimLimited ch1 g a

/-- The full trace of tower t, and the first run of its fields when it passes. -/
def calibrateTower (trims : List FirstTrim) (ch : Chip) (t : Nat) (obs : TraceObs) : Chip :=
  if (towerOf ch t).fenced then ch
  else
    let ch1 := traceEnd ch t true obs
    if (towerOf ch1 t).fault then ch1
    else (trims.filter fun x => x.core.val / 128 == t).foldl firstTrim ((span (128 * t) 128).foldl firstRun ch1)

/-- The listed ports are configured as the image says, and train (R418). -/
def startFabric (ch : Chip) : Chip :=
  let one (c : Chip) (p : PortCfg) : Chip :=
    let n := p.port.val
    let c1 := cfgPort c n (b2n p.split + 2 * b2n p.copper) 0 0 p.partner0.toNat p.partner1.toNat p.credits
    (portLinks c1 n).foldl trainLink c1
  ch.sys.ports.foldl one (enableBlk (enableAll (startIslands ch 0x40000) .fab 16) .col 0 false)

/-- REFV and the bandgap of every tower converter have settled, or firmware has waited 10 ms for them (R417). -/
def refsAwaited (ch : Chip) : Bool :=
  decide (regFld ch .pwrBootTime0 0 31 16 + 10 ≤ ch.us / 1000) ||
    (List.range 8).all fun t => (convOf ch t).settled.getLsbD 0 && (convOf ch t).settled.getLsbD 1

/-- CALIBRATION ends and FABRIC starts. -/
def execCalibrationEnd (obs : List TraceObs) (trims : List FirstTrim) (s : State) :
    Host.Outcome State Fault Refusal :=
  onChip s fun ch =>
    if ch.phase ≠ 2 ∨ ¬ fwReady ch ∨ ¬ refsAwaited ch then ch
    else
      let ch1 := (obs.take 8).zipIdx.foldl (fun c p => calibrateTower trims c p.2 p.1) ch
      startFabric (regPut { ch1 with phase := 3 } .pwrBootTime1 0 15 0 (msNow ch))

/-! ### FABRIC and READY (R418, R419) -/

/-- Every listed port is UP or has failed. -/
def portsDone (ch : Chip) : Bool :=
  ch.sys.ports.all fun p => (portLinks ch p.port.val).all fun l => (linkOf ch l).st != 1 && (linkOf ch l).st != 2

/-- What HBM holds from before READY is undefined data without marks (R264): nothing stays listed (log 6). -/
def forgetHbm (ch : Chip) : Chip :=
  let ch1 := zeroRange ch 0 hbmEnd
  { ch1 with land := { ch1.land with lines := [] } }

/-- The steps of R419 in order. -/
def enterReady (ch0 : Chip) : Chip :=
  let ch := forgetHbm ch0
  let ch1 := enableBlk (enableBlk ch .tsl 0 false) .obs 0 false
  let ch2 := enableBlk (enableBlk ch1 .pci 0 false) .pci 0 true
  let ch3 := if ch.nwl.clkLost then ch2 else enableBlk (startIslands ch2 0x800000) .nwl 0 false
  regPut { ch3 with phase := 4 } .pwrBootTime1 0 31 16 (msNow ch)

def execReady (s : State) : Host.Outcome State Fault Refusal :=
  onChip s fun ch => if ch.phase = 3 ∧ fwReady ch ∧ portsDone ch then enterReady ch else ch

end Sys2Proof.Machine
end

