-- ==== Sys2Proof/Machine/Tap.lean ====
section
/-! DEFINITION. The IEEE 1149.1 test access port (24_pins_ratings.md R510). It runs whatever the reset inputs. The
states, the instruction length and the codes are the standard's and the model's (log 27). -/

namespace Sys2Proof.Machine

/-- The next state of the controller: 15 Test-Logic-Reset, 12 Run-Test/Idle, 7, 6, 2, 1, 3, 0, 5 Select-, Capture-,
Shift-, Exit1-, Pause-, Exit2- and Update-DR, 4, 14, 10, 9, 11, 8, 13 the same for IR. -/
def tapNext (st : Nat) (tms : Bool) : Nat :=
  match st with
  | 15 => if tms then 15 else 12
  | 12 => if tms then 7 else 12
  | 7 => if tms then 4 else 6
  | 6 => if tms then 1 else 2
  | 2 => if tms then 1 else 2
  | 1 => if tms then 5 else 3
  | 3 => if tms then 0 else 3
  | 0 => if tms then 5 else 2
  | 5 => if tms then 7 else 12
  | 4 => if tms then 15 else 14
  | 14 => if tms then 9 else 10
  | 10 => if tms then 9 else 10
  | 9 => if tms then 13 else 11
  | 11 => if tms then 8 else 11
  | 8 => if tms then 13 else 10
  | _ => if tms then 7 else 12

def bitsLsb (v n : Nat) : List Bool := (List.range n).map fun i => v.testBit i

/-- IDCODE: bit 0 is 1, the part number is 0x8016; manufacturer and version are left open (log 9). -/
def idcode : List Bool :=
  [true] ++ ((List.range 11).map fun i => Config.idBit i) ++ bitsLsb 0x8016 16 ++
    (List.range 4).map fun i => Config.idBit (16 + i)

/-- The instruction in effect: EXTEST only while SYS_RST_N is held low, else as BYPASS (31). -/
def tapInstr (ch : Chip) : Nat :=
  match ch.sys.tap.ir with
  | 1 => 1
  | 0 => if ch.sys.pins.sysRst then 0 else 31
  | _ => 31

/-- One rising edge of TCK. In EXTEST the boundary register's bits are left open (log 9). -/
def tapClock (ch : Chip) (tms tdi : Bool) : Chip :=
  let t := ch.sys.tap
  let n := tapNext t.st tms
  let ext := tapInstr ch == 0
  let sh : List Bool := match t.st with
    | 6 => if tapInstr ch = 1 then idcode else if ext then [] else [false]
    | 14 => bitsLsb 1 5
    | 2 | 10 => if t.shift = [] then [] else t.shift.drop 1 ++ [tdi]
    | _ => t.shift
  let ir := if n = 15 then 1 else if n = 13 then (sh.zipIdx.map fun p => b2n p.1 * 2 ^ p.2).foldl (· + ·) 0 else t.ir
  let free := n == 2 && ext
  let tdo := if n = 2 ∨ n = 10 then (if free then Config.freeBit ch.free else sh.headD false) else t.tdo
  { ch with
    free := if free then ch.free + 1 else ch.free
    sys := { ch.sys with tap := ⟨n, ir, sh, tdo⟩ } }

def execTestAccessPort (i : TapIn) (s : State) : Host.Outcome State Fault Refusal :=
  onPins s fun ch =>
    match i with
    | .trst => { ch with sys := { ch.sys with tap := ⟨15, 1, [], ch.sys.tap.tdo⟩ } }
    | .tck tms tdi => tapClock ch tms tdi

end Sys2Proof.Machine
end

