-- ==== Sys2Proof/Machine/Tick.lean ====
section
/-! DEFINITION. One microsecond passes: what the device does at the ticks of its clocks whatever is commanded (log 2;
17_registers_islands.md R363; 13_sync_newel.md R303; 21_observation.md R435, R449, R454, R455). -/

namespace Sys2Proof.Machine

/-- Cycles of island i in a microsecond: 50 MHz times F for a tower's cores, fixed for the others (R363, R482). -/
def islMhz (ch : Chip) (i : Nat) : Nat :=
  if i < 8 then 50 * (pointOf ch i).f
  else if i < 16 then 4000
  else [2000, 2400, 1660, 1000, 1200, 200, 800, 100, 600].getD (i - 16) 0

/-- Every running island goes on (R455). -/
def tickIslands (ch : Chip) : Chip :=
  { ch with isl := (List.range 25).foldl (fun t i =>
      if islandRuns ch i then tput t i (tget t 0 i + islMhz ch i) else t) ch.isl }

/-- Cycles RUNNING and cycles waiting in SYW of the cores (R449). -/
def tickCores (ch : Chip) : Chip :=
  ch.cores.foldl (fun c p =>
    if ¬ islandRuns ch (p.1 / 128) ∨ (tcoreOf ch p.1).under ≠ none then c
    else match p.2.run with
      | .running => countCore c p.1 58 (islMhz ch (p.1 / 128))
      | .waiting => countCore c p.1 59 (islMhz ch (p.1 / 128))
      | _ => c) ch

/-- Cycles in which the heads of vector queues are held (R138, R208). -/
def tickHolds (ch : Chip) : Chip :=
  ch.cores.foldl (fun c p =>
    if islandRuns ch (p.1 / 128) ∧ vecHeld ch p.1 then
      regSat (raise c .vecTileWait p.1) .vecTileHold p.1 31 0 (islMhz ch (p.1 / 128)) else c) ch

/-- Milliseconds at the cap and throttled (R486, R487). -/
def tickPower (ch : Chip) : Chip :=
  if ch.us % 1000 ≠ 0 then ch
  else
    let p := ch.sys.pwr
    updPwr (count (count ch 143 (b2n p.capMs)) 144 (b2n p.holdMs)) fun p =>
      { p with capMs := cappedTowers ch != 0, holdMs := heldTowers ch != 0 }

/-- OFFLOAD entries that waited for Bindweed to be ENABLED start (R359, R361). -/
def tickOffloads (ch : Chip) : Chip := (List.range 16).foldl (fun c j => startOffloads c j 4) ch

/-- A microsecond of the device; in reset only the time to reset release passes. -/
def tick (ch : Chip) : Chip :=
  if live ch then tickOffloads (tickNewel (tickBuckets (tickPower (tickHolds (tickCores (tickIslands { ch with us := ch.us + 1 }))))))
  else if ch.sys.pins.powered && ch.sys.pins.held then { ch with us := ch.us + 1 }
  else ch

end Sys2Proof.Machine
end

