-- ==== Sys2Proof/Machine/Dispatch.lean ====
section
/-! DEFINITION. The dispatch: one arm per command, one direct call of its meaning. -/

namespace Sys2Proof.Machine

/-- The effect of a command on everything but the queue. -/
def exec (i : Instr) (s : State) : Host.Outcome State Fault Refusal :=
  match i with
  | .nop x1 => Sys2Proof.Machine.execNop x1 s
  | .add x1 => Sys2Proof.Machine.execAdd x1 s
  | .sub x1 => Sys2Proof.Machine.execSub x1 s
  | .mul x1 => Sys2Proof.Machine.execMul x1 s
  | .andI x1 => Sys2Proof.Machine.execAnd x1 s
  | .orI x1 => Sys2Proof.Machine.execOr x1 s
  | .xor x1 => Sys2Proof.Machine.execXor x1 s
  | .shl x1 => Sys2Proof.Machine.execShl x1 s
  | .shr x1 => Sys2Proof.Machine.execShr x1 s
  | .sra x1 => Sys2Proof.Machine.execSra x1 s
  | .minI x1 => Sys2Proof.Machine.execMin x1 s
  | .maxI x1 => Sys2Proof.Machine.execMax x1 s
  | .cmpeq x1 => Sys2Proof.Machine.execCmpeq x1 s
  | .cmplt x1 => Sys2Proof.Machine.execCmplt x1 s
  | .cmpltu x1 => Sys2Proof.Machine.execCmpltu x1 s
  | .ins32 x1 => Sys2Proof.Machine.execIns32 x1 s
  | .ld x1 x2 => Sys2Proof.Machine.execLd x1 x2 s
  | .st x1 => Sys2Proof.Machine.execSt x1 s
  | .mfs x1 => Sys2Proof.Machine.execMfs x1 s
  | .mts x1 => Sys2Proof.Machine.execMts x1 s
  | .dset x1 => Sys2Proof.Machine.execDset x1 s
  | .br x1 => Sys2Proof.Machine.execBr x1 s
  | .loop x1 => Sys2Proof.Machine.execLoop x1 s
  | .call x1 => Sys2Proof.Machine.execCall x1 s
  | .ret x1 => Sys2Proof.Machine.execRet x1 s
  | .halt x1 => Sys2Proof.Machine.execHalt x1 s
  | .coreHalted x1 => Sys2Proof.Machine.execCoreHalted x1 s
  | .sywToken x1 => Sys2Proof.Machine.execSywToken x1 s
  | .sywGe x1 => Sys2Proof.Machine.execSywGe x1 s
  | .sywEq x1 => Sys2Proof.Machine.execSywEq x1 s
  | .sywResume x1 => Sys2Proof.Machine.execSywResume x1 s
  | .longWait x1 => Sys2Proof.Machine.execLongWait x1 s
  | .sysSignal x1 => Sys2Proof.Machine.execSysSignal x1 s
  | .sysReset x1 => Sys2Proof.Machine.execSysReset x1 s
  | .sysArrive x1 => Sys2Proof.Machine.execSysArrive x1 s
  | .sysAfterSend x1 => Sys2Proof.Machine.execSysAfterSend x1 s
  | .fence x1 => Sys2Proof.Machine.execFence x1 s
  | .fenceResume x1 => Sys2Proof.Machine.execFenceResume x1 s
  | .queueStart x1 x2 => Sys2Proof.Machine.execQueueStart x1 x2 s
  | .mma x1 => Sys2Proof.Machine.execMma x1 s
  | .ard x1 => Sys2Proof.Machine.execArd x1 s
  | .art x1 => Sys2Proof.Machine.execArt x1 s
  | .apgLoad x1 x2 => Sys2Proof.Machine.execApgLoad x1 x2 s
  | .apgTransfer x1 => Sys2Proof.Machine.execApgTransfer x1 s
  | .preloadBias x1 => Sys2Proof.Machine.execPreloadBias x1 s
  | .preloadResid x1 => Sys2Proof.Machine.execPreloadResid x1 s
  | .mupd x1 => Sys2Proof.Machine.execMupd x1 s
  | .wflush x1 => Sys2Proof.Machine.execWflush x1 s
  | .wstep x1 => Sys2Proof.Machine.execWstep x1 s
  | .wcheck x1 => Sys2Proof.Machine.execWcheck x1 s
  | .wprobe x1 => Sys2Proof.Machine.execWprobe x1 s
  | .scalegen x1 => Sys2Proof.Machine.execScalegen x1 s
  | .vopAdd x1 => Sys2Proof.Machine.execVopAdd x1 s
  | .vopSub x1 => Sys2Proof.Machine.execVopSub x1 s
  | .vopMul x1 => Sys2Proof.Machine.execVopMul x1 s
  | .vopFma x1 => Sys2Proof.Machine.execVopFma x1 s
  | .vopMax x1 => Sys2Proof.Machine.execVopMax x1 s
  | .vopMin x1 => Sys2Proof.Machine.execVopMin x1 s
  | .cvt x1 => Sys2Proof.Machine.execCvt x1 s
  | .sfu x1 => Sys2Proof.Machine.execSfu x1 s
  | .scale x1 => Sys2Proof.Machine.execScale x1 s
  | .colsum x1 => Sys2Proof.Machine.execColsum x1 s
  | .softmaxBwd x1 => Sys2Proof.Machine.execSoftmaxBwd x1 s
  | .normBwd x1 => Sys2Proof.Machine.execNormBwd x1 s
  | .drn x1 => Sys2Proof.Machine.execDrn x1 s
  | .dmaCopy x1 x2 => Sys2Proof.Machine.execDmaCopy x1 x2 s
  | .dmaTranspose x1 x2 => Sys2Proof.Machine.execDmaTranspose x1 x2 s
  | .dmaConvert x1 x2 => Sys2Proof.Machine.execDmaConvert x1 x2 s
  | .dmaTransposeConvert x1 x2 => Sys2Proof.Machine.execDmaTransposeConvert x1 x2 s
  | .instructionComplete x1 x2 x3 => Sys2Proof.Machine.execInstructionComplete x1 x2 x3 s
  | .descStoreRelease x1 => Sys2Proof.Machine.execDescStoreRelease x1 s
  | .readResolve x1 x2 x3 => Sys2Proof.Machine.execReadResolve x1 x2 x3 s
  | .banisterReferee x1 x2 => Sys2Proof.Machine.execBanisterReferee x1 x2 s
  | .tileContribution x1 x2 x3 x4 x5 x6 => Sys2Proof.Machine.execTileContribution x1 x2 x3 x4 x5 x6 s
  | .tileScrub x1 x2 x3 x4 x5 => Sys2Proof.Machine.execTileScrub x1 x2 x3 x4 x5 s
  | .memoryScrub x1 x2 x3 x4 => Sys2Proof.Machine.execMemoryScrub x1 x2 x3 x4 s
  | .syncObjectScrub x1 x2 => Sys2Proof.Machine.execSyncObjectScrub x1 x2 s
  | .programBatch x1 x2 => Sys2Proof.Machine.execProgramBatch x1 x2 s
  | .programBurst x1 x2 => Sys2Proof.Machine.execProgramBurst x1 x2 s
  | .spareSwitch x1 x2 x3 => Sys2Proof.Machine.execSpareSwitch x1 x2 x3 s
  | .fencedSpareLoad x1 x2 x3 => Sys2Proof.Machine.execFencedSpareLoad x1 x2 x3 s
  | .refreshTimer x1 x2 => Sys2Proof.Machine.execRefreshTimer x1 x2 s
  | .arrayRefreshRun x1 x2 x3 => Sys2Proof.Machine.execArrayRefreshRun x1 x2 x3 s
  | .wearLogWrite => Sys2Proof.Machine.execWearLogWrite s
  | .fieldDue x1 x2 => Sys2Proof.Machine.execFieldDue x1 x2 s
  | .calGroup x1 x2 => Sys2Proof.Machine.execCalGroup x1 x2 s
  | .retrace x1 x2 => Sys2Proof.Machine.execRetrace x1 x2 s
  | .traceRetry x1 x2 => Sys2Proof.Machine.execTraceRetry x1 x2 s
  | .calStarved x1 => Sys2Proof.Machine.execCalStarved x1 s
  | .testWindow x1 x2 => Sys2Proof.Machine.execTestWindow x1 x2 s
  | .forcedWindow x1 x2 => Sys2Proof.Machine.execForcedWindow x1 x2 s
  | .landingAccess x1 => Sys2Proof.Machine.execLandingAccess x1 s
  | .landingFill x1 x2 x3 x4 => Sys2Proof.Machine.execLandingFill x1 x2 x3 x4 s
  | .fineGrain x1 => Sys2Proof.Machine.execFineGrain x1 s
  | .hbmAdmit x1 x2 x3 x4 x5 => Sys2Proof.Machine.execHbmAdmit x1 x2 x3 x4 x5 s
  | .patrolScrub x1 x2 x3 x4 => Sys2Proof.Machine.execPatrolScrub x1 x2 x3 x4 s
  | .hbmTempRead x1 x2 => Sys2Proof.Machine.execHbmTempRead x1 x2 s
  | .hbmRefresh x1 => Sys2Proof.Machine.execHbmRefresh x1 s
  | .galleryReplay x1 => Sys2Proof.Machine.execGalleryReplay x1 s
  | .signal x1 x2 x3 => Sys2Proof.Machine.execSignal x1 x2 x3 s
  | .reset x1 x2 => Sys2Proof.Machine.execReset x1 x2 s
  | .arrive x1 x2 => Sys2Proof.Machine.execArrive x1 x2 s
  | .completion x1 => Sys2Proof.Machine.execCompletion x1 s
  | .waitRegister x1 => Sys2Proof.Machine.execWaitRegister x1 s
  | .newelStateReport x1 => Sys2Proof.Machine.execNewelStateReport x1 s
  | .barrierCompletion x1 => Sys2Proof.Machine.execBarrierCompletion x1 s
  | .nwlTrigFall => Sys2Proof.Machine.execNwlTrigFall s
  | .fenceRequest => Sys2Proof.Machine.execFenceRequest s
  | .nwlClkLost => Sys2Proof.Machine.execNwlClkLost s
  | .nwlClkReturn => Sys2Proof.Machine.execNwlClkReturn s
  | .nwlBindWrite x1 x2 x3 => Sys2Proof.Machine.execNwlBindWrite x1 x2 x3 s
  | .nwlFenceHold x1 => Sys2Proof.Machine.execNwlFenceHold x1 s
  | .sigFlit x1 x2 => Sys2Proof.Machine.execSigFlit x1 x2 s
  | .collFlit x1 x2 x3 => Sys2Proof.Machine.execCollFlit x1 x2 x3 s
  | .ctrlFlit x1 x2 => Sys2Proof.Machine.execCtrlFlit x1 x2 s
  | .ctrlFlitSend x1 => Sys2Proof.Machine.execCtrlFlitSend x1 s
  | .flitReject x1 x2 => Sys2Proof.Machine.execFlitReject x1 x2 s
  | .proto x1 x2 => Sys2Proof.Machine.execProto x1 x2 s
  | .handshake x1 x2 => Sys2Proof.Machine.execHandshake x1 x2 s
  | .handshakeSend x1 => Sys2Proof.Machine.execHandshakeSend x1 s
  | .noPartner x1 => Sys2Proof.Machine.execNoPartner x1 s
  | .replayExhausted x1 => Sys2Proof.Machine.execReplayExhausted x1 s
  | .linkDown x1 => Sys2Proof.Machine.execLinkDown x1 s
  | .eyeMeasure x1 x2 => Sys2Proof.Machine.execEyeMeasure x1 x2 s
  | .collStart x1 => Sys2Proof.Machine.execCollStart x1 s
  | .collDeadline x1 x2 => Sys2Proof.Machine.execCollDeadline x1 x2 s
  | .collLateStart x1 => Sys2Proof.Machine.execCollLateStart x1 s
  | .opTimeout x1 => Sys2Proof.Machine.execOpTimeout x1 s
  | .collComplete x1 => Sys2Proof.Machine.execCollComplete x1 s
  | .twinGate x1 => Sys2Proof.Machine.execTwinGate x1 s
  | .twinCopy x1 => Sys2Proof.Machine.execTwinCopy x1 s
  | .twinData x1 x2 => Sys2Proof.Machine.execTwinData x1 x2 s
  | .openTwin x1 x2 => Sys2Proof.Machine.execOpenTwin x1 x2 s
  | .closeTwin x1 x2 => Sys2Proof.Machine.execCloseTwin x1 x2 s
  | .commitTwin x1 x2 => Sys2Proof.Machine.execCommitTwin x1 x2 s
  | .abortTwin x1 x2 => Sys2Proof.Machine.execAbortTwin x1 x2 s
  | .pullTwin x1 x2 => Sys2Proof.Machine.execPullTwin x1 x2 s
  | .twinOpenTimeout x1 => Sys2Proof.Machine.execTwinOpenTimeout x1 s
  | .twinStreamTimeout x1 x2 => Sys2Proof.Machine.execTwinStreamTimeout x1 x2 s
  | .inboundRequest x1 => Sys2Proof.Machine.execInboundRequest x1 s
  | .flrVf x1 => Sys2Proof.Machine.execFlrVf x1 s
  | .flrPf => Sys2Proof.Machine.execFlrPf s
  | .pcieLinkDown => Sys2Proof.Machine.execPcieLinkDown s
  | .bindweedPush x1 => Sys2Proof.Machine.execBindweedPush x1 s
  | .prefetchStart x1 => Sys2Proof.Machine.execPrefetchStart x1 s
  | .bindweedEntryDone x1 x2 x3 => Sys2Proof.Machine.execBindweedEntryDone x1 x2 x3 s
  | .mbxDoorbell x1 => Sys2Proof.Machine.execMbxDoorbell x1 s
  | .mbxRingTail x1 x2 => Sys2Proof.Machine.execMbxRingTail x1 x2 s
  | .mbxCplHead x1 x2 => Sys2Proof.Machine.execMbxCplHead x1 x2 s
  | .mbxRingEnable x1 x2 => Sys2Proof.Machine.execMbxRingEnable x1 x2 s
  | .commandStart x1 x2 => Sys2Proof.Machine.execCommandStart x1 x2 s
  | .commandBound x1 => Sys2Proof.Machine.execCommandBound x1 s
  | .lockstepMismatch => Sys2Proof.Machine.execLockstepMismatch s
  | .devQuery x1 => Sys2Proof.Machine.execDevQuery x1 s
  | .jobCreate x1 => Sys2Proof.Machine.execJobCreate x1 s
  | .jobDestroy x1 => Sys2Proof.Machine.execJobDestroy x1 s
  | .jobAssignClustersAssign x1 => Sys2Proof.Machine.execJobAssignClustersAssign x1 s
  | .jobAssignClustersRelease x1 => Sys2Proof.Machine.execJobAssignClustersRelease x1 s
  | .memMap x1 => Sys2Proof.Machine.execMemMap x1 s
  | .memUnmap x1 => Sys2Proof.Machine.execMemUnmap x1 s
  | .partSetRate x1 => Sys2Proof.Machine.execPartSetRate x1 s
  | .progLoad x1 => Sys2Proof.Machine.execProgLoad x1 s
  | .launch x1 => Sys2Proof.Machine.execLaunch x1 s
  | .haltJob x1 => Sys2Proof.Machine.execHaltJob x1 s
  | .jobIdle x1 => Sys2Proof.Machine.execJobIdle x1 s
  | .arrayProgram x1 x2 => Sys2Proof.Machine.execArrayProgram x1 x2 s
  | .arrayTransferPolicy x1 => Sys2Proof.Machine.execArrayTransferPolicy x1 s
  | .arrayRefresh x1 x2 => Sys2Proof.Machine.execArrayRefresh x1 x2 s
  | .calRun x1 => Sys2Proof.Machine.execCalRun x1 s
  | .calPolicy x1 => Sys2Proof.Machine.execCalPolicy x1 s
  | .calQuality x1 => Sys2Proof.Machine.execCalQuality x1 s
  | .fabPortCfgPort x1 => Sys2Proof.Machine.execFabPortCfgPort x1 s
  | .fabPortCfgRoute x1 => Sys2Proof.Machine.execFabPortCfgRoute x1 s
  | .fabTrainTrain x1 => Sys2Proof.Machine.execFabTrainTrain x1 s
  | .fabTrainTakeDown x1 => Sys2Proof.Machine.execFabTrainTakeDown x1 s
  | .fabTrainRetrain x1 => Sys2Proof.Machine.execFabTrainRetrain x1 s
  | .collGroupCreate x1 => Sys2Proof.Machine.execCollGroupCreate x1 s
  | .collGroupDestroy x1 => Sys2Proof.Machine.execCollGroupDestroy x1 s
  | .stragglerPolicy x1 => Sys2Proof.Machine.execStragglerPolicy x1 s
  | .twinCfgSource x1 => Sys2Proof.Machine.execTwinCfgSource x1 s
  | .twinCfgHold x1 => Sys2Proof.Machine.execTwinCfgHold x1 s
  | .twinCfgRemove x1 => Sys2Proof.Machine.execTwinCfgRemove x1 s
  | .twinCfgQuery x1 => Sys2Proof.Machine.execTwinCfgQuery x1 s
  | .twinCopyNow x1 => Sys2Proof.Machine.execTwinCopyNow x1 s
  | .twinRestore x1 => Sys2Proof.Machine.execTwinRestore x1 s
  | .testPackLoad x1 x2 x3 => Sys2Proof.Machine.execTestPackLoad x1 x2 x3 s
  | .testScheduleSet x1 => Sys2Proof.Machine.execTestScheduleSet x1 s
  | .testNow x1 x2 => Sys2Proof.Machine.execTestNow x1 x2 s
  | .testScheduleFence x1 => Sys2Proof.Machine.execTestScheduleFence x1 s
  | .fenceQueryFences x1 => Sys2Proof.Machine.execFenceQueryFences x1 s
  | .fenceQueryNotify x1 => Sys2Proof.Machine.execFenceQueryNotify x1 s
  | .readmit x1 x2 => Sys2Proof.Machine.execReadmit x1 x2 s
  | .ctrAccessGrant x1 => Sys2Proof.Machine.execCtrAccessGrant x1 s
  | .ctrAccessRevoke x1 => Sys2Proof.Machine.execCtrAccessRevoke x1 s
  | .ctrDumpEnable x1 => Sys2Proof.Machine.execCtrDumpEnable x1 s
  | .ctrDumpDisable x1 => Sys2Proof.Machine.execCtrDumpDisable x1 s
  | .snapArm x1 => Sys2Proof.Machine.execSnapArm x1 s
  | .snapDisarm x1 => Sys2Proof.Machine.execSnapDisarm x1 s
  | .snapTriggerNow x1 => Sys2Proof.Machine.execSnapTriggerNow x1 s
  | .sensorCfgConverter x1 => Sys2Proof.Machine.execSensorCfgConverter x1 s
  | .sensorCfgSequence x1 => Sys2Proof.Machine.execSensorCfgSequence x1 s
  | .sensorCfgBuffer x1 => Sys2Proof.Machine.execSensorCfgBuffer x1 s
  | .sensorCfgAlarm x1 => Sys2Proof.Machine.execSensorCfgAlarm x1 s
  | .attestReport x1 x2 => Sys2Proof.Machine.execAttestReport x1 x2 s
  | .fwUpdateFirmware x1 x2 x3 => Sys2Proof.Machine.execFwUpdateFirmware x1 x2 x3 s
  | .fwUpdateConfiguration x1 x2 x3 => Sys2Proof.Machine.execFwUpdateConfiguration x1 x2 x3 s
  | .fwUpdateOwner x1 x2 x3 => Sys2Proof.Machine.execFwUpdateOwner x1 x2 x3 s
  | .fwUpdateRaise x1 => Sys2Proof.Machine.execFwUpdateRaise x1 s
  | .hbmRepairQuery x1 => Sys2Proof.Machine.execHbmRepairQuery x1 s
  | .hbmRepairApply x1 => Sys2Proof.Machine.execHbmRepairApply x1 s
  | .offloadCfgEnable x1 => Sys2Proof.Machine.execOffloadCfgEnable x1 s
  | .offloadCfgDisable x1 => Sys2Proof.Machine.execOffloadCfgDisable x1 s
  | .powerCapSet x1 => Sys2Proof.Machine.execPowerCapSet x1 s
  | .sorrelCut => Sys2Proof.Machine.execSorrelCut s
  | .cutSkipped => Sys2Proof.Machine.execCutSkipped s
  | .healthMonitorWindow x1 => Sys2Proof.Machine.execHealthMonitorWindow x1 s
  | .yarrowTrigger x1 x2 => Sys2Proof.Machine.execYarrowTrigger x1 x2 s
  | .obsCntLoRead => Sys2Proof.Machine.execObsCntLoRead s
  | .obsFreeze x1 => Sys2Proof.Machine.execObsFreeze x1 s
  | .snsRegularTrigger x1 => Sys2Proof.Machine.execSnsRegularTrigger x1 s
  | .snsUrgentTrigger x1 x2 => Sys2Proof.Machine.execSnsUrgentTrigger x1 x2 s
  | .snsConversion x1 x2 => Sys2Proof.Machine.execSnsConversion x1 x2 s
  | .injNow x1 => Sys2Proof.Machine.execInjNow x1 s
  | .regNow x1 => Sys2Proof.Machine.execRegNow x1 s
  | .powerInterval x1 => Sys2Proof.Machine.execPowerInterval x1 s
  | .powerBiasCorrect => Sys2Proof.Machine.execPowerBiasCorrect s
  | .freqGlide x1 => Sys2Proof.Machine.execFreqGlide x1 s
  | .voltageRampDone x1 x2 => Sys2Proof.Machine.execVoltageRampDone x1 x2 s
  | .thermalHoldRaise x1 => Sys2Proof.Machine.execThermalHoldRaise x1 s
  | .thermtrip x1 => Sys2Proof.Machine.execThermtrip x1 s
  | .clockLossTower x1 x2 => Sys2Proof.Machine.execClockLossTower x1 x2 s
  | .clockLossIsland x1 => Sys2Proof.Machine.execClockLossIsland x1 s
  | .registerBusTimeout x1 x2 => Sys2Proof.Machine.execRegisterBusTimeout x1 x2 s
  | .blockEnable x1 x2 => Sys2Proof.Machine.execBlockEnable x1 x2 s
  | .blockDisable x1 x2 => Sys2Proof.Machine.execBlockDisable x1 x2 s
  | .blockStopped x1 x2 => Sys2Proof.Machine.execBlockStopped x1 x2 s
  | .registerWrite x1 x2 => Sys2Proof.Machine.execRegisterWrite x1 x2 s
  | .refreshNow x1 => Sys2Proof.Machine.execRefreshNow x1 s
  | .traceNow x1 => Sys2Proof.Machine.execTraceNow x1 s
  | .runArray x1 => Sys2Proof.Machine.execRunArray x1 s
  | .runField x1 => Sys2Proof.Machine.execRunField x1 s
  | .synOpSignal x1 => Sys2Proof.Machine.execSynOpSignal x1 s
  | .synOpReset x1 => Sys2Proof.Machine.execSynOpReset x1 s
  | .prgEventRead x1 => Sys2Proof.Machine.execPrgEventRead x1 s
  | .arcEventRead x1 => Sys2Proof.Machine.execArcEventRead x1 s
  | .calEventRead x1 => Sys2Proof.Machine.execCalEventRead x1 s
  | .engEventRead x1 => Sys2Proof.Machine.execEngEventRead x1 s
  | .engAccEventRead x1 => Sys2Proof.Machine.execEngAccEventRead x1 s
  | .wchEventRead x1 => Sys2Proof.Machine.execWchEventRead x1 s
  | .vecEventRead x1 => Sys2Proof.Machine.execVecEventRead x1 s
  | .vecTileHoldRead x1 => Sys2Proof.Machine.execVecTileHoldRead x1 s
  | .seqEventRead x1 => Sys2Proof.Machine.execSeqEventRead x1 s
  | .dmaEventRead x1 => Sys2Proof.Machine.execDmaEventRead x1 s
  | .lndEventRead x1 => Sys2Proof.Machine.execLndEventRead x1 s
  | .hbmEventRead x1 => Sys2Proof.Machine.execHbmEventRead x1 s
  | .hbmEccCntRead x1 => Sys2Proof.Machine.execHbmEccCntRead x1 s
  | .hbmPartWaitRead x1 => Sys2Proof.Machine.execHbmPartWaitRead x1 s
  | .galEventRead x1 => Sys2Proof.Machine.execGalEventRead x1 s
  | .galReplayCntRead x1 => Sys2Proof.Machine.execGalReplayCntRead x1 s
  | .synEventRead x1 => Sys2Proof.Machine.execSynEventRead x1 s
  | .nwlEventRead => Sys2Proof.Machine.execNwlEventRead s
  | .fabEventRead x1 => Sys2Proof.Machine.execFabEventRead x1 s
  | .fabReplayCntRead x1 => Sys2Proof.Machine.execFabReplayCntRead x1 s
  | .fabFecCntRead x1 => Sys2Proof.Machine.execFabFecCntRead x1 s
  | .colEventRead => Sys2Proof.Machine.execColEventRead s
  | .pciEventRead => Sys2Proof.Machine.execPciEventRead s
  | .pwrIslLostRead => Sys2Proof.Machine.execPwrIslLostRead s
  | .pwrBusEventRead => Sys2Proof.Machine.execPwrBusEventRead s
  | .pwrBusMaxstallRead => Sys2Proof.Machine.execPwrBusMaxstallRead s
  | .mbxEventRead x1 => Sys2Proof.Machine.execMbxEventRead x1 s
  | .pwrResetCauseRead => Sys2Proof.Machine.execPwrResetCauseRead s
  | .tslEventRead => Sys2Proof.Machine.execTslEventRead s
  | .tslCRefRead x1 => Sys2Proof.Machine.execTslCRefRead x1 s
  | .obsEventRead => Sys2Proof.Machine.execObsEventRead s
  | .obsHmStatRead x1 => Sys2Proof.Machine.execObsHmStatRead x1 s
  | .snsEventRead x1 => Sys2Proof.Machine.execSnsEventRead x1 s
  | .pwrEventRead => Sys2Proof.Machine.execPwrEventRead s
  | .pwrOkRise x1 => Sys2Proof.Machine.execPwrOkRise x1 s
  | .pwrOkFall => Sys2Proof.Machine.execPwrOkFall s
  | .perstAssert => Sys2Proof.Machine.execPerstAssert s
  | .sysRstAssert => Sys2Proof.Machine.execSysRstAssert s
  | .resetRelease => Sys2Proof.Machine.execResetRelease s
  | .bootEnd x1 => Sys2Proof.Machine.execBootEnd x1 s
  | .memoryEnd x1 x2 x3 => Sys2Proof.Machine.execMemoryEnd x1 x2 x3 s
  | .calibrationEnd x1 x2 => Sys2Proof.Machine.execCalibrationEnd x1 x2 s
  | .ready => Sys2Proof.Machine.execReady s
  | .failed x1 => Sys2Proof.Machine.execFailed x1 s
  | .fabTrainingDone x1 x2 => Sys2Proof.Machine.execFabTrainingDone x1 x2 s
  | .pcieLinkUp x1 x2 x3 => Sys2Proof.Machine.execPcieLinkUp x1 x2 x3 s
  | .configurationRequest => Sys2Proof.Machine.execConfigurationRequest s
  | .referenceSettled x1 x2 => Sys2Proof.Machine.execReferenceSettled x1 x2 s
  | .snapshotRecordWritten => Sys2Proof.Machine.execSnapshotRecordWritten s
  | .cutRecordsWritten => Sys2Proof.Machine.execCutRecordsWritten s
  | .testAccessPort x1 => Sys2Proof.Machine.execTestAccessPort x1 s
  | .illegalInstruction x1 => Sys2Proof.Machine.execIllegalInstruction x1 s

end Sys2Proof.Machine
end

