-- ==== Sys2Proof/WellFormed.lean ====
section
/-! DEFINITION. Which commands are well formed: operands that are lists or numbers without a bound of their own have the
lengths and the ranges that the spec gives what they stand for. -/

namespace Sys2Proof

/-- Host memory is addressed through the outbound window (R354). -/
def cellsOk (l : List (Nat × Byte)) : Bool := l.all fun c => decide (0x800000000000 ≤ c.1 ∧ c.1 < 0x1000000000000)
def hostOk (h : HostIn) : Bool := cellsOk h.cells && h.bursts.all fun p => p.1 % 32 == 0 && decide (p.1 < 0xC000000000)

/-- A measured level lies in the 64 levels of a cell, in sixteenths (R35). -/
def levelOk (c : CellObs) : Bool := decide (c.level ≤ 1008)
def levelsOk (l : List CellObs) : Bool := l.all levelOk
/-- Observations by logical position (R403). -/
def posOk (l : List (Nat × CellObs)) : Bool := l.all fun p => decide (p.1 < 128) && levelOk p.2

/-- A reading covers at most the lines of an array, and its 8 check columns (R34, R79). -/
def readOk (r : Reading) : Bool := decide (r.y.length ≤ 512) && decide (r.chk.length ≤ 8)

/-- A word of a scrubbed memory (R211, R425). -/
def scrubOk (m : ScrubMem) (w : Nat) : Bool :=
  match m with
  | .scratch => decide (w < 0xC0000)
  | .imem => decide (w < 0x8000)
  | .desc => decide (w < 0x4000)

/-- A batch has at most 64 cells (R46). -/
def roundsOk (l : List (List Nat)) : Bool := l.all fun r => decide (r.length ≤ 64)

/-- An access stays within one line, or one grain (R267, R273). -/
def inLine (a : LAccess) (n : Nat) : Bool :=
  decide (a.addr < 0xC000000000 ∧ a.severity.length ≤ n / 32) &&
    (match a.write with
      | some bs => decide (1 ≤ bs.length ∧ a.addr % n + bs.length ≤ n)
      | none => true)

/-- A flit carries 248 payload bytes (R309). -/
def flitOk (f : Flit) : Bool := f.payload.length == 248
/-- A request has 1 to 4,096 bytes, and a write as many as it says (R348). -/
def barOk (r : BarReq) : Bool :=
  decide (1 ≤ r.len ∧ r.len ≤ 4096) && (match r.write with | some bs => bs.length == r.len | none => true)

/-- A register access is at a multiple of 4 of the register space (R15, R367). -/
def regOk (a : Nat) : Bool := a % 4 == 0 && decide (0x200000000000 ≤ a ∧ a < 0x200100000000)

/-- No port is listed twice (R409). -/
def portsOnce (l : List Nat) : Bool :=
  match l with
  | [] => true
  | p :: r => !r.contains p && portsOnce r

/-- A well-formed command. -/
def Instr.wf (i : Instr) : Bool :=
  match i with
  | .ld _ h => hostOk h
  | .apgLoad _ l => levelsOk l
  | .dmaCopy _ h => hostOk h
  | .dmaTranspose _ h => hostOk h
  | .dmaConvert _ h => hostOk h
  | .dmaTransposeConvert _ h => hostOk h
  | .readResolve _ _ l => l.all fun o => readOk o.first && readOk o.spill && readOk o.minor && readOk o.minorSpill
  | .memoryScrub _ m w _ => scrubOk m w
  | .programBatch _ l => roundsOk l
  | .programBurst _ l => roundsOk l && decide (l.length ≤ 4)
  | .spareSwitch _ _ l => levelsOk l
  | .fencedSpareLoad _ _ l => levelsOk l
  | .arrayRefreshRun _ _ l => roundsOk l
  | .calGroup _ o => o.codes.all fun p => decide (p.1 < 520)
  | .landingAccess a => inLine a 256
  | .landingFill _ a _ l => a % 256 == 0 && l.length == 8
  | .fineGrain a => inLine a 64
  | .patrolScrub _ a _ _ => a % 32 == 0 && decide (a < 0xC000000000)
  | .sigFlit _ f => flitOk f
  | .collFlit _ f _ => flitOk f
  | .ctrlFlit _ f => f.credits.length == 6
  | .proto _ f => flitOk f
  | .handshake _ f => f.credits.length == 6 && f.credits.all fun n => decide (n < 65536)
  | .eyeMeasure _ l => decide (l.length ≤ 8)
  | .twinData _ f => flitOk f
  | .openTwin _ f => flitOk f
  | .closeTwin _ f => flitOk f
  | .commitTwin _ f => flitOk f
  | .abortTwin _ f => flitOk f
  | .pullTwin _ f => flitOk f
  | .inboundRequest r => barOk r
  | .bindweedEntryDone _ _ o => cellsOk o.cells
  | .commandStart _ h => hostOk h
  | .arrayProgram x l => posOk l && hostOk x.host
  | .progLoad x => hostOk x.host
  | .testPackLoad _ h _ => hostOk h
  | .readmit _ l => l.all fun p => decide (p.1 ≤ 128)
  | .attestReport _ l => l.length == 29792
  | .fwUpdateFirmware _ h _ => hostOk h
  | .fwUpdateConfiguration _ h _ => hostOk h
  | .fwUpdateOwner _ h _ => hostOk h
  | .registerBusTimeout a _ => regOk a
  | .blockEnable a _ => regOk a
  | .blockDisable a _ => regOk a
  | .blockStopped a _ => regOk a
  | .registerWrite a _ => regOk a
  | .bootEnd o => portsOnce (o.ports.map fun p => p.port.val) && o.dir.length == 6 &&
      [o.cfgA, o.cfgB, o.fwA, o.fwB].all fun x => x.header.length == 64
  | .calibrationEnd o _ => o.length == 8
  | .failed c => c.val != 0
  | .fabTrainingDone _ o => match o with | .trained l => decide (l.length ≤ 8) | .failed => true
  | .pcieLinkUp w v f => w.val != 0 && v.val != 0 && f == decide (v.val = 6)
  | .nop _ | .add _ | .sub _ | .mul _ | .andI _ | .orI _ | .xor _ | .shl _ | .shr _ | .sra _ | .minI _ | .maxI _
  | .cmpeq _ | .cmplt _ | .cmpltu _ | .ins32 _ | .st _ | .mfs _ | .mts _ | .dset _ | .br _ | .loop _ | .call _
  | .ret _ | .halt _ | .coreHalted _ | .sywToken _ | .sywGe _ | .sywEq _ | .sywResume _ | .longWait _
  | .sysSignal _ | .sysReset _ | .sysArrive _ | .sysAfterSend _ | .fence _ | .fenceResume _ | .queueStart _ _
  | .mma _ | .ard _ | .art _ | .apgTransfer _ | .preloadBias _ | .preloadResid _ | .mupd _ | .wflush _ | .wstep _
  | .wcheck _ | .wprobe _ | .scalegen _ | .vopAdd _ | .vopSub _ | .vopMul _ | .vopFma _ | .vopMax _
  | .vopMin _ | .cvt _ | .sfu _ | .scale _ | .colsum _ | .softmaxBwd _ | .normBwd _ | .drn _ | .instructionComplete _ _ _
  | .descStoreRelease _ | .banisterReferee _ _ | .tileContribution _ _ _ _ _ _ | .tileScrub _ _ _ _ _
  | .syncObjectScrub _ _ | .refreshTimer _ _ | .wearLogWrite | .fieldDue _ _ | .arrayRefresh _ _ | .retrace _ _ | .traceRetry _ _
  | .calStarved _ | .testWindow _ _ | .forcedWindow _ _ | .hbmAdmit _ _ _ _ _ | .hbmTempRead _ _ | .hbmRefresh _
  | .galleryReplay _ | .signal _ _ _ | .reset _ _ | .arrive _ _ | .completion _ | .waitRegister _
  | .newelStateReport _ | .barrierCompletion _ | .nwlTrigFall | .fenceRequest | .nwlClkLost | .nwlClkReturn
  | .nwlBindWrite _ _ _ | .nwlFenceHold _ | .ctrlFlitSend _ | .flitReject _ _ | .handshakeSend _ | .noPartner _
  | .replayExhausted _ | .linkDown _ | .collStart _ | .collDeadline _ _ | .collLateStart _ | .opTimeout _
  | .collComplete _ | .twinGate _ | .twinCopy _ | .twinOpenTimeout _ | .twinStreamTimeout _ _ | .flrVf _ | .flrPf
  | .pcieLinkDown | .bindweedPush _ | .prefetchStart _ | .mbxDoorbell _ | .mbxRingTail _ _ | .mbxCplHead _ _
  | .mbxRingEnable _ _ | .commandBound _ | .lockstepMismatch | .devQuery _ | .jobCreate _ | .jobDestroy _
  | .jobAssignClustersAssign _ | .jobAssignClustersRelease _ | .memMap _ | .memUnmap _ | .partSetRate _
  | .launch _ | .haltJob _ | .jobIdle _ | .arrayTransferPolicy _ | .calRun _ | .calPolicy _
  | .calQuality _ | .fabPortCfgPort _ | .fabPortCfgRoute _ | .fabTrainTrain _ | .fabTrainTakeDown _
  | .fabTrainRetrain _ | .collGroupCreate _ | .collGroupDestroy _ | .stragglerPolicy _ | .twinCfgSource _
  | .twinCfgHold _ | .twinCfgRemove _ | .twinCfgQuery _ | .twinCopyNow _ | .twinRestore _ | .testScheduleSet _
  | .testNow _ _ | .testScheduleFence _ | .fenceQueryFences _ | .fenceQueryNotify _ | .ctrAccessGrant _
  | .ctrAccessRevoke _ | .ctrDumpEnable _ | .ctrDumpDisable _ | .snapArm _ | .snapDisarm _ | .snapTriggerNow _
  | .sensorCfgConverter _ | .sensorCfgSequence _ | .sensorCfgBuffer _ | .sensorCfgAlarm _ | .fwUpdateRaise _
  | .hbmRepairQuery _ | .hbmRepairApply _ | .offloadCfgEnable _ | .offloadCfgDisable _ | .powerCapSet _
  | .sorrelCut | .cutSkipped | .healthMonitorWindow _ | .yarrowTrigger _ _ | .obsCntLoRead | .obsFreeze _
  | .snsRegularTrigger _ | .snsUrgentTrigger _ _ | .snsConversion _ _ | .injNow _ | .regNow _ | .powerInterval _
  | .powerBiasCorrect | .freqGlide _ | .voltageRampDone _ _ | .thermalHoldRaise _ | .thermtrip _
  | .clockLossTower _ _ | .clockLossIsland _ | .refreshNow _ | .traceNow _ | .runArray _ | .runField _
  | .synOpSignal _ | .synOpReset _ | .prgEventRead _ | .arcEventRead _ | .calEventRead _ | .engEventRead _
  | .engAccEventRead _ | .wchEventRead _ | .vecEventRead _ | .vecTileHoldRead _ | .seqEventRead _ | .dmaEventRead _
  | .lndEventRead _ | .hbmEventRead _ | .hbmEccCntRead _ | .hbmPartWaitRead _ | .galEventRead _
  | .galReplayCntRead _ | .synEventRead _ | .nwlEventRead | .fabEventRead _ | .fabReplayCntRead _
  | .fabFecCntRead _ | .colEventRead | .pciEventRead | .pwrIslLostRead | .pwrBusEventRead | .pwrBusMaxstallRead
  | .mbxEventRead _ | .pwrResetCauseRead | .tslEventRead | .tslCRefRead _ | .obsEventRead | .obsHmStatRead _
  | .snsEventRead _ | .pwrEventRead | .pwrOkRise _ | .pwrOkFall | .perstAssert | .sysRstAssert | .resetRelease
  | .memoryEnd _ _ _ | .ready | .configurationRequest | .referenceSettled _ _ | .snapshotRecordWritten
  | .cutRecordsWritten | .testAccessPort _ | .illegalInstruction _ => true

end Sys2Proof
end

