-- ==== Sys2Proof/Safety.lean ====
section
/-! DEFINITION. What counts as a safe run, in the terms that claims use: no step stops, and the lock region, which no
release opens again, only grows stricter (23_power_security_management.md R490). -/

namespace Sys2Proof.Safety
open Sys2Proof.Machine

/-- A step that does not stop. -/
def Goes (s : State) : Prop := ∃ t, step s = .next t

/-- `b` is at least as strict as `a`: no minimum security version fell, and no owner slot opened or changed (R490). -/
def LockLe (a b : NonVol) : Prop :=
  a.minVer.length = b.minVer.length ∧ (∀ i, (a.minVer.getD i 0).toNat ≤ (b.minVer.getD i 0).toNat) ∧
    (∀ i, i < a.owners.length → b.owners[i]? = a.owners[i]?)

/-- A lock region of the part: three minimum security versions, and at most four owner keys (R490). -/
def LockOk (n : NonVol) : Prop := n.minVer.length = 3 ∧ n.owners.length ≤ 4

/-- A run of `k` steps from `s` that does not stop and keeps the lock region. -/
def SafeRun (k : Nat) (s : State) : Prop :=
  match k with
  | 0 => True
  | j + 1 => ∃ t, step s = .next t ∧ LockLe s.nv t.nv ∧ SafeRun j t

end Sys2Proof.Safety
end

