-- ==== Sys2Proof/Certificates/Slice0/Obligations.lean ====
section
/-! DEFINITION. The statements about the model, for the provers. The first part holds the words they are written in. -/

namespace Sys2Proof.Claims
open Sys2Proof Sys2Proof.Machine

/-! ### Words of the statements -/

/-- The state with another chip: what outlives resets and the queue of commands stay. -/
def after (s : State) (ch : Chip) : State := { s with chip := ch }

/-- Core `c` issues the word `w`, which is the instruction `op`: the device and the core run, nothing holds the
sequencer, the word is clean, no register it uses is pending, and its guard holds (R209, R214, R234). -/
structure Issuing (s : State) (c : CoreId) (op : Op) (w : Dword) : Prop where
  live : live s.chip = true
  can : canIssue s.chip c.val = true
  clean : anyPoi s.chip (imemBase c.val + 8 * (coreOf s.chip c.val).pc) 8 = false
  word : fetchWord s.chip c.val (coreOf s.chip c.val).pc = w
  code : decodeWord w = some op
  reads : (regUse op w).1.any (pendingReg (coreOf s.chip c.val)) = false
  writes : (regUse op w).2.any (pendingReg (coreOf s.chip c.val)) = false
  guard : guardOk (coreOf s.chip c.val) w = true

/-- The chip once the word at the PC of core `c` has issued: the issued instruction is counted (R449, counter 57), and
an unfenced rewrite of the word has drawn its free bit (log 14). -/
def issued (s : State) (c : CoreId) : Chip :=
  countCore { s.chip with free := s.chip.free + b2n (thas (coreOf s.chip c.val).stale (coreOf s.chip c.val).pc) }
    c.val 57 1

/-- The core that issues. -/
def theCore (s : State) (c : CoreId) : Core := coreOf s.chip c.val
/-- The first operand of format S, and the second (R217). -/
def srcA (s : State) (c : CoreId) (w : Dword) : Dword := rdReg (theCore s c) (wb w 45 40)
def srcB (s : State) (c : CoreId) (w : Dword) : Dword := opB (theCore s c) w

/-- After an instruction that writes `v` to its destination register and goes to the next word. -/
def wrote (s : State) (c : CoreId) (w v : Dword) : State :=
  after s (setCore (issued s c) c.val (advance (wrReg (theCore s c) (wb w 51 46) v)))

/-- After an instruction whose core is then `k`. -/
def cored (s : State) (c : CoreId) (k : Core) : State := after s (setCore (issued s c) c.val k)

/-- After a precise fault of the instruction at the PC, which records the word that was fetched (R236). -/
def faulted (s : State) (c : CoreId) (code : Nat) : State :=
  after s (faultWord (issued s c) c.val code (fetchWord s.chip c.val (theCore s c).pc))

/-- The started instruction `i` of queue `q` of core `c`, an `op`, may run: its tower's clock runs and no earlier
vector operation is on its tiles (R28, R138). -/
structure Started (s : State) (c : CoreId) (q : Queue) (op : Op) (i : QInstr) : Prop where
  live : live s.chip = true
  clock : islandRuns s.chip (c.val / 128) = true
  first : ((coreOf s.chip c.val).q.find? fun j => j.q == q && j.phase == .started) = some i
  code : decodeWord i.word = some op
  tiles : ((q == .engine || q == .array) &&
    tileClash s.chip c.val true i.seq [.vector] (instrTiles s.chip c.val i)) = false

/-- The instruction has run: its chip is `ch`, and `j` holds what it gives at completion (R231, R232). -/
def ran (s : State) (c : CoreId) (ch : Chip) (j : QInstr) (seq : Nat) : State :=
  after s (updInstr ch c.val seq fun x => { x with phase := .ran, conf := j.conf, sres := j.sres, pres := j.pres })

/-- Stream `k` runs the command `c`, opcode `op` and row `mine`; it has not taken effect, no other command of its job
is ahead of it, and every check of R385 passes. -/
structure Taking (s : State) (k : Stream) (op : Nat) (mine : Nat → Bool) (chk : Nat → List (Nat × Nat) × List Nat)
    (c : Cmd) : Prop where
  live : live s.chip = true
  cmd : cmdIn s.chip (streamIx k) op mine = some c
  fresh : c.committed = false
  first : blocked s.chip (streamIx k) c = false
  pass : refuse s.chip (streamIx k) c (chk c.raw).1 (chk c.raw).2 = none

/-- A command that waits is asked again (R397). -/
structure Waiting (s : State) (k : Stream) (op : Nat) (mine : Nat → Bool) (c : Cmd) : Prop where
  live : live s.chip = true
  cmd : cmdIn s.chip (streamIx k) op mine = some c
  taken : c.committed = true

/-- The command has its response `r`, with the chip otherwise `ch`. -/
def answered (s : State) (k : Stream) (c : Cmd) (ch : Chip) (r : Rsp) : State := after s (respond ch (streamIx k) c r)

/-- The command waits: it has taken effect, and remembers `memo`. -/
def waits (s : State) (k : Stream) (c : Cmd) (ch : Chip) (memo : List Nat) : State :=
  after s (updStream ch (streamIx k) fun x => { x with cmd := some { c with committed := true, memo := memo } })

/-- The command that `i` runs writes `bs` at `a` for its function and has the response `r`, or is answered ADDRESS. -/
def buffered (s : State) (k : Stream) (c : Cmd) (i : Instr) (a : Nat) (bs : List Byte) (r : Rsp) : Prop :=
  (fnReach s.chip k.fn.val a bs.length true = false → exec i s = .next (answered s k c s.chip (rspOf 0x1C))) ∧
  (fnReach s.chip k.fn.val a bs.length true = true →
    exec i s = .next (answered s k c (if bs = [] then s.chip else fwWrite s.chip 0 a bs) r))

/-- Action `a` of SENSOR_CFG, run by `i` (R480): refused with `no`; refused while CK_SNS stands still; `change` at once
where no WD field changes (`wd`); else the converter leaves ENABLED, `change` comes once it is DISABLED, and a converter
that this command stopped is enabled again. -/
def configures (s : State) (k : Stream) (c : Cmd) (i : Instr) (a : Nat) (chk : Nat → List (Nat × Nat) × List Nat)
    (no : Option Rsp) (wd : Bool) (change : Chip → Chip × Rsp) : Prop :=
  ∀ b u, snBlk (scConv c.raw) = (b, u) →
    (Taking s k 0xA0 (actRow a 4) chk c →
      (∀ r, no = some r → exec i s = .next (answered s k c s.chip r)) ∧
      (no = none → islandRuns s.chip 21 = false → exec i s = .next (answered s k c s.chip (rspOf 0x14))) ∧
      (no = none → islandRuns s.chip 21 = true → wd = false →
        exec i s = .next (answered s k c (change s.chip).1 (change s.chip).2)) ∧
      (no = none → islandRuns s.chip 21 = true → wd = true →
        (blkGet s.chip b u = .disabled → exec i s = .next (answered s k c (change s.chip).1 (change s.chip).2)) ∧
        (blkGet s.chip b u ≠ .disabled → ∀ x y, x = disableBlk s.chip b u false → y = stopBlk x b u false →
          (blkGet y b u ≠ .disabled → exec i s = .next (waits s k c x [1])) ∧
          (blkGet y b u = .disabled →
            exec i s = .next (answered s k c (enableBlk (change y).1 b u false) (change y).2))))) ∧
    (Waiting s k 0xA0 (actRow a 4) c → ∀ y, y = stopBlk s.chip b u false →
      ((islandRuns s.chip 21 = false ∨ blkGet y b u ≠ .disabled) → exec i s = .next (waits s k c s.chip c.memo)) ∧
      (islandRuns s.chip 21 = true → blkGet y b u = .disabled → exec i s =
        .next (answered s k c (if c.memo = [] then (change y).1 else enableBlk (change y).1 b u false) (change y).2)))

/-- A register access of this unit of a register reaches it: the bus's island runs, and the target's (R371). -/
structure OnBus (s : State) (r : Reg) (u : Nat) : Prop where
  live : live s.chip = true
  bus : islandRuns s.chip 20 = true
  target : islandRuns s.chip (blkIsle (regInfo r).blk u) = true

/-- The chip at an access that reaches unit `u` of register `r`: it has crossed to the register's island (log 17) and
answers without data. -/
def okBus (s : State) (r : Reg) (u : Nat) : Chip :=
  { crossing s.chip (blkIsle (regInfo r).blk u) with resp := ⟨.ok, [], false⟩ }

/-- The chip at an access that reaches address `a` of target `t`, likewise. -/
def okAt (s : State) (t : BusTarget) (a : Nat) : Chip :=
  { crossing s.chip (targetIsle t a) with resp := ⟨.ok, [], false⟩ }

/-- A batch of the array of read `rd` is between two of its bursts, for `atomic` one that no read splits (R55). -/
def splits (s : State) (c : CoreId) (rd : Rd) (atomic : Bool) : Bool :=
  (bankOf s.chip c.val).batch.any fun b => b.phys == rd.phys && b.rnd != 0 && (!atomic || b.atomic)

/-- Work `f` on memory from `via` goes on in state `s`: nothing holds it at its source and none of its accesses is lost
(R277, R281, R285, R431). It works on the state `t`, in which what the stacks report for the bursts it reads has counted
(R263) and its partitions wait for tokens no more. -/
structure GoesOn (s : State) (via : Via) (bursts : Bursts) (f : Chip → Chip) (t : State) : Prop where
  live : live s.chip = true
  free : memHeld s.chip via (touched f s.chip) = false
  kept : (touched f s.chip).any (touchLost s.chip via) = false
  state : t = after s (memReady s.chip bursts (touched f s.chip))

/-- `i` is work `f` on memory from `via`: where a stop, a repair or a bucket holds an access of it, it leaves the marks of
one that waits and nothing else; where accesses are lost, it ends as R431 says. -/
def waitsOrLoses (s : State) (i : Instr) (via : Via) (bursts : Bursts) (f : Chip → Chip) : Prop :=
  live s.chip = true →
    (memHeld s.chip via (touched f s.chip) = true →
      exec i s = .next (after s (memWaits s.chip via (touched f s.chip)))) ∧
    (memHeld s.chip via (touched f s.chip) = false → (touched f s.chip).any (touchLost s.chip via) = true →
      exec i s = .next (after s (memLost (memReady s.chip bursts (touched f s.chip)) via (touched f s.chip) f)))

/-- The started instruction `i` of queue `q`, an `op` with the effect `f`, goes on; it works on the state `t`. -/
structure Works (s : State) (r : CoreRun) (q : Queue) (op : Op) (f : Chip → QInstr → Chip × QInstr) (i : QInstr)
    (t : State) : Prop where
  goes : GoesOn s (.core (r.core.val / 128)) r.bursts (coreStep r q op f) t
  started : Started t r.core q op i

/-- The instruction has run its effect `f`, with the failures its reads met (R126, R145). -/
def worked (t : State) (r : CoreRun) (f : Chip → QInstr → Chip × QInstr) (i : QInstr) : State :=
  ran t r.core (withFailures r f t.chip i).1 (withFailures r f t.chip i).2 i.seq

end Sys2Proof.Claims

open Sys2Proof Sys2Proof.Machine Sys2Proof.Claims

/-! ### Cores: scalar instructions (10) -/

/-- R217: the fifteen ALU instructions write f(srcA, b) to the destination and change nothing else but the PC, the
loop stack at a back-edge and the count of issued instructions: none faults on its values. The operand b is `srcB`, or
with `imm_sel` the sign-extended immediate; a word of INS32 has `imm_sel` 1. -/
def Obligations.AluResults : Prop :=
  ∀ (s : State) (c : CoreId) (w : Dword),
    ((wb w 33 33 = 0 → srcB s c w = rdReg (theCore s c) (wb w 39 34)) ∧
      (wb w 33 33 = 1 → srcB s c w = (w.extractLsb' 0 32).signExtend 64) ∧
      (decodeWord w = some .ins32 → wb w 33 33 = 1)) ∧
    (Issuing s c .add w → exec (.add c) s = .next (wrote s c w (srcA s c w + srcB s c w))) ∧
    (Issuing s c .sub w → exec (.sub c) s = .next (wrote s c w (srcA s c w - srcB s c w))) ∧
    (Issuing s c .mul w → exec (.mul c) s = .next (wrote s c w (srcA s c w * srcB s c w))) ∧
    (Issuing s c .andI w → exec (.andI c) s = .next (wrote s c w (srcA s c w &&& srcB s c w))) ∧
    (Issuing s c .orI w → exec (.orI c) s = .next (wrote s c w (srcA s c w ||| srcB s c w))) ∧
    (Issuing s c .xor w → exec (.xor c) s = .next (wrote s c w (srcA s c w ^^^ srcB s c w))) ∧
    (Issuing s c .shl w → exec (.shl c) s = .next (wrote s c w (srcA s c w <<< ((srcB s c w).toNat % 64)))) ∧
    (Issuing s c .shr w → exec (.shr c) s = .next (wrote s c w (srcA s c w >>> ((srcB s c w).toNat % 64)))) ∧
    (Issuing s c .sra w →
      exec (.sra c) s = .next (wrote s c w ((srcA s c w).sshiftRight ((srcB s c w).toNat % 64)))) ∧
    (Issuing s c .minI w → exec (.minI c) s =
      .next (wrote s c w (if (srcA s c w).toInt < (srcB s c w).toInt then srcA s c w else srcB s c w))) ∧
    (Issuing s c .maxI w → exec (.maxI c) s =
      .next (wrote s c w (if (srcA s c w).toInt < (srcB s c w).toInt then srcB s c w else srcA s c w))) ∧
    (Issuing s c .cmpeq w → exec (.cmpeq c) s = .next (wrote s c w (if srcA s c w = srcB s c w then 1 else 0))) ∧
    (Issuing s c .cmplt w → exec (.cmplt c) s =
      .next (wrote s c w (if (srcA s c w).toInt < (srcB s c w).toInt then 1 else 0))) ∧
    (Issuing s c .cmpltu w → exec (.cmpltu c) s =
      .next (wrote s c w (if (srcA s c w).toNat < (srcB s c w).toNat then 1 else 0))) ∧
    (Issuing s c .ins32 w → exec (.ins32 c) s =
      .next (wrote s c w (BitVec.ofNat 64 ((srcB s c w).toNat % 2 ^ 32 * 2 ^ 32 + (srcA s c w).toNat % 2 ^ 32))))

/-- R213: what a register reads after a write to any register. s0 reads 0 and p0 reads 1 whatever is written; an
address register keeps 48 bits and a predicate one. -/
def Obligations.RegisterFile : Prop :=
  ∀ (k : Core) (r q : Nat) (v : Dword), r < 0x38 → q < 0x38 →
    rdReg (wrReg k r v) q =
      if q = 0 then 0 else if q = 0x30 then 1
      else if q ≠ r then rdReg k q
      else if r < 0x20 then v
      else if r < 0x30 then v &&& 0xFFFFFFFFFFFF
      else v &&& 1

/-- NOP does nothing but issue; R221: DSET sets its slot, or raises the illegal-operand fault for an index outside 0 to
1,023, and never changes an issued instruction; R222: MFS and MTS read and write the special registers of the table and
raise the illegal-operand fault for any other selector. -/
def Obligations.ScalarMoves : Prop :=
  ∀ (s : State) (c : CoreId) (w : Dword),
    (Issuing s c .nop w → exec (.nop c) s = .next (cored s c (advance (theCore s c)))) ∧
    (Issuing s c .dset w → exec (.dset c) s =
      if (srcA s c w + immS w).toNat < 1024 then
        .next (cored s c (advance { theCore s c with
          d := tput (theCore s c).d (wb w 51 46) (BitVec.ofNat 10 (srcA s c w + immS w).toNat) }))
      else .next (faulted s c 2)) ∧
    (Issuing s c .mfs w →
      (wb w 7 0 = 0x00 → exec (.mfs c) s = .next (wrote s c w (BitVec.ofNat 64 c.val))) ∧
      (∀ j, wb w 7 0 = 0x01 → coreJob s.chip c.val = some j →
        exec (.mfs c) s = .next (wrote s c w (BitVec.ofNat 64 j.val))) ∧
      (wb w 7 0 = 0x02 → exec (.mfs c) s =
        .next (wrote s c w (BitVec.ofNat 64 (tget s.chip.isl 0 (c.val / 128) - (theCore s c).launchAt)))) ∧
      (wb w 7 0 = 0x03 → exec (.mfs c) s =
        .next (wrote s c w (BitVec.ofNat 64 ((theCore s c).loops.length + 2 ^ 8 * (theCore s c).rets.length)))) ∧
      (9 ≤ wb w 7 0 → wb w 7 0 ≤ 15 → exec (.mfs c) s =
        .next (wrote s c w ((tget (theCore s c).tc 0 (wb w 7 0 - 8)).setWidth 64))) ∧
      (3 < wb w 7 0 → (wb w 7 0 < 9 ∨ 15 < wb w 7 0) → exec (.mfs c) s = .next (faulted s c 2))) ∧
    (Issuing s c .mts w →
      (9 ≤ wb w 7 0 → wb w 7 0 ≤ 15 → exec (.mts c) s = .next (cored s c (advance { theCore s c with
        tc := tput (theCore s c).tc (wb w 7 0 - 8) ((srcA s c w).setWidth 32) }))) ∧
      ((wb w 7 0 < 9 ∨ 15 < wb w 7 0) → exec (.mts c) s = .next (faulted s c 2)))

/-- R218, R219: LD and ST of the scratchpad (space 0) and of descriptor memory (space 1): where the access raises no
fault, a clean load writes the zero-extended little-endian bytes, a poisoned one raises the poison-consumed fault, and
a store writes its bytes and nothing else; R220: a store to an entry that an issued instruction has yet to fetch is
held. An access out of range raises the address fault, and a misaligned one the alignment fault. -/
def Obligations.LoadStoreLocal : Prop :=
  ∀ (s : State) (r : CoreRun) (c : CoreId) (h : HostIn) (w : Dword) (n l a : Nat), c = r.core → n = 2 ^ wb w 37 36 →
    l = accessLoc (theCore s c) w →
    (wb w 39 38 = 0 ∧ a = scratchBase c.val + l ∨ wb w 39 38 = 1 ∧ a = descBase c.val + l) →
    (Issuing s c .ld w → accessFault (issued s c) c.val w l n false = none → anyPoi s.chip a n = false →
      exec (.ld c h) s = .next (wrote s c w (BitVec.ofNat 64 (rdNat s.chip a n)))) ∧
    (Issuing s c .ld w → accessFault (issued s c) c.val w l n false = none → anyPoi s.chip a n = true →
      exec (.ld c h) s = .next (faulted s c 9)) ∧
    (Issuing s c .st w → accessFault (issued s c) c.val w l n true = none →
      (wb w 39 38 = 1 → entryNamed (issued s c) c.val (l / 64) = false) →
      exec (.st r) s = .next (after s (updCore
        (wrMem (issued s c) a (leBytes (rdReg (theCore s c) (wb w 51 46)).toNat n) false) c.val advance))) ∧
    (Issuing s c .st w → accessFault (issued s c) c.val w l n true = none → wb w 39 38 = 1 →
      entryNamed (issued s c) c.val (l / 64) = true →
      exec (.st r) s = .next (after s (raise (setCore (issued s c) c.val { advance (theCore s c) with
        held := some ⟨l, leBytes (rdReg (theCore s c) (wb w 51 46)).toNat n⟩ }) .seqDescHold c.val))) ∧
    (Issuing s c .ld w → ∀ f, accessFault (issued s c) c.val w l n false = some f →
      exec (.ld c h) s = .next (faulted s c f)) ∧
    (Issuing s c .st w → ∀ f, accessFault (issued s c) c.val w l n true = some f →
      exec (.st r) s = .next (faulted s c f)) ∧
    (l % n ≠ 0 → ∀ x b, accessFault x c.val w l n b = some 4) ∧
    (l % n = 0 → wb w 39 38 = 0 → ∀ x b,
      accessFault x c.val w l n b = if l < (if b then 0x300000 else 0x400000) then none else some 3) ∧
    (l % n = 0 → wb w 39 38 = 1 → ∀ x b, accessFault x c.val w l n b = if l < 0x10000 then none else some 3)

/-- R29, R218: LD and ST of space 2 that the job reaches, in HBM, in a scratchpad and in the outbound window: the data,
the Landing access, the host's bytes and the byte counters; a poisoned word or a failed completion raises the
poison-consumed fault; a misaligned address raises the alignment fault and one the job does not reach the address fault;
R277, R281, R285: an access that a stop, a repair or a bucket holds waits. -/
def Obligations.LoadStoreHbm : Prop :=
  ∀ (s t : State) (r : CoreRun) (c : CoreId) (h : HostIn) (w : Dword) (n a : Nat), c = r.core → n = 2 ^ wb w 37 36 →
    wb w 39 38 = 2 → fetchWord s.chip c.val (theCore s c).pc = w → a = accessLoc (theCore t c) w →
    waitsOrLoses s (.ld c h) (.core (c.val / 128)) h.bursts (loadWord c.val h) ∧
    waitsOrLoses s (.st r) (.core (c.val / 128)) r.bursts (storeWord c.val) ∧
    (GoesOn s (.core (c.val / 128)) h.bursts (loadWord c.val h) t → Issuing t c .ld w →
      (a % n ≠ 0 → exec (.ld c h) s = .next (faulted t c 4)) ∧
      (∀ j, coreJob (issued t c) c.val = some j → a % n = 0 →
        (reaches (issued t c) j a (a + n - 1) false = false → exec (.ld c h) s = .next (faulted t c 3)) ∧
        (reaches (issued t c) j a (a + n - 1) false = true → ∀ x y,
          x = (if outBase ≤ a then hostRead (issued t c) (j.val + 1) h [(a, n)] else issued t c) →
          y = landRange (forwardPoison x (c.val / 128) [(a, n)]) (coreJob x c.val) .normal a n false →
          (anyPoi x a n = false → (outBase ≤ a → hostBad x h = false) → exec (.ld c h) s = .next (after t (updCore
            (if a < hbmEnd then countCore y c.val 77 n else y) c.val
            fun k => advance (wrReg k (wb w 51 46) (BitVec.ofNat 64 (rdNat x a n)))))) ∧
          ((anyPoi x a n = true ∨ outBase ≤ a ∧ hostBad x h = true) → exec (.ld c h) s = .next (after t (faultWord
            (if a < hbmEnd then countCore y c.val 77 n else y) c.val 9 w)))))) ∧
    (GoesOn s (.core (c.val / 128)) r.bursts (storeWord c.val) t → Issuing t c .st w →
      (a % n ≠ 0 → exec (.st r) s = .next (faulted t c 4)) ∧
      (∀ j, coreJob (issued t c) c.val = some j → a % n = 0 →
        (reaches (issued t c) j a (a + n - 1) true = false → exec (.st r) s = .next (faulted t c 3)) ∧
        (reaches (issued t c) j a (a + n - 1) true = true → ∀ x,
          x = landRange (issued t c) (some j) .normal a n true →
          (a < hbmEnd → exec (.st r) s = .next (after t (updCore (wrMem (countCore x c.val 78 n) a
            (leBytes (rdReg (theCore t c) (wb w 51 46)).toNat n) false) c.val advance))) ∧
          (hbmEnd ≤ a → a < outBase → exec (.st r) s = .next (after t (updCore (wrMem x a
            (leBytes (rdReg (theCore t c) (wb w 51 46)).toNat n) false) c.val advance))) ∧
          (outBase ≤ a → hostOpen x = true →
            exec (.st r) s = .next (after t (updCore (wrMem (hostWrite x (jobFn (coreJob x c.val)) [(a, n)]) a
              (leBytes (rdReg (theCore t c) (wb w 51 46)).toNat n) false) c.val advance))) ∧
          (outBase ≤ a → hostOpen x = false →
            exec (.st r) s = .next (after t (updCore (hostWrite x (jobFn (coreJob x c.val)) [(a, n)]) c.val advance))))))

/-- R223, R224: BR, LOOP, CALL and RET. A target outside instruction memory raises the address fault and the four
misuses of the stacks the stack fault; otherwise only the PC and the stacks change. A word that stands at the last PC of
the innermost loop counts it down as it issues, or pops it when one pass was left, and the loop around it that ends there
too where it was popped; its own target stands. -/
def Obligations.ControlFlow : Prop :=
  (∀ (p : Nat) (l : LoopEnt) (r : List LoopEnt), endLoops p [] = [] ∧
    (l.last ≠ p → endLoops p (l :: r) = l :: r) ∧
    (l.last = p → 1 < l.count → endLoops p (l :: r) = { l with count := l.count - 1 } :: r) ∧
    (l.last = p → l.count ≤ 1 → endLoops p (l :: r) = endLoops p r)) ∧
  ∀ (s : State) (c : CoreId) (w : Dword) (ls : List LoopEnt), ls = endLoops (theCore s c).pc (theCore s c).loops →
    (Issuing s c .br w → ∀ t : Int,
      t = (if wb w 45 45 = 1 then ((theCore s c).pc : Int) + sx 32 (wb w 31 0)
        else (((rdReg (theCore s c) (wb w 51 46)).toNat % 16384 : Nat) : Int)) →
      (0 ≤ t → t < 16384 →
        exec (.br c) s = .next (cored s c { theCore s c with pc := t.toNat, loops := popLoops ls t.toNat })) ∧
      (t < 0 ∨ 16384 ≤ t → exec (.br c) s = .next (faulted s c 3))) ∧
    (Issuing s c .loop w → ∀ n : Nat,
      n = (if wb w 45 45 = 1 then wb w 31 16 else (rdReg (theCore s c) (wb w 51 46)).toNat % 2 ^ 32) →
      (wb w 15 0 = 0 ∨ 4 ≤ (theCore s c).loops.length → exec (.loop c) s = .next (faulted s c 8)) ∧
      (0 < wb w 15 0 → (theCore s c).loops.length < 4 → 0 < n →
        exec (.loop c) s = .next (cored s c { theCore s c with
          pc := ((theCore s c).pc + 1) % 16384
          loops := ⟨(theCore s c).pc + 1, (theCore s c).pc + wb w 15 0, n⟩ :: ls })) ∧
      (0 < wb w 15 0 → (theCore s c).loops.length < 4 → n = 0 → (theCore s c).pc + 1 + wb w 15 0 < 16384 →
        exec (.loop c) s = .next (cored s c { theCore s c with pc := (theCore s c).pc + 1 + wb w 15 0, loops := ls })) ∧
      (0 < wb w 15 0 → (theCore s c).loops.length < 4 → n = 0 → 16384 ≤ (theCore s c).pc + 1 + wb w 15 0 →
        exec (.loop c) s = .next (faulted s c 3))) ∧
    (Issuing s c .call w → ∀ t : Int, t = ((theCore s c).pc : Int) + sx 32 (wb w 31 0) →
      (16 ≤ (theCore s c).rets.length → exec (.call c) s = .next (faulted s c 8)) ∧
      ((theCore s c).rets.length < 16 → 0 ≤ t → t < 16384 →
        exec (.call c) s = .next (cored s c { theCore s c with
          pc := t.toNat, rets := ((theCore s c).pc + 1) % 16384 :: (theCore s c).rets, loops := ls })) ∧
      ((theCore s c).rets.length < 16 → (t < 0 ∨ 16384 ≤ t) → exec (.call c) s = .next (faulted s c 3))) ∧
    (Issuing s c .ret w →
      ((theCore s c).rets = [] → exec (.ret c) s = .next (faulted s c 8)) ∧
      (∀ t r, (theCore s c).rets = t :: r →
        exec (.ret c) s = .next (cored s c { theCore s c with pc := t, rets := r, loops := ls })))

/-- R223, R216, R239: HALT stops issue, and the core is HALTED once every queue has completed its instructions; a word
that is no instruction raises the illegal-instruction fault, whatever its guard. R236: a core with a fault is FAULTED
instead, then too. -/
def Obligations.Halting : Prop :=
  ∀ (s : State) (c : CoreId) (w : Dword),
    (Issuing s c .halt w → exec (.halt c) s = .next (cored s c { advance (theCore s c) with halting := true })) ∧
    (live s.chip = true → (theCore s c).faultSeq = none → (theCore s c).run = .running → (theCore s c).halting = true →
      (theCore s c).q.all (fun i => i.phase == .done) = true →
      exec (.coreHalted c) s =
        .next (after s (setCore s.chip c.val { theCore s c with run := .halted, halting := false }))) ∧
    (live s.chip = true → (theCore s c).faultSeq.isSome = true → (theCore s c).run = .running →
      (theCore s c).q.all (fun i => i.phase == .done) = true →
      exec (.coreHalted c) s = .next (after s (faultMark
        (setCore s.chip c.val { theCore s c with run := .faulted, halting := false }) c.val))) ∧
    (live s.chip = true → canIssue s.chip c.val = true →
      anyPoi s.chip (imemBase c.val + 8 * (theCore s c).pc) 8 = false →
      decodeWord (fetchWord s.chip c.val (theCore s c).pc) = none →
      exec (.illegalInstruction c) s = .next (after s (faultAtPc s.chip c.val 1)))

/-- R214: an instruction that the sequencer executes and whose guard is false issues and does nothing else: the PC
moves as after a NOP, and no register, token, object or byte of memory changes. -/
def Obligations.GuardFalse : Prop :=
  ∀ (s : State) (r : CoreRun) (c : CoreId) (op : Op) (w : Dword) (h : HostIn), c = r.core → live s.chip = true → canIssue s.chip c.val = true →
    anyPoi s.chip (imemBase c.val + 8 * (theCore s c).pc) 8 = false → fetchWord s.chip c.val (theCore s c).pc = w →
    decodeWord w = some op → (regUse op w).1.any (pendingReg (theCore s c)) = false →
    (regUse op w).2.any (pendingReg (theCore s c)) = false → guardOk (theCore s c) w = false →
    ∀ (i : Instr), (op, i) ∈ [(Op.nop, Instr.nop c), (.add, .add c), (.sub, .sub c), (.mul, .mul c), (.andI, .andI c),
      (.orI, .orI c), (.xor, .xor c), (.shl, .shl c), (.shr, .shr c), (.sra, .sra c), (.minI, .minI c), (.maxI, .maxI c),
      (.cmpeq, .cmpeq c), (.cmplt, .cmplt c), (.cmpltu, .cmpltu c), (.ins32, .ins32 c), (.ld, .ld c h), (.st, .st r),
      (.mfs, .mfs c), (.mts, .mts c), (.dset, .dset c), (.br, .br c), (.loop, .loop c), (.call, .call c), (.ret, .ret c),
      (.halt, .halt c), (.sywToken, .sywToken c), (.sywGe, .sywGe c), (.sywEq, .sywEq c), (.sysSignal, .sysSignal c),
      (.sysReset, .sysReset c), (.sysArrive, .sysArrive c), (.fence, .fence c)] →
    exec i s = .next (after s (updCore (issued s c) c.val advance)) ∧
      (issued s c).mem = s.chip.mem ∧ (issued s c).objs = s.chip.objs

/-- R236: a fault of the instruction at the PC takes no effect: it records its code, PC and word where no earlier fault
did, leaves every register, stack and queue as it was, and changes no byte of memory. The core issues nothing more, and
is FAULTED at once where its queues have completed what was issued. -/
def Obligations.PreciseFault : Prop :=
  ∀ (s : State) (c : CoreId) (code : Nat) (w : Dword), code < 256 → (theCore s c).faultSeq = none →
    ∃ ch : Chip, faultWord s.chip c.val code w = ch ∧ canIssue ch c.val = false ∧
      (queuesDone (theCore s c) = true → (coreOf ch c.val).run = .faulted) ∧
      (queuesDone (theCore s c) = false → (coreOf ch c.val).run = .running) ∧
      (coreOf ch c.val).s = (theCore s c).s ∧ (coreOf ch c.val).a = (theCore s c).a ∧ (coreOf ch c.val).p = (theCore s c).p ∧
      (coreOf ch c.val).d = (theCore s c).d ∧ (coreOf ch c.val).tc = (theCore s c).tc ∧
      (coreOf ch c.val).loops = (theCore s c).loops ∧ (coreOf ch c.val).rets = (theCore s c).rets ∧
      (coreOf ch c.val).q = (theCore s c).q ∧ (coreOf ch c.val).pc = (theCore s c).pc ∧
      ch.mem = s.chip.mem ∧ ch.poi = s.chip.poi ∧ ch.objs = s.chip.objs ∧
      regGet ch .seqFaultCode c.val = BitVec.ofNat 32 code ∧
      regGet ch .seqFaultPc c.val = BitVec.ofNat 32 (theCore s c).pc ∧
      regGet ch .seqFaultWordLo c.val = w.extractLsb' 0 32 ∧ regGet ch .seqFaultWordHi c.val = w.extractLsb' 32 32

/-! ### Cores: synchronisation and queues (10) -/

/-- R225, R287, R288, R304: SYW registers its wait and holds the sequencer; a token wait holds by the signed
difference, an object wait is registered and evaluated at once at its object; an object outside the job's clusters raises
the protection fault and a poisoned one the poison-consumed fault; a block that is not ENABLED holds the wait, neither
registered nor faulted. Issue resumes once the condition held, and a wait beyond the limit of SEQ_CFG only sets
`long_wait`. -/
def Obligations.SyncWaits : Prop :=
  ∀ (s : State) (c : CoreId) (w : Dword) (v : Word), v = (srcA s c w).setWidth 32 →
    (Issuing s c .sywToken w → exec (.sywToken c) s = .next (cored s c { advance (theCore s c) with
      run := .waiting
      syw := some ⟨wb w 48 46, none, false, v, false, decide (0 ≤ (tget (theCore s c).tc 0 (wb w 48 46) - v).toInt),
        tget s.chip.isl 0 (c.val / 128), (theCore s c).pc, w⟩ })) ∧
    (∀ (eq : Bool) (i : Instr), (eq = false ∧ Issuing s c .sywGe w ∧ i = .sywGe c ∨
        eq = true ∧ Issuing s c .sywEq w ∧ i = .sywEq c) →
      (objOwned (issued s c) c.val (objectId (theCore s c) w) = none → exec i s = .next (faulted s c 5)) ∧
      (∀ o x k, objOwned (issued s c) c.val (objectId (theCore s c) w) = some o →
        x = SywWait.mk 0 (some o) eq v false false (tget s.chip.isl 0 (c.val / 128)) (theCore s c).pc w →
        k = { advance (theCore s c) with run := .waiting, syw := some x } →
        (enabled s.chip .syn (objTower o) = true → objPoisoned s.chip o = true → exec i s = .next (faulted s c 9)) ∧
        (enabled s.chip .syn (objTower o) = true → objPoisoned s.chip o = false →
          exec i s = .next (after s (evalWaits (setCore (count (setCore (issued s c) c.val k) (cntCluster (objCluster o) 4) 1)
            c.val { k with syw := some { x with reg := true } }) o))) ∧
        (enabled s.chip .syn (objTower o) = false → exec i s = .next (cored s c k)))) ∧
    (live s.chip = true → ∀ x : SywWait, (theCore s c).syw = some x →
      ((x.seen = true ∨ x.obj = none ∧ tokenHolds (theCore s c) x.token x.v = true) → (theCore s c).run = .waiting →
        coreAlive s.chip c.val = true → (tcoreOf s.chip c.val).under = none →
        exec (.sywResume c) s = .next (after s (setCore s.chip c.val { theCore s c with run := .running, syw := none }))) ∧
      (0 < (regGet s.chip .seqCfg c.val).toNat →
        x.since + (regGet s.chip .seqCfg c.val).toNat < tget s.chip.isl 0 (c.val / 128) →
        exec (.longWait c) s = .next (after s (raise s.chip .seqLongWait c.val))) ∧
      (∀ o y, x.obj = some o → y = setCore (if x.reg then s.chip else count s.chip (cntCluster (objCluster o) 4) 1) c.val
          { theCore s c with syw := some { x with reg := true } } →
        (enabled s.chip .syn (objTower o) = true → objPoisoned s.chip o = false →
          exec (.waitRegister c) s = .next (after s (evalWaits y o))) ∧
        (enabled s.chip .syn (objTower o) = true → objPoisoned s.chip o = true →
          exec (.waitRegister c) s = .next (after s (faultWaits y o))) ∧
        (enabled s.chip .syn (objTower o) = false → exec (.waitRegister c) s = .next s)))

/-- R226, R293, R25: a local SYS whose queues are done and that must follow no deferred one (`sendsAfter`: on the same
object, or both remote to one package) reaches its object through the core's port, and a remote SIGNAL is sent to its
package; one that waits is kept in order; a remote RESET or ARRIVE is an illegal operand, and an object outside the job's
clusters a protection fault. -/
def Obligations.SysOperations : Prop :=
  ∀ (s : State) (c : CoreId) (w : Dword) (mode : Nat) (op : ObjOp) (i : Instr),
    (mode = 0 ∧ Issuing s c .sysSignal w ∧ i = .sysSignal c ∧
        op = .signal ((rdReg (theCore s c) (wb w 43 38)).setWidth 32) ∨
      mode = 1 ∧ Issuing s c .sysReset w ∧ i = .sysReset c ∧ op = .reset ∨
      mode = 2 ∧ Issuing s c .sysArrive w ∧ i = .sysArrive c ∧ op = .arrive) →
    (wb w 9 9 = 0 → ∀ o d, objOwned (issued s c) c.val
        (((rdReg (theCore s c) (wb w 37 32)).toNat : Int) + sx 16 (wb w 31 16)) = some o →
      d = ⟨pendingSeqs (theCore s c) (wb w 48 44), mode, o.val, (rdReg (theCore s c) (wb w 43 38)).setWidth 32,
        false, s.chip.nwl.pos.toNat⟩ →
      (d.seqs = [] → ((theCore s c).defer.any fun e => sendsAfter e d) = false → exec i s = .next (after s (objDeliver
        (countCore (setCore (issued s c) c.val (advance (theCore s c))) c.val 79 1) (corePort c.val o) o op))) ∧
      ((d.seqs ≠ [] ∨ ((theCore s c).defer.any fun e => sendsAfter e d) = true) → exec i s =
        .next (cored s c { advance (theCore s c) with defer := (advance (theCore s c)).defer ++ [d] }))) ∧
    (wb w 9 9 = 0 → objOwned (issued s c) c.val
        (((rdReg (theCore s c) (wb w 37 32)).toNat : Int) + sx 16 (wb w 31 16)) = none →
      exec i s = .next (faulted s c 5)) ∧
    (wb w 9 9 = 1 → mode ≠ 0 → exec i s = .next (faulted s c 2)) ∧
    (wb w 9 9 = 1 → mode = 0 → ∀ d, d = ⟨pendingSeqs (theCore s c) (wb w 48 44), 0,
        ((rdReg (theCore s c) (wb w 37 32)).toNat + sx 16 (wb w 31 16) : Int).toNat % 65536,
        (rdReg (theCore s c) (wb w 43 38)).setWidth 32, true, wb w 15 10⟩ →
      (d.seqs = [] → ((theCore s c).defer.any fun e => sendsAfter e d) = false → exec i s =
        .next (after s (sysSend (setCore (issued s c) c.val (advance (theCore s c))) c.val d fun x => remoteSend x c.val))) ∧
      ((d.seqs ≠ [] ∨ ((theCore s c).defer.any fun e => sendsAfter e d) = true) → exec i s =
        .next (cored s c { advance (theCore s c) with defer := (advance (theCore s c)).defer ++ [d] })))

/-- R226, R227, R220: the first deferred SYS whose queues are done is sent; FENCE holds the sequencer for the
instructions of its queues that have not completed, and ends when none is left; a store held for a descriptor entry is
done once no issued instruction has yet to fetch the entry. -/
def Obligations.FencesAndDeferred : Prop :=
  ∀ (s : State) (c : CoreId), live s.chip = true →
    (∀ d r, nextSend (theCore s c) [] (theCore s c).defer = some (d, r) → exec (.sysAfterSend c) s =
      .next (after s (sysSend (setCore s.chip c.val { theCore s c with defer := r }) c.val d fun x => remoteSend x c.val))) ∧
    (∀ w, Issuing s c .fence w → exec (.fence c) s = .next (cored s c { advance (theCore s c) with
      fence := some ⟨pendingSeqs (theCore s c) (wb w 51 47), wb w 51 47, wb w 46 46 == 1⟩ })) ∧
    (∀ f, (theCore s c).fence = some f → seqsDone (theCore s c) f.seqs = true → coreAlive s.chip c.val = true →
      exec (.fenceResume c) s = .next (after s (setCore s.chip c.val { theCore s c with
        fence := none, stale := if f.mask.testBit 3 then [] else (theCore s c).stale }))) ∧
    (∀ h, (theCore s c).held = some h → entryNamed s.chip c.val (h.off / 64) = false →
      exec (.descStoreRelease c) s = .next (after s (updCore
        (wrMem s.chip (descBase c.val + h.off) h.bytes false) c.val fun k => { k with held := none })))

/-- What an instruction handed to its queue takes with it at issue (R221, R228, R229). -/
def Sys2Proof.Claims.issuedInstr (s : State) (c : CoreId) (q : Queue) (w : Dword) : QInstr :=
  let slot (hi lo : Nat) : Option Nat := ((theCore s c).d.find? fun p => p.1 == wb w hi lo).map fun p => p.2.toNat
  { seq := (theCore s c).seq, q := q, pc := (theCore s c).pc, word := w, eA := slot 48 43, eB := slot 42 37, eC := slot 36 31,
    eP := slot 30 25, x := rdReg (theCore s c) (wb w 24 20), phase := .queued, fA := 0, fB := 0, fC := 0, fP := 0, f1 := 0,
    f2 := 0, conf := 0, aux := [], auxPoi := false, sres := 0, pres := false }

/-- R210, R221, R229, R245: the sequencer hands a queue instruction to its queue with the entries its slots name and
its dynamic operand as they stand at issue; a full queue holds it; the queue starts its oldest instruction with the
entries it fetches when no check fails (one of the vector queue waits for earlier operations on its tiles), and a
check that fails takes the instruction out with its fault. R267: the bytes read at the start come through their home
slices, and wait like every access. -/
def Obligations.QueueIssueAndStart : Prop :=
  ∀ (s t : State) (c : CoreId) (w : Dword) (op : Op) (q : Queue) (b : Bursts), queueOf op = some q →
    (Issuing s c op w → (∀ b code, queueBlk q = some (b, code) → enabled s.chip b c.val = true) →
      (((theCore s c).q.filter fun i => i.q == q && i.phase != .done).length < queueDepth q →
        exec (.queueStart c .issue) s = .next (after s (setCore (issued s c) c.val { advance (theCore s c) with
          q := (theCore s c).q ++ [issuedInstr s c q w], seq := (theCore s c).seq + 1 }))) ∧
      (queueDepth q ≤ ((theCore s c).q.filter fun i => i.q == q && i.phase != .done).length →
        exec (.queueStart c .issue) s = .next (after s (countCore s.chip c.val (60 + queueBit q) 1)))) ∧
    (∀ b code, Issuing s c op w → queueBlk q = some (b, code) → enabled s.chip b c.val = false →
      exec (.queueStart c .issue) s = .next (after s (faultWord s.chip c.val code w))) ∧
    waitsOrLoses s (.queueStart c (.start q b)) (.core (c.val / 128)) b (fun ch => startQueue ch c.val q) ∧
    (∀ i f x, GoesOn s (.core (c.val / 128)) b (fun ch => startQueue ch c.val q) t →
      islandRuns t.chip (c.val / 128) = true → (towerOf t.chip (c.val / 128)).fenced = false →
      queueRuns t.chip c.val q = true → ((theCore t c).q.any fun j => j.q == q && j.phase == .started) = false →
      ((theCore t c).q.find? fun j => j.q == q && j.phase == .queued) = some i → decodeWord i.word = some op →
      f = fetched t.chip c.val i → x = exec (.queueStart c (.start q b)) s →
      (fetchPoisoned t.chip c.val i = true → x = .next (after t (queueFault t.chip c.val 9 i))) ∧
      (fetchPoisoned t.chip c.val i = false → slotMissing f op = true →
        x = .next (after t (queueFault t.chip c.val 2 i))) ∧
      (fetchPoisoned t.chip c.val i = false → slotMissing f op = false →
        ((positionWaits t.chip c.val op f = true ∨ tilesOff t.chip c.val op f = true) → x = .next t) ∧
        (positionWaits t.chip c.val op f = false → tilesOff t.chip c.val op f = false →
          (q = .vector → tileClash t.chip c.val true i.seq [.engine, .array] (shapeTiles (tShape op f)) = true →
            x = .next (after t (raise t.chip .vecTileWait c.val))) ∧
          ((q = .vector → tileClash t.chip c.val true i.seq [.engine, .array] (shapeTiles (tShape op f)) = false) →
            (opCheck t.chip c.val op f = none →
              x = .next (after t (updInstr (startFetch t.chip c.val op f) c.val i.seq fun _ => startedWith t.chip op f))) ∧
            (∀ code, opCheck t.chip c.val op f = some code → code ≠ 0x102 →
              x = .next (after t (queueFault t.chip c.val code i))) ∧
            (opCheck t.chip c.val op f = some 0x102 →
              x = .next (after t (queueFault (raise t.chip .engAccTileRange c.val) c.val 2 i)))))))

/-- R231 to R233, R436: a queue instruction that has run completes: the words of its failed parts are poisoned and the
job is told, its result goes to its register, its counter and token count in issue order, and it leaves its queue; a
core with a fault is FAULTED once its queues are done. A completion without failed parts changes no memory, object or
tile. R232, R233: counting tokens never adds an instruction to a core's queues, leaves the registers s, a and p, only
ever removes instructions that are done, and counts no token after an earlier instruction of it that will not
complete. -/
def Obligations.InstructionCompletes : Prop :=
  (∀ (s t : State) (c : CoreId) (q : Queue) (i : QInstr) (op : Op) (failed : Dword),
    waitsOrLoses s (.instructionComplete c q failed) (.core (c.val / 128)) [] (instructionComplete c.val q failed) ∧
    (GoesOn s (.core (c.val / 128)) [] (instructionComplete c.val q failed) t →
    islandRuns t.chip (c.val / 128) = true →
    ((theCore t c).q.find? fun j => j.q == q && j.phase == .ran && !unfinished t.chip c.val j) = some i →
    decodeWord i.word = some op →
    ∀ x ch k, x = countCore (failParts (bankConflict t.chip c.val i) c.val op i failed) c.val (65 + queueBit q) 1 →
      ch = (if op = .mma then countCore x c.val 35 1
        else if q = .vector ∧ op ≠ .softmaxBwd ∧ op ≠ .normBwd ∧ op ≠ .drn then countCore x c.val 73 1 else x) →
      k = (if op = .ard ∨ op = .art then wrReg (coreOf ch c.val) (wb i.word 19 15) (BitVec.ofNat 64 i.conf)
        else if op = .wcheck then
          wrReg (wrReg (coreOf ch c.val) (wb i.word 19 15) i.sres) (0x30 + wb i.word 14 12) (if i.pres then 1 else 0)
        else if op = .wstep ∨ op = .wprobe ∨ op = .scalegen then
          wrReg (coreOf ch c.val) (0x30 + wb i.word 14 12) (if i.pres then 1 else 0)
        else coreOf ch c.val) →
      exec (.instructionComplete c q failed) s = .next (after t (enterFaulted (setCore ch c.val
        (countTokens (k.q.length + 1) { k with q := k.q.map fun j => if j.seq = i.seq then { j with phase := .done } else j }))
        c.val)) ∧
      (failed = 0 → coreOf ch c.val = theCore t c ∧ ch.mem = t.chip.mem ∧ ch.poi = t.chip.poi ∧ ch.objs = t.chip.objs ∧
        ch.accs = t.chip.accs))) ∧
  (∀ (n : Nat) (k : Core), (countTokens n k).s = k.s ∧ (countTokens n k).a = k.a ∧ (countTokens n k).p = k.p ∧
    (∀ i ∈ (countTokens n k).q, i ∈ k.q) ∧
    (∀ i ∈ k.q, i.phase ≠ .done → i ∈ (countTokens n k).q ∨ ∃ j ∈ k.q, j.seq = i.seq ∧ j.phase = .done) ∧
    (∀ m, 0 < m → (∀ i ∈ k.q, tokenOf i = m → ∃ p ∈ k.lost, p.1 < i.seq ∧ p.2 = m) →
      tget (countTokens n k).tc 0 m = tget k.tc 0 m))

/-! ### Work of the queues (02, 03, 05, 06, 08, 09, 11) -/

/-- R107, R132, R145: a started MMA runs: its groups enter its tiles in ascending K order. R82, R254: a started ARD or
ART puts its reads in flight, with confidence 0 until they resolve; R19: it waits while its position waits for a
spare, and faults where the position has no array left. An APG LOAD loads its position from the scales read at its
start, or works them out, once the programmer is idle, no read waits and the transfer queue is not full; an APG
TRANSFER fetches the image records of its tile and scans it until the transfer queue is full (R54). R79 to R83, R55:
the oldest read in flight of an array resolves once enough slots were observed: a forward read adds its column results
to its tiles, a transposed one its row results, or it becomes DOUBTFUL and waits for Banister. With too few slots,
behind a DOUBTFUL read or an unsplit batch it waits on. It works on the state `t`, whose chip with the parity failures
its delivery meets is `u` (R145). -/
def Obligations.MatrixAndArrayWork : Prop :=
  (∀ (s t : State) (r : CoreRun) (c : CoreId) (i : QInstr) (obs : List CellObs), c = r.core →
    (∀ f, f = (fun ch i => (mmaEffect ch c.val i, i)) → Works s r .engine .mma f i t →
      exec (.mma r) s = .next (worked t r f i)) ∧
    (∀ (op : Op) (x : Instr), (op, x) ∈ [(Op.ard, Instr.ard r), (.art, .art r)] →
      Started s c .array op i →
      (posWaits s.chip c.val (arLogical i) = true → exec x s = .next s) ∧
      (posWaits s.chip c.val (arLogical i) = false → readsNothing op i = false → posLoaded s.chip c.val (arLogical i) = false →
        exec x s = .next (after s (queueFault s.chip c.val 6 i))) ∧
      (posWaits s.chip c.val (arLogical i) = false → (readsNothing op i = true ∨ posLoaded s.chip c.val (arLogical i) = true) →
        ∀ f, f = (fun ch i => (readEffect ch c.val op i, { i with conf := 0 })) → Works s r .array op f i t →
        exec x s = .next (worked t r f i))) ∧
    (Started s c .programmer .apgLoad i →
      (loadReady s.chip c.val (apgLogical i) = false → exec (.apgLoad r obs) s = .next s) ∧
      (loadReady s.chip c.val (apgLogical i) = true →
        (serves s.chip c.val (apgLogical i) = false →
          exec (.apgLoad r obs) s = .next (after s (queueFault s.chip c.val 6 i))) ∧
        (serves s.chip c.val (apgLogical i) = true → 16384 ≤ transfers (bankOf s.chip c.val) →
          exec (.apgLoad r obs) s = .next (after s (raise s.chip .prgQueueFull c.val))) ∧
        (serves s.chip c.val (apgLogical i) = true → transfers (bankOf s.chip c.val) < 16384 →
          ∀ f, f = (fun ch i => (loadPosition ch c.val (apgLogical i) (apgMaster i).base.toNat
            (apgImageDa i.fP) (if apgAuto i.fP then autoScales ch (apgMaster i).base.toNat else i.aux) i.auxPoi obs, i)) →
          Works s r .programmer .apgLoad f i t → exec (.apgLoad r obs) s = .next (worked t r f i)))) ∧
    waitsOrLoses s (.apgTransfer r) (.core (c.val / 128)) r.bursts (apgTransferWork r) ∧
    (GoesOn s (.core (c.val / 128)) r.bursts (apgTransferWork r) t →
      (progReady t.chip c.val = false → exec (.apgTransfer r) s = .next t) ∧
      (Started t c .programmer .apgTransfer i → progReady t.chip c.val = true →
        (posWaits t.chip c.val (apgLogical i) = true → exec (.apgTransfer r) s = .next t) ∧
        (posWaits t.chip c.val (apgLogical i) = false → 0 ∉ (apgMaster i).ext →
          posLoaded t.chip c.val (apgLogical i) = false →
          exec (.apgTransfer r) s = .next (after t (queueFault t.chip c.val 6 i))) ∧
        (posWaits t.chip c.val (apgLogical i) = false →
          (0 ∈ (apgMaster i).ext ∨ posLoaded t.chip c.val (apgLogical i) = true) → ∀ x y, x = (if i.conf = 0 then
              (List.range ((apgMaster i).ext.getD 1 0)).foldl (fun y n => landRange y (coreJob y c.val) .normal
                (imgAddr (arrOf t.chip c.val (physOf t.chip c.val (apgLogical i))) (apgRow0 i.fP + n) (apgCol0 i.fP))
                (4 * (apgMaster i).ext.getD 0 0) false) t.chip
            else t.chip) →
          y = scanFrom c.val i x i.conf (prodN (apgMaster i).ext - i.conf) →
          exec (.apgTransfer r) s = .next (after t (updInstr y.1 c.val i.seq fun j =>
            if y.2 < prodN (apgMaster i).ext then { j with conf := y.2 } else { j with conf := 0, phase := .ran })))))) ∧
  (∀ (s t : State) (c : CoreId) (sel : ReadSel) (obs : List ReadObs) (rd : Rd) (x : Arr) (u ch : Chip) (i : Instr)
    (done : Chip → State), i = .readResolve c sel obs →
    waitsOrLoses s i (.core (c.val / 128)) sel.bursts (readFailing c.val sel (readResolve c.val sel obs)) ∧
    (GoesOn s (.core (c.val / 128)) sel.bursts (readFailing c.val sel (readResolve c.val sel obs)) t →
    u = readFails c.val sel t.chip → done = (fun y => after t (tilesGood y c.val sel.parity)) →
    islandRuns u (c.val / 128) = true → islandRuns u (8 + c.val / 128) = true → blkGet u .eng c.val ≠ .disabled →
    ((bankOf u c.val).reads.find? fun r => r.phys == sel.phys.val) = some rd → x = arrOf u c.val rd.phys →
    ch = raiseIf (splits (after t u) c rd false) u .prgSplitBatch c.val →
    ((rd.doubt.isSome = true ∨ splits (after t u) c rd true = true) → exec i s = .next (done u)) ∧
    (rd.doubt = none → splits (after t u) c rd true = false → rd.trans = false → ∀ r, r = resolve rd.mode 256
        (regFld ch .arcCheckCfg c.val 7 0) (2 ^ regFld ch .arcCfg c.val 2 0) false (forwardExp x rd)
        (obs.map (forwardSlot x rd)) →
      (r = none → exec i s = .next (done ch)) ∧
      (∀ a y, r = some a →
        y = raiseIf (((obs.map (forwardSlot x rd)).take a.n).any SlotRes.sat) (recordConf ch c.val rd a) .arcColSat c.val →
        (a.conf < 16 → exec i s = .next (done (deliver y c.val rd a.y false))) ∧
        (16 ≤ a.conf → exec i s = .next (done (updBank y c.val fun k =>
          { k with reads := k.reads.map fun r => if r = rd then { r with doubt := some (a.y, []) } else r }))))) ∧
    (rd.doubt = none → splits (after t u) c rd true = false → rd.trans = true → ∀ ra rb p q,
      ra = (obs.map fun o => transSlot x rd true o.first o.spill) →
      rb = (obs.map fun o => transSlot x rd false o.minor o.minorSpill) →
      p = resolve 0 1024 (regFld ch .arcCheckCfg c.val 23 8) (2 ^ regFld ch .arcCfg c.val 2 0) true
        (transExp x rd true) ra →
      q = resolve 0 1024 (regFld ch .arcCheckCfg c.val 23 8) (2 ^ regFld ch .arcCfg c.val 2 0) true
        (transExp x rd false) rb →
      ((p = none ∨ q = none) → exec i s = .next (done ch)) ∧
      (∀ a b y, p = some a → q = some b →
        y = raiseIf ((ra.take a.n).any SlotRes.sat || (rb.take b.n).any SlotRes.sat)
          (recordConf (recordConf ch c.val rd a) c.val rd b) .arcTSat c.val →
        (a.conf < 16 → b.conf < 16 → exec i s = .next (done (deliver y c.val rd (mergeTrans rd a.y b.y) false))) ∧
        ((16 ≤ a.conf ∨ 16 ≤ b.conf) → exec i s = .next (done (updBank y c.val fun k =>
          { k with reads := k.reads.map fun r => if r = rd then { r with doubt := some (a.y, b.y) } else r })))))))

/-- R130, R145, R170, R255 to R259: a started instruction of the vector queue runs: preloads, MUPD, the elementwise
operations, conversions, special functions, scaling, column sums, the two VRED2 reductions and the drain; the failures
that its reads meet are those of `withFailures`. -/
def Obligations.VectorWork : Prop :=
  ∀ (s t : State) (r : CoreRun) (i : QInstr) (op : Op) (x : Instr) (f : Chip → QInstr → Chip × QInstr),
    ((op, x) ∈ [(Op.vopAdd, Instr.vopAdd r), (.vopSub, .vopSub r), (.vopMul, .vopMul r), (.vopFma, .vopFma r),
        (.vopMax, .vopMax r), (.vopMin, .vopMin r), (.cvt, .cvt r), (.sfu, .sfu r), (.scale, .scale r),
        (.colsum, .colsum r)] ∧ f = (fun ch i => (vopEffect ch r.core.val op i, i)) ∨
      (op, x) ∈ [(Op.preloadBias, Instr.preloadBias r), (.preloadResid, .preloadResid r)] ∧
        f = (fun ch i => (preloadEffect ch r.core.val op i, i)) ∨
      (op, x) ∈ [(Op.softmaxBwd, Instr.softmaxBwd r), (.normBwd, .normBwd r)] ∧
        f = (fun ch i => (vredEffect ch r.core.val op i, i)) ∨
      op = .mupd ∧ x = .mupd r ∧ f = (fun ch i => (mupdEffect ch r.core.val i, i)) ∨
      op = .drn ∧ x = .drn r ∧ f = (fun ch i => (drnEffect ch r.core.val i, i))) →
    waitsOrLoses s x (.core (r.core.val / 128)) r.bursts (coreStep r .vector op f) ∧
    (Works s r .vector op f i t → exec x s = .next (worked t r f i))

/-- R175, R177 to R187: the watcher operations of the vector queue run; WFLUSH flushes the core's cache while WCH is
ENABLED and reads `armed`; in STOPPING it waits for the dirty entries; WSTEP, WCHECK, WPROBE and SCALEGEN give their
results to the instruction. -/
def Obligations.WatcherWork : Prop :=
  ∀ (s t : State) (r : CoreRun) (i : QInstr) (op : Op) (x : Instr) (f : Chip → QInstr → Chip × QInstr),
    (op = .wflush ∧ x = .wflush r ∧
        f = (fun ch i => (readArmed (if enabled ch .wch r.core.val then flushCache ch r.core.val else ch) r.core.val, i)) ∨
      op = .wstep ∧ x = .wstep r ∧ f = (fun ch i => wstepEffect ch r.core.val i) ∨
      op = .wcheck ∧ x = .wcheck r ∧ f = (fun ch i => wcheckEffect ch r.core.val i) ∨
      op = .wprobe ∧ x = .wprobe r ∧ f = (fun ch i => wprobeEffect ch r.core.val i) ∨
      op = .scalegen ∧ x = .scalegen r ∧ f = (fun ch i => scalegenEffect ch r.core.val i)) →
    (live s.chip = true → op = .wflush → blkGet s.chip .wch r.core.val = .stopping →
      (accOf s.chip r.core.val).cache.any entDirty = true → exec x s = .next s) ∧
    ((op = .wflush → blkGet s.chip .wch r.core.val ≠ .stopping ∨ (accOf s.chip r.core.val).cache.any entDirty = false) →
      waitsOrLoses s x (.core (r.core.val / 128)) r.bursts (coreStep r .vector op f) ∧
      (Works s r .vector op f i t → exec x s = .next (worked t r f i)))

/-- R122, R123, R260, R261: a started DMA that no unfetched descriptor entry holds moves its elements; one that is held
sets `desc_hold` and waits; one whose memory a stop, a repair or an empty bucket holds waits. -/
def Obligations.DmaWork : Prop :=
  ∀ (s t : State) (r : CoreRun) (c : CoreId) (h : HostIn) (i : QInstr) (op : Op) (x : Instr)
    (f : Chip → QInstr → Chip × QInstr), r = ⟨c, [], [], h.bursts⟩ →
    (op = .dmaCopy ∧ x = .dmaCopy c h ∨ op = .dmaTranspose ∧ x = .dmaTranspose c h ∨
      op = .dmaConvert ∧ x = .dmaConvert c h ∨ op = .dmaTransposeConvert ∧ x = .dmaTransposeConvert c h) →
    f = (fun ch i => (dmaEffect ch c.val op i h, i)) → Started s c .dma op i →
    (dmaHeld s.chip c.val i = true → exec x s = .next (after s (raise s.chip .dmaDescHold c.val))) ∧
    (dmaHeld s.chip c.val i = false →
      waitsOrLoses s x (.core (c.val / 128)) h.bursts (coreStep r .dma op f) ∧
      (Works s r .dma op f i t → exec x s = .next (worked t r f i)))

/-- R210, R229: what the queues' work has in common: each of the 29 operations, once its queue has started it and nothing
holds it (R19, R54 and R57 for the arrays, R261 for the DMA, R188 for WFLUSH; R277, R281 and R285 for memory), runs: the
machine goes on to a state in which the instruction has run. Work on memory that waits changes no memory, no register of a
core, no tile, array, object or line (R285). -/
def Obligations.StartedWorkRuns : Prop :=
  (∀ (ch : Chip) (via : Via) (ts : List Touch), ∀ y, y = memWaits ch via ts → y.mem = ch.mem ∧ y.poi = ch.poi ∧
    y.cores = ch.cores ∧ y.accs = ch.accs ∧ y.banks = ch.banks ∧ y.arrs = ch.arrs ∧ y.objs = ch.objs ∧ y.land = ch.land) ∧
  ∀ (s t : State) (r : CoreRun) (h : HostIn) (obs : List CellObs) (q : Queue) (op : Op) (i : QInstr)
    (x : Instr) (f : Chip → QInstr → Chip × QInstr), r.bursts = h.bursts → (q = .dma → r = ⟨r.core, [], [], h.bursts⟩) →
    (q, op, x, f) ∈ ([(.engine, .mma, .mma r, fun ch i => (mmaEffect ch r.core.val i, i)),
      (.array, .ard, .ard r, fun ch i => (readEffect ch r.core.val .ard i, { i with conf := 0 })),
      (.array, .art, .art r, fun ch i => (readEffect ch r.core.val .art i, { i with conf := 0 })),
      (.programmer, .apgLoad, .apgLoad r obs, fun ch i => (loadPosition ch r.core.val (apgLogical i)
        (apgMaster i).base.toNat (apgImageDa i.fP) (if apgAuto i.fP then autoScales ch (apgMaster i).base.toNat else i.aux)
        i.auxPoi obs, i)),
      (.vector, .preloadBias, .preloadBias r, fun ch i => (preloadEffect ch r.core.val .preloadBias i, i)),
      (.vector, .preloadResid, .preloadResid r, fun ch i => (preloadEffect ch r.core.val .preloadResid i, i)),
      (.vector, .mupd, .mupd r, fun ch i => (mupdEffect ch r.core.val i, i)),
      (.vector, .wflush, .wflush r, fun ch i =>
        (readArmed (if enabled ch .wch r.core.val then flushCache ch r.core.val else ch) r.core.val, i)),
      (.vector, .wstep, .wstep r, fun ch i => wstepEffect ch r.core.val i),
      (.vector, .wcheck, .wcheck r, fun ch i => wcheckEffect ch r.core.val i),
      (.vector, .wprobe, .wprobe r, fun ch i => wprobeEffect ch r.core.val i),
      (.vector, .scalegen, .scalegen r, fun ch i => scalegenEffect ch r.core.val i),
      (.vector, .vopAdd, .vopAdd r, fun ch i => (vopEffect ch r.core.val .vopAdd i, i)),
      (.vector, .vopSub, .vopSub r, fun ch i => (vopEffect ch r.core.val .vopSub i, i)),
      (.vector, .vopMul, .vopMul r, fun ch i => (vopEffect ch r.core.val .vopMul i, i)),
      (.vector, .vopFma, .vopFma r, fun ch i => (vopEffect ch r.core.val .vopFma i, i)),
      (.vector, .vopMax, .vopMax r, fun ch i => (vopEffect ch r.core.val .vopMax i, i)),
      (.vector, .vopMin, .vopMin r, fun ch i => (vopEffect ch r.core.val .vopMin i, i)),
      (.vector, .cvt, .cvt r, fun ch i => (vopEffect ch r.core.val .cvt i, i)),
      (.vector, .sfu, .sfu r, fun ch i => (vopEffect ch r.core.val .sfu i, i)),
      (.vector, .scale, .scale r, fun ch i => (vopEffect ch r.core.val .scale i, i)),
      (.vector, .colsum, .colsum r, fun ch i => (vopEffect ch r.core.val .colsum i, i)),
      (.vector, .softmaxBwd, .softmaxBwd r, fun ch i => (vredEffect ch r.core.val .softmaxBwd i, i)),
      (.vector, .normBwd, .normBwd r, fun ch i => (vredEffect ch r.core.val .normBwd i, i)),
      (.vector, .drn, .drn r, fun ch i => (drnEffect ch r.core.val i, i)),
      (.dma, .dmaCopy, .dmaCopy r.core h, fun ch i => (dmaEffect ch r.core.val .dmaCopy i h, i)),
      (.dma, .dmaTranspose, .dmaTranspose r.core h, fun ch i => (dmaEffect ch r.core.val .dmaTranspose i h, i)),
      (.dma, .dmaConvert, .dmaConvert r.core h, fun ch i => (dmaEffect ch r.core.val .dmaConvert i h, i)),
      (.dma, .dmaTransposeConvert, .dmaTransposeConvert r.core h, fun ch i =>
        (dmaEffect ch r.core.val .dmaTransposeConvert i h, i))] :
      List (Queue × Op × Instr × (Chip → QInstr → Chip × QInstr))) →
    Started s r.core q op i → Works s r q op f i t →
    (q = .array → posWaits s.chip r.core.val (arLogical i) = false ∧ posLoaded s.chip r.core.val (arLogical i) = true) →
    (op = .apgLoad → loadReady s.chip r.core.val (apgLogical i) = true ∧ serves s.chip r.core.val (apgLogical i) = true ∧
      transfers (bankOf s.chip r.core.val) < 16384) →
    (op = .wflush → blkGet s.chip .wch r.core.val ≠ .stopping) →
    (q = .dma → dmaHeld s.chip r.core.val i = false) →
    ∃ ch j, exec x s = .next (ran t r.core ch j i.seq) ∧
      ∀ k, k = coreOf (updInstr ch r.core.val i.seq fun y =>
          { y with phase := .ran, conf := j.conf, sres := j.sres, pres := j.pres }) r.core.val →
        ∀ y ∈ k.q, y.seq = i.seq → y.phase = .ran

/-- R121, R438 to R440: Banister takes the lanes and decides a DOUBTFUL read: within tolerance the analogue result
stands, the array is suspected and gets a check strike; otherwise the recomputed result is delivered with an array
strike; with no master it delivers the analogue result poisoned, tells the job and records no strike. R131, R135, R140
to R145, R425: a contribution enters its tile while the engine block is not DISABLED; at a clean element it is added
exactly and rounded once to F32, where it does not overflow; an overflow of an ACT tile is kept and reported; one of a
GRAD tile is replayed until it fits, or poisons the tile; a poisoned contribution poisons the tile; a poisoned tile
discards what is not. A read that fails parity poisons the tile and fences the core first (R430). A scrub that finds a
fault in a tile that holds data poisons the tile and fences the core; one that finds a fault in a word of the core's
memories marks the word and fences the core; one that finds none changes nothing. -/
def Obligations.RefereeTilesAndScrubs : Prop :=
  (∀ (s t : State) (c : CoreId) (sel : ReadSel) (rd : Rd) (d : List Int × List Int) (u : Chip) (done : Chip → State),
    waitsOrLoses s (.banisterReferee c sel) (.core (c.val / 128)) sel.bursts
      (readFailing c.val sel (banisterReferee c.val sel)) ∧
    (GoesOn s (.core (c.val / 128)) sel.bursts (readFailing c.val sel (banisterReferee c.val sel)) t →
    u = readFails c.val sel t.chip → done = (fun y => after t (tilesGood y c.val sel.parity)) →
    islandRuns u (c.val / 128) = true → blkGet u .eng c.val ≠ .disabled →
    ((bankOf u c.val).reads.find? fun r => r.phys == sel.phys.val) = some rd → rd.doubt = some d →
    ∀ x own ref ch fits, x = arrOf u c.val rd.phys → own = (if rd.trans then mergeTrans rd d.1 d.2 else d.1) →
      ref = referee u x rd → ch = lanePreempt (refereeFetch u c.val x rd) c.val →
      fits = ((List.range own.length).all fun k =>
        agrees rd (regFld u .tslRefCfg 0 15 0) (own.getD k 0) (ref.getD k 0)) →
    ((masterMapped u x = false ∨ refereePoisoned u x rd = true) →
      ∀ p, p = countCore (raise (deliver u c.val rd own true) .tslRefereePoison 0) c.val 86 1 →
      (coreJob p c.val = none → exec (.banisterReferee c sel) s = .next (done p)) ∧
      (∀ j, coreJob p c.val = some j →
        exec (.banisterReferee c sel) s = .next (done (notify p j.val 13 0 c.val 0 rd.logical 0)))) ∧
    (masterMapped u x = true → refereePoisoned u x rd = false → fits = false →
      exec (.banisterReferee c sel) s = .next (done (strike (countCore
        (regSat (raise (deliver ch c.val rd (ref.map (refClass rd)) false) .tslRefereeArray 0) .tslCRef c.val 15 0 1)
        c.val 85 1) c.val rd.phys false))) ∧
    (masterMapped u x = true → refereePoisoned u x rd = false → fits = true →
      exec (.banisterReferee c sel) s = .next (done (strike (queueCal (updStat (countCore
        (regSat (raise (deliver ch c.val rd own false) .tslRefereeCheck 0) .tslCRef c.val 31 16 1) c.val 84 1)
        c.val rd.phys fun y => { y with suspect := true }) c.val rd.phys) c.val rd.phys true))))) ∧
  (∀ (s : State) (c : CoreId) (t : Fin 256) (i j : Fin 16) (v : Contrib), live s.chip = true →
    (islandRuns s.chip (c.val / 128) = true → blkGet s.chip .eng c.val ≠ .disabled →
      ∀ (grad parity : Bool) (tid : Fin 4096) (ch : Chip) (y : Tile) (x : Chip) (k : Instr) (q : Nat),
      k = .tileContribution c t i j grad ⟨tid, v, parity⟩ → q = (tileOf s.chip c.val t.val).lastq →
      ch = tileRead (if parity then parityFind s.chip c.val t.val else s.chip) c.val t.val →
      y = { latchTile (tileOf ch c.val t.val) grad with lastq := q } →
      x = raiseIf ((tileOf ch c.val t.val).st == 2 && (tileOf ch c.val t.val).grad != grad) ch .engAccClassMix c.val →
      ((tileOf ch c.val t.val).poison = true → (contribVal v ≠ none ∨ (tileOf ch c.val t.val).st = 2) →
        exec k s = .next (after s (updTile ch c.val t.val fun z => { z with lastq := q }))) ∧
      ((tileOf ch c.val t.val).poison = true → contribVal v = none → (tileOf ch c.val t.val).st ≠ 2 →
        exec k s = .next (after s (updTile ch c.val t.val fun _ => y))) ∧
      ((tileOf ch c.val t.val).poison = false → contribVal v = none →
        exec k s = .next (after s (updTile x c.val t.val fun _ => { y with poison := true }))) ∧
      (∀ (w : Val) (r : Machine.Conv) (z : Tile), (tileOf ch c.val t.val).poison = false → contribVal v = some w →
        addConv y (i.val * 16 + j.val) false w = r →
        z = { y with els := tput y.els (i.val * 16 + j.val) (BitVec.ofNat 32 r.code) } →
        (r.saturated = false → exec k s = .next (after s (updTile x c.val t.val fun _ => z))) ∧
        (r.saturated = true → y.grad = false →
          exec k s = .next (after s (raise (updTile x c.val t.val fun _ => z) .engAccActOverflow c.val))) ∧
        (r.saturated = true → y.grad = true → ∀ p n, p = replay 4 y (i.val * 16 + j.val) false w 0 →
          n = updTile x c.val t.val (fun _ => p.tile) →
          (p.how = .fits → exec k s = .next (after s (raise n .engAccGradReplay c.val))) ∧
          (p.how = .parity → exec k s = .next (after s (parityFind n c.val t.val))) ∧
          (p.how = .exhausted → ∀ m, m = raise n .engAccGradPoison c.val →
            (coreJob m c.val = none → exec k s = .next (after s m)) ∧
            (∀ b, coreJob m c.val = some b →
              exec k s = .next (after s (notify m b.val 3 0 c.val tid.val t.val 0))))))) ∧
    (∀ bad : Bool, (bad = true → (tileOf s.chip c.val t.val).st ≠ 0 →
        exec (.tileScrub c t i j bad) s = .next (after s (fenceCore
          (raise (raise (updTile s.chip c.val t.val fun x => { x with poison := true }) .engAccScrubFound c.val)
            .engAccParityPoison c.val) c.val 2))) ∧
      ((bad = false ∨ (tileOf s.chip c.val t.val).st = 0) → exec (.tileScrub c t i j bad) s = .next s)) ∧
    (∀ m w, (∀ a, scrubAddr c.val m w = some a →
        exec (.memoryScrub c m w true) s = .next (after s (fenceCore (markPoi s.chip a 4) c.val 2)) ∧
        exec (.memoryScrub c m w false) s = .next s) ∧
      (∀ bad, scrubAddr c.val m w = none → exec (.memoryScrub c m w bad) s = .next s)))

/-- R46 to R56: a batch, or a burst of at most four rounds, runs when no read waits for its array, or goes on between
reads where it is atomic. R51, R19: a spare that is calibrated takes its position once the old array has no reads and no
batch; a weight without a clean source ends the move, and leaves a fenced array's position unloaded. R61, R62: a refresh
is due after its hours, starts when the programmer is idle and goes on batch by batch. R45: the wear log keeps what
firmware writes. -/
def Obligations.ProgrammerWork : Prop :=
  ∀ (s t : State) (r : CoreRun) (c : CoreId) (rounds : List (List Nat)) (obs : List CellObs), c = r.core →
    live s.chip = true →
    (∀ (n : Nat) (i : Instr), (n = 9 ∧ i = .programBatch r rounds ∨ n = 4 ∧ i = .programBurst r rounds) →
      waitsOrLoses s i (.core (c.val / 128)) r.bursts (fun ch => runBatch ch c.val n rounds) ∧
      (GoesOn s (.core (c.val / 128)) r.bursts (fun ch => runBatch ch c.val n rounds) t →
        (currentBatch t.chip c.val = none → exec i s = .next t) ∧
        (∀ (ch0 : Chip) (b : Batch), currentBatch t.chip c.val = some (ch0, b) →
          (noReads t.chip c.val b.phys = false → (b.atomic = false ∨ b.rnd = 0) → exec i s = .next t) ∧
          ((noReads t.chip c.val b.phys = true ∨ b.atomic = true ∧ b.rnd ≠ 0) → ∀ u ch,
            u = batchRun (arrOf ch0 c.val b.phys) n b rounds →
            ch = countCore (if b.rnd = 0 then countDrift ch0 c.val (batchRound (arrOf ch0 c.val b.phys) b (rounds.headD []))
              else ch0) c.val 92 ((u.rnd + 3) / 4 - (b.rnd + 3) / 4) →
            (batchOver u = true → exec i s = .next (after t (endBatch ch c.val u))) ∧
            (batchOver u = false → exec i s = .next (after t (updBank (updArr ch c.val b.phys fun x => batchLevels x u)
              c.val fun k => { k with batch := some u }))))))) ∧
    (∀ (l : LogId) (m : Move) (ch : Chip),
      waitsOrLoses s (.spareSwitch r l obs) (.core (c.val / 128)) r.bursts (spareSwitchWork r l obs) ∧
      waitsOrLoses s (.fencedSpareLoad r l obs) (.core (c.val / 128)) r.bursts (fencedSpareLoadWork r l obs) ∧
      (GoesOn s (.core (c.val / 128)) r.bursts (spareSwitchWork r l obs) t → ch = moveEntry t.chip c.val m →
        ((bankOf t.chip c.val).moves.find? fun m => m.logical == l.val && !m.fenced) = some m →
        (moveReady t.chip c.val m = false → exec (.spareSwitch r l obs) s = .next t) ∧
        (moveReady t.chip c.val m = true → (arrOf t.chip c.val m.old).loaded = false →
          exec (.spareSwitch r l obs) s = .next (after t (finishMove ch c.val m))) ∧
        (moveReady t.chip c.val m = true → (arrOf t.chip c.val m.old).loaded = true →
          loadable ch (arrOf ch c.val m.new) true = true →
          exec (.spareSwitch r l obs) s = .next (after t (finishMove (loadArray ch c.val m.new true obs) c.val m))) ∧
        (moveReady t.chip c.val m = true → (arrOf t.chip c.val m.old).loaded = true →
          loadable ch (arrOf ch c.val m.new) true = false →
          exec (.spareSwitch r l obs) s = .next (after t (updBank (raise (updArr t.chip c.val m.old fun x =>
            { x with degraded := true }) .prgMasterPoison c.val) c.val fun b =>
              { b with moves := b.moves.filter (· != m) })))) ∧
      (GoesOn s (.core (c.val / 128)) r.bursts (fencedSpareLoadWork r l obs) t → ch = moveEntry t.chip c.val m →
        ((bankOf t.chip c.val).moves.find? fun m => m.logical == l.val && m.fenced) = some m →
        (moveReady t.chip c.val m = false → exec (.fencedSpareLoad r l obs) s = .next t) ∧
        (moveReady t.chip c.val m = true → exec (.fencedSpareLoad r l obs) s = .next (after t (finishMove
          (if (arrOf t.chip c.val m.old).loaded then loadArray ch c.val m.new true obs else ch) c.val m))))) ∧
    (∀ a : PhysId, (0 < refreshHours s.chip c.val a.val →
        (arrOf s.chip c.val a.val).loadAt + refreshHours s.chip c.val a.val * 3600000000 ≤ s.chip.us →
        exec (.refreshTimer c a) s = .next (after s (queueRefresh s.chip c.val a.val))) ∧
      ((refreshHours s.chip c.val a.val = 0 ∨
          s.chip.us < (arrOf s.chip c.val a.val).loadAt + refreshHours s.chip c.val a.val * 3600000000) →
        exec (.refreshTimer c a) s = .next s)) ∧
    (∀ a : PhysId,
      waitsOrLoses s (.arrayRefreshRun r a rounds) (.core (c.val / 128)) r.bursts (arrayRefreshRunWork r a rounds) ∧
      (GoesOn s (.core (c.val / 128)) r.bursts (arrayRefreshRunWork r a rounds) t →
        (progReady t.chip c.val = false → exec (.arrayRefreshRun r a rounds) s = .next t) ∧
        (progReady t.chip c.val = true →
          (∀ f, (bankOf t.chip c.val).refresh = some f → f.phys = a.val → exec (.arrayRefreshRun r a rounds) s =
            .next (after t (runBatch (refreshStep t.chip c.val f) c.val 4 rounds))) ∧
          ((bankOf t.chip c.val).refresh = none → (bankOf t.chip c.val).refreshQ.contains a.val = true →
            (bankOf t.chip c.val).batch = none →
            exec (.arrayRefreshRun r a rounds) s = .next (after t (startRefresh t.chip c.val a.val)))))) ∧
    (2 ≤ s.chip.phase → s.chip.phase ≤ 4 → exec .wearLogWrite s = .next { s with nv := { s.nv with
      wear := (List.range 1024).map fun g => (g, wearOf s.chip g), wearOld := s.nv.wear, wearNewB := !s.nv.wearNewB
      softOld := s.nv.soft } })

/-- R90 to R99, R422, R473: a field whose temperature moved is queued, or its run is followed by another; in CALIBRATION
the first look begins its run (the model's choice, log 148); once the device is READY, a column group of a due array runs on staged trims, a column at an end code gives the array up, and the ninth group ends the run; a
trace, due by temperature or asked for, fires its urgent trigger and ends with its measurements, and a retry follows a
fault after 100 ms; a field that waits for more than a second is starved once. -/
def Obligations.CalibrationWork : Prop :=
  ∀ (s : State) (c : CoreId) (t : TowerId), live s.chip = true →
    (∀ (temp : Int) (ch : Chip), temp = fieldTemp s.chip c.val →
      ch = updField s.chip c.val (fun f => { f with tNow := temp }) →
      ∀ (r : TowerId) (n : Fin 128), c.val = 128 * r.val + n.val → ∀ m,
      m = (calAuto s.chip (c.val / 128) && moved temp (fieldOf s.chip c.val).tLast (dtCal s.chip (c.val / 128))) →
      (islandRuns s.chip 21 = false → exec (.fieldDue r n) s = .next s) ∧
      (islandRuns s.chip 21 = true → s.chip.phase = 2 → (fieldOf s.chip c.val).running = false →
        exec (.fieldDue r n) s = .next (after s (updField ch c.val fun f => { f with running := true, tLast := temp }))) ∧
      (islandRuns s.chip 21 = true → (s.chip.phase ≠ 2 ∨ (fieldOf s.chip c.val).running = true) →
        (m = false → exec (.fieldDue r n) s = .next (after s ch)) ∧
        (m = true → (fieldOf s.chip c.val).running = false →
          exec (.fieldDue r n) s = .next (after s (queueField ch c.val))) ∧
        (m = true → (fieldOf s.chip c.val).running = true → (fieldOf s.chip c.val).again = true →
          exec (.fieldDue r n) s = .next (after s ch)) ∧
        (m = true → (fieldOf s.chip c.val).running = true → (fieldOf s.chip c.val).again = false →
          exec (.fieldDue r n) s = .next (after s (countCore (raise (updField ch c.val fun f => { f with again := true })
            .calTempRetrigger (c.val / 128)) c.val 89 1))))) ∧
    (∀ (obs : CalObs), s.chip.phase ≠ 4 → exec (.calGroup c obs) s = .next s) ∧
    (∀ (obs : CalObs), s.chip.phase = 4 → enabled s.chip .cal (c.val / 128) = true → (towerOf s.chip (c.val / 128)).busy = false →
      islandRuns s.chip (8 + c.val / 128) = true → (towerOf s.chip (c.val / 128)).fenced = false →
      (nextCal s.chip c.val = none → exec (.calGroup c obs) s = .next s) ∧
      (∀ a r ch ch1, nextCal s.chip c.val = some a →
        r = runGroup (arrOf s.chip c.val a).staged (arrOf s.chip c.val a).cal obs →
        ch = countCore (updArr (updField s.chip c.val fun f => { f with
            cur := a, running := true, tNow := fieldTemp s.chip c.val
            tLast := if f.running then f.tLast else fieldTemp s.chip c.val }) c.val a
          fun y => { y with staged := r.1, cal := y.cal + 1 }) c.val 88 1 →
        ch1 = (if r.2.2 then raise (updStat ch c.val a fun y => { y with trimLimit := true }) .calTrimLimit (c.val / 128)
          else ch) →
        (r.2.1 = true → exec (.calGroup c obs) s = .next (after s (trimLimited ch1 c.val a))) ∧
        (r.2.1 = false → (arrOf s.chip c.val a).cal < 9 → exec (.calGroup c obs) s = .next (after s ch1)) ∧
        (r.2.1 = false → 9 ≤ (arrOf s.chip c.val a).cal →
          exec (.calGroup c obs) s = .next (after s (endRun ch1 c.val a obs))))) ∧
    (∀ obs : TraceObs,
      (islandRuns s.chip (8 + t.val) = true → ((towerOf s.chip t.val).busy = true ∨ traceDue s.chip t.val = true) →
        exec (.retrace t obs) s = .next (after s (traceEnd (snUrgent s.chip t.val 4) t.val false obs))) ∧
      ((towerOf s.chip t.val).busy = false → traceDue s.chip t.val = false → exec (.retrace t obs) s = .next s)) ∧
    (∀ obs : TraceObs,
      ((towerOf s.chip t.val).fault = true → (towerOf s.chip t.val).traced = true →
        (towerOf s.chip t.val).traceAt + 100000 ≤ s.chip.us → islandRuns s.chip (8 + t.val) = true →
        enabled s.chip .cal t.val = true →
        exec (.traceRetry t obs) s = .next (after s (traceEnd (snUrgent s.chip t.val 4) t.val false obs))) ∧
      (((towerOf s.chip t.val).fault = false ∨ s.chip.us < (towerOf s.chip t.val).traceAt + 100000) →
        exec (.traceRetry t obs) s = .next s)) ∧
    ((fieldOf s.chip c.val).due ≠ [] → (fieldOf s.chip c.val).dueAt + 1000000 < s.chip.us →
      (fieldOf s.chip c.val).starved = false →
      exec (.calStarved c) s = .next (after s (raise (updField s.chip c.val fun f => { f with starved := true })
        .calStarved (c.val / 128)))) ∧
    (((fieldOf s.chip c.val).due = [] ∨ s.chip.us ≤ (fieldOf s.chip c.val).dueAt + 1000000 ∨
        (fieldOf s.chip c.val).starved = true) → exec (.calStarved c) s = .next s)

/-- R428, R429: Teasel's window tests a core that owes one, with its work done and no other core of its cluster under test,
at a test point, or by force near the end of the period; it begins and ends in one command or in two, the core being under
test between them; a core that owes none is left alone. -/
def Obligations.TestWindows : Prop :=
  ∀ (s t : State) (r : CoreRun) (c : CoreId) (obs : TestObs) (k : WindowKind) (i : Instr) (f : Chip → Chip) (may : Bool),
    c = r.core →
    (k = .point ∧ i = .testWindow r obs ∧ f = testWindowWork r obs ∧
        may = (mayTest t.chip c.val && atTestPoint t.chip c.val) ∨
      k = .forced ∧ i = .forcedWindow r obs ∧ f = forcedWindowWork r obs ∧
        may = (mayTest t.chip c.val && !atTestPoint t.chip c.val &&
          decide (periodStart t.chip + periodUs t.chip ≤ t.chip.us + 100000))) →
    waitsOrLoses s i (.core (c.val / 128)) r.bursts f ∧
    (GoesOn s (.core (c.val / 128)) r.bursts f t →
      (ctlRuns t.chip = true → (tcoreOf t.chip c.val).under ≠ some k → may = true → clusterFree t.chip c.val = true →
        (obs = .begins → exec i s = .next (after t (beginWindow t.chip c.val k))) ∧
        (obs ≠ .begins → exec i s = .next (after t (endWindow (beginWindow t.chip c.val k) c.val obs).1))) ∧
      (ctlRuns t.chip = true → (tcoreOf t.chip c.val).under = some k →
        (obs = .begins → exec i s = .next t) ∧
        (obs ≠ .begins → exec i s = .next (after t (endWindow t.chip c.val obs).1))) ∧
      ((ctlRuns t.chip = false ∨ (tcoreOf t.chip c.val).under ≠ some k ∧ (may = false ∨ clusterFree t.chip c.val = false)) →
        exec i s = .next t))

/-! ### Memory (12) -/

/-- R263, R270 to R279, R285, R487: requests at a home slice, fills, fine grains, a burst of the patrol scrub, the
temperature, the refresh and the Gallery's replay, each where the clocks and the stack serve it. A request from a tower
waits at a DISABLED stop of its source or of its home; at its controller it waits for a repair, behind its partition's
requests or for tokens; else it is made. -/
def Obligations.MemorySide : Prop :=
  ∀ (s : State), live s.chip = true →
    (∀ (a : LAccess) (q : LReq) (i : Instr),
      (i = .landingAccess a ∧ q = ⟨a, false, none⟩ ∨ i = .fineGrain a ∧ q = ⟨a, true, none⟩) →
      (hbmServed s.chip a.addr = false → exec i s = .next s) ∧
      (hbmServed s.chip a.addr = true → ∀ stops, stops = (if a.who = .unit then
          [(stackLine s.chip a.addr).1 / 2].filter fun t => blkGet s.chip .gal t == .disabled
        else shutStops s.chip a.src.val a.addr) →
      (stops ≠ [] → a.who ≠ .firmware →
        ∀ ch, ch = stops.foldl (fun x t => raise x .galHeld t) s.chip →
        exec i s = .next (after s { ch with land := { ch.land with held := ch.land.held ++ [q] } })) ∧
      ((stops = [] ∨ a.who = .firmware) →
        ∀ k waits, k = (stackLine s.chip a.addr).1 →
        waits = (inRepair s.chip a.addr || ((whoJob a.who).isSome && (stackOf s.chip k).queue.any fun r =>
          r.payer == whoJob a.who) || !admits s.chip k q false) →
        ((lineHeld s.chip a.addr = true ∨ waits = false) → exec i s = .next (after s (homeAccess s.chip q))) ∧
        (lineHeld s.chip a.addr = false → waits = true →
          exec i s = .next (after s (updStack s.chip k fun x => { x with queue := x.queue ++ [q] })))))) ∧
    (∀ (who : Who) (a : Nat) (h : Hint) (sev : List Severity),
      (hbmServed s.chip a = true → lineHeld s.chip a = false → inRepair s.chip a = false →
        exec (.landingFill who a h sev) s = .next (after s (landTouch
          ((List.range 8).foldl (fun c i => burstRead c (a / 256 * 256 + 32 * i) (sev.getD i .clean)) s.chip)
          (whoJob who) h (a / 256 * 256) false false false))) ∧
      ((hbmServed s.chip a = false ∨ lineHeld s.chip a = true ∨ inRepair s.chip a = true) →
        exec (.landingFill who a h sev) s = .next s)) ∧
    (∀ (k : StackId) (a : Nat) (sev : Severity), hbmServed s.chip a = true → (stackLine s.chip a).1 = k.val →
      0 < regFld s.chip .hbmCfg k.val 7 0 →
      ((stackOf s.chip k.val).repair ≠ some (lineGeo (stackLine s.chip a).2).1 →
        exec (.patrolScrub k a sev false) s = .next (after s (burstRead s.chip a sev)) ∧
        exec (.patrolScrub k a sev true) s = .next (after s (raise
          (updStack (burstRead s.chip a sev) k.val fun x => { x with corrRows := [] }) .hbmScrubDone k.val))) ∧
      (∀ last, (stackOf s.chip k.val).repair = some (lineGeo (stackLine s.chip a).2).1 →
        exec (.patrolScrub k a sev last) s = .next s)) ∧
    (∀ (k : StackId) (temp : BitVec 8), islandRuns s.chip 16 = true →
      (temp.toNat ≤ 85 → exec (.hbmTempRead k temp) s = .next (after s (holdUpdate
        (updStack s.chip k.val fun x => { x with temp := temp.toNat, hot := false }) (k.val / 2)))) ∧
      (85 < temp.toNat → exec (.hbmTempRead k temp) s = .next (after s (holdUpdate
        (count (updStack s.chip k.val fun x => { x with temp := temp.toNat, hot := true })
          (cntTower (k.val / 2) (8 + 12 * (k.val % 2) + 9)) 1) (k.val / 2)))) ∧
      exec (.hbmRefresh k) s = .next (after s (count s.chip (cntTower (k.val / 2) (8 + 12 * (k.val % 2) + 8)) 1))) ∧
    (∀ t : TowerId, islandRuns s.chip 17 = true →
      exec (.galleryReplay t) s =
        .next (after s (regSat (raise s.chip .galReplay t.val) .galReplayCnt t.val 31 0 1)))

/-- A partition's wait counter after `cycles` more cycles (R284). -/
def Sys2Proof.Claims.waited (x : Stack) (j : JobId) (cycles : Nat) : Word :=
  BitVec.ofNat 32 (min 0xFFFFFFFF ((tget x.waits 0 j.val).toNat + cycles))

/-- R276, R277: the first waiting request of a partition is admitted once its bucket holds the cost, or its partition
shares and the pseudo-channel is idle, and counts its wait; while it is short it waits on, and so does one whose
pseudo-channel is under repair. The buckets fill at their rates, first against what they owe, up to their depths, with the
ticks of CK_MEM; an unlimited one keeps what it has. -/
def Obligations.TokenBuckets : Prop :=
  (∀ (s : State) (k : StackId) (t : TowerId) (h : Fin 2) (j : JobId) (idle : Bool) (cycles cost : Nat) (q : LReq)
      (w : Word) (ch : Chip),
    k.val = 2 * t.val + h.val → live s.chip = true → islandRuns s.chip 16 = true →
    w = partRate s.chip k.val j.val → cost = (if q.grain then 2 else 8) →
    ch = count (updStack s.chip k.val fun x => { x with waits := tput x.waits j.val (waited x j cycles) })
      (cntTower (k.val / 2) (8 + 12 * (k.val % 2) + 7)) cycles →
    (((stackOf s.chip k.val).queue.find? fun q => q.payer == some j) = none →
      exec (.hbmAdmit t h j idle cycles) s = .next s) ∧
    (((stackOf s.chip k.val).queue.find? fun q => q.payer == some j) = some q → inRepair s.chip q.acc.addr = true →
      exec (.hbmAdmit t h j idle cycles) s = .next s) ∧
    (((stackOf s.chip k.val).queue.find? fun q => q.payer == some j) = some q → inRepair s.chip q.acc.addr = false →
      (w.toNat % 65536 = 0xFFFF ∨ cost * 256 ≤ tget (stackOf s.chip k.val).tokens 0 j.val ∨
        w.getLsbD 31 = true ∧ idle = true) →
      exec (.hbmAdmit t h j idle cycles) s = .next (after s (homeAccess
        (updStack ch k.val fun x => { x with queue := x.queue.erase q }) q))) ∧
    (((stackOf s.chip k.val).queue.find? fun q => q.payer == some j) = some q → inRepair s.chip q.acc.addr = false →
      w.toNat % 65536 ≠ 0xFFFF → tget (stackOf s.chip k.val).tokens 0 j.val < cost * 256 →
      (w.getLsbD 31 = false ∨ idle = false) →
      exec (.hbmAdmit t h j idle cycles) s = .next (after s ch))) ∧
  (∀ (ch : Chip) (k : StackId) (j : JobId) (x : Stack), islandRuns ch 16 = true → ch.stks = [(k.val, x)] →
    (x.rates.map Prod.fst).Nodup → ∀ w n, (j.val, w) ∈ x.rates → n = 2000 * (w.toNat % 65536) →
    (w.toNat % 65536 = 0xFFFF →
      tget (stackOf (tickBuckets ch) k.val).tokens 0 j.val = tget x.tokens 0 j.val ∧
      tget (stackOf (tickBuckets ch) k.val).debt 0 j.val = tget x.debt 0 j.val) ∧
    (w.toNat % 65536 ≠ 0xFFFF →
      tget (stackOf (tickBuckets ch) k.val).tokens 0 j.val =
        min (bucketDepth w) (tget x.tokens 0 j.val + (n - tget x.debt 0 j.val)) ∧
      tget (stackOf (tickBuckets ch) k.val).debt 0 j.val = tget x.debt 0 j.val - n))

/-- R278, R433: a write of bytes: each byte of the range reads as written and every byte outside it as before. A clean
write that covers a granule whole clears its mark, one with poison sets it, and a granule that the write does not
touch keeps what it had. -/
def Obligations.MemoryWrites : Prop :=
  (∀ (ch : Chip) (a : Nat) (bs : List Byte) (p : Bool) (x : Nat),
    (a ≤ x → x < a + bs.length → mget (wrMem ch a bs p).mem x = bs.getD (x - a) 0) ∧
    ((x < a ∨ a + bs.length ≤ x) → mget (wrMem ch a bs p).mem x = mget ch.mem x)) ∧
  (∀ (ch : Chip) (a w : Nat) (bs : List Byte),
    (w ∈ grans ch a bs.length → w ∈ (wrMem ch a bs true).poi) ∧
    (w ∈ wordsOf a bs.length → a ≤ gran ch w → gran ch w + granLen ch w ≤ a + bs.length →
      w ∉ (wrMem ch a bs false).poi) ∧
    (w ∉ grans ch a bs.length → (w ∈ (wrMem ch a bs true).poi ↔ w ∈ ch.poi)) ∧
    (w ∉ wordsOf a bs.length → (w ∈ (wrMem ch a bs false).poi ↔ w ∈ ch.poi)))

/-! ### Objects and Newel (13) -/

/-- R286, R287, R292, R304: an operation that reaches an object of an ENABLED block: SIGNAL adds n and ARRIVE 1, mod
2^32, RESET writes 0 and ends poison, a poisoned object discards SIGNAL and ARRIVE; no other object changes. At a
block that is not ENABLED the operation is held. R288, R292: an operation that leaves every wait's condition false
changes no core; a scrub that finds an object damaged poisons it and faults the cores that wait on it, and one that
finds nothing changes nothing. -/
def Obligations.ObjectOperations : Prop :=
  (∀ (s : State) (o : ObjId) (p : Fin 12) (n : Word), live s.chip = true →
    (enabled s.chip .syn (objTower o) = true →
      (objPoisoned s.chip o = false →
        (∃ ch, exec (.signal o p n) s = .next (after s ch) ∧ objGet ch o = objGet s.chip o + n ∧
          ∀ x, x ≠ o → objGet ch x = objGet s.chip x) ∧
        (∃ ch, exec (.arrive o p) s = .next (after s ch) ∧ objGet ch o = objGet s.chip o + 1 ∧
          ∀ x, x ≠ o → objGet ch x = objGet s.chip x)) ∧
      (objPoisoned s.chip o = true → exec (.signal o p n) s = .next s ∧ exec (.arrive o p) s = .next s) ∧
      (∃ ch, exec (.reset o p) s = .next (after s ch) ∧ objGet ch o = 0 ∧ objPoisoned ch o = false ∧
        ∀ x, x ≠ o → objGet ch x = objGet s.chip x)) ∧
    (enabled s.chip .syn (objTower o) = false →
      exec (.signal o p n) s =
        .next (after s { s.chip with ports := s.chip.ports ++ [⟨p.val, o, .signal n, false, none⟩] }) ∧
      exec (.arrive o p) s =
        .next (after s { s.chip with ports := s.chip.ports ++ [⟨p.val, o, .arrive, false, none⟩] }) ∧
      exec (.reset o p) s =
        .next (after s { s.chip with ports := s.chip.ports ++ [⟨p.val, o, .reset, false, none⟩] }))) ∧
  (∀ (s : State) (o : ObjId), live s.chip = true →
    exec (.syncObjectScrub o false) s = .next s ∧
    (objPoisoned s.chip o = true → exec (.syncObjectScrub o true) s = .next s) ∧
    (objPoisoned s.chip o = false →
      exec (.syncObjectScrub o true) s = .next (after s (faultMark (poisonObj s.chip o) (objCluster o * 8)))) ∧
    ((∀ p ∈ s.chip.cores, ∀ w, p.2.syw = some w → w.obj = some o → w.seen = true ∨ waitHolds s.chip w o = false) →
      (evalWaits s.chip o).cores = s.chip.cores))

/-- R473, R298 to R303: the Newel interface: the oldest report of a line takes effect and releases the line where it
is unbound, or the count reaches the target and no subtraction is owed; a completion of a bound line is recorded and
takes it low; the recorded completion takes the target off `arrive` and adds 1 to `done`; a falling NWL_TRIG fires the
converters' urgent trigger and a snapshot trigger where one is armed for it; a fence request acts as `fence_act` says.
-/
def Obligations.NewelLines : Prop :=
  ∀ (s : State) (b : LineId), live s.chip = true →
    (s.chip.nwl.clkLost = false → islandRuns s.chip 23 = true → ∀ ch,
      ch = (match s.chip.nwl.flight.find? fun r => r.line == b.val with
        | none => s.chip
        | some r => updNwl s.chip fun x => { x with
            rep := tput x.rep b.val r.count, flight := x.flight.erase r
            holdSub := if r.sub then sdel x.holdSub b.val else x.holdSub }) →
      exec (.newelStateReport b) s = .next (after s
        (if nwlRuns ch = true ∧ lineFree ch b.val = true then barOut ch b.val true else ch))) ∧
    (nwlRuns s.chip = true → s.chip.nwl.barOut.getLsbD b.val = true →
      ∀ ch, ch = updNwl s.chip (fun x => { x with barIn := x.barIn ||| barBit b.val }) →
      (bound s.chip b.val = false → exec (.barrierCompletion b) s = .next (after s ch)) ∧
      (bound s.chip b.val = true →
        exec (.barrierCompletion b) s = .next (after s (updNwl (barOut (raise ch .nwlCompletion 0) b.val false) fun x =>
          { x with
              toSend := x.toSend ++ [⟨b.val, bindArrive s.chip b.val, bindTarget s.chip b.val, bindDone s.chip b.val⟩],
              holdSub := sadd x.holdSub b.val })))) ∧
    (s.chip.nwl.clkLost = false → islandRuns s.chip 23 = true →
      ((s.chip.nwl.toSend.find? fun d => d.line == b.val) = none → exec (.completion b) s = .next s) ∧
      (∀ d, (s.chip.nwl.toSend.find? fun d => d.line == b.val) = some d →
        exec (.completion b) s = .next (after s (objDeliver (objDeliver
          (updNwl s.chip fun x => { x with toSend := x.toSend.erase d }) 10 (objOfNat d.arrive)
          (.completion b.val (BitVec.ofNat 32 d.target))) 10 (objOfNat d.done) (.signal 1))))) ∧
    (nwlRuns s.chip = true → ∀ ch, ch = (List.range 9).foldl (fun x k => snUrgent x k 8)
        (raise (updNwl s.chip fun x => { x with trigIn := false, trigPull := false }) .nwlTrigSeen 0) →
      exec .nwlTrigFall s = .next (after s (match ch.obs.arm with
        | some m => if m.system = true ∨ Machine.bit m.sources 0 = true then
            { ch with obs := { ch.obs with trigs := ch.obs.trigs ++ [(1, 0)] } } else ch
        | none => ch))) ∧
    (nwlRuns s.chip = true → s.chip.nwl.fenceArmed = true →
      ∀ ch, ch = raise (updNwl s.chip fun x => { x with fenceArmed := false, fenceIn := false }) .nwlFenceSeen 0 →
      (regFld ch .nwlCfg 0 1 0 = 0 → exec .fenceRequest s = .next (after s ch)) ∧
      (regFld ch .nwlCfg 0 1 0 = 1 →
        exec .fenceRequest s = .next (after s ((boundJobs ch).foldl haltJob ch))) ∧
      (2 ≤ regFld ch .nwlCfg 0 1 0 → exec .fenceRequest s =
        .next (after s (((List.finRange 16).filter fun j => jobExists ch j.val).foldl haltJob ch)))) ∧
    (nwlRuns s.chip = false → exec (.barrierCompletion b) s = .next s ∧ exec .nwlTrigFall s = .next s ∧
      exec .fenceRequest s = .next s)

/-- R298, R299, R303, R305, R371: the clock of Newel is lost and returns; a binding's objects and target change only while it
is not valid, and it becomes valid only with a target and two objects of one job; the device holds its fence line. -/
def Obligations.NewelRegisters : Prop :=
  ∀ (s : State), live s.chip = true →
    exec .nwlClkLost s = .next (after s (loseNwlClk s.chip)) ∧
    (s.chip.nwl.clkLost = true → s.chip.phase = 4 → ∀ ch : Chip,
      ch = { s.chip with nwl := { s.chip.nwl with clkLost := false }, islRun := s.chip.islRun ||| 0x800000#25 } →
      exec .nwlClkReturn s = .next (after s (lines ch))) ∧
    ((s.chip.nwl.clkLost = false ∨ s.chip.phase ≠ 4) →
      exec .nwlClkReturn s = .next (after s { s.chip with nwl := { s.chip.nwl with clkLost := false } })) ∧
    (∀ o : Chip, o = okBus s .nwlBindA 0 → o = okBus s .nwlBindB 0 ∧ o = okBus s .nwlCtrl 0) ∧
    (OnBus s .nwlBindA 0 → ∀ (b : LineId) (v : Word) (o : Chip), o = okBus s .nwlBindA 0 →
      (bound o b.val = false →
        exec (.nwlBindWrite b false v) s = .next (after s (regSet o .nwlBindA 0 v b.val)) ∧
        (∀ ch, ch = regSet o .nwlBindB 0 (v &&& 0xFFFF) b.val →
          (v.getLsbD 31 = false → exec (.nwlBindWrite b true v) s = .next (after s ch)) ∧
          (v.getLsbD 31 = true → bindOk ch b.val (fld v 15 0) = false →
            exec (.nwlBindWrite b true v) s = .next (after s (raise ch .nwlBindReject 0))) ∧
          (v.getLsbD 31 = true → bindOk ch b.val (fld v 15 0) = true →
            exec (.nwlBindWrite b true v) s = .next (after s (reportCount (barOut (dropLine
              (regSet ch .nwlBindB 0 (v &&& 0x8000FFFF) b.val) b.val) b.val false)
              (objOfNat (bindArrive ch b.val)) none))))) ∧
      (bound o b.val = true → ∀ ch, ch = raise o .nwlCfgIgnored 0 →
        exec (.nwlBindWrite b false v) s = .next (after s ch) ∧
        (v.getLsbD 31 = true → exec (.nwlBindWrite b true v) s = .next (after s ch)) ∧
        (v.getLsbD 31 = false → exec (.nwlBindWrite b true v) s = .next (after s (barOut (dropLine
          (regPut ch .nwlBindB 0 31 31 0 b.val) b.val) b.val (enabled ch .nwl 0)))))) ∧
    (OnBus s .nwlCtrl 0 → ∀ h, exec (.nwlFenceHold h) s = .next (after s (fenceHold (okBus s .nwlCtrl 0) h))) ∧
    ((islandRuns s.chip 20 = false ∨ islandRuns s.chip 23 = false) → ∀ b second v h i,
      i ∈ [Instr.nwlBindWrite b second v, .nwlFenceHold h] → exec i s = .next (after s (busError s.chip)))


/-! ### Links, collective operations and twin copies (14, 15) -/

namespace Sys2Proof.Claims

/-- The chip once link `l` has accepted the flit `f`: counted, the next number expected, a CTRL flit owed, the flit's
buffer given back (R312, R449). -/
def accepted (s : State) (l : LinkId) (f : Flit) : Chip :=
  updLink (count s.chip (cntPort l.val 1) 1) l.val fun x => { x with
    rxSeq := (x.rxSeq + 1) % 4096
    owe := x.owe + 1
    nak := 0
    given := tput x.given (chanOf f) ((tget x.given 0 (chanOf f) + 1) % 65536) }

/-- A flit comes in on a link that is UP. -/
structure Incoming (s : State) (l : LinkId) : Prop where
  live : live s.chip = true
  up : linkUp s.chip l.val = true

/-- It comes whole, in sequence, and of a job that the link carries (R309, R312, R315). -/
structure InSequence (s : State) (l : LinkId) (f : Flit) : Prop where
  live : live s.chip = true
  up : linkUp s.chip l.val = true
  parity : f.wpar = wparOf f
  seq : f.seq.toNat = (linkOf s.chip l.val).rxSeq
  job : carries (accepted s l f) l.val f.jfid = true

/-- Group `g` of this rank is `x`, and its operation in progress `o`; the engine moves (R331). -/
structure Operating (s : State) (g : GroupId) (x : Group) (o : CollOp) : Prop where
  live : live s.chip = true
  group : groupOf s.chip g.val = some x
  op : x.op = some o
  moves : colMoves s.chip = true

/-- A TWIN control flit of a kind, for this package and clean, comes in sequence on a link that carries its job, while the
collective engine moves (R342). -/
structure TwinControl (s : State) (l : LinkId) (f : Flit) (kind : Nat) : Prop where
  comes : InSequence s l f
  ftype : f.ftype = 5
  lane : f.lane = true
  kind : ctlKind f = kind
  here : f.dst = (accepted s l f).nwl.pos
  clean : f.poison = false
  moves : colMoves (accepted s l f) = true

end Sys2Proof.Claims

/-- R293, R294, R304, R309, R310, R312, R315, R316: what comes in on an UP link. A SIG flit in sequence is delivered to
its object, held there, turned away with its event, poisons it, is forwarded, or dropped for want of a route; a flit of
another job sets its event; one with a wrong parity or out of sequence owes a NAK, and a codeword that FEC corrected is
counted; a CTRL flit takes acknowledged flits out
of the replay buffer, sets the credits, and with a NAK replays the rest; a CTRL flit says what was accepted; a reserved
type is discarded once the link is trained. -/
def Obligations.LinkFlits : Prop :=
  ∀ (s : State) (l : LinkId) (f : Flit),
    (InSequence s l f → f.ftype = 3 → ∀ ch, ch = accepted s l f →
      (∀ o : ObjId, f.dst = ch.nwl.pos → leNat (f.payload.take 2) = o.val →
        (remoteOk ch o f.jfid = false → exec (.sigFlit l f) s = .next (after s (remoteReject ch o))) ∧
        (remoteOk ch o f.jfid = true → f.poison = true → enabled ch .syn (objTower o) = true →
          (objPoisoned ch o = true → exec (.sigFlit l f) s = .next (after s ch)) ∧
          (objPoisoned ch o = false → exec (.sigFlit l f) s = .next (after s (poisonObj ch o)))) ∧
        (remoteOk ch o f.jfid = true → f.poison = true → enabled ch .syn (objTower o) = false →
          exec (.sigFlit l f) s = .next (after s { ch with ports := ch.ports ++ [⟨9, o, .poison, false, some f.jfid⟩] })) ∧
        (remoteOk ch o f.jfid = true → f.poison = false → enabled ch .syn (objTower o) = true →
          exec (.sigFlit l f) s = .next (after s (objApply ch 9 o
            (.signal (BitVec.ofNat 32 (leNat ((f.payload.drop 4).take 4))))))) ∧
        (remoteOk ch o f.jfid = true → f.poison = false → enabled ch .syn (objTower o) = false →
          exec (.sigFlit l f) s = .next (after s { ch with ports := ch.ports ++
            [⟨9, o, .signal (BitVec.ofNat 32 (leNat ((f.payload.drop 4).take 4))), false, some f.jfid⟩] }))) ∧
      (f.dst ≠ ch.nwl.pos → ∀ r, routeTo ch f.dst.toNat f.jfid = some r →
        exec (.sigFlit l f) s = .next (after s (sendFlits ch r.link
          [⟨{ f with lane := f.lane || r.dateline }, portOf l.val / 2, 0⟩]))) ∧
      (f.dst ≠ ch.nwl.pos → routeTo ch f.dst.toNat f.jfid = none →
        exec (.sigFlit l f) s = .next (after s (raise ch .fabNoRoute (portOf l.val))))) ∧
    (Incoming s l → f.ftype = 3 →
      (f.wpar ≠ wparOf f → exec (.sigFlit l f) s =
        .next (after s (rejectFlit (raise s.chip .fabParityReplay (portOf l.val)) l.val true))) ∧
      (f.wpar = wparOf f → f.seq.toNat ≠ (linkOf s.chip l.val).rxSeq →
        exec (.sigFlit l f) s = .next (after s (rejectFlit s.chip l.val false))) ∧
      (f.wpar = wparOf f → f.seq.toNat = (linkOf s.chip l.val).rxSeq → carries (accepted s l f) l.val f.jfid = false →
        exec (.sigFlit l f) s = .next (after s (raise (accepted s l f) .fabJfidReject (portOf l.val))))) ∧
    (Incoming s l →
      exec (.flitReject l .seq) s = .next (after s (rejectFlit s.chip l.val false)) ∧
      exec (.flitReject l .parity) s =
        .next (after s (rejectFlit (raise s.chip .fabParityReplay (portOf l.val)) l.val true)) ∧
      exec (.flitReject l .fec) s = .next (after s (rejectFlit (regSat
        (count (raise s.chip .fabFecUncorr (portOf l.val)) (cntPort l.val 4) 1) .fabFecCnt (portOf l.val) 31 16 1)
        l.val true)) ∧
      exec (.flitReject l .corrected) s = .next (after s (regSat (count s.chip (cntPort l.val 3) 1) .fabFecCnt
        (portOf l.val) 15 0 1))) ∧
    (Incoming s l → ∀ (x : Ctrl) (n : Nat),
      n = (match (linkOf s.chip l.val).sent.findIdx? fun y => y.f.seq == x.ackSeq with | some i => i + 1 | none => 0) →
      ∀ ch, ch = updLink s.chip l.val (fun k => { k with
        sent := k.sent.drop n
        ackAt := if n = 0 then k.ackAt else s.chip.us
        back := (List.range 6).map fun c => (c, (x.credits.getD c 0).toNat) }) →
      ∀ y, y = (if x.nak then replayLink ch l.val else ch) →
      exec (.ctrlFlit l x) s = .next (after s (pump y l.val (linkOf y l.val).wait.length))) ∧
    (Incoming s l →
      ((0 < (linkOf s.chip l.val).owe ∨ (linkOf s.chip l.val).nak = 1) →
        exec (.ctrlFlitSend l) s = .next (after s (updLink s.chip l.val fun k => { k with
          owe := 0
          nak := if k.nak = 1 then 2 else k.nak
          ctrlOut := some { ackSeq := BitVec.ofNat 12 (k.rxSeq + 4095), nak := k.nak == 1
                            credits := (List.range 6).map fun i => BitVec.ofNat 16 (tget k.given 0 i) } }))) ∧
      ((linkOf s.chip l.val).owe = 0 → (linkOf s.chip l.val).nak ≠ 1 → exec (.ctrlFlitSend l) s = .next s)) ∧
    (live s.chip = true → portRuns s.chip l.val = true →
      ((linkOf s.chip l.val).st = 2 ∨ (linkOf s.chip l.val).st = 3) → f.wpar = wparOf f → knownType f.ftype = false →
      exec (.proto l f) s = .next (after s (raise s.chip .fabProto (portOf l.val)))) ∧
    (live s.chip = true → (f.wpar ≠ wparOf f ∨ knownType f.ftype = true) → exec (.proto l f) s = .next s) ∧
    (live s.chip = true → linkUp s.chip l.val = false →
      exec (.sigFlit l f) s = .next s ∧ (∀ w, exec (.flitReject l w) s = .next s) ∧
      (∀ x, exec (.ctrlFlit l x) s = .next s) ∧ exec (.ctrlFlitSend l) s = .next s)

/-- R308, R313, R314: training ends with every lane's eye in the handshake; with a lane below its limit it runs once more
and then ends in FAILED; a valid handshake restarts the wait and the third in a row that has seen this end brings the link
UP with an empty link layer; a wrong one fails the link with its result; ten milliseconds without one fail it; an eye
below its limit tells the host; a flit resent 8 times, or a millisecond without acknowledgements, takes the link out of
service and is a source of snapshots. -/
def Obligations.LinkLifecycle : Prop :=
  ∀ (s : State) (l : LinkId), live s.chip = true → portRuns s.chip l.val = true → ∀ k, linkOf s.chip l.val = k →
    (k.st = 1 →
      exec (.fabTrainingDone l .failed) s =
        .next (after s (updLink s.chip l.val fun k => { k with st := 4, result := 1 })) ∧
      (∀ eyes ch, eyes.length = (lanesOf s.chip l.val).length → ch = putEyes s.chip l.val eyes →
        (eyes.all eyeOk = true → exec (.fabTrainingDone l (.trained eyes)) s =
          .next (after s (updLink ch l.val fun k => { k with
            st := 2, since := s.chip.us, good := 0, seen := false, partner := none }))) ∧
        (eyes.all eyeOk = false → k.retrained = false → exec (.fabTrainingDone l (.trained eyes)) s =
          .next (after s (updLink ch l.val fun k => { k with retrained := true, since := s.chip.us }))) ∧
        (eyes.all eyeOk = false → k.retrained = true → exec (.fabTrainingDone l (.trained eyes)) s =
          .next (after s (updLink ch l.val fun k => { k with st := 4, result := 2 })))) ∧
      (∀ eyes, eyes.length ≠ (lanesOf s.chip l.val).length → exec (.fabTrainingDone l (.trained eyes)) s = .next s)) ∧
    (k.st = 2 → ∀ h,
      (handFault s.chip l.val h = none → h.seen = true → 2 ≤ k.good → exec (.handshake l h) s =
        .next (after s (updLink s.chip l.val fun _ => linkStart
          { k with since := s.chip.us, good := k.good + 1, seen := true, partner := some h } s.chip.us))) ∧
      (handFault s.chip l.val h = none → (h.seen = false ∨ k.good < 2) → exec (.handshake l h) s =
        .next (after s (updLink s.chip l.val fun _ =>
          { k with since := s.chip.us, good := if h.seen then k.good + 1 else 0, seen := true, partner := some h }))) ∧
      (∀ r, handFault s.chip l.val h = some r → exec (.handshake l h) s =
        .next (after s (raise (updLink s.chip l.val fun k => { k with st := 4, result := r }) .fabHandshakeFail
          (portOf l.val))))) ∧
    (k.st ≠ 2 → (∀ h, exec (.handshake l h) s = .next s) ∧ exec (.noPartner l) s = .next s) ∧
    (k.st = 2 →
      (k.since + 10000 ≤ s.chip.us → exec (.noPartner l) s =
        .next (after s (raise (updLink s.chip l.val fun k => { k with st := 4, result := 3 }) .fabHandshakeFail
          (portOf l.val)))) ∧
      (s.chip.us < k.since + 10000 → exec (.noPartner l) s = .next s)) ∧
    ((k.st = 2 ∨ k.st = 3) → exec (.handshakeSend l) s =
      .next (after s (updLink s.chip l.val fun k => { k with handOut := some (ownHand s.chip l.val) }))) ∧
    (k.st = 3 → ∀ eyes, eyes.length = (lanesOf s.chip l.val).length →
      (eyes.all eyeOk = true → exec (.eyeMeasure l eyes) s = .next (after s (putEyes s.chip l.val eyes))) ∧
      (eyes.all eyeOk = false → exec (.eyeMeasure l eyes) s =
        .next (after s (health (raise (putEyes s.chip l.val eyes) .fabEyeLow (portOf l.val)))))) ∧
    (k.st = 3 →
      ((∃ x ∈ k.sent, 8 ≤ x.tries) → exec (.replayExhausted l) s = .next (after s (faultMark (linkDown s.chip l.val) 0xFFFF))) ∧
      ((∀ x ∈ k.sent, x.tries < 8) → exec (.replayExhausted l) s = .next s)) ∧
    (k.st = 3 →
      (k.sent ≠ [] → k.ackAt + 1000 ≤ s.chip.us →
        exec (.linkDown l) s = .next (after s (faultMark (linkDown s.chip l.val) 0xFFFF))) ∧
      ((k.sent = [] ∨ s.chip.us < k.ackAt + 1000) → exec (.linkDown l) s = .next s))

/-- R317: a COLL flit whose `dst` is not the own position is discarded with `misroute`: the link has accepted it, and
nothing else changes, and no flit is sent on any link. -/
def Obligations.CollFlitsNeverRouted : Prop :=
  ∀ (s : State) (l : LinkId) (f : Flit) (b : Bursts), InSequence s l f → f.ftype = 4 → f.dst ≠ s.chip.nwl.pos →
    exec (.collFlit l f b) s = .next (after s (raise (accepted s l f) .fabMisroute (l.val / 2))) ∧
      (∀ k : LinkId, (linkOf (raise (accepted s l f) .fabMisroute (l.val / 2)) k.val).sent = (linkOf s.chip k.val).sent) ∧
      (raise (accepted s l f) .fabMisroute (l.val / 2)).mem = s.chip.mem ∧
      (regGet (raise (accepted s l f) .fabMisroute (l.val / 2)) .fabEvent (l.val / 2)).getLsbD 8 = true

/-- R317, R319, R323, R326, R329, R331: a released start takes the record and begins, or goes on with the operation that a
message had brought; a flit of the job's group is gathered into its message, which arrives once it is whole, another's is
refused; a deadline makes this rank an empty contributor, or goes on without a late child; a start that is released late
defers or drops the contribution; a time-out and the completion end the operation with their status. -/
def Obligations.CollectiveOperations : Prop :=
  (∀ (ch : Chip) (l : Nat) (f : Flit) (old : CollAsm) (bs : List Byte) (n : Nat) (nx : Bool → Chip),
    old = ((linkOf ch l).asm.find? fun a => a.lane == f.lane).getD ⟨f.lane, [], false, false⟩ →
    bs = old.bytes ++ f.payload → n = (bs.getD 0 0).toNat →
    nx = (fun lost => updLink ch l fun k => { k with asm := k.asm.filter (fun b => b.lane != f.lane) ++
      (if msgLen bs ≤ bs.length then [] else [⟨f.lane, bs, old.poison || f.poison, lost⟩]) }) →
    (colMoves ch = false → collGather ch l f = nx true) ∧
    (colMoves ch = true → (∀ x, groupOf ch n = some x → (jobOf ch x.job.val).jfid ≠ f.jfid) →
      collGather ch l f = raise (nx true) .colCollReject 0) ∧
    (∀ (g : GroupId) x, colMoves ch = true → n = g.val → groupOf ch n = some x → (jobOf ch x.job.val).jfid = f.jfid →
      (msgLen bs ≤ bs.length → old.lost = false →
        collGather ch l f = segArrives (nx false) l (msgOf x g bs (old.poison || f.poison))) ∧
      ((bs.length < msgLen bs ∨ old.lost = true) → collGather ch l f = nx old.lost))) ∧
  ∀ (s t : State) (run : GroupRun) (g : GroupId) (x : Group), g = run.group → groupOf t.chip g.val = some x →
    waitsOrLoses s (.collStart run) .die run.bursts (collStartWork run) ∧
    waitsOrLoses s (.collComplete run) .die run.bursts (collCompleteWork run) ∧
    (∀ d, waitsOrLoses s (.collDeadline g d) .die [] (collDeadlineWork g d)) ∧
    waitsOrLoses s (.collLateStart g) .die [] (collLateStartWork g) ∧
    waitsOrLoses s (.opTimeout g) .die [] (opTimeoutWork g) ∧
    (∀ l f b, waitsOrLoses s (.collFlit l f b) .die b (collFlitWork l f)) ∧
    (GoesOn s .die run.bursts (collStartWork run) t →
      (colRuns t.chip = true → startReached x x.k = true →
        (x.op = none → exec (.collStart run) s = .next (after t (beginOp (updGroup (touchRec t.chip x) g.val fun y =>
          { y with op := some { newOp t.chip x (nextRec t.chip x) with started := true, relUs := some t.chip.us } }) g))) ∧
        (∀ o, x.op = some o → o.started = false → o.empty = false → ∀ n, n = { newOp t.chip x (nextRec t.chip x) with
            started := true, relUs := some t.chip.us, firstUs := o.firstUs, policy := o.policy, timeout := o.timeout
            lateKids := o.lateKids, kidSeen := o.kidSeen } →
          exec (.collStart run) s =
            .next (after t (beginOp (updGroup (touchRec t.chip x) g.val fun y => { y with op := some n }) g))) ∧
        (∀ o, x.op = some o → (o.started = true ∨ o.empty = true) → exec (.collStart run) s = .next t)) ∧
      ((colRuns t.chip = false ∨ startReached x x.k = false) → exec (.collStart run) s = .next t)) ∧
    (∀ l f b, GoesOn s .die b (collFlitWork l f) t → InSequence t l f → f.ftype = 4 →
      f.dst = (accepted t l f).nwl.pos →
      exec (.collFlit l f b) s = .next (after t (collGather (accepted t l f) l.val f))) ∧
    (∀ o d, GoesOn s .die [] (collDeadlineWork g d) t → Operating t g x o →
      ((o.policy = 0 ∨ t.chip.us ≤ o.firstUs + o.deadline) → exec (.collDeadline g d) s = .next t) ∧
      (o.policy ≠ 0 → o.firstUs + o.deadline < t.chip.us →
        (d = none → o.started = false → o.empty = false → ∀ n, n = { newOp t.chip x (nextRec t.chip x) with
            empty := true, firstUs := o.firstUs, policy := o.policy, timeout := o.timeout, lateKids := o.lateKids
            kidSeen := o.kidSeen } →
          exec (.collDeadline g d) s = .next (after t (beginOp (updGroup
            (count (raise (touchRec t.chip x) .colEmptySent 0) (cntPkg (8 * x.job.val + 3)) 1) g.val
            fun y => { y with op := some n, owe := y.owe ++ [(y.k, n.rec_, n.policy)] }) g))) ∧
        (d = none → (o.started = true ∨ o.empty = true) → exec (.collDeadline g d) s = .next t) ∧
        (∀ b begun, d = some b → begun = (o.kidSeen.contains (b2n b) || x.waiting.any fun p =>
            kidOf x p.1 == some (b2n b) && p.2.opIndex == x.k % 64 && !p.2.gather) →
          (x.tree = true → o.bad = false → (liveKids x o).contains (b2n b) = true → begun = false →
            exec (.collDeadline g d) s = .next (after t (treeSums
              (updOp t.chip g.val fun o => { o with lateKids := sadd o.lateKids (b2n b) }) g o.rec_))) ∧
          ((x.tree = false ∨ o.bad = true ∨ (liveKids x o).contains (b2n b) = false ∨ begun = true) →
            exec (.collDeadline g d) s = .next t)))) ∧
    (GoesOn s .die [] (collLateStartWork g) t →
      (x.owe = [] → exec (.collLateStart g) s = .next t) ∧
      (∀ k r policy rest, x.owe = (k, r, policy) :: rest →
        (colMoves t.chip = true → startReached x k = true →
          ∀ ch, ch = updGroup t.chip g.val (fun y => { y with
            owe := rest, op := if k = y.k then y.op.map fun o => { o with relUs := some t.chip.us } else y.op }) →
          (policy = 1 → exec (.collLateStart g) s = .next (after t (countLate
            (updGroup (dropHeld ch g.val true []) g.val fun y => { y with heldOwn := some r }) g.val x true))) ∧
          (policy ≠ 1 → exec (.collLateStart g) s = .next (after t (countLate ch g.val x false)))) ∧
        ((colMoves t.chip = false ∨ startReached x k = false) → exec (.collLateStart g) s = .next t))) ∧
    (∀ o, GoesOn s .die [] (opTimeoutWork g) t → Operating t g x o →
      (∀ r, o.relUs = some r → o.bad = false → r + o.timeout ≤ t.chip.us →
        exec (.opTimeout g) s = .next (after t (endOp t.chip g.val 3))) ∧
      ((o.relUs = none ∨ o.bad = true ∨ ∃ r, o.relUs = some r ∧ t.chip.us < r + o.timeout) →
        exec (.opTimeout g) s = .next t)) ∧
    (∀ o, GoesOn s .die run.bursts (collCompleteWork run) t → Operating t g x o →
      (o.bad = true → (o.started = true ∨ o.empty = true) →
        exec (.collComplete run) s = .next (after t (endOp t.chip g.val 5))) ∧
      (o.bad = false → opFinished x o = true → contributors x o = allRanks x.ranks →
        exec (.collComplete run) s = .next (after t (endOp t.chip g.val 1))) ∧
      (o.bad = false → opFinished x o = true → contributors x o ≠ allRanks x.ranks →
        exec (.collComplete run) s = .next (after t (endOp t.chip g.val 2))) ∧
      ((o.bad = true ∧ o.started = false ∧ o.empty = false ∨ o.bad = false ∧ opFinished x o = false) →
        exec (.collComplete run) s = .next t))

/-- R339, R340, R346: a twin point passes once its gate wait is released: the job goes on at once, or a copy is due; a due
copy streams once no collective operation runs: with a link that is not UP it ends with result 2, a poisoned word ends it with 3,
else the shard leaves; a copy whose OPEN is not acknowledged after 10 ms ends with result 2. -/
def Obligations.TwinCopySource : Prop :=
  ∀ (s : State) (run : JobRun) (j : JobId) (t : TwinSrc), j = run.job → live s.chip = true →
    twinOf s.chip j.val = some t →
    (colRuns s.chip = true → t.enabled = true → t.copy = none → t.points + 1 ≤ t.rel →
      ((t.points + 1) % t.every = 0 ∨ t.now = true → exec (.twinGate j) s =
        .next (after s (updTwin s.chip j.val fun t => { t with
          points := t.points + 1
          since := t.since + 1
          now := false
          copy := some ⟨t.lastNumber + 1, 0, false, s.chip.us⟩ }))) ∧
      ((t.points + 1) % t.every ≠ 0 → t.now = false → exec (.twinGate j) s =
        .next (after s (objDeliver (updTwin s.chip j.val fun t => { t with
          points := t.points + 1, since := t.since + 1, now := false, copy := none }) 8 t.resume (.signal 1))))) ∧
    ((colRuns s.chip = false ∨ t.enabled = false ∨ t.copy.isSome = true ∨ t.rel < t.points + 1) →
      exec (.twinGate j) s = .next s) ∧
    waitsOrLoses s (.twinCopy run) .die run.bursts (twinCopyWork run) ∧
    (∀ (u : State) (v : TwinSrc) c, GoesOn s .die run.bursts (twinCopyWork run) u → twinOf u.chip j.val = some v →
      v.copy = some c →
      (c.sent = false → colMoves u.chip = true → jobCollBusy u.chip j = false → ∀ ch step,
        step = hdrStep u.chip (jobOf u.chip j.val).stat →
        ch = updTwin u.chip j.val (fun t => { t with
          lastNumber := c.number, copy := some ⟨c.number, step, true, u.chip.us⟩ }) →
        ((v.links.any fun l => !linkUp u.chip l) = true →
          exec (.twinCopy run) s = .next (after u (endCopy ch j.val 2))) ∧
        ((v.links.any fun l => !linkUp u.chip l) = false → ∀ m r areas,
          areas = shardAreas u.chip j.val v.regions v.history →
          m = { ctlNone with
            copy := c.number, shardBytes := shardBytes v.regions v.history, step := step, history := v.history
            lengths := v.regions.map Prod.snd, jfid := (jobOf u.chip j.val).jfid } →
          r = sendStream (areas.foldl (fun y a => landRange y (some j) .stream a.1 a.2 false) ch) v.links v.partner m
            areas →
          (r.2 = true → exec (.twinCopy run) s = .next (after u r.1)) ∧
          (r.2 = false → exec (.twinCopy run) s = .next (after u (endCopy r.1 j.val 3))))) ∧
      ((c.sent = true ∨ colMoves u.chip = false ∨ jobCollBusy u.chip j = true) → exec (.twinCopy run) s = .next u)) ∧
    (∀ c, t.copy = some c → ∀ w, w = (c.sent && decide (c.at_ + 10000 ≤ s.chip.us) &&
        t.links.any fun l => ((linkOf s.chip l).sent ++ (linkOf s.chip l).wait).any fun x =>
          x.f.ftype == 5 && x.f.lane && x.f.jfid == (jobOf s.chip j.val).jfid && x.f.payload.headD 0 == 1) →
      (w = true → exec (.twinOpenTimeout j) s = .next (after s (endCopy s.chip j.val 2))) ∧
      (w = false → exec (.twinOpenTimeout j) s = .next s))

/-- R309, R338, R340, R342, R345, R346: the partner's side: OPEN, a piece, CLOSE, COMMIT, ABORT, PULL, and 100 ms without
a flit. A flit for another position is discarded with `misroute`. -/
def Obligations.TwinCopyPartner : Prop :=
  ∀ (s t : State) (run : LinkRun) (l : LinkId) (f : Flit) (m : TwinCtl) (a : Chip), l = run.link → m = ctlOf f →
    a = accepted t l f →
    (∀ (kind : Nat) (i : Instr) (w : Chip → Chip) (b : Bursts),
      (kind = 1 ∧ i = .openTwin l f ∧ w = openTwinWork l f ∧ b = [] ∨
        kind = 2 ∧ i = .closeTwin run f ∧ w = closeTwinWork run f ∧ b = run.bursts ∨
        kind = 5 ∧ i = .pullTwin run f ∧ w = pullTwinWork run f ∧ b = run.bursts) →
      waitsOrLoses s i .die b w ∧
      (GoesOn s .die b w t → InSequence t l f → f.ftype = 5 → f.lane = true → ctlKind f = kind →
        (f.dst ≠ a.nwl.pos → exec i s = .next (after t (raise a .fabMisroute (portOf l.val)))) ∧
        (f.dst = a.nwl.pos → f.poison = true → exec i s = .next (after t a)))) ∧
    (GoesOn s .die [] (openTwinWork l f) t → TwinControl t l f 1 →
      exec (.openTwin l f) s = .next (after t (openStream a l.val m))) ∧
    (GoesOn s .die run.bursts (closeTwinWork run f) t → TwinControl t l f 2 →
      (inOf a m.src.toNat m.jfid = none → exec (.closeTwin run f) s = .next (after t a)) ∧
      (∀ x, inOf a m.src.toNat m.jfid = some x →
        (x.number ≠ m.copy → exec (.closeTwin run f) s = .next (after t a)) ∧
        (∀ y, y = { x with closed := sadd x.closed m.stream, lastUs := a.us } → x.number = m.copy →
          (inComplete y = false → exec (.closeTwin run f) s = .next (after t (setIn a y))) ∧
          (∀ j, inComplete y = true → y.job = some j →
            exec (.closeTwin run f) s = .next (after t (finishRest (dropIn a y.src y.jfid) y j))) ∧
          (inComplete y = true → y.job = none → exec (.closeTwin run f) s =
            .next (after t (sendCtl (wrLand (dropIn a y.src y.jfid) none .stream y.slot (slotHeader y) false) l.val y.src
              a.nwl.pos.toNat 3 { ctlNone with copy := y.number, step := y.step, jfid := y.jfid })))))) ∧
    (t = s → TwinControl s l f 3 →
      (∀ j, copyFor a m = some j → exec (.commitTwin l f) s = .next (after s (endCopy a j 0))) ∧
      (copyFor a m = none → exec (.commitTwin l f) s = .next (after s a))) ∧
    (t = s → TwinControl s l f 4 →
      (∀ j, copyFor a m = some j → exec (.abortTwin l f) s = .next (after s (endCopy a j m.result))) ∧
      (copyFor a m = none → (∃ x, inOf a m.src.toNat m.jfid = some x ∧ x.number ≠ m.copy) →
        exec (.abortTwin l f) s = .next (after s a)) ∧
      (copyFor a m = none → (∀ x, inOf a m.src.toNat m.jfid = some x → x.number = m.copy) →
        (restFor a m.src.toNat m.jfid = none →
          exec (.abortTwin l f) s = .next (after s (dropIn a m.src.toNat m.jfid))) ∧
        (∀ p, restFor a m.src.toNat m.jfid = some p →
          exec (.abortTwin l f) s = .next (after s (endRest (dropIn a m.src.toNat m.jfid) p.1 m.result id))))) ∧
    (t = s → InSequence s l f → f.ftype = 5 → f.lane = true → f.dst ≠ a.nwl.pos →
      (ctlKind f = 3 → exec (.commitTwin l f) s = .next (after s (raise a .fabMisroute (portOf l.val)))) ∧
      (ctlKind f = 4 → exec (.abortTwin l f) s = .next (after s (raise a .fabMisroute (portOf l.val))))) ∧
    (GoesOn s .die run.bursts (pullTwinWork run f) t → TwinControl t l f 5 →
      ∀ back : Nat, back = ((linkOf a l.val).partner.map fun h => h.pos.toNat).getD 0 →
      ((holdOf a m.src.toNat m.jfid).bind (fun h => bestSlot a h) = none →
        exec (.pullTwin run f) s = .next (after t (sendCtl a l.val back a.nwl.pos.toNat 4
          { ctlNone with result := 7, jfid := m.jfid }))) ∧
      (∀ d, (holdOf a m.src.toNat m.jfid).bind (fun h => bestSlot a h) = some d → ∀ w,
        w = (List.range 16).any (fun i => (slotLengths a d).getD i 0 != m.lengths.getD i 0) →
        (w = true → exec (.pullTwin run f) s = .next (after t (sendCtl a l.val back a.nwl.pos.toNat 4
          { ctlNone with result := 6, jfid := m.jfid }))) ∧
        (w = false → ∀ n c, n = rdNat a (d + 16) 8 →
          c = { ctlNone with
            copy := slotCopy a d, shardBytes := n, step := rdNat a (d + 8) 8
            history := (rdNat a (d + 4) 1).testBit 1, lengths := slotLengths a d, jfid := m.jfid } →
          exec (.pullTwin run f) s = .next (after t (sendStream (landRange a none .stream (d + 4096) n false)
            ((linksTo a l.val back m.jfid).take (max 1 m.streams)) back c [(d + 4096, n)]).1)))) ∧
    waitsOrLoses s (.twinData run f) .die run.bursts (twinDataWork run f) ∧
    (GoesOn s .die run.bursts (twinDataWork run f) t → InSequence t l f → f.ftype = 5 → f.lane = false →
      (f.dst ≠ a.nwl.pos → exec (.twinData run f) s = .next (after t (raise a .fabMisroute (portOf l.val)))) ∧
      (f.dst = a.nwl.pos → colMoves a = false → exec (.twinData run f) s = .next (after t a)) ∧
      (f.dst = a.nwl.pos → colMoves a = true →
        (inOf a f.src.toNat f.jfid = none → exec (.twinData run f) s = .next (after t a)) ∧
        (∀ x, inOf a f.src.toNat f.jfid = some x →
          (x.links.find? (fun p => p.1 == l.val) = none → exec (.twinData run f) s = .next (after t a)) ∧
          (∀ p n, x.links.find? (fun p => p.1 == l.val) = some p → n = tget x.got 0 p.2 * x.streams + p.2 →
            exec (.twinData run f) s = .next (after t (setIn (putPiece a x n f.payload f.poison)
              { x with got := tput x.got p.2 (tget x.got 0 p.2 + 1), lastUs := a.us })))))) ∧
    (live s.chip = true → ∀ src jf,
      (inOf s.chip src.toNat jf = none → exec (.twinStreamTimeout src jf) s = .next s) ∧
      (∀ x, inOf s.chip src.toNat jf = some x →
        (s.chip.us < x.lastUs + 100000 → exec (.twinStreamTimeout src jf) s = .next s) ∧
        (x.lastUs + 100000 ≤ s.chip.us → ∀ ch n, ch = dropIn s.chip src.toNat jf → n = (x.links.map Prod.fst).headD 0 →
          (∀ j : JobId, x.job = some j → exec (.twinStreamTimeout src jf) s = .next (after s (endRest ch j.val 8 id))) ∧
          (x.job = none → linkUp s.chip n = false → exec (.twinStreamTimeout src jf) s = .next (after s ch)) ∧
          (x.job = none → linkUp s.chip n = true → exec (.twinStreamTimeout src jf) s = .next (after s (sendCtl ch n
            src.toNat s.chip.nwl.pos.toNat 4 { ctlNone with result := 8, copy := x.number, jfid := jf }))))))


/-! ### The host's link, Bindweed and the mailboxes (16, 18) -/

/-- R281, R285, R348, R349, R351, R352, R355, R371, R412, R415: a request that arrives is counted and served, refused, or
waits behind its function's posted writes; a checked ECRC that is bad drops it and is logged; a request of configuration is
retried until BOOT ends and where no firmware answers, refused by a function that is not there, and else reads or writes its
field; a Function Level Reset drops the function's commands and returns its MSI-X state to reset; the link goes down and
comes up. -/
def Obligations.HostSide : Prop :=
  ∀ (s : State), live s.chip = true →
    (∀ r : BarReq, 0 < s.chip.pci.width → islandRuns s.chip 19 = true → ∀ f, f = r.fn.val →
      ∀ ch, ch = raiseIf r.ep (count s.chip 128 (if r.write.isSome then r.len else 0)) .pciEpIn 0 →
      (r.ecrcBad = true → s.chip.pci.ecrcCheck = true →
        exec (.inboundRequest r) s = .next (after s (aerLog ch f .ecrc))) ∧
      ((r.ecrcBad = false ∨ s.chip.pci.ecrcCheck = false) →
        (∀ x, r.cfg = some x →
          (cfgStatus ch f = .retry → exec (.inboundRequest r) s = .next (after s { ch with resp := ⟨.retry, [], false⟩ })) ∧
          (cfgStatus ch f = .unsupported → exec (.inboundRequest r) s = .next (after s (urResp ch 0))) ∧
          (cfgStatus ch f = .ok →
            (∀ bs, r.write = some bs → exec (.inboundRequest r) s =
              .next (after s (okData (if r.ep then ch else cfgPut ch f x (leNat bs)) [] false))) ∧
            (r.write = none → exec (.inboundRequest r) s = .next (after s (okData ch (leBytes (cfgGet ch f x) 4) false))))) ∧
        (r.cfg = none → ∀ y, y = (if orderedBehind r = true ∧ writeHeld ch f = true
            then { ch with resp := ⟨.waiting, [], false⟩ } else serveBar ch (barFit r)) →
          exec (.inboundRequest r) s = .next (after s (count y 129
            (if r.write.isNone ∧ y.resp.status = .ok then r.len else 0))))) ∧
      (s.chip.phase = 0 → (serveBar ch (barFit r)).resp.status = .unsupported) ∧
      (fnOpen s.chip f = false → (serveBar ch (barFit r)).resp.status = .unsupported) ∧
      (f = 0 → r.bar = 4 → s.chip.phase = 1 → (serveBar ch (barFit r)).resp.status = .unsupported) ∧
      (f = 0 → r.bar = 4 → s.chip.phase = 4 → fnOpen s.chip 0 = true → r.offset + r.len ≤ hbmEnd →
        (∀ bs, r.write = some bs → serveBar ch (barFit r) =
          okData (postWrite ch .pf .normal (some r.ep) r.offset (fitBytes bs r.len)) [] false) ∧
        (r.write = none → ∀ ts, ts = touched (hostData r) ch →
          (memHeld ch .die ts = true →
            serveBar ch (barFit r) = { memWaits ch .die ts with resp := ⟨.waiting, [], false⟩ }) ∧
          (memHeld ch .die ts = false → ts.any (touchLost ch .die) = false →
            serveBar ch (barFit r) = hostData r (memReady ch r.bursts ts))))) ∧
    ((s.chip.pci.width = 0 ∨ islandRuns s.chip 19 = false) → ∀ r, exec (.inboundRequest r) s = .next s) ∧
    (0 < s.chip.pci.width →
      ((s.chip.phase = 0 ∨ s.chip.phase = 5 ∧ failedCause s.chip = 3) → exec .configurationRequest s =
        .next (after s { s.chip with resp := ⟨.retry, [], false⟩ })) ∧
      (1 ≤ s.chip.phase → (s.chip.phase ≠ 5 ∨ failedCause s.chip ≠ 3) → exec .configurationRequest s =
        .next (after s { s.chip with resp := ⟨.ok, [], false⟩ }))) ∧
    (1 ≤ s.chip.phase → 0 < s.chip.pci.width → islandRuns s.chip 19 = true →
      (∀ j : JobId, exec (.flrVf j) s = .next (after s (raise (flrJob s.chip j) .pciFlr 0))) ∧
      exec .flrPf s = .next (after s (raise (msixReset (resetPfMailbox ((List.finRange 16).foldl flrJob s.chip)) 0)
        .pciFlr 0))) ∧
    ((s.chip.phase = 0 ∨ s.chip.pci.width = 0 ∨ islandRuns s.chip 19 = false) →
      (∀ j : JobId, exec (.flrVf j) s = .next s) ∧ exec .flrPf s = .next s) ∧
    (0 < s.chip.pci.width → exec .pcieLinkDown s = .next (after s ((List.range 16).foldl bwCut
      (raise { s.chip with pci := { s.chip.pci with width := 0, speed := 0, flit := false } } .pciLinkDown 0)))) ∧
    (s.chip.pci.width = 0 → exec .pcieLinkDown s = .next s ∧ exec .configurationRequest s = .next s) ∧
    (∀ (w : Fin 6) (v : Fin 7) (f : Bool),
      (w.val ≠ 0 → v.val ≠ 0 → islandRuns s.chip 19 = true →
        exec (.pcieLinkUp w v f) s = .next (after s (deliverHeld { s.chip with pci := { s.chip.pci with
          width := w.val, speed := v.val, flit := decide (v.val = 6) } }))) ∧
      ((w.val = 0 ∨ v.val = 0 ∨ islandRuns s.chip 19 = false) → exec (.pcieLinkUp w v f) s = .next s))

/-- R288, R349, R356, R357, R359, R360: the released push wait reads the next entry of a queue; an entry that breaks a rule
or holds poison completes with status 4 and moves nothing; a valid one waits its turn; the eligible PREFETCH of the lowest
`need` starts; an entry in flight ends with what it moved, its counts and its status: 3 where the host failed it, 2 where
its bytes carried poison, else 1; one that is not in flight does not end. -/
def Obligations.OffloadQueue : Prop :=
  (∀ (s : State) (run : JobRun) (j : JobId) (q : BwQ), j = run.job → live s.chip = true →
    bwOf s.chip j.val = some q →
    (∀ (t : State) (a raw : Nat) (q1 : BwQ) (ch : Chip), GoesOn s .die run.bursts (bindweedPushWork run) t →
      bwOf t.chip j.val = some q → a = bwAddr q q.next → raw = rdNat t.chip a 64 →
      q1 = { q with next := q.next + 1, pushed := q.pushed + 1 } →
      ch = setBw (landRange t.chip (some j) .normal a 64 false) j.val q1 →
      bwRuns t.chip = true → q.closing = false → q.next ≤ q.rel →
        ((anyPoi t.chip a 64 = true ∨ bwValid t.chip j q raw = false) →
          exec (.bindweedPush run) s = .next (after s (bwEnd ch j q1 ⟨q.next, raw, false, 0, false⟩ 4))) ∧
        (anyPoi t.chip a 64 = false → bwValid t.chip j q raw = true →
          exec (.bindweedPush run) s = .next (after s (startOffloads (setBw ch j.val { q1 with
            ents := q1.ents ++ [⟨q.next, raw, false, 0, false⟩] }) j.val 4)))) ∧
    ((bwRuns s.chip = false ∨ q.closing = true ∨ q.rel < q.next) → exec (.bindweedPush run) s = .next s) ∧
    waitsOrLoses s (.bindweedPush run) .die run.bursts (bindweedPushWork run) ∧
    (bwRuns s.chip = true → bwFlying q < 4 →
      (∀ e, nextPrefetch s.chip q = some e →
        exec (.prefetchStart j) s = .next (after s (setBw s.chip j.val (bwStartEnt q s.chip.us e.k)))) ∧
      (nextPrefetch s.chip q = none → exec (.prefetchStart j) s = .next s)) ∧
    ((bwRuns s.chip = false ∨ 4 ≤ bwFlying q) → exec (.prefetchStart j) s = .next s) ∧
    (∀ k o, (q.ents.find? fun e => e.k == k && e.started) = none → exec (.bindweedEntryDone j k o) s = .next s) ∧
    (∀ k o, waitsOrLoses s (.bindweedEntryDone j k o) .die o.bursts (bindweedEntryDoneWork j k o))) ∧
  (∀ (s t : State) (j : JobId) (q : BwQ) (k : Nat) (o : BwObs) (e : BwEnt),
    GoesOn s .die o.bursts (bindweedEntryDoneWork j k o) t → bwOf t.chip j.val = some q →
    (q.ents.find? fun e => e.k == k && e.started) = some e → ∀ fail c1 came fr x dl c3 c5 runs moved,
      fail = (o.hostErr || e.cut || !hostOpen t.chip) →
      c1 = (if bwKind e.raw = 2 then hostCells t.chip o.cells else t.chip) →
      came = (if bwKind e.raw = 2 then o.ep.foldl (fun c p => markPoi c p.1 p.2) c1 else c1) → fr = freeBits c1 →
      x = bwMove came e.raw o.moved fail fr.1 →
      dl = (match fmtOfCode (eb e.raw 2 2) with | some f => bwBytes f (bwN e.raw) | none => 0) →
      c3 = applyOut (landRange fr.2 (some j) .normal (bwDev e.raw) dl (bwKind e.raw == 2)) x.out →
      c5 = raiseIf fail (raiseIf (o.ep != [] && bwKind e.raw == 2)
        (if bwConvert e.raw then watchJob c3 j (bwTid e.raw) x else c3) .pciEpIn 0) .pciHostError 0 →
      runs = bwHostRuns e.raw (if fail then min o.moved (bwN e.raw) else bwN e.raw) → moved = runBytes runs →
      exec (.bindweedEntryDone j k o) s = .next (after s (bwClose (startOffloads (bwEnd (setBw
        (count (count (sendTlps c5 (j.val + 1) (bwKind e.raw == 1) runs) (if bwKind e.raw = 1 then 129 else 128) moved)
          (cntPkg (8 * j.val + 5)) moved) j.val
        { q with ents := q.ents.filter fun x => x.k != k }) j q e
          (if fail then 3 else if bwSrcPoi came e.raw then 2 else 1)) j.val 4) j.val)))

/-- R371, R381, R382, R386, R387, R389, R390: a doorbell rung while `busy` is ignored, else the command waits for firmware,
which accepts it when it is ready; an index beyond the ring is ignored; the ring's enable with its clamped size while
DISABLED; the stream that arbitration grants starts its command; a full completion ring stalls its own; a waiting command
answers at its bound, one that goes on in the background keeps its work; a failed compare in BOOT restarts it on the spare
pair; after BOOT the first ends the commands that have not committed with RESTARTED, both are sources of snapshots, and
the second leaves nothing that responds. -/
def Obligations.MailboxFront : Prop :=
  ∀ (s : State) (f : FnId),
    (OnBus s .mbxDoorbell f.val →
      ((streamOf s.chip (2 * f.val)).busy = true →
        exec (.mbxDoorbell f) s = .next (after s (raise (okBus s .mbxDoorbell f.val) .mbxDbIgnored f.val))) ∧
      ((streamOf s.chip (2 * f.val)).busy = false →
        exec (.mbxDoorbell f) s = .next (after s (acceptCmd (regSet (okBus s .mbxDoorbell f.val) .mbxDoorbell f.val 1) f.val))) ∧
      ((streamOf s.chip (2 * f.val)).busy = false → fwReady s.chip = true →
        acceptCmd (regSet (okBus s .mbxDoorbell f.val) .mbxDoorbell f.val 1) f.val = regSet (updStream (regSet (okBus s .mbxDoorbell f.val) .mbxDoorbell f.val 1)
          (2 * f.val) fun x => { x with busy := true, rspValid := false, since := s.chip.us, held := none })
          .mbxDoorbell f.val 0)) ∧
    (∀ v : Word, OnBus s .mbxRingTail f.val →
      (ringSize s.chip f.val ≤ v.toNat % 4096 →
        exec (.mbxRingTail f v) s = .next (after s (raise (okBus s .mbxRingTail f.val) .mbxIndexBad f.val)) ∧
        exec (.mbxCplHead f v) s = .next (after s (raise (okBus s .mbxCplHead f.val) .mbxIndexBad f.val))) ∧
      (v.toNat % 4096 < ringSize s.chip f.val →
        exec (.mbxRingTail f v) s =
          .next (after s (regSet (okBus s .mbxRingTail f.val) .mbxRingTail f.val (BitVec.ofNat 32 (v.toNat % 4096)))) ∧
        exec (.mbxCplHead f v) s =
          .next (after s (regSet (okBus s .mbxCplHead f.val) .mbxCplHead f.val (BitVec.ofNat 32 (v.toNat % 4096)))))) ∧
    (∀ v : Word, OnBus s .mbxRingCfg f.val → ∀ ch,
      ch = (if blkGet s.chip .mbx f.val = .disabled
        then regPut (okBus s .mbxRingCfg f.val) .mbxRingCfg f.val 11 8 (clampN 4 12 (fld v 11 8))
        else raise (okBus s .mbxRingCfg f.val) .mbxCfgIgnored f.val) →
      (v.getLsbD 0 = true → exec (.mbxRingEnable f v) s = .next (after s (enableBlk ch .mbx f.val false))) ∧
      (v.getLsbD 0 = false → exec (.mbxRingEnable f v) s = .next (after s (disableBlk ch .mbx f.val false)))) ∧
    (live s.chip = true → islandRuns s.chip 20 = false → ∀ v,
      exec (.mbxDoorbell f) s = .next (after s (busError s.chip)) ∧
      exec (.mbxRingTail f v) s = .next (after s (busError s.chip)) ∧
      exec (.mbxCplHead f v) s = .next (after s (busError s.chip)) ∧
      exec (.mbxRingEnable f v) s = .next (after s (busError s.chip))) ∧
    (∀ (k : Stream) (h : HostIn), live s.chip = true → fwReady s.chip = true →
      (k.ring = true → ringWaits s.chip k.fn.val = true → ringFull s.chip k.fn.val = true →
        exec (.commandStart k h) s = .next (after s (raise s.chip .mbxCplFull k.fn.val))) ∧
      ((k.ring = false ∨ ringWaits s.chip k.fn.val = false ∨ ringFull s.chip k.fn.val = false) →
        (granted s.chip ≠ some (streamIx k) → exec (.commandStart k h) s = .next s) ∧
        (granted s.chip = some (streamIx k) → ∀ ch, ch = updCamp s.chip (fun p => { p with base := (p.base + 1) % 34 }) →
          (k.ring = false → exec (.commandStart k h) s =
            .next (after s (startCmd ch (streamIx k) (mbxRaw ch k.fn.val) (streamOf s.chip (streamIx k)).since))) ∧
          (k.ring = true → ∀ a, a = ringBase s.chip k.fn.val + 64 * regFld s.chip .mbxRingHead k.fn.val 11 0 →
            (fwReadWaits s.chip a 64 = true → exec (.commandStart k h) s = .next s) ∧
            (fwReadWaits s.chip a 64 = false →
              exec (.commandStart k h) s = .next (after s (ringRead ch k.fn.val h))))))) ∧
    (∀ (k : Stream), live s.chip = true → fwReady s.chip = true →
      ((streamOf s.chip (streamIx k)).cmd = none → exec (.commandBound k) s = .next s) ∧
      (∀ c, (streamOf s.chip (streamIx k)).cmd = some c →
        ((waitBound (cmdOp c.raw) = none ∨ c.committed = false) → exec (.commandBound k) s = .next s) ∧
        (∀ n, waitBound (cmdOp c.raw) = some n → c.committed = true →
          (s.chip.us < c.since + n → exec (.commandBound k) s = .next s) ∧
          (c.since + n ≤ s.chip.us → cmdOp c.raw ≠ 0x40 → cmdOp c.raw ≠ 0x42 →
            exec (.commandBound k) s = .next (answered s k c s.chip (partialRsp s.chip c))) ∧
          (c.since + n ≤ s.chip.us → (cmdOp c.raw = 0x40 ∨ cmdOp c.raw = 0x42) → exec (.commandBound k) s = .next (after s (updStream
            (respond s.chip (streamIx k) c (partialRsp s.chip c)) (streamIx k) fun x => { x with
              bg := x.bg ++ [{ c with committed := true }] })))))) ∧
    (live s.chip = true → s.chip.phase = 0 → islandRuns s.chip 20 = true →
      (s.chip.sys.camp.failed = 0 → exec .lockstepMismatch s = .next (after s (regPut (count (updCamp s.chip
        fun p => { p with failed := 1 }) 136 1) .pwrBootStat 0 5 5 1))) ∧
      (s.chip.sys.camp.failed = 1 → exec .lockstepMismatch s = .next (after s (enterFailed s.chip 3)))) ∧
    (live s.chip = true → 0 < s.chip.phase → islandRuns s.chip 20 = true →
      (s.chip.sys.camp.failed = 0 → exec .lockstepMismatch s = .next (after s (faultMark (health (count (updCamp
        ((List.range 34).foldl (fun c k => match (streamOf c k).cmd with
          | some d => if d.committed then c else respond c k d (rspOf 0x1E)
          | none => c) s.chip) fun p => { p with failed := 1 }) 136 1)) 0xFFFF))) ∧
      (s.chip.sys.camp.failed = 1 →
        exec .lockstepMismatch s = .next (after s (faultMark (updCamp s.chip fun p => { p with failed := 2 }) 0xFFFF))) ∧
      (2 ≤ s.chip.sys.camp.failed → exec .lockstepMismatch s = .next s))

/-- R385: the header is checked in the order of the rule, and the first check that fails gives the status: an opcode
that is not listed, a length above 48 with its byte, a phase before READY, a job byte that the function may not name, a
job that does not exist; then a reserved byte that is not 0 or a field out of range with its byte. R397: a command with an
earlier one of its job ahead of it waits, and one that a check refuses is answered with that status and changes nothing
else; where the stream has no command of that row, nothing happens. -/
def Obligations.CommandChecks : Prop :=
  ∀ (ch : Chip) (k raw : Nat) (c : Cmd) (used : List (Nat × Nat)) (bad : List Nat), c.raw = raw →
    (cmdInfo (cmdOp raw) = none → headCheck ch (k / 2) raw = some (rspOf 0x10)) ∧
    (∀ sc pf, cmdInfo (cmdOp raw) = some (sc, pf) →
      (48 < cmdLen raw → headCheck ch (k / 2) raw = some ⟨0x11, 2, 0, []⟩) ∧
      (cmdLen raw ≤ 48 → ch.phase ≠ 4 → cmdOp raw ≠ 1 → headCheck ch (k / 2) raw = some (rspOf 0x16)) ∧
      (cmdLen raw ≤ 48 → ch.phase = 4 → pf = true → k / 2 ≠ 0 → headCheck ch (k / 2) raw = some (rspOf 0x13)) ∧
      (cmdLen raw ≤ 48 → ch.phase = 4 → k / 2 ≠ 0 → cmdJob raw ≠ k / 2 - 1 →
        headCheck ch (k / 2) raw = some (rspOf 0x13)) ∧
      (cmdLen raw ≤ 48 → ch.phase = 4 → k / 2 = 0 → sc = .dev → cmdJob raw ≠ 0xFF →
        headCheck ch (k / 2) raw = some (rspOf 0x13)) ∧
      (cmdLen raw ≤ 48 → ch.phase = 4 → k / 2 = 0 → sc = .job → cmdJob raw < 16 → cmdOp raw ≠ 0x10 →
        jobExists ch (cmdJob raw) = false → headCheck ch (k / 2) raw = some (rspOf 0x17))) ∧
    (headCheck ch (k / 2) raw = none →
      (∀ b, 7 ≤ b → b < 16 → eb raw b b ≠ 0 → (∀ x, 7 ≤ x → x < b → eb raw x x = 0) → (∀ x ∈ bad, b ≤ x + 16) →
        refuse ch k c used bad = some ⟨0x12, b, 0, []⟩) ∧
      (∀ b ∈ bad, ∃ x, refuse ch k c used bad = some ⟨0x12, x, 0, []⟩ ∧ x ≤ b + 16)) ∧
    (∀ (s : State) (n : Stream) (op : Nat) (mine : Nat → Bool) (chk : Nat → List (Nat × Nat) × List Nat)
      (start go : Chip → Cmd → Did) (d : Cmd), live s.chip = true → cmdIn s.chip (streamIx n) op mine = some d →
      d.committed = false →
      (blocked s.chip (streamIx n) d = true → runCmd s n op mine chk start go = .next s) ∧
      (∀ r, blocked s.chip (streamIx n) d = false →
        refuse s.chip (streamIx n) d (chk d.raw).1 (chk d.raw).2 = some r →
        runCmd s n op mine chk start go = .next (answered s n d s.chip r))) ∧
    (∀ (s : State) (n : Stream) (op : Nat) (mine : Nat → Bool) (chk : Nat → List (Nat × Nat) × List Nat)
      (start go : Chip → Cmd → Did) (f : Chip → NonVol → Cmd → Chip × NonVol × Rsp), live s.chip = true →
      (cmdIn s.chip (streamIx n) op mine = none →
        runCmd s n op mine chk start go = .next s ∧ runNv s n op mine chk f = .next s) ∧
      (∀ d, cmdIn s.chip (streamIx n) op mine = some d →
        (blocked s.chip (streamIx n) d = true → runNv s n op mine chk f = .next s) ∧
        (∀ r, blocked s.chip (streamIx n) d = false →
          refuse s.chip (streamIx n) d (chk d.raw).1 (chk d.raw).2 = some r →
          runNv s n op mine chk f = .next (answered s n d s.chip r))))


/-! ### Commands of the mailboxes (18 and the chapters of their units) -/

/-- R394 to R398, R402: DEV_QUERY answers its page; JOB_CREATE places a MiB and makes the job IDLE, or NO_RESOURCE;
clusters are given and released whole, or none of them, once no core of theirs is under test and their ways can be written
back; a release and JOB_DESTROY are BUSY on background work; JOB_DESTROY halts the job, waits for its cores, for what its
offload queue has in flight and for the cut of its counter dump in progress, and frees what it held; HALT_JOB halts at the next boundaries and with `wait` answers when the
job is IDLE; the job is IDLE when its last core stops. -/
def Obligations.JobCommands : Prop :=
  ∀ (s : State) (k : Stream) (c : Cmd) (j : JobId), j = jobId (cmdJob c.raw) →
    (Taking s k 0x01 anyRow (fun raw => ([(0, 0)], badIf (4 < pb raw 0 0) 0)) c → exec (.devQuery k) s =
      .next (answered s k c s.chip (if s.chip.phase = 5 ∧ pb c.raw 0 0 ≠ 0 then rspOf 0x16
        else rspData 0 48 (queryBytes s.chip k.fn.val (pb c.raw 0 0))))) ∧
    (Taking s k 0x10 anyRow
        (fun raw => ([(0, 3)], badIf (1 < pb raw 0 0) 0 ++ badIf (!towerOk (pb raw 1 1)) 1)) c →
      (placeHbm s.chip (pb c.raw 0 0 == 1) (pb c.raw 1 1) mib = none →
        exec (.jobCreate k) s = .next (answered s k c s.chip (rspOf 0x15))) ∧
      (∀ da, placeHbm s.chip (pb c.raw 0 0 == 1) (pb c.raw 1 1) mib = some da → ∀ ch,
        ch = openRates (mapHbm (updJob s.chip (cmdJob c.raw) fun _ => { jobReset with
          state := .idle, global := pb c.raw 0 0 == 1, tower := pb c.raw 1 1, jfid := BitVec.ofNat 16 (pb c.raw 3 2)
          stat := da }) (cmdJob c.raw) da mib) (cmdJob c.raw) →
        exec (.jobCreate k) s = .next (answered s k c { ch with
          cnts := (span (8 * cmdJob c.raw) 8).foldl tdel ch.cnts } (rspData 0 8 (leBytes da 6))))) ∧
    (∀ give a i, (give, a, i) ∈ [(true, 0, Instr.jobAssignClustersAssign k), (false, 1, .jobAssignClustersRelease k)] →
      (Taking s k 0x12 (actRow a 2) assignChk c ∨ Waiting s k 0x12 (actRow a 2) c) → ∀ cls change busy tested late,
      cls = maskClusters c.raw → change = cls.filter (fun cl => !give || owner s.chip cl == none) →
      busy = (!give && change.any fun cl => (coresOfCluster cl).any (coreBusy s.chip)) →
      tested = (change.any fun cl => (coresOfCluster cl).any fun g => (tcoreOf s.chip g).under.isSome) →
      late = change.filter (wayWaits s.chip) →
      ((∃ cl ∈ cls, owner s.chip cl ≠ some j ∧ (give = false ∨ owner s.chip cl ≠ none)) →
        exec i s = .next (answered s k c s.chip (rspOf 0x14))) ∧
      (busy = true → exec i s = .next (answered s k c s.chip (rspOf 0x14))) ∧
      ((∀ cl ∈ cls, owner s.chip cl = some j ∨ give = true ∧ owner s.chip cl = none) → busy = false →
        ((tested = true ∨ late ≠ []) → exec i s = .next (waits s k c
          { s.chip with land := { s.chip.land with flushing := if tested = true then [] else late } } [])) ∧
        (tested = false → late = [] → exec i s = .next (answered s k c
          (change.foldl (fun x cl => moveCluster x (if give = true then some j else none) cl)
            { s.chip with land := { s.chip.land with flushing := [] } }) rspOk)))) ∧
    (Taking s k 0x11 anyRow (fun _ => ([], [])) c → (coresOfJob s.chip j).any (coreBusy s.chip) = true →
      exec (.jobDestroy k) s = .next (answered s k c s.chip (rspOf 0x14))) ∧
    (∀ ch, (Taking s k 0x11 anyRow (fun _ => ([], [])) c ∧ (coresOfJob s.chip j).any (coreBusy s.chip) = false ∧
          ch = haltJob s.chip j ∨ Waiting s k 0x11 anyRow c ∧ ch = s.chip) →
      (jobQuiet ch j = false → exec (.jobDestroy k) s = .next (waits s k c ch [])) ∧
      (jobQuiet ch j = true → ((bwOf (destroyUnits ch j) j.val).isSome = true ∨ dumpBusy (destroyUnits ch j) j.val = true) →
        exec (.jobDestroy k) s = .next (waits s k c (destroyUnits ch j) [])) ∧
      (jobQuiet ch j = true → bwOf (destroyUnits ch j) j.val = none → dumpBusy (destroyUnits ch j) j.val = false →
        exec (.jobDestroy k) s = .next (answered s k c
          (dropCommands (destroyJob (destroyUnits ch j) j) (j.val + 1) (streamIx k)) rspOk))) ∧
    (Taking s k 0x32 anyRow (fun raw => ([(0, 0)], badIf (1 < pb raw 0 0) 0)) c →
      ((pbit c.raw 0 0 0 = 0 ∨ jobIdleNow (haltJob s.chip j) j.val = true) →
        exec (.haltJob k) s = .next (answered s k c (haltJob s.chip j) rspOk)) ∧
      (pbit c.raw 0 0 0 ≠ 0 → jobIdleNow (haltJob s.chip j) j.val = false →
        exec (.haltJob k) s = .next (waits s k c (haltJob s.chip j) []))) ∧
    (Waiting s k 0x32 anyRow c →
      (jobIdleNow s.chip (cmdJob c.raw) = true → exec (.haltJob k) s = .next (answered s k c s.chip rspOk)) ∧
      (jobIdleNow s.chip (cmdJob c.raw) = false → exec (.haltJob k) s = .next (waits s k c s.chip []))) ∧
    (live s.chip = true → ∀ d,
      d = ((coresOfJob s.chip j).all fun g => (coreOf s.chip g).run != .running && (coreOf s.chip g).run != .waiting) →
      (((jobOf s.chip j.val).state = .running ∨ (jobOf s.chip j.val).state = .halting) → d = true →
        exec (.jobIdle j) s = .next (after s (updJob s.chip j.val fun b => { b with state := .idle }))) ∧
      ((d = false ∨ (jobOf s.chip j.val).state ≠ .running ∧ (jobOf s.chip j.val).state ≠ .halting) →
        exec (.jobIdle j) s = .next s))

/-- R284, R399, R400: MEM_MAP adds a host window as it is, or places HBM and zeroes it; MEM_UNMAP removes a mapping but
never the statistics region, nor one that background work uses; PART_SET_RATE writes the rate of a job on the named stacks;
PROG_LOAD clears or loads the named cores of the job's cluster from HBM or from the host, waits for the test of one of them,
and refuses a cluster of another job, a fenced core, what fails or is poison on its way, and a bad image. -/
def Obligations.MemoryCommands : Prop :=
  ∀ (s : State) (k : Stream) (h : HostIn) (c : Cmd) (j : JobId), j = jobId (cmdJob c.raw) →
    (Taking s k 0x20 anyRow memMapChk c →
      (128 ≤ (jobOf s.chip (cmdJob c.raw)).maps.length →
        exec (.memMap k) s = .next (answered s k c s.chip (rspOf 0x15))) ∧
      ((jobOf s.chip (cmdJob c.raw)).maps.length < 128 → pb c.raw 0 0 = 1 → exec (.memMap k) s =
        .next (answered s k c (updJob s.chip (cmdJob c.raw) fun b =>
          { b with maps := b.maps ++ [⟨pb c.raw 21 16, pb c.raw 15 8, true⟩] }) (rspData 0 8 (leBytes (pb c.raw 21 16) 6)))) ∧
      ((jobOf s.chip (cmdJob c.raw)).maps.length < 128 → pb c.raw 0 0 ≠ 1 → ∀ da,
        placeHbm s.chip (jobOf s.chip (cmdJob c.raw)).global (pb c.raw 1 1) (pb c.raw 15 8) = some da →
        exec (.memMap k) s = .next (answered s k c (mapHbm s.chip (cmdJob c.raw) da (pb c.raw 15 8))
          (rspData 0 8 (leBytes da 6)))) ∧
      ((jobOf s.chip (cmdJob c.raw)).maps.length < 128 → pb c.raw 0 0 ≠ 1 →
        placeHbm s.chip (jobOf s.chip (cmdJob c.raw)).global (pb c.raw 1 1) (pb c.raw 15 8) = none →
        exec (.memMap k) s = .next (answered s k c s.chip (rspOf 0x15)))) ∧
    (Taking s k 0x21 anyRow (fun _ => ([(0, 5)], [])) c → ∀ o,
      (jobOf s.chip (cmdJob c.raw)).maps.find? (fun m => m.da == pb c.raw 5 0) = o →
      (o = none → exec (.memUnmap k) s = .next (answered s k c s.chip (rspBad 0))) ∧
      (∀ m, o = some m → pb c.raw 5 0 = (jobOf s.chip (cmdJob c.raw)).stat →
        exec (.memUnmap k) s = .next (answered s k c s.chip (rspBad 0))) ∧
      (∀ m, o = some m → pb c.raw 5 0 ≠ (jobOf s.chip (cmdJob c.raw)).stat → rangeBusy s.chip m.da m.len = true →
        exec (.memUnmap k) s = .next (answered s k c s.chip (rspOf 0x14))) ∧
      (∀ m, o = some m → pb c.raw 5 0 ≠ (jobOf s.chip (cmdJob c.raw)).stat → rangeBusy s.chip m.da m.len = false →
        exec (.memUnmap k) s = .next (answered s k c (unmap s.chip (cmdJob c.raw) m) rspOk))) ∧
    (Taking s k 0x22 anyRow (fun raw => ([(0, 0), (2, 8)], badIf (15 < pb raw 0 0) 0 ++
        badIf (0x7FFF < pb raw 7 6) 6 ++ badIf (1 < pb raw 8 8) 8)) c →
      ∀ w, w = pack [(0, pb c.raw 5 4), (16, max 1 (pb c.raw 7 6)), (31, pb c.raw 8 8)] →
      exec (.partSetRate k) s = .next (answered s k c
        (((List.range 16).filter fun k => (pb c.raw 3 2).testBit k).foldl (fun x k => fwReg x .hbmPartRate k fun x =>
          updStack x k fun y => { y with
            rates := tput y.rates (pb c.raw 0 0) w
            tokens := tput y.tokens (pb c.raw 0 0) (min (bucketDepth w) (tget y.tokens 0 (pb c.raw 0 0)))
            debt := if rateOpen w then tdel y.debt (pb c.raw 0 0) else y.debt
            short := if rateOpen w then sdel y.short (pb c.raw 0 0) else y.short }) s.chip) rspOk)) ∧
    ((Taking s k 0x30 anyRow progLoadChk c ∨ Waiting s k 0x30 anyRow c) → ∀ i cl gs da, i = Instr.progLoad ⟨k, h⟩ →
      cl = 16 * pb c.raw 0 0 + pb c.raw 1 1 → da = pb c.raw 13 8 →
      gs = (coresOfCluster cl).filter (fun g => (pb c.raw 2 2).testBit (g % 8)) →
      (owner s.chip cl ≠ some j → exec i s = .next (answered s k c s.chip (rspOf 0x13))) ∧
      (owner s.chip cl = some j → gs.any (coreFenced s.chip) = true →
        exec i s = .next (answered s k c s.chip (rspOf 0x18))) ∧
      (owner s.chip cl = some j → gs.any (coreFenced s.chip) = false →
        ((gs.any fun g => (tcoreOf s.chip g).under.isSome) = true → exec i s = .next (waits s k c s.chip [])) ∧
        ((gs.any fun g => (tcoreOf s.chip g).under.isSome) = false →
          (pbit c.raw 3 0 0 = 1 → exec i s = .next (answered s k c (gs.foldl clearImage s.chip) (rspData 0 1 [0]))) ∧
          (pbit c.raw 3 0 0 ≠ 1 → inMaps s.chip j da 64 = false →
            exec i s = .next (answered s k c s.chip (rspOf 0x1C))) ∧
          (pbit c.raw 3 0 0 ≠ 1 → inMaps s.chip j da 64 = true → ∀ len n f,
            len = max 64 (rdNat (if outBase ≤ da then hostIn s.chip h else s.chip) (da + 16) 8) →
            n = (if inMaps s.chip j da len = true then len else 64) → f = fetchHost s.chip h [(da, n)] →
            (fwReadWaits s.chip da n = true → exec i s = .next (waits s k c s.chip [])) ∧
            (fwReadWaits s.chip da n = false →
              (f.2 = true → exec i s = .next (answered s k c f.1 (rspOf 0x1D))) ∧
              (f.2 = false → ∀ r, imageRefusal f.1 j da = some r → exec i s = .next (answered s k c f.1 r)) ∧
              (f.2 = false → imageRefusal f.1 j da = none → exec i s = .next (answered s k c
                (gs.foldl (fun x g => loadImage x j da g)
                  (landRange f.1 none .normal da (rdNat f.1 (da + 16) 8) false))
                (rspData 0 1 (leBytes (pb c.raw 2 2) 1)))))))))

/-- R401, whole: LAUNCH refuses a payload byte that is not 0; with a fenced core that holds an image it completes with
FENCED_CORE (0x18), with no image with INVALID_PARAMETER (0x12), and starts no core; else the job is RUNNING, every core
with an image starts in the state of R238 (`startCore`), and the response counts them. A job that becomes IDLE keeps its
cores as they are, images included, and a start never depends on the registers that an earlier run left. -/
def Obligations.LaunchStartsImages : Prop :=
  ∀ (s : State) (k : Stream) (c : Cmd) (j : JobId) (gs : List Nat), j = jobId (cmdJob c.raw) →
    gs = (coresOfJob s.chip j).filter (fun g => (coreOf s.chip g).image.isSome) →
    (∀ b, b < 48 → pb c.raw b b ≠ 0 → headCheck s.chip (streamIx k / 2) c.raw = none →
      ∃ x, refuse s.chip (streamIx k) c [] [] = some ⟨0x12, x, 0, []⟩) ∧
    (Taking s k 0x31 anyRow (fun _ => ([], [])) c →
      (gs.any (coreFenced s.chip) = true → exec (.launch k) s = .next (answered s k c s.chip (rspOf 0x18))) ∧
      (gs = [] → exec (.launch k) s = .next (answered s k c s.chip (rspOf 0x12))) ∧
      (gs.any (coreFenced s.chip) = false → gs ≠ [] → exec (.launch k) s =
        .next (answered s k c (updJob (gs.foldl (fun x g => match (coreOf x g).image with
          | some m => startCore x g m
          | none => x) s.chip) j.val fun b => { b with state := .running }) (rspData 0 4 (leBytes gs.length 4))))) ∧
    (∃ t, exec (.jobIdle j) s = .next t ∧ t.chip.cores = s.chip.cores) ∧
    (∀ (ch : Chip) (g : Nat) (m : Image) (x y : Core), coreOf (startCore (setCore ch g { x with seq := y.seq, stale := y.stale }) g m) g =
      coreOf (startCore (setCore ch g y) g m) g)

/-- R86, R104, R371, R388, R392, R403, R404: the array and calibration commands once their checks pass: programming with
`wait` once its arrays are free, and without it after the response, in the background; the transfer policy with its clamp;
refreshes, with what refuses them and what a waiting one counts; calibration runs that start, wait, report or find a
reference fault; policy and quality. -/
def Obligations.ArrayCommands : Prop :=
  ∀ (s : State) (k : Stream) (c : Cmd) (j : JobId) (h : HostIn) (o : List (Nat × CellObs)) (i : Instr),
    j = jobId (cmdJob c.raw) → i = .arrayProgram ⟨k, h⟩ o →
    (∀ r, Taking s k 0x40 anyRow arrayProgramChk c → programRefusal (hostIn s.chip h) c = some r →
      exec i s = .next (answered s k c s.chip r)) ∧
    ((Taking s k 0x40 anyRow arrayProgramChk c ∧ programRefusal (hostIn s.chip h) c = none ∨ Waiting s k 0x40 anyRow c) →
      (pbit c.raw 4 1 1 = 0 → exec i s = .next (after s (updStream
        (respond s.chip (streamIx k) c (rspData 0 16 [])) (streamIx k) fun x => { x with
          bg := x.bg ++ [{ c with committed := true, memo := [] }] }))) ∧
      (pbit c.raw 4 1 1 ≠ 0 → programNow s.chip c.raw h o = true →
        exec i s = .next (answered s k c (programAll s.chip c.raw h o).1 (programAll s.chip c.raw h o).2)) ∧
      (pbit c.raw 4 1 1 ≠ 0 → programNow s.chip c.raw h o = false → exec i s = .next (waits s k c s.chip []))) ∧
    (live s.chip = true → cmdIn s.chip (streamIx k) 0x40 anyRow = none →
      ((streamOf s.chip (streamIx k)).bg.find? (fun d => cmdOp d.raw == 0x40) = none → exec i s = .next s) ∧
      (∀ d, (streamOf s.chip (streamIx k)).bg.find? (fun d => cmdOp d.raw == 0x40) = some d →
        (programNow s.chip d.raw h o = false → exec i s = .next s) ∧
        (programNow s.chip d.raw h o = true → exec i s = .next (after s (programAll
          (updStream s.chip (streamIx k) fun x => { x with bg := x.bg.erase d }) d.raw h o).1)))) ∧
    (Taking s k 0x41 anyRow policyChk c → ∀ g w, g = coreAt (pb c.raw 1 1) (pb c.raw 2 2) →
      w = pack [(0, max 8 (pb c.raw 3 3)), (8, pb c.raw 4 4)] →
      (pb c.raw 0 0 = 1 → coreJob s.chip g ≠ some j →
        exec (.arrayTransferPolicy k) s = .next (answered s k c s.chip (rspOf 0x13))) ∧
      (pb c.raw 0 0 = 1 → coreJob s.chip g = some j → exec (.arrayTransferPolicy k) s =
        .next (answered s k c (fwReg s.chip .prgPolicy g fun x => regSet x .prgPolicy g w) (rspOf (if pb c.raw 3 3 < 8 then 2 else 0)))) ∧
      (pb c.raw 0 0 ≠ 1 → exec (.arrayTransferPolicy k) s = .next (answered s k c
        ((coresOfJob s.chip j).foldl (fun x g => fwReg x .prgPolicy g fun x => regSet x .prgPolicy g w) s.chip)
        (rspOf (if pb c.raw 3 3 < 8 then 2 else 0))))) ∧
    (Taking s k 0x42 anyRow refreshChk c → ∀ g, g = arCore c.raw →
      (coreJob s.chip g ≠ some j → exec (.arrayRefresh k.fn k.ring) s = .next (answered s k c s.chip (rspOf 0x13))) ∧
      (coreJob s.chip g = some j →
        (coreFenced s.chip g = true → exec (.arrayRefresh k.fn k.ring) s = .next (answered s k c s.chip (rspOf 0x18))) ∧
        (coreFenced s.chip g = false → coreBusy s.chip g = true →
          exec (.arrayRefresh k.fn k.ring) s = .next (answered s k c s.chip (rspOf 0x14))) ∧
        (coreFenced s.chip g = false → coreBusy s.chip g = false →
          (((arArrays s.chip c.raw).any fun p => !posLoaded s.chip g p.1) = true →
            exec (.arrayRefresh k.fn k.ring) s = .next (answered s k c s.chip (rspBad 2))) ∧
          (((arArrays s.chip c.raw).any fun p => !posLoaded s.chip g p.1) = false → ∀ ch,
            ch = (arArrays s.chip c.raw).foldl (fun x p => queueRefresh x g p.2) s.chip →
            (pbit c.raw 4 0 0 = 1 → exec (.arrayRefresh k.fn k.ring) s =
              .next (waits s k c ch ((arArrays s.chip c.raw).map fun p => p.2))) ∧
            (pbit c.raw 4 0 0 ≠ 1 → exec (.arrayRefresh k.fn k.ring) s = .next (after s (updStream
              (respond (updStream ch (streamIx k) fun x => { x with
                bg := x.bg.filter fun d => !(cmdOp d.raw == 0x42 && refreshLeft ch d == []) }) (streamIx k) c (rspData 0 8 []))
              (streamIx k) fun x => { x with bg := x.bg ++ [{ c with
                committed := true, memo := (arArrays s.chip c.raw).map Prod.snd }] }))))))) ∧
    (Waiting s k 0x42 anyRow c →
      ((∃ a ∈ c.memo, a ∈ (bankOf s.chip (arCore c.raw)).refreshQ) →
        exec (.arrayRefresh k.fn k.ring) s = .next (waits s k c s.chip c.memo)) ∧
      ((∀ a ∈ c.memo, a ∉ (bankOf s.chip (arCore c.raw)).refreshQ) → exec (.arrayRefresh k.fn k.ring) s = .next (answered s k c s.chip
        (rspData 0 8 (leBytes c.memo.length 2 ++ [0, 0] ++
          leBytes ((c.memo.map fun a => (arrOf s.chip (arCore c.raw) a).driftLast).foldl (· + ·) 0) 4))))) ∧
    (Taking s k 0x50 anyRow calRunChk c →
      (((calTowers c.raw).any fun t => (towerOf s.chip t).fault) = true →
        exec (.calRun k) s = .next (answered s k c s.chip (rspOf 0x1A))) ∧
      (((calTowers c.raw).any fun t => (towerOf s.chip t).fault) = false → pbit c.raw 4 0 0 = 1 →
        exec (.calRun k) s = .next (waits s k c (calStart s.chip c.raw)
          ((calArrays s.chip c.raw).map fun p => (statOf s.chip p.1 p.2).runs * 256 + p.2))) ∧
      (((calTowers c.raw).any fun t => (towerOf s.chip t).fault) = false → pbit c.raw 4 0 0 ≠ 1 →
        exec (.calRun k) s = .next (answered s k c (calStart s.chip c.raw) (rspData 0 6 [])))) ∧
    (Waiting s k 0x50 anyRow c →
      (((calTowers c.raw).any fun t => (towerOf s.chip t).fault) = true →
        exec (.calRun k) s = .next (answered s k c s.chip (rspOf 0x1A))) ∧
      (((calTowers c.raw).any fun t => (towerOf s.chip t).fault) = false →
        (calOver s.chip c.raw c.memo = true →
          exec (.calRun k) s = .next (answered s k c s.chip (calRsp s.chip c.raw 0 c.memo))) ∧
        (calOver s.chip c.raw c.memo = false → exec (.calRun k) s = .next (waits s k c s.chip c.memo)))) ∧
    (Taking s k 0x51 anyRow (fun raw => ([(0, 3)], badIf (1 < pb raw 1 1) 1)) c → exec (.calPolicy k) s =
      .next (answered s k c (((List.range 8).filter fun t => (pb c.raw 0 0).testBit t).foldl (fun x t =>
        fwReg x .calPolicy t fun x =>
          regPut (regPut x .calPolicy t 7 0 (clampN 8 160 (pb c.raw 3 2))) .calCtrl t 1 1 (pb c.raw 1 1)) s.chip)
        (rspOf (if clampN 8 160 (pb c.raw 3 2) = pb c.raw 3 2 then 0 else 2)))) ∧
    (Taking s k 0x52 anyRow calQualityChk c → ∀ g, g = coreAt (pb c.raw 1 1) (pb c.raw 2 2) →
      (k.fn.val ≠ 0 → (pb c.raw 0 0 = 1 ∨ coreJob s.chip g ≠ some (jobId (k.fn.val - 1))) →
        exec (.calQuality k) s = .next (answered s k c s.chip (rspOf 0x13))) ∧
      ((k.fn.val = 0 ∨ pb c.raw 0 0 ≠ 1 ∧ coreJob s.chip g = some (jobId (k.fn.val - 1))) → ∀ bs,
        (pb c.raw 0 0 = 1 → bs = (List.range 8).flatMap (laneQuality s.chip (pb c.raw 1 1))) →
        (pb c.raw 0 0 ≠ 1 → bs = (posRange (pb c.raw 3 3) (pb c.raw 4 4)).flatMap (arrayQuality s.chip g)) →
        buffered s k c (.calQuality k) (pb c.raw 15 8) bs rspOk))

/-- R318, R325, R332, R333: the commands of ports, routes, training and collective groups, and the straggler policy. -/
def Obligations.FabricCommands : Prop :=
  ∀ (s : State) (k : Stream) (c : Cmd),
    (Taking s k 0x60 (actRow 0 2) portCfgChk c → ∀ p, p = pb c.raw 1 1 →
      (((span (2 * p) 2).any fun l => (linkOf s.chip l).st != 0) = true →
        exec (.fabPortCfgPort k) s = .next (answered s k c s.chip (rspOf 0x14))) ∧
      (((span (2 * p) 2).any fun l => (linkOf s.chip l).st != 0) = false → exec (.fabPortCfgPort k) s =
        .next (answered s k c (cfgPort s.chip p (pb c.raw 2 2) (pb c.raw 5 4) (pb c.raw 7 6) (pb c.raw 9 8)
          (pb c.raw 11 10) (pb c.raw 13 12, pb c.raw 15 14, pb c.raw 17 16)) rspOk))) ∧
    (Taking s k 0x60 (actRow 1 2)
        (fun raw => ([(0, 3)], badIf (63 < pb raw 1 1) 1 ++ badIf (31 < pb raw 2 2) 2 ++ badIf (3 < pb raw 3 3) 3)) c →
      exec (.fabPortCfgRoute k) s = .next (answered s k c (fwReg s.chip .fabRoute 0 fun ch => { ch with fab := { ch.fab with
        routes := tput ch.fab.routes (pb c.raw 1 1) ⟨pb c.raw 2 2, pbit c.raw 3 1 1 == 1, pbit c.raw 3 0 0 == 1⟩ } })
        rspOk)) ∧
    (Taking s k 0x61 (trainRow 0) trainChk c → ∀ ls, ls = portLinks s.chip (pb c.raw 0 0) →
      ((ls.any fun l => (linkOf s.chip l).st != 0 && (linkOf s.chip l).st != 4) = true →
        exec (.fabTrainTrain k) s = .next (answered s k c s.chip (rspOf 0x14))) ∧
      ((ls.any fun l => (linkOf s.chip l).st != 0 && (linkOf s.chip l).st != 4) = false → ∀ ch,
        ch = ls.foldl trainLink s.chip →
        ((pbit c.raw 2 0 0 = 0 ∨ trainOver ch c.raw = true) →
          exec (.fabTrainTrain k) s = .next (answered s k c ch (trainRsp ch c.raw 0))) ∧
        (pbit c.raw 2 0 0 ≠ 0 → trainOver ch c.raw = false →
          exec (.fabTrainTrain k) s = .next (waits s k c ch [])))) ∧
    (∀ a i, (a, i) ∈ [(0, Instr.fabTrainTrain k), (2, .fabTrainRetrain k)] → Waiting s k 0x61 (trainRow a) c →
      ((pbit c.raw 2 0 0 = 0 ∨ trainOver s.chip c.raw = true) →
        exec i s = .next (answered s k c s.chip (trainRsp s.chip c.raw 0))) ∧
      (pbit c.raw 2 0 0 ≠ 0 → trainOver s.chip c.raw = false → exec i s = .next (waits s k c s.chip []))) ∧
    (Taking s k 0x61 (trainRow 1) trainChk c → ∀ ch, ch = (portLinks s.chip (pb c.raw 0 0)).foldl takeDown s.chip →
      exec (.fabTrainTakeDown k) s = .next (answered s k c ch (trainRsp ch c.raw 0))) ∧
    (Taking s k 0x61 (trainRow 2) trainChk c → ∀ ls ch, ls = portLinks s.chip (pb c.raw 0 0) →
      ch = ls.foldl (fun x l => trainLink (takeDown x l) l) s.chip →
      ((ls.any fun l => (linkOf s.chip l).st == 1 || (linkOf s.chip l).st == 2) = true →
        exec (.fabTrainRetrain k) s = .next (answered s k c s.chip (rspOf 0x14))) ∧
      ((ls.any fun l => (linkOf s.chip l).st == 1 || (linkOf s.chip l).st == 2) = false →
        ((pbit c.raw 2 0 0 = 0 ∨ trainOver ch c.raw = true) →
          exec (.fabTrainRetrain k) s = .next (answered s k c ch (trainRsp ch c.raw 0))) ∧
        (pbit c.raw 2 0 0 ≠ 0 → trainOver ch c.raw = false →
          exec (.fabTrainRetrain k) s = .next (waits s k c ch [])))) ∧
    (Taking s k 0x62 (groupRow 0) groupChk c →
      (∀ r, groupRefusal s.chip k.fn.val c = some r → exec (.collGroupCreate k) s = .next (answered s k c s.chip r)) ∧
      (groupRefusal s.chip k.fn.val c = none → exec (.collGroupCreate k) s =
        .next (answered s k c (setGroup s.chip (pb c.raw 0 0) (newGroup s.chip c.raw)) rspOk))) ∧
    (Taking s k 0x62 (groupRow 1) groupChk c →
      (groupOf s.chip (pb c.raw 0 0) = none →
        exec (.collGroupDestroy k) s = .next (answered s k c s.chip (rspBad 0))) ∧
      (∀ x, groupOf s.chip (pb c.raw 0 0) = some x → x.job ≠ jobId (cmdJob c.raw) →
        exec (.collGroupDestroy k) s = .next (answered s k c s.chip (rspOf 0x13))) ∧
      (∀ x, groupOf s.chip (pb c.raw 0 0) = some x → x.job = jobId (cmdJob c.raw) → exec (.collGroupDestroy k) s =
        .next (answered s k c (destroyGroup s.chip (pb c.raw 0 0)) rspOk))) ∧
    (Taking s k 0x63 anyRow stragglerChk c → exec (.stragglerPolicy k) s =
      .next (answered s k c (updJob s.chip (cmdJob c.raw) fun b => { b with
        policy := pb c.raw 0 0, deadline := pb c.raw 7 4, opTimeout := pb c.raw 11 8 }) rspOk))

/-- R335, R337, R338, R345, R347: the commands of twin copies, with all that refuses them: a copying job's source, a hold
area, their removal, and the query; a copy asked for, whose command waits for its result; a restore, likewise. -/
def Obligations.TwinCommands : Prop :=
  ∀ (s : State) (k : Stream) (c : Cmd) (j : JobId), j = jobId (cmdJob c.raw) →
    (Taking s k 0x70 (actRow 0 4) sourceChk c →
      ((twinOf s.chip j.val).isSome = true →
        exec (.twinCfgSource k) s = .next (answered s k c s.chip (rspOf 0x14))) ∧
      (twinOf s.chip j.val = none → ∀ mine : Prop, (mine ↔ owner s.chip (objCluster (objOfNat (pb c.raw 13 12))) = some j ∧
          owner s.chip (objCluster (objOfNat (pb c.raw 15 14))) = some j) →
        (¬ mine → exec (.twinCfgSource k) s = .next (answered s k c s.chip (rspOf 0x13))) ∧
        (mine → pb c.raw 6 6 = s.chip.nwl.pos.toNat →
          exec (.twinCfgSource k) s = .next (answered s k c s.chip (rspBad 6))) ∧
        (mine → pb c.raw 6 6 ≠ s.chip.nwl.pos.toNat → ∀ o, o = (List.range (pb c.raw 1 1)).find? (fun i =>
            !twinLinkOk s.chip (jobOf s.chip j.val).jfid (pb c.raw 6 6) (pb c.raw (2 + i) (2 + i))) →
          (∀ i, o = some i → exec (.twinCfgSource k) s = .next (answered s k c s.chip (rspBad (2 + i)))) ∧
          (∀ r, o = none → tableRefusal s.chip j (pb c.raw 29 24) 24 = some r →
            exec (.twinCfgSource k) s = .next (answered s k c s.chip r)) ∧
          (o = none → tableRefusal s.chip j (pb c.raw 29 24) 24 = none →
            exec (.twinCfgSource k) s = .next (answered s k c { s.chip with fab := { s.chip.fab with
              twins := tput s.chip.fab.twins j.val (newSource s.chip c.raw) } } rspOk))))) ∧
    (Taking s k 0x70 (actRow 1 4) holdChk c → ∀ h : TwinHold,
      h = ⟨pb c.raw 1 1, BitVec.ofNat 16 (pb c.raw 3 2), pbit c.raw 4 0 0 == 1, pb c.raw 13 8, pb c.raw 23 16⟩ →
      ∀ t, t = ((holdOf s.chip h.src h.jfid).isSome ||
        (taken s.chip).any fun x => decide (h.da < x.1 + x.2 ∧ x.1 < h.da + holdSpan h)) →
      (h.src = s.chip.nwl.pos.toNat → exec (.twinCfgHold k) s = .next (answered s k c s.chip (rspBad 1))) ∧
      (h.src ≠ s.chip.nwl.pos.toNat → hbmEnd < h.da + holdSpan h →
        exec (.twinCfgHold k) s = .next (answered s k c s.chip (rspOf 0x1C))) ∧
      (h.src ≠ s.chip.nwl.pos.toNat → h.da + holdSpan h ≤ hbmEnd → t = true →
        exec (.twinCfgHold k) s = .next (answered s k c s.chip (rspOf 0x14))) ∧
      (h.src ≠ s.chip.nwl.pos.toNat → h.da + holdSpan h ≤ hbmEnd → t = false → exec (.twinCfgHold k) s = .next (answered s k c
          { s.chip with fab := { s.chip.fab with holds := s.chip.fab.holds ++ [h] } } rspOk))) ∧
    (Taking s k 0x70 (actRow 2 4) removeChk c →
      (pb c.raw 1 1 = 0 → twinOf s.chip (cmdJob c.raw) = none →
        exec (.twinCfgRemove k) s = .next (answered s k c s.chip (rspBad 1))) ∧
      (pb c.raw 1 1 = 0 → (twinOf s.chip (cmdJob c.raw)).isSome = true →
        ∀ ch, ch = abortCopy s.chip (cmdJob c.raw) 4 →
        exec (.twinCfgRemove k) s = .next (answered s k c
          { ch with fab := { ch.fab with twins := tdel ch.fab.twins (cmdJob c.raw) } } rspOk)) ∧
      (pb c.raw 1 1 ≠ 0 → ((s.chip.fab.holds.any fun h => h.src == pb c.raw 2 2) = false →
          exec (.twinCfgRemove k) s = .next (answered s k c s.chip (rspBad 2))) ∧
        ((s.chip.fab.holds.any fun h => h.src == pb c.raw 2 2) = true →
          exec (.twinCfgRemove k) s = .next (answered s k c { s.chip with fab := { s.chip.fab with
            holds := s.chip.fab.holds.filter fun h => h.src != pb c.raw 2 2
            ins := s.chip.fab.ins.filter fun x => x.job.isSome || x.src != pb c.raw 2 2 } } rspOk)))) ∧
    (Taking s k 0x70 (actRow 3 4) (fun _ => ([(0, 0)], [])) c →
      (twinOf s.chip (cmdJob c.raw) = none →
        exec (.twinCfgQuery k) s = .next (answered s k c s.chip (rspData 0 24 []))) ∧
      (∀ t, twinOf s.chip (cmdJob c.raw) = some t → exec (.twinCfgQuery k) s =
        .next (answered s k c s.chip (rspData 0 24 (leBytes (t.committed.getD (0, 0)).1 4 ++
          leBytes (t.committed.getD (0, 0)).2 8 ++ leBytes t.lastResult 1 ++ leBytes 0 3 ++ leBytes t.since 8))))) ∧
    (Taking s k 0x71 anyRow (fun raw => ([(0, 0)], badIf (1 < pb raw 0 0) 0)) c →
      (twinOf s.chip (cmdJob c.raw) = none →
        exec (.twinCopyNow k) s = .next (answered s k c s.chip (rspOf 0x12))) ∧
      (∀ t, twinOf s.chip (cmdJob c.raw) = some t → ∀ ch, (t.copy.isSome = true → ch = s.chip) →
        (t.copy = none → ch = updTwin s.chip (cmdJob c.raw) fun t => { t with now := true }) →
        (pbit c.raw 0 0 0 = 1 → exec (.twinCopyNow k) s = .next (waits s k c ch [])) ∧
        (pbit c.raw 0 0 0 ≠ 1 → exec (.twinCopyNow k) s = .next (answered s k c ch (rspData 0 1 []))))) ∧
    (Waiting s k 0x71 anyRow c →
      (∀ r, copyOver s.chip (cmdJob c.raw) = some r →
        exec (.twinCopyNow k) s = .next (answered s k c s.chip (rspData 0 1 (leBytes r 1)))) ∧
      (copyOver s.chip (cmdJob c.raw) = none → exec (.twinCopyNow k) s = .next (waits s k c s.chip []))) ∧
    (Taking s k 0x72 anyRow restoreChk c →
      (∀ x, restOf s.chip j.val = some x → x.running = true →
        exec (.twinRestore k) s = .next (answered s k c s.chip (rspOf 0x14))) ∧
      ((∀ x, restOf s.chip j.val = some x → x.running = false) →
        (∀ r, tableRefusal s.chip j (pb c.raw 21 16) 16 = some r →
          exec (.twinRestore k) s = .next (answered s k c s.chip r)) ∧
        (tableRefusal s.chip j (pb c.raw 21 16) 16 = none → pbit c.raw 22 0 0 ≠ 1 →
          exec (.twinRestore k) s = .next (answered s k c (startRestore s.chip c.raw) (rspData 0 17 []))))) ∧
    (∀ ch, (Taking s k 0x72 anyRow restoreChk c ∧ (∀ x, restOf s.chip j.val = some x → x.running = false) ∧
          tableRefusal s.chip j (pb c.raw 21 16) 16 = none ∧ pbit c.raw 22 0 0 = 1 ∧ ch = startRestore s.chip c.raw ∨
        Waiting s k 0x72 anyRow c ∧ ch = s.chip) →
      (∀ x, restOf ch (cmdJob c.raw) = some x → x.running = true →
        exec (.twinRestore k) s = .next (waits s k c ch [])) ∧
      (∀ x, restOf ch (cmdJob c.raw) = some x → x.running = false →
        exec (.twinRestore k) s = .next (answered s k c ch (restoreRsp x))) ∧
      (restOf ch (cmdJob c.raw) = none → exec (.twinRestore k) s = .next (answered s k c ch (rspOf 0))))

/-- R432, R435, R441, R443: the commands of Teasel: packs, the schedule with its clamp and the time it starts from, a test
that begins at the next test point and ends with its window, fences, the lists, and the readmission of cores, engines, arrays and towers. -/
def Obligations.TestCommands : Prop :=
  ∀ (s : State) (k : Stream) (c : Cmd),
    (∀ (h : HostIn) (v : Verdict), Taking s k 0x80 anyRow
        (fun raw => ([(0, 5), (8, 11)], badIf (0x200000 < pb raw 11 8) 8)) c →
      ((pb c.raw 5 0 < outBase ∨ 2 * outBase < pb c.raw 5 0 + pb c.raw 11 8) →
        exec (.testPackLoad k h v) s = .next (answered s k c s.chip (rspOf 0x1C))) ∧
      (outBase ≤ pb c.raw 5 0 → pb c.raw 5 0 + pb c.raw 11 8 ≤ 2 * outBase →
        ∀ ch, ch = hostRead s.chip 0 h [(pb c.raw 5 0, pb c.raw 11 8)] →
        (hostBad s.chip h = true → exec (.testPackLoad k h v) s = .next (answered s k c ch (rspOf 0x1D))) ∧
        (hostBad s.chip h = false →
          (v.vendorOk = true → packOk ch (pb c.raw 5 0) (pb c.raw 11 8) (minVerOf s.nv 2) = true →
            exec (.testPackLoad k h v) s = .next (answered s k c (installPack ch (pb c.raw 5 0) v).1
              (installPack ch (pb c.raw 5 0) v).2)) ∧
          ((v.vendorOk = false ∨ packOk ch (pb c.raw 5 0) (pb c.raw 11 8) (minVerOf s.nv 2) = false) →
            exec (.testPackLoad k h v) s = .next (answered s k c (raise ch .tslPackRejected 0) (rspOf 0x1B)))))) ∧
    (Taking s k 0x81 (actRow 0 3) scheduleChk c → ∀ ch r,
      ch = regPut (regPut s.chip .tslPeriod 0 15 0 (clampN 250 60000 (pb c.raw 7 4))) .tslCtrl 0 1 1
        (if pbit c.raw 8 0 0 = 1 then 1 else 0) →
      r = rspOf (if clampN 250 60000 (pb c.raw 7 4) = pb c.raw 7 4 then 0 else 2) →
      ((pbit c.raw 8 0 0 ≠ 1 ∨ (regGet s.chip .tslCtrl 0).getLsbD 1 = true) →
        exec (.testScheduleSet k) s = .next (answered s k c ch r)) ∧
      (pbit c.raw 8 0 0 = 1 → (regGet s.chip .tslCtrl 0).getLsbD 1 = false → exec (.testScheduleSet k) s =
        .next (answered s k c { ch with tsl := { ch.tsl with schedAt := s.chip.us } } r))) ∧
    (∀ obs, (Taking s k 0x81 (actRow 1 3) scheduleChk c ∨ Waiting s k 0x81 (actRow 1 3) c) → ∀ g, g = schedCore c.raw →
      (c.memo ≠ [] → (tcoreOf s.chip g).under ≠ some .now →
        exec (.testNow k obs) s = .next (answered s k c s.chip (rspData 0 1 [2]))) ∧
      ((c.memo = [] ∨ (tcoreOf s.chip g).under = some .now) →
        (coreFenced s.chip g = true → exec (.testNow k obs) s = .next (answered s k c s.chip (rspOf 0x14))) ∧
        (coreFenced s.chip g = false → (ctlRuns s.chip = false ∨ c.memo = [] ∧ (tcoreOf s.chip g).under = some .now) →
          exec (.testNow k obs) s = .next (waits s k c s.chip c.memo)) ∧
        (coreFenced s.chip g = false → ctlRuns s.chip = true → (c.memo ≠ [] ∨ (tcoreOf s.chip g).under ≠ some .now) →
          ∀ r, r = runWindow s.chip g .now (atTestPoint s.chip g && workDone s.chip g &&
            !memHeld s.chip (.core (g / 128)) (touched (fun x => flushCache x g) s.chip)) obs →
          (∀ p, r.2 = some p →
            exec (.testNow k obs) s = .next (answered s k c r.1 (rspData 0 1 [if p = true then 1 else 2]))) ∧
          (r.2 = none → exec (.testNow k obs) s =
            .next (waits s k c r.1 (if (tcoreOf r.1 g).under = some .now then [1] else [])))))) ∧
    (Taking s k 0x81 (actRow 2 3) scheduleChk c → exec (.testScheduleFence k) s = .next (answered s k c
      (fenceUnit s.chip (schedCore c.raw) (schedUnit c.raw) (pb c.raw 4 4)) rspOk)) ∧
    (Taking s k 0x82 (actRow 0 2) fenceQueryChk c → ∀ l,
      l = ((fencesOf s.chip k.fn.val).drop (pb c.raw 15 8)).take (pb c.raw 27 24) →
      buffered s k c (.fenceQueryFences k) (pb c.raw 21 16) l.flatten (queryRsp l.length (pb c.raw 15 8 + l.length))) ∧
    (Taking s k 0x82 (actRow 1 2) fenceQueryChk c → ∀ l,
      l = ((notesOf s.chip k.fn.val).filter fun n => decide (pb c.raw 15 8 ≤ n.seq)).take (pb c.raw 27 24) →
      (l = [] → buffered s k c (.fenceQueryNotify k) (pb c.raw 21 16) [] (queryRsp 0 (pb c.raw 15 8))) ∧
      (∀ n, l.getLast? = some n → buffered s k c (.fenceQueryNotify k) (pb c.raw 21 16) (l.flatMap noteRec)
        (queryRsp l.length (n.seq + 1)))) ∧
    (∀ obs, (Taking s k 0x83 anyRow readmitChk c ∨ Waiting s k 0x83 anyRow c) → ∀ t g n i, t = pb c.raw 1 1 →
      g = coreAt t (pb c.raw 2 2) → n = pb c.raw 3 3 → i = Instr.readmit k obs →
      (pb c.raw 0 0 = 3 →
        ((towerOf s.chip t).fenced = false → exec i s = .next (answered s k c s.chip (rspData 0 1 (leBytes 2 1)))) ∧
        ((towerOf s.chip t).fenced = true → clocksBack s.chip t obs = false →
          exec i s = .next (answered s k c s.chip (rspData 0 1 (leBytes 3 1)))) ∧
        ((towerOf s.chip t).fenced = true → clocksBack s.chip t obs = true → ∀ p,
          p = readmitTower (runClocks s.chip t) t obs →
          exec i s = .next (answered s k c p.1 (rspData 0 1 (leBytes p.2 1))))) ∧
      (pb c.raw 0 0 ≠ 3 → (towerOf s.chip t).fenced = true →
        exec i s = .next (answered s k c s.chip (rspData 0 1 (leBytes 4 1)))) ∧
      (pb c.raw 0 0 ≠ 3 → (towerOf s.chip t).fenced = false → ∀ out : Bool,
        (pb c.raw 0 0 = 0 → out = (tcoreOf s.chip g).fenced) →
        (pb c.raw 0 0 = 1 → out = (accOf s.chip g).fencedEng.getLsbD n) →
        (pb c.raw 0 0 ≠ 0 → pb c.raw 0 0 ≠ 1 → out = (arrOf s.chip g n).fenced) →
        (out = false → exec i s = .next (answered s k c s.chip (rspData 0 1 (leBytes 2 1)))) ∧
        (out = true → readmitReady s.chip g = false → exec i s = .next (waits s k c s.chip [])) ∧
        (out = true → readmitReady s.chip g = true →
          (contentPasses obs g = true → ∀ ch,
            (pb c.raw 0 0 = 0 → ch = readmitCore s.chip g) →
            (pb c.raw 0 0 = 1 → ch = updTcore (updAcc (emptyTiles s.chip g) g fun a => { a with
              fencedEng := a.fencedEng &&& ~~~(BitVec.ofNat 64 (2 ^ n)) }) g fun x => { x with
                engCause := tdel x.engCause n }) →
            (pb c.raw 0 0 ≠ 0 → pb c.raw 0 0 ≠ 1 → ch = updArr (emptyTiles s.chip g) g n fun x =>
              { (if (bankOf s.chip g).moves.any (fun m => m.old == n) = true then x else retired x 1) with
                fenced := false, fenceCause := 0, role := 1 }) →
            exec i s = .next (answered s k c ch (rspData 0 1 (leBytes 0 1)))) ∧
          (contentPasses obs g = false → ∀ ch,
            ch = (if pb c.raw 0 0 = 0 then updTcore (emptyTiles s.chip g) g fun x => { x with result := 2 }
              else emptyTiles s.chip g) →
            exec i s = .next (answered s k c ch (rspData 0 1 (leBytes 1 1)))))))

/-- R458, R459, R462, R465, R480: grants and dumps, a dump ending after the cut in progress, arming, disarming and triggering a snapshot, and the SENSOR_CFG
actions: a change of WD fields goes by way of STOPPING, an alarm is set at once, and a buffer is placed, or not. -/
def Obligations.CounterCommands : Prop :=
  ∀ (s : State) (k : Stream) (c : Cmd),
    (∀ o, (jobOf s.chip (cmdJob c.raw)).dump = o →
      (Taking s k 0x90 (actRow 0 2) accessChk c →
        (o = none → exec (.ctrAccessGrant k) s = .next (answered s k c s.chip (rspOf 0x15))) ∧
        (∀ d, o = some d → exec (.ctrAccessGrant k) s = .next (answered s k c
          (updJob s.chip (cmdJob c.raw) fun b => { b with dump := some { d with granted := true } }) (dumpRsp d)))) ∧
      (Taking s k 0x90 (actRow 1 2) accessChk c →
        (o = none → exec (.ctrAccessRevoke k) s = .next (answered s k c s.chip rspOk)) ∧
        (∀ d, o = some d → exec (.ctrAccessRevoke k) s = .next (answered s k c
          (updJob s.chip (cmdJob c.raw) fun b => { b with dump := some { d with granted := false } }) rspOk)))) ∧
    (Taking s k 0x91 (actRow 0 2) (fun raw => ([(0, 1), (4, 5)], badIf (1 < pb raw 0 0) 0 ++
        badIf (decide (pb raw 1 1 = 0 ∨ 128 < pb raw 1 1)) 1 ++ badIf (pb raw 5 4 < 2) 4)) c →
      ∀ jb, jobOf s.chip (cmdJob c.raw) = jb →
      (jb.dump.isSome = true → exec (.ctrDumpEnable k) s = .next (answered s k c s.chip (rspOf 0x14))) ∧
      (jb.dump = none → ∀ da n d, n = dumpSlot (pb c.raw 1 1) → d = ⟨da, n, pb c.raw 1 1, pb c.raw 5 4, 0, false⟩ →
        placeHbm s.chip jb.global jb.tower (n * pb c.raw 5 4) = some da →
        exec (.ctrDumpEnable k) s = .next (answered s k c
          (updJob (setLayer s.chip jb.global da) (cmdJob c.raw) fun b => { b with dump := some d }) (dumpRsp d))) ∧
      (jb.dump = none → placeHbm s.chip jb.global jb.tower (dumpSlot (pb c.raw 1 1) * pb c.raw 5 4) = none →
        exec (.ctrDumpEnable k) s = .next (answered s k c s.chip (rspOf 0x15)))) ∧
    ((Taking s k 0x91 (actRow 1 2) (fun _ => ([(0, 0)], [])) c ∨ Waiting s k 0x91 (actRow 1 2) c) →
      (dumpBusy s.chip (cmdJob c.raw) = true → exec (.ctrDumpDisable k) s = .next (waits s k c s.chip [])) ∧
      (dumpBusy s.chip (cmdJob c.raw) = false → exec (.ctrDumpDisable k) s = .next (answered s k c
        (freeLayers (updJob s.chip (cmdJob c.raw) fun b => { b with dump := none })) rspOk))) ∧
    (Taking s k 0x92 (actRow 0 3) armChk c →
      (snapDest s.chip (pb c.raw 21 16) (pb c.raw 31 24) = false →
        exec (.snapArm k) s = .next (answered s k c s.chip (rspOf 0x1C))) ∧
      (snapDest s.chip (pb c.raw 21 16) (pb c.raw 31 24) = true → exec (.snapArm k) s = .next (answered s k c
        (updObs s.chip fun o => { o with arm := some ⟨pb c.raw 1 1 == 1, pb c.raw 2 2, pb c.raw 3 3 == 1, pb c.raw 5 4,
          pb c.raw 7 6, pb c.raw 21 16, pb c.raw 31 24⟩, rearmed := true, trigs := [] }) snapRsp))) ∧
    (Taking s k 0x92 (actRow 1 3) (fun _ => ([(0, 0)], [])) c → exec (.snapDisarm k) s = .next (answered s k c
      (updObs s.chip fun o => { o with arm := none, trigs := [] }) rspOk)) ∧
    (Taking s k 0x92 (actRow 2 3) (fun _ => ([(0, 0)], [])) c →
      (s.chip.obs.arm = none → exec (.snapTriggerNow k) s = .next (answered s k c s.chip (rspOf 0x14))) ∧
      (∀ m, s.chip.obs.arm = some m →
        (obsRuns s.chip = false → exec (.snapTriggerNow k) s = .next (answered s k c s.chip (rspOf 0x14))) ∧
        (obsRuns s.chip = true → s.chip.obs.snap.isSome = true → exec (.snapTriggerNow k) s =
          .next (answered s k c (raise s.chip .obsSnapMissed 0) snapRsp)) ∧
        (obsRuns s.chip = true → s.chip.obs.snap = none →
          exec (.snapTriggerNow k) s = .next (answered s k c (takeSnap s.chip 5 0 m.da) snapRsp)))) ∧
    configures s k c (.sensorCfgConverter k) 0 converterChk none
      (snReg s.chip (scConv c.raw) .snstCfg .snsCfg !=
          (BitVec.ofNat 32 (converterCfg c.raw) &&& (regInfo (if scConv c.raw < 8 then .snstCfg else .snsCfg)).wd) ||
        (snReg s.chip (scConv c.raw) .snstTimer .snsTimer).toNat != pb c.raw 11 8)
      (fun ch => putConverter ch c) ∧
    configures s k c (.sensorCfgSequence k) 1 sequenceChk
      (if (sqWords c.raw).any fun p =>
          fwEntry (scConv c.raw) (sqInj c.raw) p.1 && snEntry s.chip (scConv c.raw) (sqInj c.raw) p.1 != p.2
        then some (rspBad 3) else none)
      ((sqWords c.raw).any fun p => snEntry s.chip (scConv c.raw) (sqInj c.raw) p.1 != p.2)
      (fun ch => ((sqWords c.raw).foldl (fun x p => snPutEntry x (scConv c.raw) (sqInj c.raw) p.1 p.2) ch, rspOk)) ∧
    configures s k c (.sensorCfgBuffer k) 2 bufferChk
      (if pb c.raw 2 2 = 1 ∧ pb c.raw 19 16 ≠ 0 ∧ (pb c.raw 13 8 < outBase ∨ 2 * outBase < pb c.raw 13 8 + pb c.raw 19 16)
        then some (rspOf 0x1C) else none) true (fun ch => changeBuffer ch c) ∧
    configures s k c (.sensorCfgAlarm k) 3 (fun raw => ([(0, 5)], scBad raw ++ badIf (16383 < pb raw 3 2) 2 ++
        badIf (decide (pb raw 3 2 ≤ pb raw 5 4)) 4)) none false
      (fun ch => (snPut ch (scConv c.raw) .snstAlarm .snsAlarm (pb c.raw 3 2 + pb c.raw 5 4 * 65536), rspOk)) ∧
    (∀ ch ch1, ch1 = freeLayers (putBuffer ch (scConv c.raw) 0 0 false) →
      (pb c.raw 19 16 = 0 → changeBuffer ch c = (ch1, bufferRsp 0)) ∧
      (pb c.raw 19 16 ≠ 0 → pb c.raw 2 2 = 1 → changeBuffer ch c =
        (putBuffer ch1 (scConv c.raw) (pb c.raw 13 8) (pb c.raw 19 16) false, bufferRsp (pb c.raw 13 8))) ∧
      (pb c.raw 19 16 ≠ 0 → pb c.raw 2 2 ≠ 1 →
        (placeHbm ch1 false 0xFF (pb c.raw 19 16) = none → changeBuffer ch c = (ch, rspOf 0x15)) ∧
        (∀ da, placeHbm ch1 false 0xFF (pb c.raw 19 16) = some da →
          changeBuffer ch c = (putBuffer ch1 (scConv c.raw) da (pb c.raw 19 16) true, bufferRsp da))))

/-- R280, R281, R356, R486, R490, R491, R493, R494: attestation, updates, owners and version counters, repairs, the
offload queue and the power cap. A bad signature or a security version below its minimum changes nothing that outlives
resets; a repair holds its pseudo-channel from its start to its end. -/
def Obligations.SystemCommands : Prop :=
  ∀ (s : State) (k : Stream) (c : Cmd) (j : JobId), j = jobId (cmdJob c.raw) →
    (∀ (h : HostIn) (v : Verdict) ch ad n, ad = pb c.raw 13 8 → n = pb c.raw 19 16 → ch = hostRead s.chip 0 h [(ad, n)] →
      (∀ kind, imageFits ch s.nv v ad n kind = true → v.magicOk = true ∧
        minVerOf s.nv (kind - 1) ≤ headVer (rdBytes ch ad 64) ∧
        (if kind = 1 ∧ s.nv.owners ≠ [] then v.ownerOk else v.vendorOk) = true) ∧
      ∀ a i ok nv, (a, i, ok, nv) ∈
        [(0, Instr.fwUpdateFirmware k h v, imageFits ch s.nv v ad n 2,
          { s.nv with preferFwB := !fwSlotB s.chip }),
        (1, .fwUpdateConfiguration k h v, imageFits ch s.nv v ad n 1,
          { s.nv with preferCfgB := !cfgSlotB s.chip }),
        (2, .fwUpdateOwner k h v, (if s.nv.owners = [] then v.vendorOk else v.ownerOk) && recordOk ch s.nv ad n,
          { s.nv with owners := s.nv.owners ++ [recordKey h s.chip ad] })] →
      Taking s k 0xB1 (actRow a 4) updateChk c →
      (islandRuns s.chip 22 = false → exec i s = .next (answered s k c s.chip (rspOf 0x14))) ∧
      (islandRuns s.chip 22 = true → (ad < outBase ∨ 2 * outBase < ad + n) →
        exec i s = .next (answered s k c s.chip (rspOf 0x1C))) ∧
      (islandRuns s.chip 22 = true → outBase ≤ ad → ad + n ≤ 2 * outBase →
        (hostBad s.chip h = true → exec i s = .next (answered s k c ch (rspOf 0x1D))) ∧
        (hostBad s.chip h = false → ok = false → exec i s = .next (answered s k c ch (rspOf 0x1B))) ∧
        (hostBad s.chip h = false → ok = true → exec i s = .next { answered s k c ch rspOk with nv := nv }))) ∧
    (Taking s k 0xB1 (actRow 3 4) (fun _ => ([(0, 0)], [])) c →
      (islandRuns s.chip 22 = false → exec (.fwUpdateRaise k) s = .next (answered s k c s.chip (rspOf 0x14))) ∧
      (islandRuns s.chip 22 = true → exec (.fwUpdateRaise k) s = .next { answered s k c
        (raiseIf (anyLower s.nv.minVer (runningVer s.chip)) s.chip .pwrLockRefused 0) rspOk with
        nv := { s.nv with minVer := raiseAll s.nv.minVer (runningVer s.chip) } })) ∧
    (∀ sig, Taking s k 0xB0 anyRow attestChk c →
      (islandRuns s.chip 22 = false → exec (.attestReport k sig) s = .next (answered s k c s.chip (rspOf 0x14))) ∧
      (islandRuns s.chip 22 = true → s.chip.sys.sec.pufFail = true →
        exec (.attestReport k sig) s = .next (answered s k c s.chip (rspOf 0x1B))) ∧
      (islandRuns s.chip 22 = true → s.chip.sys.sec.pufFail = false → ∀ bs,
        bs = reportHead s.chip s.nv k.fn.val (pb c.raw 31 0) ++ fitBytes sig 29792 ++
          (if pbit c.raw 40 0 0 = 1 then identityBytes 64 certLen else []) →
        buffered s k c (.attestReport k sig) (pb c.raw 37 32) bs (rspData 0 4 (leBytes bs.length 4)))) ∧
    (Taking s k 0xC0 anyRow (fun raw => ([(0, 0), (8, 15)], badIf (15 < pb raw 0 0) 0)) c → ∀ cs,
      cs = (stackOf s.chip (pb c.raw 0 0)).cands → buffered s k c (.hbmRepairQuery k) (pb c.raw 15 8)
        ((List.range 64).flatMap (pcRecord s.nv (pb c.raw 0 0)) ++ cs.flatMap candRecord)
        (rspData 0 6 (le16 (stackLeft s.nv (pb c.raw 0 0) 0) ++ le16 (stackLeft s.nv (pb c.raw 0 0) 1) ++
          leBytes cs.length 2))) ∧
    (∀ t p kind b row, t = pb c.raw 0 0 → p = pb c.raw 1 1 → kind = pb c.raw 2 2 → b = pb c.raw 3 3 → row = pb c.raw 5 4 →
      (Taking s k 0xC1 anyRow applyChk c →
        ((stackOf s.chip t).repair.isSome = true →
          exec (.hbmRepairApply k) s = .next (answered s k c s.chip (rspOf 0x14))) ∧
        ((stackOf s.chip t).repair = none → sparesLeft s.nv t p b kind = 0 →
          exec (.hbmRepairApply k) s = .next (answered s k c s.chip (rspOf 0x15))) ∧
        ((stackOf s.chip t).repair = none → 0 < sparesLeft s.nv t p b kind → exec (.hbmRepairApply k) s =
          .next (waits s k c (updStack s.chip t fun x => { x with repair := some p }) []))) ∧
      (Waiting s k 0xC1 anyRow c → ∀ ch, ch = (if pbit c.raw 6 0 0 = 1 then s.chip
          else (rowLines p b row).foldl (fun x l => forgetLine x (lineDa x t l)) s.chip) →
        exec (.hbmRepairApply k) s = .next { answered s k c (repairOver (noteRepair ch t p b row kind) t) rspOk with
          nv := if kind = 0 then { s.nv with soft := s.nv.soft ++ [(t, p, b, row)] }
            else { s.nv with hard := s.nv.hard ++ [(t, p, b, row)] } }) ∧
      (live s.chip = true → cmdIn s.chip (streamIx k) 0xC1 anyRow = some c → c.committed = false →
        (blocked s.chip (streamIx k) c = true → exec (.hbmRepairApply k) s = .next s) ∧
        (∀ r, blocked s.chip (streamIx k) c = false →
          refuse s.chip (streamIx k) c (applyChk c.raw).1 (applyChk c.raw).2 = some r →
          exec (.hbmRepairApply k) s = .next (answered s k c s.chip r))) ∧
      (live s.chip = true → cmdIn s.chip (streamIx k) 0xC1 anyRow = none → exec (.hbmRepairApply k) s = .next s)) ∧
    (Taking s k 0xD0 (actRow 0 2) offloadChk c →
      (∀ r, offloadRefusal s.chip j c.raw = some r → exec (.offloadCfgEnable k) s = .next (answered s k c s.chip r)) ∧
      (offloadRefusal s.chip j c.raw = none → exec (.offloadCfgEnable k) s =
        .next (answered s k c (setBw s.chip j.val (newQueue s.chip c.raw)) rspOk))) ∧
    (Taking s k 0xD0 (actRow 1 2) (fun _ => ([(0, 0), (2, 6), (8, 13), (16, 21), (24, 31)], [])) c →
      exec (.offloadCfgDisable k) s = .next (answered s k c (bwDisable s.chip j) rspOk)) ∧
    (Taking s k 0xE0 anyRow capChk c → ∀ v cap, v = pb c.raw 1 0 →
      cap = max 800 (min 2150 (if v = 0 then s.chip.sys.cap0 else v)) →
      exec (.powerCapSet k) s = .next (answered s k c ((List.range 8).foldl (fun x t =>
          if pb c.raw (2 + t) (2 + t) = 0 then x else regPut x .pwrTPoint t 13 8 (pb c.raw (2 + t) (2 + t)))
          (regPut s.chip .pwrCap 0 11 0 cap))
        (rspData (if v = 0 ∨ cap = v then 0 else 2) 4 (leBytes cap 2 ++ leBytes s.chip.sys.pwr.est 2))))

/-! ### Observation, converters, power and clocks (17, 20 to 23) -/

/-- R451 to R453, R460 to R465: cuts, skipped periods, records, monitors and snapshots; freezing stops every counter;
a read of the low word latches the high one. -/
def Obligations.Observation : Prop :=
  ∀ (s : State), live s.chip = true →
    (obsRuns s.chip = true → periodOver s.chip = true →
      (s.chip.obs.cutBusy = false → exec .sorrelCut s = .next (after s (updObs s.chip fun o => { o with
        seq := s.chip.obs.seq + 1, lastCut := thisPeriod s.chip, cutBusy := true
        recs := cutRecords s.chip (s.chip.obs.seq + 1), skipped := false }))) ∧
      (s.chip.obs.cutBusy = true → exec .cutSkipped s = .next (after s (raise
        (updObs s.chip fun o => { o with lastCut := thisPeriod s.chip, skipped := true }) .obsCutSkipped 0)))) ∧
    ((obsRuns s.chip = false ∨ periodOver s.chip = false ∨ s.chip.obs.cutBusy = true) → exec .sorrelCut s = .next s) ∧
    ((obsRuns s.chip = false ∨ periodOver s.chip = false ∨ s.chip.obs.cutBusy = false) → exec .cutSkipped s = .next s) ∧
    (s.chip.obs.cutBusy = true → islandRuns s.chip 24 = true → exec .cutRecordsWritten s =
      .next (after s (updObs (s.chip.obs.recs.foldl recordWritten s.chip) fun o =>
        { o with cutBusy := false, recs := [], doneSeq := o.seq }))) ∧
    ((s.chip.obs.cutBusy = false ∨ islandRuns s.chip 24 = false) → exec .cutRecordsWritten s = .next s) ∧
    (∀ (n : Fin 4) d,
      (∀ m, s.chip.obs.arm = some m → obsRuns s.chip = true →
        s.chip.obs.trigs.contains (n.val + 1, d) = true → lowTrig s.chip.obs.trigs = n.val + 1 →
        (s.chip.obs.snap = none → exec (.yarrowTrigger n d) s = .next (after s (takeSnap s.chip (n.val + 1) d m.da))) ∧
        (s.chip.obs.snap.isSome = true → exec (.yarrowTrigger n d) s = .next (after s (raise
          (updObs s.chip fun o => { o with trigs := o.trigs.filter fun x => x != (n.val + 1, d) }) .obsSnapMissed 0)))) ∧
      ((s.chip.obs.arm = none ∨ obsRuns s.chip = false ∨ s.chip.obs.trigs.contains (n.val + 1, d) = false ∨
          lowTrig s.chip.obs.trigs ≠ n.val + 1) → exec (.yarrowTrigger n d) s = .next s)) ∧
    (∀ da bs, s.chip.obs.snap = some (da, bs) → islandRuns s.chip 24 = true →
      exec .snapshotRecordWritten s = .next (after s (health (raise (updObs (streamWrite s.chip da bs) fun o => { o with
        snap := none, arm := if o.rearmed then o.arm else o.arm.filter fun m => m.rearm }) .obsSnapDone 0)))) ∧
    ((s.chip.obs.snap = none ∨ islandRuns s.chip 24 = false) → exec .snapshotRecordWritten s = .next s) ∧
    (∀ (m : Fin 272) k w x p, w = monSrc s.chip m.val → x = tget s.chip.obs.mons ⟨0, 0, none⟩ m.val →
      p = monReg m.val .obstHmStat .obspHmStat → obsRuns s.chip = true → w.getLsbD 31 = true → w.getLsbD 30 = false →
      x.startUs + monWinUs s.chip m.val ≤ s.chip.us → monCounter m.val w = some k →
      ∀ inc, inc = (cntNow s.chip k + 2 ^ 64 - x.startCnt) % 2 ^ 64 →
      ∀ ch, ch = updObs (regPut s.chip p.1 p.2 31 8 (min 0xFFFFFF inc)) (fun o => { o with
        mons := tput o.mons m.val ⟨x.startUs + monWinUs s.chip m.val, cntNow s.chip k, x.firedAt⟩ }) →
      exec (.healthMonitorWindow m) s = .next (after s
        (if monHit (w.getLsbD 29) inc (monThr s.chip m.val).toNat then fireMon ch m.val else ch))) ∧
    (∀ (m : Fin 272) w x, w = monSrc s.chip m.val → x = tget s.chip.obs.mons ⟨0, 0, none⟩ m.val →
      (obsRuns s.chip = false ∨ w.getLsbD 31 = false ∨ w.getLsbD 30 = true ∨
        s.chip.us < x.startUs + monWinUs s.chip m.val ∨ monCounter m.val w = none) →
      exec (.healthMonitorWindow m) s = .next s) ∧
    (OnBus s .obsFreeze 0 → ∀ b, exec (.obsFreeze b) s =
      .next (after s (regPut (okBus s .obsFreeze 0) .obsFreeze 0 0 0 (b2n b)))) ∧
    ((islandRuns s.chip 20 = false ∨ islandRuns s.chip 24 = false) →
      (∀ b, exec (.obsFreeze b) s = .next (after s (busError s.chip))) ∧
      exec .obsCntLoRead s = .next (after s (busError s.chip))) ∧
    ((regGet s.chip .obsFreeze 0).getLsbD 0 = true → ∀ k n, count s.chip k n = s.chip) ∧
    (OnBus s .obsCntLo 0 → ∃ ch, exec .obsCntLoRead s = .next (after s ch) ∧
      ch.obs.cntHi = BitVec.ofNat 32 (cntSel s.chip / 2 ^ 32) ∧
      ch.resp = ⟨.ok, leBytes (cntSel s.chip % 2 ^ 32) 4, false⟩)

/-- R467 to R477: triggers start their sequences, are dropped while one runs, or follow the package converter's; urgent
ones start, wait or are lost; a conversion records its result with its flags, judges it and goes on; a reference settles;
a converter that is not ENABLED starts nothing. -/
def Obligations.Converters : Prop :=
  ∀ (s : State) (k : ConvId), live s.chip = true →
    (fld (snCfg s.chip k.val) 1 0 ≠ 2 →
      exec (.snsRegularTrigger k) s = .next (after s (snTrigger s.chip k.val)) ∧ exec (.regNow k) s = .next s) ∧
    (fld (snCfg s.chip k.val) 1 0 = 2 →
      exec (.snsRegularTrigger k) s = .next s ∧ exec (.regNow k) s = .next (after s (snBegun (snTrigger
        (if snOn s.chip k.val && !snSync s.chip k.val && (convOf s.chip k.val).reg.isNone
          then snPutBit s.chip k.val 1 true else s.chip) k.val) k.val))) ∧
    (∀ ch x, x = convOf ch k.val →
      snBit (snBegun ch k.val) k.val 1 = (snBit ch k.val 1 && x.reg.isSome && !snDoes x false) ∧
      snBit (snBegun ch k.val) k.val 2 =
        (snBit ch k.val 2 && (x.held.testBit 0 || x.src.testBit 0 && !snDoes x true))) ∧
    (k.val < 8 → (snCfg s.chip k.val).getLsbD 3 = true → snTrigger s.chip k.val = s.chip) ∧
    (k.val < 8 → (snCfg s.chip k.val).getLsbD 3 = false → snTrigger s.chip k.val = snStart s.chip k.val) ∧
    (k.val = 8 → snTrigger s.chip 8 = if snOn s.chip 8
      then ((List.range 8).filter fun i => (snCfg s.chip i).getLsbD 3).foldl snStart (snStart s.chip 8)
      else snStart s.chip 8) ∧
    (snOn s.chip k.val = false → snStart s.chip k.val = s.chip) ∧
    (snOn s.chip k.val = true →
      ((convOf s.chip k.val).reg.isSome = true →
        snStart s.chip k.val = snRaise s.chip k.val .snstRegOverrun .snsRegOverrun) ∧
      ((convOf s.chip k.val).reg = none → ∀ p, p = (snSeq s.chip k.val false 0).head? → snStart s.chip k.val =
        updConv s.chip k.val fun x => { x with reg := p, now := if x.now.isNone && x.src == 0 then p else x.now })) ∧
    (∀ n : BitVec 4, exec (.snsUrgentTrigger k n) s = .next (after s (snUrgent s.chip k.val n.toNat))) ∧
    exec (.injNow k) s = .next (after s (snBegun (snUrgent (if snOn s.chip k.val && (convOf s.chip k.val).held == 0
      then snPutBit s.chip k.val 2 true else s.chip) k.val 1) k.val)) ∧
    (∀ (ch : Chip) (n : Nat) (x : Adc), x = convOf ch k.val →
      ((snOn ch k.val = false ∨ n = 0) → snUrgent ch k.val n = ch) ∧
      (snOn ch k.val = true → n ≠ 0 →
        (x.src ≠ 0 → x.held = 0 → snUrgent ch k.val n = updConv ch k.val fun x => { x with held := n }) ∧
        (x.src ≠ 0 → x.held ≠ 0 → snUrgent ch k.val n = snRaise ch k.val .snstInjOverrun .snsInjOverrun) ∧
        (x.src = 0 → (snSeq ch k.val true n).head? = none → snUrgent ch k.val n = ch) ∧
        (x.src = 0 → ∀ p, (snSeq ch k.val true n).head? = some p → snUrgent ch k.val n =
          updConv ch k.val fun x => { x with src := n, now := if x.now.isNone then some p else x.now }))) ∧
    (∀ obs : ConvObs, ((convOf s.chip k.val).now = none ∨ snMoves s.chip k.val = false) →
      exec (.snsConversion k obs) s = .next s) ∧
    (∀ (obs : ConvObs) (p : SnsPos) (w v : Word) (raw opn diode : Bool), (convOf s.chip k.val).now = some p →
      snMoves s.chip k.val = true → w = snEntry s.chip k.val p.inj p.ent →
      raw = !((convOf s.chip k.val).settled.getLsbD (fld w 28 27)) → opn = snOpen w p.chan obs.code.toNat →
      v = pack [(0, obs.code.toNat), (14, b2n opn), (15, b2n raw), (31, 1)] → diode = decide (k.val < 8 ∧ p.chan < 16) →
      ∀ c1 c2 c3 c4 c5 rec8,
      c1 = (if k.val < 8 then regSet s.chip .snstLast k.val v p.chan else regSet s.chip .snsLast 0 v p.chan) →
      c2 = (if raw then snRaise c1 k.val .snstUnsettled .snsUnsettled else c1) →
      c3 = (if opn then health (snRaise c2 k.val .snstOpenWire .snsOpenWire) else c2) →
      rec8 = leBytes (obs.code.toNat + b2n opn * 2 ^ 14 + b2n raw * 2 ^ 15) 2 ++ leBytes p.chan 1 ++
        leBytes (k.val + b2n p.inj * 16 + b2n (fld w 30 29 != 0) * 32 + fld w 28 27 * 64) 1 ++ leBytes (islCycles c3 21) 4 →
      c4 = sensorMons (snRecord c3 k.val rec8 obs.bufError) k.val p.chan obs.code.toNat →
      c5 = snNext (if diode && !p.inj && fld w 30 29 == 0 then snMean c4 k.val p.chan obs.code.toNat else c4) k.val p →
      exec (.snsConversion k obs) s = .next (after s (if diode then snAlarm c5 k.val p.chan obs.code.toNat else c5))) ∧
    (∀ r : Fin 3,
      (snOn s.chip k.val = true → exec (.referenceSettled k r) s = .next (after s (updConv s.chip k.val fun x => { x with
        settled := x.settled ||| BitVec.ofNat 3 (2 ^ r.val) }))) ∧
      (snOn s.chip k.val = false → exec (.referenceSettled k r) s = .next s))

/-- R482 to R488, R496, R498: an interval takes the estimate with its bias and moves every tower by at most one code;
the bias follows a fresh board figure; a glide moves F by one code, down at once, up only with the voltage settled, and
the voltage follows the last step down; a failed ramp gives the code up; a hold ends a step at a time; THERMTRIP_N stops
every clock. -/
def Obligations.PowerManager : Prop :=
  ∀ (s : State) (t : TowerId), live s.chip = true →
    (∀ e : Nat, powerRuns s.chip = true → ∀ c0 c2, c0 = updPwr s.chip (fun p => { p with est := ((e : Int) + p.bias).toNat }) →
      c2 = gateInterval ((List.range 8).foldl (fun c t => towerInterval c s.nv t) c0)
        ((List.range 8).all fun t => (pointOf c0 t).goal == 18) →
      exec (.powerInterval e) s = .next (after s (updPwr c2 fun p => { p with
        capMs := p.capMs || cappedTowers c2 != 0, holdMs := p.holdMs || heldTowers c2 != 0 }))) ∧
    (powerRuns s.chip = false → (∀ e, exec (.powerInterval e) s = .next s) ∧ exec .powerBiasCorrect s = .next s) ∧
    (∀ (ch : Chip) (nv : NonVol), ∃ y, towerInterval ch nv t.val = updPoint (updPoint ch t.val fun p =>
      aim p (nextGoal ch t.val) (vfMv nv t.val (nextGoal ch t.val))) t.val fun p => { p with capped := y }) ∧
    ((nextGoal s.chip t.val ≤ (pointOf s.chip t.val).goal + 1) ∧
      ((pointOf s.chip t.val).goal ≤ nextGoal s.chip t.val + 1)) ∧
    (∀ a, s.chip.sys.pwr.boardAt = some a → powerRuns s.chip = true → s.chip.us ≤ a + 10000 →
      exec .powerBiasCorrect s = .next (after s (updPwr s.chip fun p => { p with
        bias := p.bias + ((regGet s.chip .pwrTlmBoard 0).toNat / 1000 : Nat) - (p.est : Int) }))) ∧
    ((s.chip.sys.pwr.boardAt = none ∨ ∃ a, s.chip.sys.pwr.boardAt = some a ∧ a + 10000 < s.chip.us) →
      exec .powerBiasCorrect s = .next s) ∧
    ((islandRuns s.chip 20 = false ∨ (pointOf s.chip t.val).ramp = false) →
      ∀ e, exec (.voltageRampDone t e) s = .next s) ∧
    (islandRuns s.chip 20 = false → exec (.freqGlide t) s = .next s) ∧
    (islandRuns s.chip 20 = true → ∀ p, pointOf s.chip t.val = p →
      (p.f < p.goal → p.ramp = false → exec (.freqGlide t) s =
        .next (after s (updPoint s.chip t.val fun p => { p with f := p.f + 1 }))) ∧
      (p.f < p.goal → p.ramp = true → exec (.freqGlide t) s = .next (after s (updPoint s.chip t.val id))) ∧
      (p.f = p.goal → exec (.freqGlide t) s = .next (after s (updPoint s.chip t.val id))) ∧
      (p.goal < p.f → ∀ q : PTower, q = { p with f := p.f - 1 } →
        (q.f = p.goal → (p.held = false ∨ q.f ≤ 18) → exec (.freqGlide t) s =
          .next (after s (updPoint s.chip t.val fun _ => commandMv q (vfMv s.nv t.val q.f)))) ∧
        ((q.f ≠ p.goal ∨ p.held = true ∧ 18 < q.f) → exec (.freqGlide t) s =
          .next (after s (updPoint s.chip t.val fun _ => q)))) ∧
      (p.ramp = true →
        exec (.voltageRampDone t false) s = .next (after s (updPoint s.chip t.val fun p => { p with ramp := false })) ∧
        exec (.voltageRampDone t true) s = .next (after s (health (raise (updPoint s.chip t.val fun p =>
          { p with ramp := false, goal := p.f, mv := p.mvOld }) .pwrVrError 0))))) ∧
    (powerRuns s.chip = true → islandRuns s.chip 21 = true → ∀ p, pointOf s.chip t.val = p → p.held = false →
      p.cooling = true → p.since + 1000 ≤ s.chip.us →
      (ceilingOf s.chip t.val ≤ p.goal → exec (.thermalHoldRaise t) s =
        .next (after s (updPoint s.chip t.val fun p => { p with cooling := false }))) ∧
      (p.goal < ceilingOf s.chip t.val → mayRise s.chip = true → exec (.thermalHoldRaise t) s =
        .next (after s (updPoint (aimTower s.chip s.nv t.val (p.goal + 1)) t.val fun q =>
          { q with since := s.chip.us, cooling := decide (q.goal < ceilingOf s.chip t.val) }))) ∧
      (p.goal < ceilingOf s.chip t.val → mayRise s.chip = false → exec (.thermalHoldRaise t) s = .next s)) ∧
    (∀ p, pointOf s.chip t.val = p → (powerRuns s.chip = false ∨ islandRuns s.chip 21 = false ∨ p.held = true ∨
        p.cooling = false ∨ s.chip.us < p.since + 1000) → exec (.thermalHoldRaise t) s = .next s) ∧
    (∃ ch, exec (.thermtrip t) s = .next (after s ch) ∧ ch.islRun = 0 ∧ ch.sys.pins.trip = true ∧ ch.nwl.barOut = 0 ∧
      ch.pci.width = 0 ∧ live ch = false ∧ ch.mem = s.chip.mem ∧ ch.regs = s.chip.regs)

/-- R28, R366, R371, R431: the loss of a tower's clock fences the tower and halts its jobs, that of another island has
the consequences of the table; an access to an island that stands still ends with a bus error. -/
def Obligations.ClocksAndBus : Prop :=
  ∀ (s : State), live s.chip = true →
    (∀ (t : TowerId) (arr : Bool),
      (islandRuns s.chip (if arr then 8 + t.val else t.val) = true → exec (.clockLossTower t arr) s =
        .next (after s (fenceTowerJobs (loseIsland (if arr then abandonRuns s.chip t.val else s.chip)
          (if arr then 8 + t.val else t.val)) t.val))) ∧
      (islandRuns s.chip (if arr then 8 + t.val else t.val) = false → exec (.clockLossTower t arr) s = .next s)) ∧
    (∀ (i : IslandId) (t : TowerId), i.val < 16 → t.val = i.val % 8 →
      exec (.clockLossIsland i) s = exec (.clockLossTower t (decide (8 ≤ i.val))) s) ∧
    (∀ i : IslandId, 16 ≤ i.val →
      (islandRuns s.chip i.val = true → i.val ≠ 18 → i.val ≠ 19 → i.val ≠ 23 →
        exec (.clockLossIsland i) s = .next (after s (loseIsland s.chip i.val))) ∧
      (islandRuns s.chip i.val = true → i.val = 18 →
        exec (.clockLossIsland i) s = .next (after s (loseFabric (loseIsland s.chip 18)))) ∧
      (islandRuns s.chip i.val = true → i.val = 19 →
        exec (.clockLossIsland i) s = .next (after s (pcieDown (loseIsland s.chip 19)))) ∧
      (islandRuns s.chip i.val = true → i.val = 23 →
        exec (.clockLossIsland i) s = .next (after s (loseNwlClk s.chip))) ∧
      (islandRuns s.chip i.val = false → exec (.clockLossIsland i) s = .next s)) ∧
    (∀ a w, (∀ t, busTarget a = some t → busReaches s.chip t a = true) → exec (.registerBusTimeout a w) s = .next s) ∧
    (∀ a w t, busTarget a = some t → busReaches s.chip t a = false → ∃ ch,
      exec (.registerBusTimeout a w) s = .next (after s ch) ∧ ch.resp = ⟨.busError, [0xFF, 0xFF, 0xFF, 0xFF], false⟩ ∧
      (regGet ch .pwrBusEvent 0 ||| regGet s.chip .pwrBusEvent 0) = regGet ch .pwrBusEvent 0 ∧ ch.mem = s.chip.mem)

/-! ### Registers (17) -/

/-- R8, R16, R63, R105, R304, R368, R374 to R376: a write of a register that is reached has its effect, one to an island
that stands still a bus error, one to a reserved place or a mirror none; an enable, a disable, and the end of STOPPING
change the block's state alone or with the block's own work; a write of WD fields while the block is not DISABLED sets
`cfg_ignored` and leaves them; the bits that start something start it, or wait, or are refused. -/
def Obligations.RegisterWrites : Prop :=
  ∀ (s : State), live s.chip = true →
    (∀ a v, busTarget a = none → exec (.registerWrite a v) s = .next (after s { s.chip with resp := ⟨.unsupported, [], false⟩ })) ∧
    (∀ a v t, busTarget a = some t →
      (busReaches s.chip t a = false → exec (.registerWrite a v) s = .next (after s (busError s.chip))) ∧
      (busReaches s.chip t a = true →
        ((t.at? = none ∨ t.mirror = true) → exec (.registerWrite a v) s = .next (after s (okAt s t a))) ∧
        (∀ x, t.at? = some x → t.mirror = false → exec (.registerWrite a v) s =
          .next (after s (writeReg (okAt s t a) false x.reg x.unit x.elem v))))) ∧
    (∀ a sec, blkAt a = none → exec (.blockEnable a sec) s = .next s ∧ exec (.blockDisable a sec) s = .next s ∧
      exec (.blockStopped a sec) s = .next s) ∧
    (∀ a sec b u, blkAt a = some (b, u) →
      ((islandRuns s.chip 20 = false ∨ islandRuns s.chip (blkIsle b u) = false) →
        exec (.blockEnable a sec) s = .next (after s (busError s.chip)) ∧
        exec (.blockDisable a sec) s = .next (after s (busError s.chip))) ∧
      (islandRuns s.chip 20 = true → islandRuns s.chip (blkIsle b u) = true →
        (blkGet s.chip b u sec = .disabled → exec (.blockDisable a sec) s = .next s ∧ exec (.blockEnable a sec) s =
          .next (after s (enableStart (blkSet s.chip b u sec .enabled) b u))) ∧
        (blkGet s.chip b u sec = .enabled → exec (.blockEnable a sec) s = .next s ∧
          ∀ ch, ch = blkSet s.chip b u sec .stopping →
          (b ≠ .nwl → b ≠ .fab → exec (.blockDisable a sec) s = .next (after s ch)) ∧
          (b = .nwl →
            exec (.blockDisable a sec) s = .next (after s { ch with nwl := { ch.nwl with trigPull := false } })) ∧
          (b = .fab → exec (.blockDisable a sec) s =
            .next (after s { ch with fab := { ch.fab with stopAt := tput ch.fab.stopAt u s.chip.us } }))) ∧
        (blkGet s.chip b u sec = .stopping → exec (.blockDisable a sec) s = .next s ∧
          exec (.blockEnable a sec) s = .next (after s (raiseOpt s.chip (earlyEv b) u)))) ∧
      ((blkGet s.chip b u sec ≠ .stopping ∨ islandRuns s.chip (blkIsle b u) = false ∨ stopReady s.chip b u sec = false) →
        exec (.blockStopped a sec) s = .next s) ∧
      (blkGet s.chip b u sec = .stopping → islandRuns s.chip (blkIsle b u) = true → stopReady s.chip b u sec = true →
        exec (.blockStopped a sec) s = .next (after s (blkSet (stopEnd s.chip b u) b u sec .disabled)))) ∧
    (∀ (r : Reg) (u k : Nat) (v : Word), (regInfo r).wd ≠ 0 → blkGet s.chip (regInfo r).blk u ≠ .disabled →
      (regInfo r).rw = 0 → plainWrite s.chip r u k v = raiseOpt s.chip (cfgEv (regInfo r).blk) u) ∧
    (∀ (r : Reg) (u k : Nat) (v m w : Word) (e : Option Ev) (ch : Chip),
      m = ((regInfo r).rw ||| if blkGet s.chip (regInfo r).blk u = .disabled then (regInfo r).wd else 0) → m ≠ 0 →
      ch = (if (regInfo r).wd ≠ 0 ∧ blkGet s.chip (regInfo r).blk u ≠ .disabled
        then raiseOpt s.chip (cfgEv (regInfo r).blk) u else s.chip) → clampReg r (v &&& m) = (w, e) →
      plainWrite s.chip r u k v = raiseOpt (regSet ch r u ((regGet s.chip r u k &&& ~~~m) ||| (w &&& m)) k) e
        (if r = .prgPolicy ∨ r = .calPolicy then u else 0)) ∧
    (∀ c : CoreId,
      (OnBus s .prgCtrl c.val → ∀ a x, a = regFld s.chip .prgSel c.val 7 0 → x = arrOf s.chip c.val a →
        ((x.role ≠ 0 ∨ x.fenced = true ∨ x.loaded = false) → exec (.refreshNow c) s =
          .next (after s (regPut (raise (okBus s .prgCtrl c.val) .prgRefreshReject c.val) .prgCtrl c.val 1 1 0))) ∧
        (x.role = 0 → x.fenced = false → x.loaded = true → ∀ going : Prop,
          (going ↔ (bankOf s.chip c.val).refresh.any (fun r => r.phys == a) = true ∨
            (bankOf s.chip c.val).moves.any (fun m => m.old == a) = true) →
          (going → exec (.refreshNow c) s = .next (after s (regPut (okBus s .prgCtrl c.val) .prgCtrl c.val 1 1 0))) ∧
          (¬ going → exec (.refreshNow c) s = .next (after s (regPut (updBank
            (queueRefresh (okBus s .prgCtrl c.val) c.val a) c.val fun b => { b with nowFor := some a })
            .prgCtrl c.val 1 1 1))))) ∧
      (OnBus s .calFReq c.val →
        exec (.runArray c) s = .next (after s (queueCal (okBus s .calFReq c.val) c.val
          (physOf s.chip c.val (regFld s.chip .calFSel c.val 6 0)))) ∧
        exec (.runField c) s = .next (after s (queueField (okBus s .calFReq c.val) c.val)))) ∧
    (∀ t : TowerId,
      (OnBus s .calCtrl t.val →
        (enabled s.chip .cal t.val = true → exec (.traceNow t) s =
          .next (after s (regPut (startTrace (okBus s .calCtrl t.val) t.val) .calCtrl t.val 2 2 0))) ∧
        (enabled s.chip .cal t.val = false →
          exec (.traceNow t) s = .next (after s (regPut (okBus s .calCtrl t.val) .calCtrl t.val 2 2 1)))) ∧
      (OnBus s .synOp t.val → ∀ i op, (i, op) ∈ [(Instr.synOpReset t, ObjOp.reset),
          (.synOpSignal t, .signal (regGet s.chip .synArg t.val))] →
        (enabled s.chip .syn t.val = true →
          exec i s = .next (after s (objApply (okBus s .synOp t.val) 8 (synObj s.chip t.val) op))) ∧
        (enabled s.chip .syn t.val = false → synOpHeld s.chip t.val (op == .reset) = true →
          exec i s = .next (after s (okBus s .synOp t.val))) ∧
        (enabled s.chip .syn t.val = false → synOpHeld s.chip t.val (op == .reset) = false →
          exec i s = .next (after s { okBus s .synOp t.val with ports := s.chip.ports ++ [⟨8, synObj s.chip t.val, op, true, none⟩] })))) ∧
    (∀ (i : Instr) (r : Reg) (u : Nat) (c : CoreId) (t : TowerId),
      (i, r, u) ∈ [(Instr.refreshNow c, Reg.prgCtrl, c.val), (.runArray c, .calFReq, c.val), (.runField c, .calFReq, c.val),
        (.traceNow t, .calCtrl, t.val), (.synOpReset t, .synOp, t.val), (.synOpSignal t, .synOp, t.val)] →
      (islandRuns s.chip 20 = false ∨ islandRuns s.chip (blkIsle (regInfo r).blk u) = false) →
      exec i s = .next (after s (busError s.chip)))

/-- R8, R365, R372: a read of an event register answers what it shows and clears its RC bits, and no other register
and no byte of memory changes; a read through a stopped island is a bus error. R276, R371, R449: a read of the wait
count of the selected partition answers it and sets it to 0; through a stopped island it is a bus error. -/
def Obligations.EventReads : Prop :=
  (∀ (s : State) (c : CoreId) (t : TowerId) (k : StackId) (p : PortId) (f : FnId) (v : ConvId) (m : Fin 272)
    (i : Instr) (r : Reg) (u : Nat),
    (i, r, u) ∈ [(Instr.prgEventRead c, Reg.prgEvent, c.val), (.arcEventRead c, .arcEvent, c.val),
      (.engEventRead c, .engEvent, c.val), (.engAccEventRead c, .engAccEvent, c.val), (.wchEventRead c, .wchEvent, c.val),
      (.vecEventRead c, .vecEvent, c.val), (.vecTileHoldRead c, .vecTileHold, c.val), (.seqEventRead c, .seqEvent, c.val),
      (.dmaEventRead c, .dmaEvent, c.val), (.tslCRefRead c, .tslCRef, c.val), (.calEventRead t, .calEvent, t.val),
      (.lndEventRead t, .lndEvent, t.val), (.galEventRead t, .galEvent, t.val), (.galReplayCntRead t, .galReplayCnt, t.val),
      (.synEventRead t, .synEvent, t.val), (.hbmEventRead k, .hbmEvent, k.val), (.hbmEccCntRead k, .hbmEccCnt, k.val),
      (.fabEventRead p, .fabEvent, p.val), (.fabReplayCntRead p, .fabReplayCnt, p.val),
      (.fabFecCntRead p, .fabFecCnt, p.val), (.mbxEventRead f, .mbxEvent, f.val), (.nwlEventRead, .nwlEvent, 0),
      (.colEventRead, .colEvent, 0), (.pciEventRead, .pciEvent, 0), (.pwrIslLostRead, .pwrIslLost, 0),
      (.pwrBusEventRead, .pwrBusEvent, 0), (.pwrBusMaxstallRead, .pwrBusMaxstall, 0),
      (.pwrResetCauseRead, .pwrResetCause, 0), (.tslEventRead, .tslEvent, 0), (.obsEventRead, .obsEvent, 0),
      (.pwrEventRead, .pwrEvent, 0),
      (.snsEventRead v, if v.val < 8 then .snstEvent else .snsEvent, if v.val < 8 then v.val else 0),
      (.obsHmStatRead m, if m.val < 256 then .obstHmStat else .obspHmStat, if m.val < 256 then m.val else m.val - 256)] →
    (OnBus s r u → ∀ o, o = okBus s r u → exec i s = .next (after s { o with
      resp := ⟨.ok, leBytes (regView o r u 0).toNat 4, false⟩
      regs := if (regInfo r).rc = 0 then o.regs
        else tput o.regs (regAddr r u 0) (regGet o r u 0 &&& ~~~(regInfo r).rc) })) ∧
    (live s.chip = true → (islandRuns s.chip 20 = false ∨ islandRuns s.chip (blkIsle (regInfo r).blk u) = false) →
      exec i s = .next (after s (busError s.chip)))) ∧
  (∀ (s : State) (k : StackId), (OnBus s .hbmPartWait k.val → exec (.hbmPartWaitRead k) s =
    .next (after s (updStack { okBus s .hbmPartWait k.val with
      resp := ⟨.ok, leBytes (regView (okBus s .hbmPartWait k.val) .hbmPartWait k.val 0).toNat 4, false⟩ } k.val fun x =>
      { x with waits := tput x.waits (regFld s.chip .hbmPartSel k.val 3 0) 0 }))) ∧
    (live s.chip = true → (islandRuns s.chip 20 = false ∨ islandRuns s.chip (blkIsle .hbm k.val) = false) →
      exec (.hbmPartWaitRead k) s = .next (after s (busError s.chip))))

/-! ### Bring-up and pins (19, 24) -/

/-- R297, R406, R407, R412, R414 to R421: the power and reset inputs act whatever the device does; release waits for
the inputs and the PLLs; each phase ends in the next, or in FAILED with its cause, and in no other phase. R510: TRST#
returns the test access port to its reset state; a rising edge of TCK moves the controller, whatever the reset inputs,
and nothing outside the port but the count of free values changes. The states and codes are log 27's. -/
def Obligations.BringUpAndPins : Prop :=
  (∀ (s : State),
    (∀ p,
      (s.chip.sys.pins.powered = false → ∀ rst ch, rst = (s.chip.sys.pins.sysRst || p.sysRst) →
        ch = heldChip s.chip (BitVec.ofNat 32 (1 + (if p.perst = true then 2 else 0) + (if rst = true then 4 else 0)))
          ⟨true, true, false, rst, 2000, none⟩ →
        exec (.pwrOkRise p) s = .next (after s { ch with us := 0, nwl := { ch.nwl with pos := p.pos } })) ∧
      (s.chip.sys.pins.powered = true → exec (.pwrOkRise p) s = .next s)) ∧
    (s.chip.sys.pins.powered = false → exec .pwrOkFall s = .next s ∧ exec .resetRelease s = .next s ∧
      exec .perstAssert s = .next s ∧ exec .sysRstAssert s =
        .next (after s { s.chip with sys := { s.chip.sys with pins := { s.chip.sys.pins with sysRst := true } } })) ∧
    (s.chip.sys.pins.powered = true → ∀ p, s.chip.sys.pins = p →
      exec .pwrOkFall s = .next (after s { heldChip s.chip 1 ⟨false, true, false, p.sysRst, 0, none⟩ with us := 0 }) ∧
      exec .perstAssert s = .next (after s (heldChip s.chip (regGet s.chip .pwrResetCause 0 ||| 2)
        ⟨true, true, false, p.sysRst, if p.held then p.relAt else 0, none⟩)) ∧
      exec .sysRstAssert s = .next (after s (heldChip s.chip (regGet s.chip .pwrResetCause 0 ||| 4)
        ⟨true, true, false, true, if p.held then p.relAt else 0, none⟩)) ∧
      (p.held = true → p.relAt ≤ s.chip.us → exec .resetRelease s = .next (after s { s.chip with
        us := 0, isl := [], cnts := [], islRun := Chip.reset.islRun, phase := 0,
        sys := { s.chip.sys with pins := ⟨true, false, false, false, 0, some 0x6C⟩ } })) ∧
      ((p.held = false ∨ s.chip.us < p.relAt) → exec .resetRelease s = .next s)) ∧
    (live s.chip = true →
      (s.chip.phase = 0 → islandRuns s.chip 20 = true → ∀ o, exec (.bootEnd o) s = .next { s with
        chip := bootChip s.chip s.nv o
        nv := if o.spiOk then { s.nv with preferFwB := preferFwB o, preferCfgB := preferCfgB o } else s.nv }) ∧
      (s.chip.phase = 0 → ∀ n : Fin 6, n.val ≠ 0 →
        ∃ ch, exec (.failed n) s = .next (after s ch) ∧ ch.phase = 5 ∧ failedCause ch = n.val) ∧
      ((s.chip.phase ≠ 0 ∨ islandRuns s.chip 20 = false) → ∀ o, exec (.bootEnd o) s = .next s) ∧
      (∀ n : Fin 6, (s.chip.phase ≠ 0 ∨ n.val = 0) → exec (.failed n) s = .next s)) ∧
    (live s.chip = true → fwReady s.chip = true →
      (s.chip.phase = 1 → ∀ b x y, exec (.memoryEnd b x y) s =
        .next { s with chip := memoryChip s.chip s.nv b x y, nv := wearBoot s.nv x y }) ∧
      (s.chip.phase = 2 → refsAwaited s.chip = true → ∀ o l, exec (.calibrationEnd o l) s = .next (after s (startFabric
        (regPut { ((o.take 8).zipIdx.foldl (fun c p => calibrateTower l c p.2 p.1) s.chip) with phase := 3 }
          .pwrBootTime1 0 15 0 (msNow s.chip))))) ∧
      (s.chip.phase = 3 → portsDone s.chip = true → ∃ ch, exec .ready s = .next (after s ch) ∧ ch.phase = 4) ∧
      (s.chip.phase = 3 → portsDone s.chip = false → exec .ready s = .next s)) ∧
    (live s.chip = true →
      ((s.chip.phase ≠ 1 ∨ fwReady s.chip = false) → ∀ b x y, exec (.memoryEnd b x y) s = .next s) ∧
      ((s.chip.phase ≠ 2 ∨ fwReady s.chip = false ∨ refsAwaited s.chip = false) → ∀ o l, exec (.calibrationEnd o l) s = .next s) ∧
      ((s.chip.phase ≠ 3 ∨ fwReady s.chip = false) → exec .ready s = .next s))) ∧
  (∀ (s : State),
    exec (.testAccessPort .trst) s = .next (after s { s.chip with
      sys := { s.chip.sys with tap := ⟨15, 1, [], s.chip.sys.tap.tdo⟩ } }) ∧
    (∀ a b, ∃ ch, exec (.testAccessPort (.tck a b)) s = .next (after s ch) ∧
      ch.sys.tap.st = tapNext s.chip.sys.tap.st a ∧
      ch = { s.chip with free := ch.free, sys := { s.chip.sys with tap := ch.sys.tap } }))

/-! ### The whole machine -/

/-- A step takes the command at the front of the queue: it is exec of it with the queue's rest; with an empty queue a
microsecond passes (log 2). -/
def Obligations.StepRunsTheFront : Prop :=
  ∀ (s : State) (c : Instr) (r : List Instr),
    (s.pending = c :: r → step s = exec c { s with pending := r }) ∧
    (s.pending = [] → step s = .next { s with chip := tick s.chip })

/-- Every command has an effect on every state: exec answers a next state, and leaves the queue alone. -/
def Obligations.EveryCommandGoes : Prop :=
  ∀ (i : Instr) (s : State), ∃ t, exec i s = .next t ∧ t.pending = s.pending

/-- R407, R408, R488: while the device is unpowered, in reset or tripped, only the power and reset inputs and the test
access port do anything (log 3). -/
def Obligations.DeadDeviceKeepsStill : Prop :=
  ∀ (i : Instr) (s : State), live s.chip = false →
    (∀ p, i ≠ .pwrOkRise p) → i ≠ .pwrOkFall → i ≠ .perstAssert → i ≠ .sysRstAssert → i ≠ .resetRelease →
    (∀ x, i ≠ .testAccessPort x) → exec i s = .next s

/-- R490, R491, R494: from every state whose lock region is that of the part, a step keeps it so, lowers no minimum
security version, and opens or changes no owner slot. -/
def Obligations.LockRegionOnlyGrows : Prop :=
  ∀ (s : State), Safety.LockOk s.nv → ∀ t, step s = .next t → Safety.LockOk t.nv ∧ Safety.LockLe s.nv t.nv

/-- The lock region of State.reset is that of the part (log 10: no version raised, no owner). -/
def Obligations.LockRegionAtReset : Prop :=
  Safety.LockOk State.reset.nv ∧ State.reset.nv.minVer = [0, 0, 0] ∧ State.reset.nv.owners = []
end

