-- ==== Sys2Proof/Laws/Tab.lean ====
section
/-! SUPPORT. Laws of sparse tables: what is read after a change of a key, and that keys stay in rising order. -/

namespace Sys2Proof.Laws
open Sys2Proof.Machine

variable {α : Type}

@[simp] theorem tget_nil (d : α) (k : Nat) : tget [] d k = d := rfl

theorem tget_tput (t : Tab α) (d : α) (k : Nat) (v : α) (j : Nat) :
    tget (tput t k v) d j = if j = k then v else tget t d j := by
  induction t with
  | nil => simp [tput, tget]
  | cons p r ih =>
    obtain ⟨a, b⟩ := p
    simp only [tput]
    split
    · simp [tget]
    · split
      · subst_vars; by_cases h : j = a <;> simp [tget, h]
      · by_cases h : j = a
        · subst h; simp only [tget, if_true]; rw [if_neg (by omega)]
        · simp only [tget, ih, h, if_false]

@[simp] theorem tget_tput_same (t : Tab α) (d : α) (k : Nat) (v : α) : tget (tput t k v) d k = v := by
  simp [tget_tput]

theorem tget_tput_other (t : Tab α) (d : α) {k j : Nat} (v : α) (h : j ≠ k) :
    tget (tput t k v) d j = tget t d j := by
  simp [tget_tput, h]

@[simp] theorem tget_tdel_same (t : Tab α) (d : α) (k : Nat) : tget (tdel t k) d k = d := by
  induction t with
  | nil => rfl
  | cons p r ih =>
    obtain ⟨a, b⟩ := p
    unfold tdel at ih ⊢
    by_cases h : a = k
    · subst h; simp only [List.filter, bne_self_eq_false]; exact ih
    · have h' : (a != k) = true := by simp [h]
      simp only [List.filter, h']; simp only [tget]; rw [if_neg (fun e => h e.symm)]; exact ih

theorem tget_tdel_other (t : Tab α) (d : α) {k j : Nat} (hj : j ≠ k) : tget (tdel t k) d j = tget t d j := by
  induction t with
  | nil => rfl
  | cons p r ih =>
    obtain ⟨a, b⟩ := p
    unfold tdel at ih ⊢
    by_cases h : a = k
    · subst h; simp only [List.filter, bne_self_eq_false]; simp only [tget]; rw [if_neg hj]; exact ih
    · have h' : (a != k) = true := by simp [h]
      simp only [List.filter, h']; simp only [tget]; rw [ih]

@[simp] theorem tget_tupd_same (t : Tab α) (d : α) (k : Nat) (f : α → α) : tget (tupd t d k f) d k = f (tget t d k) := by
  simp [tupd]

theorem tget_tupd_other (t : Tab α) (d : α) {k j : Nat} (f : α → α) (h : j ≠ k) :
    tget (tupd t d k f) d j = tget t d j := tget_tput_other t d _ h

/-- Keys in rising order. -/
abbrev Rising (t : Tab α) : Prop := t.Pairwise fun p q => p.1 < q.1

theorem mem_tput {t : Tab α} {k : Nat} {v : α} {p : Nat × α} (h : p ∈ tput t k v) : p = (k, v) ∨ p ∈ t := by
  induction t with
  | nil => simpa [tput] using h
  | cons q r ih =>
    obtain ⟨a, b⟩ := q
    simp only [tput] at h
    split at h
    · simpa using h
    · split at h
      · rcases List.mem_cons.mp h with h | h
        · exact .inl h
        · exact .inr (List.mem_cons_of_mem _ h)
      · rcases List.mem_cons.mp h with h | h
        · exact .inr (h ▸ List.mem_cons_self)
        · exact (ih h).imp id (List.mem_cons_of_mem _)

theorem rising_tput {t : Tab α} (h : Rising t) (k : Nat) (v : α) : Rising (tput t k v) := by
  induction t with
  | nil => simp [tput, Rising]
  | cons q r ih =>
    obtain ⟨a, b⟩ := q
    have hr := List.pairwise_cons.mp h
    simp only [tput]
    split
    · refine List.pairwise_cons.mpr ⟨?_, h⟩
      intro p hp
      rcases List.mem_cons.mp hp with e | hp
      · subst e; assumption
      · have := hr.1 p hp; simp only at this ⊢; omega
    · split
      · subst_vars; exact List.pairwise_cons.mpr ⟨hr.1, hr.2⟩
      · refine List.pairwise_cons.mpr ⟨?_, ih hr.2⟩
        intro p hp
        rcases mem_tput hp with e | hp
        · subst e; simp only; omega
        · exact hr.1 p hp

theorem rising_filter {t : Tab α} (h : Rising t) (p : Nat × α → Bool) : Rising (t.filter p) := h.filter p

/-! ### Sorted sets -/

@[simp] theorem mem_sadd (s : List Nat) (k x : Nat) : x ∈ sadd s k ↔ x = k ∨ x ∈ s := by
  induction s with
  | nil => simp [sadd]
  | cons a r ih =>
    simp only [sadd]
    split
    · simp
    · split
      · subst_vars; simp
      · simp only [List.mem_cons, ih]; tauto

@[simp] theorem mem_sdel (s : List Nat) (k x : Nat) : x ∈ sdel s k ↔ x ∈ s ∧ x ≠ k := by
  simp [sdel]

theorem mem_foldl_sadd (l s : List Nat) (x : Nat) : x ∈ l.foldl sadd s ↔ x ∈ l ∨ x ∈ s := by
  induction l generalizing s with
  | nil => simp
  | cons a r ih => simp only [List.foldl_cons, ih, mem_sadd, List.mem_cons]; tauto

@[simp] theorem mem_span (a n x : Nat) : x ∈ span a n ↔ a ≤ x ∧ x < a + n := by
  simp only [span, List.mem_map, List.mem_range]
  constructor
  · rintro ⟨i, h, rfl⟩; omega
  · intro h; exact ⟨x - a, by omega, by omega⟩

end Sys2Proof.Laws
end

