-- ==== Sys2Proof/Laws/Memory.lean ====
section
/-! SUPPORT. Memory: what a byte reads after a write of one byte, and that every operation that changes memory keeps its
canonical form. -/

namespace Sys2Proof.Laws
open Sys2Proof Sys2Proof.Machine

/-- The canonical form, said with quantifiers. -/
theorem memory_wf_iff (m : List Host.Cell) :
    Memory.wf m = true ↔ Rising m ∧ ∀ c ∈ m, c.2 ≠ memDefault := by
  induction m with
  | nil => simp [Memory.wf, Rising]
  | cons p r ih =>
    obtain ⟨a, v⟩ := p
    cases r with
    | nil => simp [Memory.wf, Rising]
    | cons q r =>
      obtain ⟨b, w⟩ := q
      simp only [Memory.wf, Bool.and_eq_true, decide_eq_true_eq, bne_iff_ne, ih, Rising, List.pairwise_cons,
        List.mem_cons, forall_eq_or_imp]
      constructor
      · rintro ⟨⟨h1, h2⟩, ⟨h3, h4⟩, h5, h6⟩
        exact ⟨⟨⟨h1, fun c hc => lt_trans h1 (h3 c hc)⟩, h3, h4⟩, h2, h5, h6⟩
      · rintro ⟨⟨⟨h1, _⟩, h3, h4⟩, h2, h5, h6⟩
        exact ⟨⟨h1, h2⟩, ⟨h3, h4⟩, h5, h6⟩

theorem memory_wf_filter {m : List Host.Cell} (h : Memory.wf m = true) (p : Host.Cell → Bool) :
    Memory.wf (m.filter p) = true := by
  rw [memory_wf_iff] at h ⊢
  exact ⟨rising_filter h.1 p, fun c hc => h.2 c (List.mem_filter.mp hc).1⟩

theorem memory_wf_mset {m : List Host.Cell} (h : Memory.wf m = true) (a : Nat) (v : Byte) :
    Memory.wf (mset m a v) = true := by
  unfold mset
  split
  · exact memory_wf_filter h _
  · rw [memory_wf_iff] at h ⊢
    refine ⟨rising_tput h.1 a v, fun c hc => ?_⟩
    rcases mem_tput hc with e | hc
    · subst e; assumption
    · exact h.2 c hc

theorem memory_wf_mwrite {m : List Host.Cell} (h : Memory.wf m = true) (a : Nat) (bs : List Byte) :
    Memory.wf (mwrite m a bs) = true := by
  induction bs generalizing m a with
  | nil => exact h
  | cons b r ih => exact ih (memory_wf_mset h a b) (a + 1)

theorem memory_wf_foldl_mset (l : List Host.Cell) {m : List Host.Cell} (h : Memory.wf m = true) :
    Memory.wf (l.foldl (fun m c => mset m c.1 c.2) m) = true := by
  induction l generalizing m with
  | nil => exact h
  | cons c r ih => exact ih (memory_wf_mset h c.1 c.2)

/-- One byte after a write of one byte: the written one reads as written, every other as before. -/
theorem mget_mset (m : List Host.Cell) (a : Nat) (v : Byte) (x : Nat) :
    mget (mset m a v) x = if x = a then v else mget m x := by
  unfold mset mget
  split
  · subst_vars
    split
    · subst_vars; simp
    · rename_i h; exact tget_tdel_other m memDefault h
  · exact tget_tput m memDefault a v x

variable {ch : Chip}

@[simp] theorem markPoi_mem (a n : Nat) : (markPoi ch a n).mem = ch.mem := rfl
@[simp] theorem clearPoi_mem (a n : Nat) : (clearPoi ch a n).mem = ch.mem := rfl
@[simp] theorem wrRaw_mem (a : Nat) (bs : List Byte) : (wrRaw ch a bs).mem = mwrite ch.mem a bs := rfl
@[simp] theorem wrMem_mem (a : Nat) (bs : List Byte) (p : Bool) : (wrMem ch a bs p).mem = mwrite ch.mem a bs := by
  unfold wrMem; cases p <;> rfl

theorem memory_wf_wrMem (h : Memory.wf ch.mem = true) (a : Nat) (bs : List Byte) (p : Bool) :
    Memory.wf (wrMem ch a bs p).mem = true := by
  rw [wrMem_mem]; exact memory_wf_mwrite h a bs

theorem memory_wf_wrNat (h : Memory.wf ch.mem = true) (a n v : Nat) : Memory.wf (wrNat ch a n v).mem = true :=
  memory_wf_wrMem h a _ false

theorem memory_wf_zeroRange (h : Memory.wf ch.mem = true) (a n : Nat) : Memory.wf (zeroRange ch a n).mem = true :=
  memory_wf_filter h _

theorem memory_wf_freeRange (h : Memory.wf ch.mem = true) (a n : Nat) : Memory.wf (freeRange ch a n).mem = true := by
  have hw := (memory_wf_iff _).mp h
  rw [memory_wf_iff]
  simp only [freeRange]
  set fresh := ((List.range n).map fun i => (a + i, Config.freeByte (draw ch).1 i)).filter fun c => c.2 != memDefault
    with hf
  have inFresh : ∀ c ∈ fresh, a ≤ c.1 ∧ c.1 < a + n ∧ c.2 ≠ memDefault := by
    intro c hc
    obtain ⟨hm, hd⟩ := List.mem_filter.mp hc
    obtain ⟨i, hi, rfl⟩ := List.mem_map.mp hm
    have := List.mem_range.mp hi
    exact ⟨by simp, by simp; omega, by simpa using hd⟩
  have freshRises : Rising fresh :=
    (List.Pairwise.map _ (fun i j hij => by simpa using hij) (List.pairwise_lt_range (n := n))).filter _
  constructor
  · refine List.pairwise_append.mpr ⟨List.pairwise_append.mpr ⟨rising_filter hw.1 _, freshRises, ?_⟩,
      rising_filter hw.1 _, ?_⟩
    · intro p hp q hq
      have h1 : p.1 < a := by simpa using (List.mem_filter.mp hp).2
      have h2 := (inFresh q hq).1
      omega
    · intro p hp q hq
      have h2 : a + n ≤ q.1 := by simpa using (List.mem_filter.mp hq).2
      rcases List.mem_append.mp hp with hp | hp
      · have h1 : p.1 < a := by simpa using (List.mem_filter.mp hp).2
        omega
      · have h1 := (inFresh p hp).2.1
        omega
  · intro c hc
    rcases List.mem_append.mp hc with hc | hc
    · rcases List.mem_append.mp hc with hc | hc
      · exact hw.2 c (List.mem_filter.mp hc).1
      · exact (inFresh c hc).2.2
    · exact hw.2 c (List.mem_filter.mp hc).1

theorem memory_wf_landDrop (h : Memory.wf ch.mem = true) (k : Nat) (l : LLine) :
    Memory.wf (landDrop ch k l).mem = true := by
  unfold landDrop
  split
  · exact memory_wf_foldl_mset _ (memory_wf_zeroRange h l.da 256)
  · exact h

theorem memory_wf_putBits {m : List Host.Cell} (h : Memory.wf m = true) (b bits v : Nat) :
    Memory.wf (putBits m b bits v) = true := memory_wf_mwrite h _ _

theorem memory_wf_applyOut (h : Memory.wf ch.mem = true) (o : Out) : Memory.wf (applyOut ch o).mem = true := by
  simp only [applyOut]
  generalize o.els.filter (fun e => e.v.isSome) = l
  generalize ch.mem = m at h
  induction l generalizing m with
  | nil => exact h
  | cons e r ih => exact ih _ (memory_wf_putBits h _ _ _)

theorem memory_wf_hostCells (h : Memory.wf ch.mem = true) (cells : List (Nat × Byte)) :
    Memory.wf (hostCells ch cells).mem = true := memory_wf_foldl_mset _ h

/-- Memory at reset has the form. -/
theorem memory_wf_reset : Memory.wf State.reset.chip.mem = true := rfl

end Sys2Proof.Laws
end

