-- ==== Sys2Proof/Laws/State.lean ====
section
/-! SUPPORT. One lemma per field of the chip and per update of it, and per reading of a part of it: an update changes
its own field alone. All hold by rfl. -/

namespace Sys2Proof.Laws
open Sys2Proof.Machine

variable (ch : Chip)

/-! ### setCore -/

@[simp] theorem setCore_free (g : Nat) (k : Core) : (setCore ch g k).free = ch.free := rfl
@[simp] theorem setCore_us (g : Nat) (k : Core) : (setCore ch g k).us = ch.us := rfl
@[simp] theorem setCore_isl (g : Nat) (k : Core) : (setCore ch g k).isl = ch.isl := rfl
@[simp] theorem setCore_islRun (g : Nat) (k : Core) : (setCore ch g k).islRun = ch.islRun := rfl
@[simp] theorem setCore_phase (g : Nat) (k : Core) : (setCore ch g k).phase = ch.phase := rfl
@[simp] theorem setCore_mem (g : Nat) (k : Core) : (setCore ch g k).mem = ch.mem := rfl
@[simp] theorem setCore_poi (g : Nat) (k : Core) : (setCore ch g k).poi = ch.poi := rfl
@[simp] theorem setCore_regs (g : Nat) (k : Core) : (setCore ch g k).regs = ch.regs := rfl
@[simp] theorem setCore_blks (g : Nat) (k : Core) : (setCore ch g k).blks = ch.blks := rfl
@[simp] theorem setCore_resp (g : Nat) (k : Core) : (setCore ch g k).resp = ch.resp := rfl
@[simp] theorem setCore_cnts (g : Nat) (k : Core) : (setCore ch g k).cnts = ch.cnts := rfl
@[simp] theorem setCore_accs (g : Nat) (k : Core) : (setCore ch g k).accs = ch.accs := rfl
@[simp] theorem setCore_banks (g : Nat) (k : Core) : (setCore ch g k).banks = ch.banks := rfl
@[simp] theorem setCore_arrs (g : Nat) (k : Core) : (setCore ch g k).arrs = ch.arrs := rfl
@[simp] theorem setCore_stats (g : Nat) (k : Core) : (setCore ch g k).stats = ch.stats := rfl
@[simp] theorem setCore_fields (g : Nat) (k : Core) : (setCore ch g k).fields = ch.fields := rfl
@[simp] theorem setCore_towers (g : Nat) (k : Core) : (setCore ch g k).towers = ch.towers := rfl
@[simp] theorem setCore_tcores (g : Nat) (k : Core) : (setCore ch g k).tcores = ch.tcores := rfl
@[simp] theorem setCore_tsl (g : Nat) (k : Core) : (setCore ch g k).tsl = ch.tsl := rfl
@[simp] theorem setCore_clus (g : Nat) (k : Core) : (setCore ch g k).clus = ch.clus := rfl
@[simp] theorem setCore_objs (g : Nat) (k : Core) : (setCore ch g k).objs = ch.objs := rfl
@[simp] theorem setCore_objPoi (g : Nat) (k : Core) : (setCore ch g k).objPoi = ch.objPoi := rfl
@[simp] theorem setCore_ports (g : Nat) (k : Core) : (setCore ch g k).ports = ch.ports := rfl
@[simp] theorem setCore_fab (g : Nat) (k : Core) : (setCore ch g k).fab = ch.fab := rfl
@[simp] theorem setCore_nwl (g : Nat) (k : Core) : (setCore ch g k).nwl = ch.nwl := rfl
@[simp] theorem setCore_obs (g : Nat) (k : Core) : (setCore ch g k).obs = ch.obs := rfl
@[simp] theorem setCore_land (g : Nat) (k : Core) : (setCore ch g k).land = ch.land := rfl
@[simp] theorem setCore_globalLayers (g : Nat) (k : Core) : (setCore ch g k).globalLayers = ch.globalLayers := rfl
@[simp] theorem setCore_stks (g : Nat) (k : Core) : (setCore ch g k).stks = ch.stks := rfl
@[simp] theorem setCore_jobs (g : Nat) (k : Core) : (setCore ch g k).jobs = ch.jobs := rfl
@[simp] theorem setCore_pci (g : Nat) (k : Core) : (setCore ch g k).pci = ch.pci := rfl
@[simp] theorem setCore_sys (g : Nat) (k : Core) : (setCore ch g k).sys = ch.sys := rfl
@[simp] theorem accOf_setCore (g : Nat) (k : Core) (x : Nat) : accOf (setCore ch g k) x = accOf ch x := rfl
@[simp] theorem bankOf_setCore (g : Nat) (k : Core) (x : Nat) : bankOf (setCore ch g k) x = bankOf ch x := rfl
@[simp] theorem arrOf_setCore (g : Nat) (k : Core) (x y : Nat) : arrOf (setCore ch g k) x y = arrOf ch x y := rfl
@[simp] theorem statOf_setCore (g : Nat) (k : Core) (x y : Nat) : statOf (setCore ch g k) x y = statOf ch x y := rfl
@[simp] theorem fieldOf_setCore (g : Nat) (k : Core) (x : Nat) : fieldOf (setCore ch g k) x = fieldOf ch x := rfl
@[simp] theorem towerOf_setCore (g : Nat) (k : Core) (x : Nat) : towerOf (setCore ch g k) x = towerOf ch x := rfl
@[simp] theorem tcoreOf_setCore (g : Nat) (k : Core) (x : Nat) : tcoreOf (setCore ch g k) x = tcoreOf ch x := rfl
@[simp] theorem stackOf_setCore (g : Nat) (k : Core) (x : Nat) : stackOf (setCore ch g k) x = stackOf ch x := rfl
@[simp] theorem jobOf_setCore (g : Nat) (k : Core) (x : Nat) : jobOf (setCore ch g k) x = jobOf ch x := rfl
@[simp] theorem owner_setCore (g : Nat) (k : Core) (x : Nat) : owner (setCore ch g k) x = owner ch x := rfl
@[simp] theorem coreJob_setCore (g : Nat) (k : Core) (x : Nat) : coreJob (setCore ch g k) x = coreJob ch x := rfl
@[simp] theorem clustersOf_setCore (g : Nat) (k : Core) (x : JobId) : clustersOf (setCore ch g k) x = clustersOf ch x := rfl
@[simp] theorem regGet_setCore (g : Nat) (k : Core) (x : Reg) (y z : Nat) : regGet (setCore ch g k) x y z = regGet ch x y z := rfl
@[simp] theorem blkGet_setCore (g : Nat) (k : Core) (x : Blk) (y : Nat) (z : Bool) : blkGet (setCore ch g k) x y z = blkGet ch x y z := rfl
@[simp] theorem enabled_setCore (g : Nat) (k : Core) (x : Blk) (y : Nat) : enabled (setCore ch g k) x y = enabled ch x y := rfl
@[simp] theorem islandRuns_setCore (g : Nat) (k : Core) (x : Nat) : islandRuns (setCore ch g k) x = islandRuns ch x := rfl
@[simp] theorem objGet_setCore (g : Nat) (k : Core) (x : ObjId) : objGet (setCore ch g k) x = objGet ch x := rfl
@[simp] theorem objPoisoned_setCore (g : Nat) (k : Core) (x : ObjId) : objPoisoned (setCore ch g k) x = objPoisoned ch x := rfl
@[simp] theorem streamOf_setCore (g : Nat) (k : Core) (x : Nat) : streamOf (setCore ch g k) x = streamOf ch x := rfl

/-! ### updCore -/

@[simp] theorem updCore_free (g : Nat) (f : Core → Core) : (updCore ch g f).free = ch.free := rfl
@[simp] theorem updCore_us (g : Nat) (f : Core → Core) : (updCore ch g f).us = ch.us := rfl
@[simp] theorem updCore_isl (g : Nat) (f : Core → Core) : (updCore ch g f).isl = ch.isl := rfl
@[simp] theorem updCore_islRun (g : Nat) (f : Core → Core) : (updCore ch g f).islRun = ch.islRun := rfl
@[simp] theorem updCore_phase (g : Nat) (f : Core → Core) : (updCore ch g f).phase = ch.phase := rfl
@[simp] theorem updCore_mem (g : Nat) (f : Core → Core) : (updCore ch g f).mem = ch.mem := rfl
@[simp] theorem updCore_poi (g : Nat) (f : Core → Core) : (updCore ch g f).poi = ch.poi := rfl
@[simp] theorem updCore_regs (g : Nat) (f : Core → Core) : (updCore ch g f).regs = ch.regs := rfl
@[simp] theorem updCore_blks (g : Nat) (f : Core → Core) : (updCore ch g f).blks = ch.blks := rfl
@[simp] theorem updCore_resp (g : Nat) (f : Core → Core) : (updCore ch g f).resp = ch.resp := rfl
@[simp] theorem updCore_cnts (g : Nat) (f : Core → Core) : (updCore ch g f).cnts = ch.cnts := rfl
@[simp] theorem updCore_accs (g : Nat) (f : Core → Core) : (updCore ch g f).accs = ch.accs := rfl
@[simp] theorem updCore_banks (g : Nat) (f : Core → Core) : (updCore ch g f).banks = ch.banks := rfl
@[simp] theorem updCore_arrs (g : Nat) (f : Core → Core) : (updCore ch g f).arrs = ch.arrs := rfl
@[simp] theorem updCore_stats (g : Nat) (f : Core → Core) : (updCore ch g f).stats = ch.stats := rfl
@[simp] theorem updCore_fields (g : Nat) (f : Core → Core) : (updCore ch g f).fields = ch.fields := rfl
@[simp] theorem updCore_towers (g : Nat) (f : Core → Core) : (updCore ch g f).towers = ch.towers := rfl
@[simp] theorem updCore_tcores (g : Nat) (f : Core → Core) : (updCore ch g f).tcores = ch.tcores := rfl
@[simp] theorem updCore_tsl (g : Nat) (f : Core → Core) : (updCore ch g f).tsl = ch.tsl := rfl
@[simp] theorem updCore_clus (g : Nat) (f : Core → Core) : (updCore ch g f).clus = ch.clus := rfl
@[simp] theorem updCore_objs (g : Nat) (f : Core → Core) : (updCore ch g f).objs = ch.objs := rfl
@[simp] theorem updCore_objPoi (g : Nat) (f : Core → Core) : (updCore ch g f).objPoi = ch.objPoi := rfl
@[simp] theorem updCore_ports (g : Nat) (f : Core → Core) : (updCore ch g f).ports = ch.ports := rfl
@[simp] theorem updCore_fab (g : Nat) (f : Core → Core) : (updCore ch g f).fab = ch.fab := rfl
@[simp] theorem updCore_nwl (g : Nat) (f : Core → Core) : (updCore ch g f).nwl = ch.nwl := rfl
@[simp] theorem updCore_obs (g : Nat) (f : Core → Core) : (updCore ch g f).obs = ch.obs := rfl
@[simp] theorem updCore_land (g : Nat) (f : Core → Core) : (updCore ch g f).land = ch.land := rfl
@[simp] theorem updCore_globalLayers (g : Nat) (f : Core → Core) : (updCore ch g f).globalLayers = ch.globalLayers := rfl
@[simp] theorem updCore_stks (g : Nat) (f : Core → Core) : (updCore ch g f).stks = ch.stks := rfl
@[simp] theorem updCore_jobs (g : Nat) (f : Core → Core) : (updCore ch g f).jobs = ch.jobs := rfl
@[simp] theorem updCore_pci (g : Nat) (f : Core → Core) : (updCore ch g f).pci = ch.pci := rfl
@[simp] theorem updCore_sys (g : Nat) (f : Core → Core) : (updCore ch g f).sys = ch.sys := rfl
@[simp] theorem accOf_updCore (g : Nat) (f : Core → Core) (x : Nat) : accOf (updCore ch g f) x = accOf ch x := rfl
@[simp] theorem bankOf_updCore (g : Nat) (f : Core → Core) (x : Nat) : bankOf (updCore ch g f) x = bankOf ch x := rfl
@[simp] theorem arrOf_updCore (g : Nat) (f : Core → Core) (x y : Nat) : arrOf (updCore ch g f) x y = arrOf ch x y := rfl
@[simp] theorem statOf_updCore (g : Nat) (f : Core → Core) (x y : Nat) : statOf (updCore ch g f) x y = statOf ch x y := rfl
@[simp] theorem fieldOf_updCore (g : Nat) (f : Core → Core) (x : Nat) : fieldOf (updCore ch g f) x = fieldOf ch x := rfl
@[simp] theorem towerOf_updCore (g : Nat) (f : Core → Core) (x : Nat) : towerOf (updCore ch g f) x = towerOf ch x := rfl
@[simp] theorem tcoreOf_updCore (g : Nat) (f : Core → Core) (x : Nat) : tcoreOf (updCore ch g f) x = tcoreOf ch x := rfl
@[simp] theorem stackOf_updCore (g : Nat) (f : Core → Core) (x : Nat) : stackOf (updCore ch g f) x = stackOf ch x := rfl
@[simp] theorem jobOf_updCore (g : Nat) (f : Core → Core) (x : Nat) : jobOf (updCore ch g f) x = jobOf ch x := rfl
@[simp] theorem owner_updCore (g : Nat) (f : Core → Core) (x : Nat) : owner (updCore ch g f) x = owner ch x := rfl
@[simp] theorem coreJob_updCore (g : Nat) (f : Core → Core) (x : Nat) : coreJob (updCore ch g f) x = coreJob ch x := rfl
@[simp] theorem clustersOf_updCore (g : Nat) (f : Core → Core) (x : JobId) : clustersOf (updCore ch g f) x = clustersOf ch x := rfl
@[simp] theorem regGet_updCore (g : Nat) (f : Core → Core) (x : Reg) (y z : Nat) : regGet (updCore ch g f) x y z = regGet ch x y z := rfl
@[simp] theorem blkGet_updCore (g : Nat) (f : Core → Core) (x : Blk) (y : Nat) (z : Bool) : blkGet (updCore ch g f) x y z = blkGet ch x y z := rfl
@[simp] theorem enabled_updCore (g : Nat) (f : Core → Core) (x : Blk) (y : Nat) : enabled (updCore ch g f) x y = enabled ch x y := rfl
@[simp] theorem islandRuns_updCore (g : Nat) (f : Core → Core) (x : Nat) : islandRuns (updCore ch g f) x = islandRuns ch x := rfl
@[simp] theorem objGet_updCore (g : Nat) (f : Core → Core) (x : ObjId) : objGet (updCore ch g f) x = objGet ch x := rfl
@[simp] theorem objPoisoned_updCore (g : Nat) (f : Core → Core) (x : ObjId) : objPoisoned (updCore ch g f) x = objPoisoned ch x := rfl
@[simp] theorem streamOf_updCore (g : Nat) (f : Core → Core) (x : Nat) : streamOf (updCore ch g f) x = streamOf ch x := rfl

/-! ### setAcc -/

@[simp] theorem setAcc_free (g : Nat) (k : Acc) : (setAcc ch g k).free = ch.free := rfl
@[simp] theorem setAcc_us (g : Nat) (k : Acc) : (setAcc ch g k).us = ch.us := rfl
@[simp] theorem setAcc_isl (g : Nat) (k : Acc) : (setAcc ch g k).isl = ch.isl := rfl
@[simp] theorem setAcc_islRun (g : Nat) (k : Acc) : (setAcc ch g k).islRun = ch.islRun := rfl
@[simp] theorem setAcc_phase (g : Nat) (k : Acc) : (setAcc ch g k).phase = ch.phase := rfl
@[simp] theorem setAcc_mem (g : Nat) (k : Acc) : (setAcc ch g k).mem = ch.mem := rfl
@[simp] theorem setAcc_poi (g : Nat) (k : Acc) : (setAcc ch g k).poi = ch.poi := rfl
@[simp] theorem setAcc_regs (g : Nat) (k : Acc) : (setAcc ch g k).regs = ch.regs := rfl
@[simp] theorem setAcc_blks (g : Nat) (k : Acc) : (setAcc ch g k).blks = ch.blks := rfl
@[simp] theorem setAcc_resp (g : Nat) (k : Acc) : (setAcc ch g k).resp = ch.resp := rfl
@[simp] theorem setAcc_cnts (g : Nat) (k : Acc) : (setAcc ch g k).cnts = ch.cnts := rfl
@[simp] theorem setAcc_cores (g : Nat) (k : Acc) : (setAcc ch g k).cores = ch.cores := rfl
@[simp] theorem setAcc_banks (g : Nat) (k : Acc) : (setAcc ch g k).banks = ch.banks := rfl
@[simp] theorem setAcc_arrs (g : Nat) (k : Acc) : (setAcc ch g k).arrs = ch.arrs := rfl
@[simp] theorem setAcc_stats (g : Nat) (k : Acc) : (setAcc ch g k).stats = ch.stats := rfl
@[simp] theorem setAcc_fields (g : Nat) (k : Acc) : (setAcc ch g k).fields = ch.fields := rfl
@[simp] theorem setAcc_towers (g : Nat) (k : Acc) : (setAcc ch g k).towers = ch.towers := rfl
@[simp] theorem setAcc_tcores (g : Nat) (k : Acc) : (setAcc ch g k).tcores = ch.tcores := rfl
@[simp] theorem setAcc_tsl (g : Nat) (k : Acc) : (setAcc ch g k).tsl = ch.tsl := rfl
@[simp] theorem setAcc_clus (g : Nat) (k : Acc) : (setAcc ch g k).clus = ch.clus := rfl
@[simp] theorem setAcc_objs (g : Nat) (k : Acc) : (setAcc ch g k).objs = ch.objs := rfl
@[simp] theorem setAcc_objPoi (g : Nat) (k : Acc) : (setAcc ch g k).objPoi = ch.objPoi := rfl
@[simp] theorem setAcc_ports (g : Nat) (k : Acc) : (setAcc ch g k).ports = ch.ports := rfl
@[simp] theorem setAcc_fab (g : Nat) (k : Acc) : (setAcc ch g k).fab = ch.fab := rfl
@[simp] theorem setAcc_nwl (g : Nat) (k : Acc) : (setAcc ch g k).nwl = ch.nwl := rfl
@[simp] theorem setAcc_obs (g : Nat) (k : Acc) : (setAcc ch g k).obs = ch.obs := rfl
@[simp] theorem setAcc_land (g : Nat) (k : Acc) : (setAcc ch g k).land = ch.land := rfl
@[simp] theorem setAcc_globalLayers (g : Nat) (k : Acc) : (setAcc ch g k).globalLayers = ch.globalLayers := rfl
@[simp] theorem setAcc_stks (g : Nat) (k : Acc) : (setAcc ch g k).stks = ch.stks := rfl
@[simp] theorem setAcc_jobs (g : Nat) (k : Acc) : (setAcc ch g k).jobs = ch.jobs := rfl
@[simp] theorem setAcc_pci (g : Nat) (k : Acc) : (setAcc ch g k).pci = ch.pci := rfl
@[simp] theorem setAcc_sys (g : Nat) (k : Acc) : (setAcc ch g k).sys = ch.sys := rfl
@[simp] theorem coreOf_setAcc (g : Nat) (k : Acc) (x : Nat) : coreOf (setAcc ch g k) x = coreOf ch x := rfl
@[simp] theorem bankOf_setAcc (g : Nat) (k : Acc) (x : Nat) : bankOf (setAcc ch g k) x = bankOf ch x := rfl
@[simp] theorem arrOf_setAcc (g : Nat) (k : Acc) (x y : Nat) : arrOf (setAcc ch g k) x y = arrOf ch x y := rfl
@[simp] theorem statOf_setAcc (g : Nat) (k : Acc) (x y : Nat) : statOf (setAcc ch g k) x y = statOf ch x y := rfl
@[simp] theorem fieldOf_setAcc (g : Nat) (k : Acc) (x : Nat) : fieldOf (setAcc ch g k) x = fieldOf ch x := rfl
@[simp] theorem towerOf_setAcc (g : Nat) (k : Acc) (x : Nat) : towerOf (setAcc ch g k) x = towerOf ch x := rfl
@[simp] theorem tcoreOf_setAcc (g : Nat) (k : Acc) (x : Nat) : tcoreOf (setAcc ch g k) x = tcoreOf ch x := rfl
@[simp] theorem stackOf_setAcc (g : Nat) (k : Acc) (x : Nat) : stackOf (setAcc ch g k) x = stackOf ch x := rfl
@[simp] theorem jobOf_setAcc (g : Nat) (k : Acc) (x : Nat) : jobOf (setAcc ch g k) x = jobOf ch x := rfl
@[simp] theorem owner_setAcc (g : Nat) (k : Acc) (x : Nat) : owner (setAcc ch g k) x = owner ch x := rfl
@[simp] theorem coreJob_setAcc (g : Nat) (k : Acc) (x : Nat) : coreJob (setAcc ch g k) x = coreJob ch x := rfl
@[simp] theorem clustersOf_setAcc (g : Nat) (k : Acc) (x : JobId) : clustersOf (setAcc ch g k) x = clustersOf ch x := rfl
@[simp] theorem regGet_setAcc (g : Nat) (k : Acc) (x : Reg) (y z : Nat) : regGet (setAcc ch g k) x y z = regGet ch x y z := rfl
@[simp] theorem blkGet_setAcc (g : Nat) (k : Acc) (x : Blk) (y : Nat) (z : Bool) : blkGet (setAcc ch g k) x y z = blkGet ch x y z := rfl
@[simp] theorem enabled_setAcc (g : Nat) (k : Acc) (x : Blk) (y : Nat) : enabled (setAcc ch g k) x y = enabled ch x y := rfl
@[simp] theorem islandRuns_setAcc (g : Nat) (k : Acc) (x : Nat) : islandRuns (setAcc ch g k) x = islandRuns ch x := rfl
@[simp] theorem objGet_setAcc (g : Nat) (k : Acc) (x : ObjId) : objGet (setAcc ch g k) x = objGet ch x := rfl
@[simp] theorem objPoisoned_setAcc (g : Nat) (k : Acc) (x : ObjId) : objPoisoned (setAcc ch g k) x = objPoisoned ch x := rfl
@[simp] theorem streamOf_setAcc (g : Nat) (k : Acc) (x : Nat) : streamOf (setAcc ch g k) x = streamOf ch x := rfl

/-! ### updAcc -/

@[simp] theorem updAcc_free (g : Nat) (f : Acc → Acc) : (updAcc ch g f).free = ch.free := rfl
@[simp] theorem updAcc_us (g : Nat) (f : Acc → Acc) : (updAcc ch g f).us = ch.us := rfl
@[simp] theorem updAcc_isl (g : Nat) (f : Acc → Acc) : (updAcc ch g f).isl = ch.isl := rfl
@[simp] theorem updAcc_islRun (g : Nat) (f : Acc → Acc) : (updAcc ch g f).islRun = ch.islRun := rfl
@[simp] theorem updAcc_phase (g : Nat) (f : Acc → Acc) : (updAcc ch g f).phase = ch.phase := rfl
@[simp] theorem updAcc_mem (g : Nat) (f : Acc → Acc) : (updAcc ch g f).mem = ch.mem := rfl
@[simp] theorem updAcc_poi (g : Nat) (f : Acc → Acc) : (updAcc ch g f).poi = ch.poi := rfl
@[simp] theorem updAcc_regs (g : Nat) (f : Acc → Acc) : (updAcc ch g f).regs = ch.regs := rfl
@[simp] theorem updAcc_blks (g : Nat) (f : Acc → Acc) : (updAcc ch g f).blks = ch.blks := rfl
@[simp] theorem updAcc_resp (g : Nat) (f : Acc → Acc) : (updAcc ch g f).resp = ch.resp := rfl
@[simp] theorem updAcc_cnts (g : Nat) (f : Acc → Acc) : (updAcc ch g f).cnts = ch.cnts := rfl
@[simp] theorem updAcc_cores (g : Nat) (f : Acc → Acc) : (updAcc ch g f).cores = ch.cores := rfl
@[simp] theorem updAcc_banks (g : Nat) (f : Acc → Acc) : (updAcc ch g f).banks = ch.banks := rfl
@[simp] theorem updAcc_arrs (g : Nat) (f : Acc → Acc) : (updAcc ch g f).arrs = ch.arrs := rfl
@[simp] theorem updAcc_stats (g : Nat) (f : Acc → Acc) : (updAcc ch g f).stats = ch.stats := rfl
@[simp] theorem updAcc_fields (g : Nat) (f : Acc → Acc) : (updAcc ch g f).fields = ch.fields := rfl
@[simp] theorem updAcc_towers (g : Nat) (f : Acc → Acc) : (updAcc ch g f).towers = ch.towers := rfl
@[simp] theorem updAcc_tcores (g : Nat) (f : Acc → Acc) : (updAcc ch g f).tcores = ch.tcores := rfl
@[simp] theorem updAcc_tsl (g : Nat) (f : Acc → Acc) : (updAcc ch g f).tsl = ch.tsl := rfl
@[simp] theorem updAcc_clus (g : Nat) (f : Acc → Acc) : (updAcc ch g f).clus = ch.clus := rfl
@[simp] theorem updAcc_objs (g : Nat) (f : Acc → Acc) : (updAcc ch g f).objs = ch.objs := rfl
@[simp] theorem updAcc_objPoi (g : Nat) (f : Acc → Acc) : (updAcc ch g f).objPoi = ch.objPoi := rfl
@[simp] theorem updAcc_ports (g : Nat) (f : Acc → Acc) : (updAcc ch g f).ports = ch.ports := rfl
@[simp] theorem updAcc_fab (g : Nat) (f : Acc → Acc) : (updAcc ch g f).fab = ch.fab := rfl
@[simp] theorem updAcc_nwl (g : Nat) (f : Acc → Acc) : (updAcc ch g f).nwl = ch.nwl := rfl
@[simp] theorem updAcc_obs (g : Nat) (f : Acc → Acc) : (updAcc ch g f).obs = ch.obs := rfl
@[simp] theorem updAcc_land (g : Nat) (f : Acc → Acc) : (updAcc ch g f).land = ch.land := rfl
@[simp] theorem updAcc_globalLayers (g : Nat) (f : Acc → Acc) : (updAcc ch g f).globalLayers = ch.globalLayers := rfl
@[simp] theorem updAcc_stks (g : Nat) (f : Acc → Acc) : (updAcc ch g f).stks = ch.stks := rfl
@[simp] theorem updAcc_jobs (g : Nat) (f : Acc → Acc) : (updAcc ch g f).jobs = ch.jobs := rfl
@[simp] theorem updAcc_pci (g : Nat) (f : Acc → Acc) : (updAcc ch g f).pci = ch.pci := rfl
@[simp] theorem updAcc_sys (g : Nat) (f : Acc → Acc) : (updAcc ch g f).sys = ch.sys := rfl
@[simp] theorem coreOf_updAcc (g : Nat) (f : Acc → Acc) (x : Nat) : coreOf (updAcc ch g f) x = coreOf ch x := rfl
@[simp] theorem bankOf_updAcc (g : Nat) (f : Acc → Acc) (x : Nat) : bankOf (updAcc ch g f) x = bankOf ch x := rfl
@[simp] theorem arrOf_updAcc (g : Nat) (f : Acc → Acc) (x y : Nat) : arrOf (updAcc ch g f) x y = arrOf ch x y := rfl
@[simp] theorem statOf_updAcc (g : Nat) (f : Acc → Acc) (x y : Nat) : statOf (updAcc ch g f) x y = statOf ch x y := rfl
@[simp] theorem fieldOf_updAcc (g : Nat) (f : Acc → Acc) (x : Nat) : fieldOf (updAcc ch g f) x = fieldOf ch x := rfl
@[simp] theorem towerOf_updAcc (g : Nat) (f : Acc → Acc) (x : Nat) : towerOf (updAcc ch g f) x = towerOf ch x := rfl
@[simp] theorem tcoreOf_updAcc (g : Nat) (f : Acc → Acc) (x : Nat) : tcoreOf (updAcc ch g f) x = tcoreOf ch x := rfl
@[simp] theorem stackOf_updAcc (g : Nat) (f : Acc → Acc) (x : Nat) : stackOf (updAcc ch g f) x = stackOf ch x := rfl
@[simp] theorem jobOf_updAcc (g : Nat) (f : Acc → Acc) (x : Nat) : jobOf (updAcc ch g f) x = jobOf ch x := rfl
@[simp] theorem owner_updAcc (g : Nat) (f : Acc → Acc) (x : Nat) : owner (updAcc ch g f) x = owner ch x := rfl
@[simp] theorem coreJob_updAcc (g : Nat) (f : Acc → Acc) (x : Nat) : coreJob (updAcc ch g f) x = coreJob ch x := rfl
@[simp] theorem clustersOf_updAcc (g : Nat) (f : Acc → Acc) (x : JobId) : clustersOf (updAcc ch g f) x = clustersOf ch x := rfl
@[simp] theorem regGet_updAcc (g : Nat) (f : Acc → Acc) (x : Reg) (y z : Nat) : regGet (updAcc ch g f) x y z = regGet ch x y z := rfl
@[simp] theorem blkGet_updAcc (g : Nat) (f : Acc → Acc) (x : Blk) (y : Nat) (z : Bool) : blkGet (updAcc ch g f) x y z = blkGet ch x y z := rfl
@[simp] theorem enabled_updAcc (g : Nat) (f : Acc → Acc) (x : Blk) (y : Nat) : enabled (updAcc ch g f) x y = enabled ch x y := rfl
@[simp] theorem islandRuns_updAcc (g : Nat) (f : Acc → Acc) (x : Nat) : islandRuns (updAcc ch g f) x = islandRuns ch x := rfl
@[simp] theorem objGet_updAcc (g : Nat) (f : Acc → Acc) (x : ObjId) : objGet (updAcc ch g f) x = objGet ch x := rfl
@[simp] theorem objPoisoned_updAcc (g : Nat) (f : Acc → Acc) (x : ObjId) : objPoisoned (updAcc ch g f) x = objPoisoned ch x := rfl
@[simp] theorem streamOf_updAcc (g : Nat) (f : Acc → Acc) (x : Nat) : streamOf (updAcc ch g f) x = streamOf ch x := rfl

/-! ### setBank -/

@[simp] theorem setBank_free (g : Nat) (k : Bank) : (setBank ch g k).free = ch.free := rfl
@[simp] theorem setBank_us (g : Nat) (k : Bank) : (setBank ch g k).us = ch.us := rfl
@[simp] theorem setBank_isl (g : Nat) (k : Bank) : (setBank ch g k).isl = ch.isl := rfl
@[simp] theorem setBank_islRun (g : Nat) (k : Bank) : (setBank ch g k).islRun = ch.islRun := rfl
@[simp] theorem setBank_phase (g : Nat) (k : Bank) : (setBank ch g k).phase = ch.phase := rfl
@[simp] theorem setBank_mem (g : Nat) (k : Bank) : (setBank ch g k).mem = ch.mem := rfl
@[simp] theorem setBank_poi (g : Nat) (k : Bank) : (setBank ch g k).poi = ch.poi := rfl
@[simp] theorem setBank_regs (g : Nat) (k : Bank) : (setBank ch g k).regs = ch.regs := rfl
@[simp] theorem setBank_blks (g : Nat) (k : Bank) : (setBank ch g k).blks = ch.blks := rfl
@[simp] theorem setBank_resp (g : Nat) (k : Bank) : (setBank ch g k).resp = ch.resp := rfl
@[simp] theorem setBank_cnts (g : Nat) (k : Bank) : (setBank ch g k).cnts = ch.cnts := rfl
@[simp] theorem setBank_cores (g : Nat) (k : Bank) : (setBank ch g k).cores = ch.cores := rfl
@[simp] theorem setBank_accs (g : Nat) (k : Bank) : (setBank ch g k).accs = ch.accs := rfl
@[simp] theorem setBank_arrs (g : Nat) (k : Bank) : (setBank ch g k).arrs = ch.arrs := rfl
@[simp] theorem setBank_stats (g : Nat) (k : Bank) : (setBank ch g k).stats = ch.stats := rfl
@[simp] theorem setBank_fields (g : Nat) (k : Bank) : (setBank ch g k).fields = ch.fields := rfl
@[simp] theorem setBank_towers (g : Nat) (k : Bank) : (setBank ch g k).towers = ch.towers := rfl
@[simp] theorem setBank_tcores (g : Nat) (k : Bank) : (setBank ch g k).tcores = ch.tcores := rfl
@[simp] theorem setBank_tsl (g : Nat) (k : Bank) : (setBank ch g k).tsl = ch.tsl := rfl
@[simp] theorem setBank_clus (g : Nat) (k : Bank) : (setBank ch g k).clus = ch.clus := rfl
@[simp] theorem setBank_objs (g : Nat) (k : Bank) : (setBank ch g k).objs = ch.objs := rfl
@[simp] theorem setBank_objPoi (g : Nat) (k : Bank) : (setBank ch g k).objPoi = ch.objPoi := rfl
@[simp] theorem setBank_ports (g : Nat) (k : Bank) : (setBank ch g k).ports = ch.ports := rfl
@[simp] theorem setBank_fab (g : Nat) (k : Bank) : (setBank ch g k).fab = ch.fab := rfl
@[simp] theorem setBank_nwl (g : Nat) (k : Bank) : (setBank ch g k).nwl = ch.nwl := rfl
@[simp] theorem setBank_obs (g : Nat) (k : Bank) : (setBank ch g k).obs = ch.obs := rfl
@[simp] theorem setBank_land (g : Nat) (k : Bank) : (setBank ch g k).land = ch.land := rfl
@[simp] theorem setBank_globalLayers (g : Nat) (k : Bank) : (setBank ch g k).globalLayers = ch.globalLayers := rfl
@[simp] theorem setBank_stks (g : Nat) (k : Bank) : (setBank ch g k).stks = ch.stks := rfl
@[simp] theorem setBank_jobs (g : Nat) (k : Bank) : (setBank ch g k).jobs = ch.jobs := rfl
@[simp] theorem setBank_pci (g : Nat) (k : Bank) : (setBank ch g k).pci = ch.pci := rfl
@[simp] theorem setBank_sys (g : Nat) (k : Bank) : (setBank ch g k).sys = ch.sys := rfl
@[simp] theorem coreOf_setBank (g : Nat) (k : Bank) (x : Nat) : coreOf (setBank ch g k) x = coreOf ch x := rfl
@[simp] theorem accOf_setBank (g : Nat) (k : Bank) (x : Nat) : accOf (setBank ch g k) x = accOf ch x := rfl
@[simp] theorem arrOf_setBank (g : Nat) (k : Bank) (x y : Nat) : arrOf (setBank ch g k) x y = arrOf ch x y := rfl
@[simp] theorem statOf_setBank (g : Nat) (k : Bank) (x y : Nat) : statOf (setBank ch g k) x y = statOf ch x y := rfl
@[simp] theorem fieldOf_setBank (g : Nat) (k : Bank) (x : Nat) : fieldOf (setBank ch g k) x = fieldOf ch x := rfl
@[simp] theorem towerOf_setBank (g : Nat) (k : Bank) (x : Nat) : towerOf (setBank ch g k) x = towerOf ch x := rfl
@[simp] theorem tcoreOf_setBank (g : Nat) (k : Bank) (x : Nat) : tcoreOf (setBank ch g k) x = tcoreOf ch x := rfl
@[simp] theorem stackOf_setBank (g : Nat) (k : Bank) (x : Nat) : stackOf (setBank ch g k) x = stackOf ch x := rfl
@[simp] theorem jobOf_setBank (g : Nat) (k : Bank) (x : Nat) : jobOf (setBank ch g k) x = jobOf ch x := rfl
@[simp] theorem owner_setBank (g : Nat) (k : Bank) (x : Nat) : owner (setBank ch g k) x = owner ch x := rfl
@[simp] theorem coreJob_setBank (g : Nat) (k : Bank) (x : Nat) : coreJob (setBank ch g k) x = coreJob ch x := rfl
@[simp] theorem clustersOf_setBank (g : Nat) (k : Bank) (x : JobId) : clustersOf (setBank ch g k) x = clustersOf ch x := rfl
@[simp] theorem regGet_setBank (g : Nat) (k : Bank) (x : Reg) (y z : Nat) : regGet (setBank ch g k) x y z = regGet ch x y z := rfl
@[simp] theorem blkGet_setBank (g : Nat) (k : Bank) (x : Blk) (y : Nat) (z : Bool) : blkGet (setBank ch g k) x y z = blkGet ch x y z := rfl
@[simp] theorem enabled_setBank (g : Nat) (k : Bank) (x : Blk) (y : Nat) : enabled (setBank ch g k) x y = enabled ch x y := rfl
@[simp] theorem islandRuns_setBank (g : Nat) (k : Bank) (x : Nat) : islandRuns (setBank ch g k) x = islandRuns ch x := rfl
@[simp] theorem objGet_setBank (g : Nat) (k : Bank) (x : ObjId) : objGet (setBank ch g k) x = objGet ch x := rfl
@[simp] theorem objPoisoned_setBank (g : Nat) (k : Bank) (x : ObjId) : objPoisoned (setBank ch g k) x = objPoisoned ch x := rfl
@[simp] theorem streamOf_setBank (g : Nat) (k : Bank) (x : Nat) : streamOf (setBank ch g k) x = streamOf ch x := rfl

/-! ### updBank -/

@[simp] theorem updBank_free (g : Nat) (f : Bank → Bank) : (updBank ch g f).free = ch.free := rfl
@[simp] theorem updBank_us (g : Nat) (f : Bank → Bank) : (updBank ch g f).us = ch.us := rfl
@[simp] theorem updBank_isl (g : Nat) (f : Bank → Bank) : (updBank ch g f).isl = ch.isl := rfl
@[simp] theorem updBank_islRun (g : Nat) (f : Bank → Bank) : (updBank ch g f).islRun = ch.islRun := rfl
@[simp] theorem updBank_phase (g : Nat) (f : Bank → Bank) : (updBank ch g f).phase = ch.phase := rfl
@[simp] theorem updBank_mem (g : Nat) (f : Bank → Bank) : (updBank ch g f).mem = ch.mem := rfl
@[simp] theorem updBank_poi (g : Nat) (f : Bank → Bank) : (updBank ch g f).poi = ch.poi := rfl
@[simp] theorem updBank_regs (g : Nat) (f : Bank → Bank) : (updBank ch g f).regs = ch.regs := rfl
@[simp] theorem updBank_blks (g : Nat) (f : Bank → Bank) : (updBank ch g f).blks = ch.blks := rfl
@[simp] theorem updBank_resp (g : Nat) (f : Bank → Bank) : (updBank ch g f).resp = ch.resp := rfl
@[simp] theorem updBank_cnts (g : Nat) (f : Bank → Bank) : (updBank ch g f).cnts = ch.cnts := rfl
@[simp] theorem updBank_cores (g : Nat) (f : Bank → Bank) : (updBank ch g f).cores = ch.cores := rfl
@[simp] theorem updBank_accs (g : Nat) (f : Bank → Bank) : (updBank ch g f).accs = ch.accs := rfl
@[simp] theorem updBank_arrs (g : Nat) (f : Bank → Bank) : (updBank ch g f).arrs = ch.arrs := rfl
@[simp] theorem updBank_stats (g : Nat) (f : Bank → Bank) : (updBank ch g f).stats = ch.stats := rfl
@[simp] theorem updBank_fields (g : Nat) (f : Bank → Bank) : (updBank ch g f).fields = ch.fields := rfl
@[simp] theorem updBank_towers (g : Nat) (f : Bank → Bank) : (updBank ch g f).towers = ch.towers := rfl
@[simp] theorem updBank_tcores (g : Nat) (f : Bank → Bank) : (updBank ch g f).tcores = ch.tcores := rfl
@[simp] theorem updBank_tsl (g : Nat) (f : Bank → Bank) : (updBank ch g f).tsl = ch.tsl := rfl
@[simp] theorem updBank_clus (g : Nat) (f : Bank → Bank) : (updBank ch g f).clus = ch.clus := rfl
@[simp] theorem updBank_objs (g : Nat) (f : Bank → Bank) : (updBank ch g f).objs = ch.objs := rfl
@[simp] theorem updBank_objPoi (g : Nat) (f : Bank → Bank) : (updBank ch g f).objPoi = ch.objPoi := rfl
@[simp] theorem updBank_ports (g : Nat) (f : Bank → Bank) : (updBank ch g f).ports = ch.ports := rfl
@[simp] theorem updBank_fab (g : Nat) (f : Bank → Bank) : (updBank ch g f).fab = ch.fab := rfl
@[simp] theorem updBank_nwl (g : Nat) (f : Bank → Bank) : (updBank ch g f).nwl = ch.nwl := rfl
@[simp] theorem updBank_obs (g : Nat) (f : Bank → Bank) : (updBank ch g f).obs = ch.obs := rfl
@[simp] theorem updBank_land (g : Nat) (f : Bank → Bank) : (updBank ch g f).land = ch.land := rfl
@[simp] theorem updBank_globalLayers (g : Nat) (f : Bank → Bank) : (updBank ch g f).globalLayers = ch.globalLayers := rfl
@[simp] theorem updBank_stks (g : Nat) (f : Bank → Bank) : (updBank ch g f).stks = ch.stks := rfl
@[simp] theorem updBank_jobs (g : Nat) (f : Bank → Bank) : (updBank ch g f).jobs = ch.jobs := rfl
@[simp] theorem updBank_pci (g : Nat) (f : Bank → Bank) : (updBank ch g f).pci = ch.pci := rfl
@[simp] theorem updBank_sys (g : Nat) (f : Bank → Bank) : (updBank ch g f).sys = ch.sys := rfl
@[simp] theorem coreOf_updBank (g : Nat) (f : Bank → Bank) (x : Nat) : coreOf (updBank ch g f) x = coreOf ch x := rfl
@[simp] theorem accOf_updBank (g : Nat) (f : Bank → Bank) (x : Nat) : accOf (updBank ch g f) x = accOf ch x := rfl
@[simp] theorem arrOf_updBank (g : Nat) (f : Bank → Bank) (x y : Nat) : arrOf (updBank ch g f) x y = arrOf ch x y := rfl
@[simp] theorem statOf_updBank (g : Nat) (f : Bank → Bank) (x y : Nat) : statOf (updBank ch g f) x y = statOf ch x y := rfl
@[simp] theorem fieldOf_updBank (g : Nat) (f : Bank → Bank) (x : Nat) : fieldOf (updBank ch g f) x = fieldOf ch x := rfl
@[simp] theorem towerOf_updBank (g : Nat) (f : Bank → Bank) (x : Nat) : towerOf (updBank ch g f) x = towerOf ch x := rfl
@[simp] theorem tcoreOf_updBank (g : Nat) (f : Bank → Bank) (x : Nat) : tcoreOf (updBank ch g f) x = tcoreOf ch x := rfl
@[simp] theorem stackOf_updBank (g : Nat) (f : Bank → Bank) (x : Nat) : stackOf (updBank ch g f) x = stackOf ch x := rfl
@[simp] theorem jobOf_updBank (g : Nat) (f : Bank → Bank) (x : Nat) : jobOf (updBank ch g f) x = jobOf ch x := rfl
@[simp] theorem owner_updBank (g : Nat) (f : Bank → Bank) (x : Nat) : owner (updBank ch g f) x = owner ch x := rfl
@[simp] theorem coreJob_updBank (g : Nat) (f : Bank → Bank) (x : Nat) : coreJob (updBank ch g f) x = coreJob ch x := rfl
@[simp] theorem clustersOf_updBank (g : Nat) (f : Bank → Bank) (x : JobId) : clustersOf (updBank ch g f) x = clustersOf ch x := rfl
@[simp] theorem regGet_updBank (g : Nat) (f : Bank → Bank) (x : Reg) (y z : Nat) : regGet (updBank ch g f) x y z = regGet ch x y z := rfl
@[simp] theorem blkGet_updBank (g : Nat) (f : Bank → Bank) (x : Blk) (y : Nat) (z : Bool) : blkGet (updBank ch g f) x y z = blkGet ch x y z := rfl
@[simp] theorem enabled_updBank (g : Nat) (f : Bank → Bank) (x : Blk) (y : Nat) : enabled (updBank ch g f) x y = enabled ch x y := rfl
@[simp] theorem islandRuns_updBank (g : Nat) (f : Bank → Bank) (x : Nat) : islandRuns (updBank ch g f) x = islandRuns ch x := rfl
@[simp] theorem objGet_updBank (g : Nat) (f : Bank → Bank) (x : ObjId) : objGet (updBank ch g f) x = objGet ch x := rfl
@[simp] theorem objPoisoned_updBank (g : Nat) (f : Bank → Bank) (x : ObjId) : objPoisoned (updBank ch g f) x = objPoisoned ch x := rfl
@[simp] theorem streamOf_updBank (g : Nat) (f : Bank → Bank) (x : Nat) : streamOf (updBank ch g f) x = streamOf ch x := rfl

/-! ### setArr -/

@[simp] theorem setArr_free (g a : Nat) (m : Arr) : (setArr ch g a m).free = ch.free := rfl
@[simp] theorem setArr_us (g a : Nat) (m : Arr) : (setArr ch g a m).us = ch.us := rfl
@[simp] theorem setArr_isl (g a : Nat) (m : Arr) : (setArr ch g a m).isl = ch.isl := rfl
@[simp] theorem setArr_islRun (g a : Nat) (m : Arr) : (setArr ch g a m).islRun = ch.islRun := rfl
@[simp] theorem setArr_phase (g a : Nat) (m : Arr) : (setArr ch g a m).phase = ch.phase := rfl
@[simp] theorem setArr_mem (g a : Nat) (m : Arr) : (setArr ch g a m).mem = ch.mem := rfl
@[simp] theorem setArr_poi (g a : Nat) (m : Arr) : (setArr ch g a m).poi = ch.poi := rfl
@[simp] theorem setArr_regs (g a : Nat) (m : Arr) : (setArr ch g a m).regs = ch.regs := rfl
@[simp] theorem setArr_blks (g a : Nat) (m : Arr) : (setArr ch g a m).blks = ch.blks := rfl
@[simp] theorem setArr_resp (g a : Nat) (m : Arr) : (setArr ch g a m).resp = ch.resp := rfl
@[simp] theorem setArr_cnts (g a : Nat) (m : Arr) : (setArr ch g a m).cnts = ch.cnts := rfl
@[simp] theorem setArr_cores (g a : Nat) (m : Arr) : (setArr ch g a m).cores = ch.cores := rfl
@[simp] theorem setArr_accs (g a : Nat) (m : Arr) : (setArr ch g a m).accs = ch.accs := rfl
@[simp] theorem setArr_banks (g a : Nat) (m : Arr) : (setArr ch g a m).banks = ch.banks := rfl
@[simp] theorem setArr_stats (g a : Nat) (m : Arr) : (setArr ch g a m).stats = ch.stats := rfl
@[simp] theorem setArr_fields (g a : Nat) (m : Arr) : (setArr ch g a m).fields = ch.fields := rfl
@[simp] theorem setArr_towers (g a : Nat) (m : Arr) : (setArr ch g a m).towers = ch.towers := rfl
@[simp] theorem setArr_tcores (g a : Nat) (m : Arr) : (setArr ch g a m).tcores = ch.tcores := rfl
@[simp] theorem setArr_tsl (g a : Nat) (m : Arr) : (setArr ch g a m).tsl = ch.tsl := rfl
@[simp] theorem setArr_clus (g a : Nat) (m : Arr) : (setArr ch g a m).clus = ch.clus := rfl
@[simp] theorem setArr_objs (g a : Nat) (m : Arr) : (setArr ch g a m).objs = ch.objs := rfl
@[simp] theorem setArr_objPoi (g a : Nat) (m : Arr) : (setArr ch g a m).objPoi = ch.objPoi := rfl
@[simp] theorem setArr_ports (g a : Nat) (m : Arr) : (setArr ch g a m).ports = ch.ports := rfl
@[simp] theorem setArr_fab (g a : Nat) (m : Arr) : (setArr ch g a m).fab = ch.fab := rfl
@[simp] theorem setArr_nwl (g a : Nat) (m : Arr) : (setArr ch g a m).nwl = ch.nwl := rfl
@[simp] theorem setArr_obs (g a : Nat) (m : Arr) : (setArr ch g a m).obs = ch.obs := rfl
@[simp] theorem setArr_land (g a : Nat) (m : Arr) : (setArr ch g a m).land = ch.land := rfl
@[simp] theorem setArr_globalLayers (g a : Nat) (m : Arr) : (setArr ch g a m).globalLayers = ch.globalLayers := rfl
@[simp] theorem setArr_stks (g a : Nat) (m : Arr) : (setArr ch g a m).stks = ch.stks := rfl
@[simp] theorem setArr_jobs (g a : Nat) (m : Arr) : (setArr ch g a m).jobs = ch.jobs := rfl
@[simp] theorem setArr_pci (g a : Nat) (m : Arr) : (setArr ch g a m).pci = ch.pci := rfl
@[simp] theorem setArr_sys (g a : Nat) (m : Arr) : (setArr ch g a m).sys = ch.sys := rfl
@[simp] theorem coreOf_setArr (g a : Nat) (m : Arr) (x : Nat) : coreOf (setArr ch g a m) x = coreOf ch x := rfl
@[simp] theorem accOf_setArr (g a : Nat) (m : Arr) (x : Nat) : accOf (setArr ch g a m) x = accOf ch x := rfl
@[simp] theorem bankOf_setArr (g a : Nat) (m : Arr) (x : Nat) : bankOf (setArr ch g a m) x = bankOf ch x := rfl
@[simp] theorem statOf_setArr (g a : Nat) (m : Arr) (x y : Nat) : statOf (setArr ch g a m) x y = statOf ch x y := rfl
@[simp] theorem fieldOf_setArr (g a : Nat) (m : Arr) (x : Nat) : fieldOf (setArr ch g a m) x = fieldOf ch x := rfl
@[simp] theorem towerOf_setArr (g a : Nat) (m : Arr) (x : Nat) : towerOf (setArr ch g a m) x = towerOf ch x := rfl
@[simp] theorem tcoreOf_setArr (g a : Nat) (m : Arr) (x : Nat) : tcoreOf (setArr ch g a m) x = tcoreOf ch x := rfl
@[simp] theorem stackOf_setArr (g a : Nat) (m : Arr) (x : Nat) : stackOf (setArr ch g a m) x = stackOf ch x := rfl
@[simp] theorem jobOf_setArr (g a : Nat) (m : Arr) (x : Nat) : jobOf (setArr ch g a m) x = jobOf ch x := rfl
@[simp] theorem owner_setArr (g a : Nat) (m : Arr) (x : Nat) : owner (setArr ch g a m) x = owner ch x := rfl
@[simp] theorem coreJob_setArr (g a : Nat) (m : Arr) (x : Nat) : coreJob (setArr ch g a m) x = coreJob ch x := rfl
@[simp] theorem clustersOf_setArr (g a : Nat) (m : Arr) (x : JobId) : clustersOf (setArr ch g a m) x = clustersOf ch x := rfl
@[simp] theorem regGet_setArr (g a : Nat) (m : Arr) (x : Reg) (y z : Nat) : regGet (setArr ch g a m) x y z = regGet ch x y z := rfl
@[simp] theorem blkGet_setArr (g a : Nat) (m : Arr) (x : Blk) (y : Nat) (z : Bool) : blkGet (setArr ch g a m) x y z = blkGet ch x y z := rfl
@[simp] theorem enabled_setArr (g a : Nat) (m : Arr) (x : Blk) (y : Nat) : enabled (setArr ch g a m) x y = enabled ch x y := rfl
@[simp] theorem islandRuns_setArr (g a : Nat) (m : Arr) (x : Nat) : islandRuns (setArr ch g a m) x = islandRuns ch x := rfl
@[simp] theorem objGet_setArr (g a : Nat) (m : Arr) (x : ObjId) : objGet (setArr ch g a m) x = objGet ch x := rfl
@[simp] theorem objPoisoned_setArr (g a : Nat) (m : Arr) (x : ObjId) : objPoisoned (setArr ch g a m) x = objPoisoned ch x := rfl
@[simp] theorem streamOf_setArr (g a : Nat) (m : Arr) (x : Nat) : streamOf (setArr ch g a m) x = streamOf ch x := rfl

/-! ### updArr -/

@[simp] theorem updArr_free (g a : Nat) (f : Arr → Arr) : (updArr ch g a f).free = ch.free := rfl
@[simp] theorem updArr_us (g a : Nat) (f : Arr → Arr) : (updArr ch g a f).us = ch.us := rfl
@[simp] theorem updArr_isl (g a : Nat) (f : Arr → Arr) : (updArr ch g a f).isl = ch.isl := rfl
@[simp] theorem updArr_islRun (g a : Nat) (f : Arr → Arr) : (updArr ch g a f).islRun = ch.islRun := rfl
@[simp] theorem updArr_phase (g a : Nat) (f : Arr → Arr) : (updArr ch g a f).phase = ch.phase := rfl
@[simp] theorem updArr_mem (g a : Nat) (f : Arr → Arr) : (updArr ch g a f).mem = ch.mem := rfl
@[simp] theorem updArr_poi (g a : Nat) (f : Arr → Arr) : (updArr ch g a f).poi = ch.poi := rfl
@[simp] theorem updArr_regs (g a : Nat) (f : Arr → Arr) : (updArr ch g a f).regs = ch.regs := rfl
@[simp] theorem updArr_blks (g a : Nat) (f : Arr → Arr) : (updArr ch g a f).blks = ch.blks := rfl
@[simp] theorem updArr_resp (g a : Nat) (f : Arr → Arr) : (updArr ch g a f).resp = ch.resp := rfl
@[simp] theorem updArr_cnts (g a : Nat) (f : Arr → Arr) : (updArr ch g a f).cnts = ch.cnts := rfl
@[simp] theorem updArr_cores (g a : Nat) (f : Arr → Arr) : (updArr ch g a f).cores = ch.cores := rfl
@[simp] theorem updArr_accs (g a : Nat) (f : Arr → Arr) : (updArr ch g a f).accs = ch.accs := rfl
@[simp] theorem updArr_banks (g a : Nat) (f : Arr → Arr) : (updArr ch g a f).banks = ch.banks := rfl
@[simp] theorem updArr_stats (g a : Nat) (f : Arr → Arr) : (updArr ch g a f).stats = ch.stats := rfl
@[simp] theorem updArr_fields (g a : Nat) (f : Arr → Arr) : (updArr ch g a f).fields = ch.fields := rfl
@[simp] theorem updArr_towers (g a : Nat) (f : Arr → Arr) : (updArr ch g a f).towers = ch.towers := rfl
@[simp] theorem updArr_tcores (g a : Nat) (f : Arr → Arr) : (updArr ch g a f).tcores = ch.tcores := rfl
@[simp] theorem updArr_tsl (g a : Nat) (f : Arr → Arr) : (updArr ch g a f).tsl = ch.tsl := rfl
@[simp] theorem updArr_clus (g a : Nat) (f : Arr → Arr) : (updArr ch g a f).clus = ch.clus := rfl
@[simp] theorem updArr_objs (g a : Nat) (f : Arr → Arr) : (updArr ch g a f).objs = ch.objs := rfl
@[simp] theorem updArr_objPoi (g a : Nat) (f : Arr → Arr) : (updArr ch g a f).objPoi = ch.objPoi := rfl
@[simp] theorem updArr_ports (g a : Nat) (f : Arr → Arr) : (updArr ch g a f).ports = ch.ports := rfl
@[simp] theorem updArr_fab (g a : Nat) (f : Arr → Arr) : (updArr ch g a f).fab = ch.fab := rfl
@[simp] theorem updArr_nwl (g a : Nat) (f : Arr → Arr) : (updArr ch g a f).nwl = ch.nwl := rfl
@[simp] theorem updArr_obs (g a : Nat) (f : Arr → Arr) : (updArr ch g a f).obs = ch.obs := rfl
@[simp] theorem updArr_land (g a : Nat) (f : Arr → Arr) : (updArr ch g a f).land = ch.land := rfl
@[simp] theorem updArr_globalLayers (g a : Nat) (f : Arr → Arr) : (updArr ch g a f).globalLayers = ch.globalLayers := rfl
@[simp] theorem updArr_stks (g a : Nat) (f : Arr → Arr) : (updArr ch g a f).stks = ch.stks := rfl
@[simp] theorem updArr_jobs (g a : Nat) (f : Arr → Arr) : (updArr ch g a f).jobs = ch.jobs := rfl
@[simp] theorem updArr_pci (g a : Nat) (f : Arr → Arr) : (updArr ch g a f).pci = ch.pci := rfl
@[simp] theorem updArr_sys (g a : Nat) (f : Arr → Arr) : (updArr ch g a f).sys = ch.sys := rfl
@[simp] theorem coreOf_updArr (g a : Nat) (f : Arr → Arr) (x : Nat) : coreOf (updArr ch g a f) x = coreOf ch x := rfl
@[simp] theorem accOf_updArr (g a : Nat) (f : Arr → Arr) (x : Nat) : accOf (updArr ch g a f) x = accOf ch x := rfl
@[simp] theorem bankOf_updArr (g a : Nat) (f : Arr → Arr) (x : Nat) : bankOf (updArr ch g a f) x = bankOf ch x := rfl
@[simp] theorem statOf_updArr (g a : Nat) (f : Arr → Arr) (x y : Nat) : statOf (updArr ch g a f) x y = statOf ch x y := rfl
@[simp] theorem fieldOf_updArr (g a : Nat) (f : Arr → Arr) (x : Nat) : fieldOf (updArr ch g a f) x = fieldOf ch x := rfl
@[simp] theorem towerOf_updArr (g a : Nat) (f : Arr → Arr) (x : Nat) : towerOf (updArr ch g a f) x = towerOf ch x := rfl
@[simp] theorem tcoreOf_updArr (g a : Nat) (f : Arr → Arr) (x : Nat) : tcoreOf (updArr ch g a f) x = tcoreOf ch x := rfl
@[simp] theorem stackOf_updArr (g a : Nat) (f : Arr → Arr) (x : Nat) : stackOf (updArr ch g a f) x = stackOf ch x := rfl
@[simp] theorem jobOf_updArr (g a : Nat) (f : Arr → Arr) (x : Nat) : jobOf (updArr ch g a f) x = jobOf ch x := rfl
@[simp] theorem owner_updArr (g a : Nat) (f : Arr → Arr) (x : Nat) : owner (updArr ch g a f) x = owner ch x := rfl
@[simp] theorem coreJob_updArr (g a : Nat) (f : Arr → Arr) (x : Nat) : coreJob (updArr ch g a f) x = coreJob ch x := rfl
@[simp] theorem clustersOf_updArr (g a : Nat) (f : Arr → Arr) (x : JobId) : clustersOf (updArr ch g a f) x = clustersOf ch x := rfl
@[simp] theorem regGet_updArr (g a : Nat) (f : Arr → Arr) (x : Reg) (y z : Nat) : regGet (updArr ch g a f) x y z = regGet ch x y z := rfl
@[simp] theorem blkGet_updArr (g a : Nat) (f : Arr → Arr) (x : Blk) (y : Nat) (z : Bool) : blkGet (updArr ch g a f) x y z = blkGet ch x y z := rfl
@[simp] theorem enabled_updArr (g a : Nat) (f : Arr → Arr) (x : Blk) (y : Nat) : enabled (updArr ch g a f) x y = enabled ch x y := rfl
@[simp] theorem islandRuns_updArr (g a : Nat) (f : Arr → Arr) (x : Nat) : islandRuns (updArr ch g a f) x = islandRuns ch x := rfl
@[simp] theorem objGet_updArr (g a : Nat) (f : Arr → Arr) (x : ObjId) : objGet (updArr ch g a f) x = objGet ch x := rfl
@[simp] theorem objPoisoned_updArr (g a : Nat) (f : Arr → Arr) (x : ObjId) : objPoisoned (updArr ch g a f) x = objPoisoned ch x := rfl
@[simp] theorem streamOf_updArr (g a : Nat) (f : Arr → Arr) (x : Nat) : streamOf (updArr ch g a f) x = streamOf ch x := rfl

/-! ### updStat -/

@[simp] theorem updStat_free (g a : Nat) (f : ArrStat → ArrStat) : (updStat ch g a f).free = ch.free := rfl
@[simp] theorem updStat_us (g a : Nat) (f : ArrStat → ArrStat) : (updStat ch g a f).us = ch.us := rfl
@[simp] theorem updStat_isl (g a : Nat) (f : ArrStat → ArrStat) : (updStat ch g a f).isl = ch.isl := rfl
@[simp] theorem updStat_islRun (g a : Nat) (f : ArrStat → ArrStat) : (updStat ch g a f).islRun = ch.islRun := rfl
@[simp] theorem updStat_phase (g a : Nat) (f : ArrStat → ArrStat) : (updStat ch g a f).phase = ch.phase := rfl
@[simp] theorem updStat_mem (g a : Nat) (f : ArrStat → ArrStat) : (updStat ch g a f).mem = ch.mem := rfl
@[simp] theorem updStat_poi (g a : Nat) (f : ArrStat → ArrStat) : (updStat ch g a f).poi = ch.poi := rfl
@[simp] theorem updStat_regs (g a : Nat) (f : ArrStat → ArrStat) : (updStat ch g a f).regs = ch.regs := rfl
@[simp] theorem updStat_blks (g a : Nat) (f : ArrStat → ArrStat) : (updStat ch g a f).blks = ch.blks := rfl
@[simp] theorem updStat_resp (g a : Nat) (f : ArrStat → ArrStat) : (updStat ch g a f).resp = ch.resp := rfl
@[simp] theorem updStat_cnts (g a : Nat) (f : ArrStat → ArrStat) : (updStat ch g a f).cnts = ch.cnts := rfl
@[simp] theorem updStat_cores (g a : Nat) (f : ArrStat → ArrStat) : (updStat ch g a f).cores = ch.cores := rfl
@[simp] theorem updStat_accs (g a : Nat) (f : ArrStat → ArrStat) : (updStat ch g a f).accs = ch.accs := rfl
@[simp] theorem updStat_banks (g a : Nat) (f : ArrStat → ArrStat) : (updStat ch g a f).banks = ch.banks := rfl
@[simp] theorem updStat_arrs (g a : Nat) (f : ArrStat → ArrStat) : (updStat ch g a f).arrs = ch.arrs := rfl
@[simp] theorem updStat_fields (g a : Nat) (f : ArrStat → ArrStat) : (updStat ch g a f).fields = ch.fields := rfl
@[simp] theorem updStat_towers (g a : Nat) (f : ArrStat → ArrStat) : (updStat ch g a f).towers = ch.towers := rfl
@[simp] theorem updStat_tcores (g a : Nat) (f : ArrStat → ArrStat) : (updStat ch g a f).tcores = ch.tcores := rfl
@[simp] theorem updStat_tsl (g a : Nat) (f : ArrStat → ArrStat) : (updStat ch g a f).tsl = ch.tsl := rfl
@[simp] theorem updStat_clus (g a : Nat) (f : ArrStat → ArrStat) : (updStat ch g a f).clus = ch.clus := rfl
@[simp] theorem updStat_objs (g a : Nat) (f : ArrStat → ArrStat) : (updStat ch g a f).objs = ch.objs := rfl
@[simp] theorem updStat_objPoi (g a : Nat) (f : ArrStat → ArrStat) : (updStat ch g a f).objPoi = ch.objPoi := rfl
@[simp] theorem updStat_ports (g a : Nat) (f : ArrStat → ArrStat) : (updStat ch g a f).ports = ch.ports := rfl
@[simp] theorem updStat_fab (g a : Nat) (f : ArrStat → ArrStat) : (updStat ch g a f).fab = ch.fab := rfl
@[simp] theorem updStat_nwl (g a : Nat) (f : ArrStat → ArrStat) : (updStat ch g a f).nwl = ch.nwl := rfl
@[simp] theorem updStat_obs (g a : Nat) (f : ArrStat → ArrStat) : (updStat ch g a f).obs = ch.obs := rfl
@[simp] theorem updStat_land (g a : Nat) (f : ArrStat → ArrStat) : (updStat ch g a f).land = ch.land := rfl
@[simp] theorem updStat_globalLayers (g a : Nat) (f : ArrStat → ArrStat) : (updStat ch g a f).globalLayers = ch.globalLayers := rfl
@[simp] theorem updStat_stks (g a : Nat) (f : ArrStat → ArrStat) : (updStat ch g a f).stks = ch.stks := rfl
@[simp] theorem updStat_jobs (g a : Nat) (f : ArrStat → ArrStat) : (updStat ch g a f).jobs = ch.jobs := rfl
@[simp] theorem updStat_pci (g a : Nat) (f : ArrStat → ArrStat) : (updStat ch g a f).pci = ch.pci := rfl
@[simp] theorem updStat_sys (g a : Nat) (f : ArrStat → ArrStat) : (updStat ch g a f).sys = ch.sys := rfl
@[simp] theorem coreOf_updStat (g a : Nat) (f : ArrStat → ArrStat) (x : Nat) : coreOf (updStat ch g a f) x = coreOf ch x := rfl
@[simp] theorem accOf_updStat (g a : Nat) (f : ArrStat → ArrStat) (x : Nat) : accOf (updStat ch g a f) x = accOf ch x := rfl
@[simp] theorem bankOf_updStat (g a : Nat) (f : ArrStat → ArrStat) (x : Nat) : bankOf (updStat ch g a f) x = bankOf ch x := rfl
@[simp] theorem arrOf_updStat (g a : Nat) (f : ArrStat → ArrStat) (x y : Nat) : arrOf (updStat ch g a f) x y = arrOf ch x y := rfl
@[simp] theorem fieldOf_updStat (g a : Nat) (f : ArrStat → ArrStat) (x : Nat) : fieldOf (updStat ch g a f) x = fieldOf ch x := rfl
@[simp] theorem towerOf_updStat (g a : Nat) (f : ArrStat → ArrStat) (x : Nat) : towerOf (updStat ch g a f) x = towerOf ch x := rfl
@[simp] theorem tcoreOf_updStat (g a : Nat) (f : ArrStat → ArrStat) (x : Nat) : tcoreOf (updStat ch g a f) x = tcoreOf ch x := rfl
@[simp] theorem stackOf_updStat (g a : Nat) (f : ArrStat → ArrStat) (x : Nat) : stackOf (updStat ch g a f) x = stackOf ch x := rfl
@[simp] theorem jobOf_updStat (g a : Nat) (f : ArrStat → ArrStat) (x : Nat) : jobOf (updStat ch g a f) x = jobOf ch x := rfl
@[simp] theorem owner_updStat (g a : Nat) (f : ArrStat → ArrStat) (x : Nat) : owner (updStat ch g a f) x = owner ch x := rfl
@[simp] theorem coreJob_updStat (g a : Nat) (f : ArrStat → ArrStat) (x : Nat) : coreJob (updStat ch g a f) x = coreJob ch x := rfl
@[simp] theorem clustersOf_updStat (g a : Nat) (f : ArrStat → ArrStat) (x : JobId) : clustersOf (updStat ch g a f) x = clustersOf ch x := rfl
@[simp] theorem regGet_updStat (g a : Nat) (f : ArrStat → ArrStat) (x : Reg) (y z : Nat) : regGet (updStat ch g a f) x y z = regGet ch x y z := rfl
@[simp] theorem blkGet_updStat (g a : Nat) (f : ArrStat → ArrStat) (x : Blk) (y : Nat) (z : Bool) : blkGet (updStat ch g a f) x y z = blkGet ch x y z := rfl
@[simp] theorem enabled_updStat (g a : Nat) (f : ArrStat → ArrStat) (x : Blk) (y : Nat) : enabled (updStat ch g a f) x y = enabled ch x y := rfl
@[simp] theorem islandRuns_updStat (g a : Nat) (f : ArrStat → ArrStat) (x : Nat) : islandRuns (updStat ch g a f) x = islandRuns ch x := rfl
@[simp] theorem objGet_updStat (g a : Nat) (f : ArrStat → ArrStat) (x : ObjId) : objGet (updStat ch g a f) x = objGet ch x := rfl
@[simp] theorem objPoisoned_updStat (g a : Nat) (f : ArrStat → ArrStat) (x : ObjId) : objPoisoned (updStat ch g a f) x = objPoisoned ch x := rfl
@[simp] theorem streamOf_updStat (g a : Nat) (f : ArrStat → ArrStat) (x : Nat) : streamOf (updStat ch g a f) x = streamOf ch x := rfl

/-! ### updField -/

@[simp] theorem updField_free (g : Nat) (f : Field → Field) : (updField ch g f).free = ch.free := rfl
@[simp] theorem updField_us (g : Nat) (f : Field → Field) : (updField ch g f).us = ch.us := rfl
@[simp] theorem updField_isl (g : Nat) (f : Field → Field) : (updField ch g f).isl = ch.isl := rfl
@[simp] theorem updField_islRun (g : Nat) (f : Field → Field) : (updField ch g f).islRun = ch.islRun := rfl
@[simp] theorem updField_phase (g : Nat) (f : Field → Field) : (updField ch g f).phase = ch.phase := rfl
@[simp] theorem updField_mem (g : Nat) (f : Field → Field) : (updField ch g f).mem = ch.mem := rfl
@[simp] theorem updField_poi (g : Nat) (f : Field → Field) : (updField ch g f).poi = ch.poi := rfl
@[simp] theorem updField_regs (g : Nat) (f : Field → Field) : (updField ch g f).regs = ch.regs := rfl
@[simp] theorem updField_blks (g : Nat) (f : Field → Field) : (updField ch g f).blks = ch.blks := rfl
@[simp] theorem updField_resp (g : Nat) (f : Field → Field) : (updField ch g f).resp = ch.resp := rfl
@[simp] theorem updField_cnts (g : Nat) (f : Field → Field) : (updField ch g f).cnts = ch.cnts := rfl
@[simp] theorem updField_cores (g : Nat) (f : Field → Field) : (updField ch g f).cores = ch.cores := rfl
@[simp] theorem updField_accs (g : Nat) (f : Field → Field) : (updField ch g f).accs = ch.accs := rfl
@[simp] theorem updField_banks (g : Nat) (f : Field → Field) : (updField ch g f).banks = ch.banks := rfl
@[simp] theorem updField_arrs (g : Nat) (f : Field → Field) : (updField ch g f).arrs = ch.arrs := rfl
@[simp] theorem updField_stats (g : Nat) (f : Field → Field) : (updField ch g f).stats = ch.stats := rfl
@[simp] theorem updField_towers (g : Nat) (f : Field → Field) : (updField ch g f).towers = ch.towers := rfl
@[simp] theorem updField_tcores (g : Nat) (f : Field → Field) : (updField ch g f).tcores = ch.tcores := rfl
@[simp] theorem updField_tsl (g : Nat) (f : Field → Field) : (updField ch g f).tsl = ch.tsl := rfl
@[simp] theorem updField_clus (g : Nat) (f : Field → Field) : (updField ch g f).clus = ch.clus := rfl
@[simp] theorem updField_objs (g : Nat) (f : Field → Field) : (updField ch g f).objs = ch.objs := rfl
@[simp] theorem updField_objPoi (g : Nat) (f : Field → Field) : (updField ch g f).objPoi = ch.objPoi := rfl
@[simp] theorem updField_ports (g : Nat) (f : Field → Field) : (updField ch g f).ports = ch.ports := rfl
@[simp] theorem updField_fab (g : Nat) (f : Field → Field) : (updField ch g f).fab = ch.fab := rfl
@[simp] theorem updField_nwl (g : Nat) (f : Field → Field) : (updField ch g f).nwl = ch.nwl := rfl
@[simp] theorem updField_obs (g : Nat) (f : Field → Field) : (updField ch g f).obs = ch.obs := rfl
@[simp] theorem updField_land (g : Nat) (f : Field → Field) : (updField ch g f).land = ch.land := rfl
@[simp] theorem updField_globalLayers (g : Nat) (f : Field → Field) : (updField ch g f).globalLayers = ch.globalLayers := rfl
@[simp] theorem updField_stks (g : Nat) (f : Field → Field) : (updField ch g f).stks = ch.stks := rfl
@[simp] theorem updField_jobs (g : Nat) (f : Field → Field) : (updField ch g f).jobs = ch.jobs := rfl
@[simp] theorem updField_pci (g : Nat) (f : Field → Field) : (updField ch g f).pci = ch.pci := rfl
@[simp] theorem updField_sys (g : Nat) (f : Field → Field) : (updField ch g f).sys = ch.sys := rfl
@[simp] theorem coreOf_updField (g : Nat) (f : Field → Field) (x : Nat) : coreOf (updField ch g f) x = coreOf ch x := rfl
@[simp] theorem accOf_updField (g : Nat) (f : Field → Field) (x : Nat) : accOf (updField ch g f) x = accOf ch x := rfl
@[simp] theorem bankOf_updField (g : Nat) (f : Field → Field) (x : Nat) : bankOf (updField ch g f) x = bankOf ch x := rfl
@[simp] theorem arrOf_updField (g : Nat) (f : Field → Field) (x y : Nat) : arrOf (updField ch g f) x y = arrOf ch x y := rfl
@[simp] theorem statOf_updField (g : Nat) (f : Field → Field) (x y : Nat) : statOf (updField ch g f) x y = statOf ch x y := rfl
@[simp] theorem towerOf_updField (g : Nat) (f : Field → Field) (x : Nat) : towerOf (updField ch g f) x = towerOf ch x := rfl
@[simp] theorem tcoreOf_updField (g : Nat) (f : Field → Field) (x : Nat) : tcoreOf (updField ch g f) x = tcoreOf ch x := rfl
@[simp] theorem stackOf_updField (g : Nat) (f : Field → Field) (x : Nat) : stackOf (updField ch g f) x = stackOf ch x := rfl
@[simp] theorem jobOf_updField (g : Nat) (f : Field → Field) (x : Nat) : jobOf (updField ch g f) x = jobOf ch x := rfl
@[simp] theorem owner_updField (g : Nat) (f : Field → Field) (x : Nat) : owner (updField ch g f) x = owner ch x := rfl
@[simp] theorem coreJob_updField (g : Nat) (f : Field → Field) (x : Nat) : coreJob (updField ch g f) x = coreJob ch x := rfl
@[simp] theorem clustersOf_updField (g : Nat) (f : Field → Field) (x : JobId) : clustersOf (updField ch g f) x = clustersOf ch x := rfl
@[simp] theorem regGet_updField (g : Nat) (f : Field → Field) (x : Reg) (y z : Nat) : regGet (updField ch g f) x y z = regGet ch x y z := rfl
@[simp] theorem blkGet_updField (g : Nat) (f : Field → Field) (x : Blk) (y : Nat) (z : Bool) : blkGet (updField ch g f) x y z = blkGet ch x y z := rfl
@[simp] theorem enabled_updField (g : Nat) (f : Field → Field) (x : Blk) (y : Nat) : enabled (updField ch g f) x y = enabled ch x y := rfl
@[simp] theorem islandRuns_updField (g : Nat) (f : Field → Field) (x : Nat) : islandRuns (updField ch g f) x = islandRuns ch x := rfl
@[simp] theorem objGet_updField (g : Nat) (f : Field → Field) (x : ObjId) : objGet (updField ch g f) x = objGet ch x := rfl
@[simp] theorem objPoisoned_updField (g : Nat) (f : Field → Field) (x : ObjId) : objPoisoned (updField ch g f) x = objPoisoned ch x := rfl
@[simp] theorem streamOf_updField (g : Nat) (f : Field → Field) (x : Nat) : streamOf (updField ch g f) x = streamOf ch x := rfl

/-! ### updTower -/

@[simp] theorem updTower_free (t : Nat) (f : Tower → Tower) : (updTower ch t f).free = ch.free := rfl
@[simp] theorem updTower_us (t : Nat) (f : Tower → Tower) : (updTower ch t f).us = ch.us := rfl
@[simp] theorem updTower_isl (t : Nat) (f : Tower → Tower) : (updTower ch t f).isl = ch.isl := rfl
@[simp] theorem updTower_islRun (t : Nat) (f : Tower → Tower) : (updTower ch t f).islRun = ch.islRun := rfl
@[simp] theorem updTower_phase (t : Nat) (f : Tower → Tower) : (updTower ch t f).phase = ch.phase := rfl
@[simp] theorem updTower_mem (t : Nat) (f : Tower → Tower) : (updTower ch t f).mem = ch.mem := rfl
@[simp] theorem updTower_poi (t : Nat) (f : Tower → Tower) : (updTower ch t f).poi = ch.poi := rfl
@[simp] theorem updTower_regs (t : Nat) (f : Tower → Tower) : (updTower ch t f).regs = ch.regs := rfl
@[simp] theorem updTower_blks (t : Nat) (f : Tower → Tower) : (updTower ch t f).blks = ch.blks := rfl
@[simp] theorem updTower_resp (t : Nat) (f : Tower → Tower) : (updTower ch t f).resp = ch.resp := rfl
@[simp] theorem updTower_cnts (t : Nat) (f : Tower → Tower) : (updTower ch t f).cnts = ch.cnts := rfl
@[simp] theorem updTower_cores (t : Nat) (f : Tower → Tower) : (updTower ch t f).cores = ch.cores := rfl
@[simp] theorem updTower_accs (t : Nat) (f : Tower → Tower) : (updTower ch t f).accs = ch.accs := rfl
@[simp] theorem updTower_banks (t : Nat) (f : Tower → Tower) : (updTower ch t f).banks = ch.banks := rfl
@[simp] theorem updTower_arrs (t : Nat) (f : Tower → Tower) : (updTower ch t f).arrs = ch.arrs := rfl
@[simp] theorem updTower_stats (t : Nat) (f : Tower → Tower) : (updTower ch t f).stats = ch.stats := rfl
@[simp] theorem updTower_fields (t : Nat) (f : Tower → Tower) : (updTower ch t f).fields = ch.fields := rfl
@[simp] theorem updTower_tcores (t : Nat) (f : Tower → Tower) : (updTower ch t f).tcores = ch.tcores := rfl
@[simp] theorem updTower_tsl (t : Nat) (f : Tower → Tower) : (updTower ch t f).tsl = ch.tsl := rfl
@[simp] theorem updTower_clus (t : Nat) (f : Tower → Tower) : (updTower ch t f).clus = ch.clus := rfl
@[simp] theorem updTower_objs (t : Nat) (f : Tower → Tower) : (updTower ch t f).objs = ch.objs := rfl
@[simp] theorem updTower_objPoi (t : Nat) (f : Tower → Tower) : (updTower ch t f).objPoi = ch.objPoi := rfl
@[simp] theorem updTower_ports (t : Nat) (f : Tower → Tower) : (updTower ch t f).ports = ch.ports := rfl
@[simp] theorem updTower_fab (t : Nat) (f : Tower → Tower) : (updTower ch t f).fab = ch.fab := rfl
@[simp] theorem updTower_nwl (t : Nat) (f : Tower → Tower) : (updTower ch t f).nwl = ch.nwl := rfl
@[simp] theorem updTower_obs (t : Nat) (f : Tower → Tower) : (updTower ch t f).obs = ch.obs := rfl
@[simp] theorem updTower_land (t : Nat) (f : Tower → Tower) : (updTower ch t f).land = ch.land := rfl
@[simp] theorem updTower_globalLayers (t : Nat) (f : Tower → Tower) : (updTower ch t f).globalLayers = ch.globalLayers := rfl
@[simp] theorem updTower_stks (t : Nat) (f : Tower → Tower) : (updTower ch t f).stks = ch.stks := rfl
@[simp] theorem updTower_jobs (t : Nat) (f : Tower → Tower) : (updTower ch t f).jobs = ch.jobs := rfl
@[simp] theorem updTower_pci (t : Nat) (f : Tower → Tower) : (updTower ch t f).pci = ch.pci := rfl
@[simp] theorem updTower_sys (t : Nat) (f : Tower → Tower) : (updTower ch t f).sys = ch.sys := rfl
@[simp] theorem coreOf_updTower (t : Nat) (f : Tower → Tower) (x : Nat) : coreOf (updTower ch t f) x = coreOf ch x := rfl
@[simp] theorem accOf_updTower (t : Nat) (f : Tower → Tower) (x : Nat) : accOf (updTower ch t f) x = accOf ch x := rfl
@[simp] theorem bankOf_updTower (t : Nat) (f : Tower → Tower) (x : Nat) : bankOf (updTower ch t f) x = bankOf ch x := rfl
@[simp] theorem arrOf_updTower (t : Nat) (f : Tower → Tower) (x y : Nat) : arrOf (updTower ch t f) x y = arrOf ch x y := rfl
@[simp] theorem statOf_updTower (t : Nat) (f : Tower → Tower) (x y : Nat) : statOf (updTower ch t f) x y = statOf ch x y := rfl
@[simp] theorem fieldOf_updTower (t : Nat) (f : Tower → Tower) (x : Nat) : fieldOf (updTower ch t f) x = fieldOf ch x := rfl
@[simp] theorem tcoreOf_updTower (t : Nat) (f : Tower → Tower) (x : Nat) : tcoreOf (updTower ch t f) x = tcoreOf ch x := rfl
@[simp] theorem stackOf_updTower (t : Nat) (f : Tower → Tower) (x : Nat) : stackOf (updTower ch t f) x = stackOf ch x := rfl
@[simp] theorem jobOf_updTower (t : Nat) (f : Tower → Tower) (x : Nat) : jobOf (updTower ch t f) x = jobOf ch x := rfl
@[simp] theorem owner_updTower (t : Nat) (f : Tower → Tower) (x : Nat) : owner (updTower ch t f) x = owner ch x := rfl
@[simp] theorem coreJob_updTower (t : Nat) (f : Tower → Tower) (x : Nat) : coreJob (updTower ch t f) x = coreJob ch x := rfl
@[simp] theorem clustersOf_updTower (t : Nat) (f : Tower → Tower) (x : JobId) : clustersOf (updTower ch t f) x = clustersOf ch x := rfl
@[simp] theorem regGet_updTower (t : Nat) (f : Tower → Tower) (x : Reg) (y z : Nat) : regGet (updTower ch t f) x y z = regGet ch x y z := rfl
@[simp] theorem blkGet_updTower (t : Nat) (f : Tower → Tower) (x : Blk) (y : Nat) (z : Bool) : blkGet (updTower ch t f) x y z = blkGet ch x y z := rfl
@[simp] theorem enabled_updTower (t : Nat) (f : Tower → Tower) (x : Blk) (y : Nat) : enabled (updTower ch t f) x y = enabled ch x y := rfl
@[simp] theorem islandRuns_updTower (t : Nat) (f : Tower → Tower) (x : Nat) : islandRuns (updTower ch t f) x = islandRuns ch x := rfl
@[simp] theorem objGet_updTower (t : Nat) (f : Tower → Tower) (x : ObjId) : objGet (updTower ch t f) x = objGet ch x := rfl
@[simp] theorem objPoisoned_updTower (t : Nat) (f : Tower → Tower) (x : ObjId) : objPoisoned (updTower ch t f) x = objPoisoned ch x := rfl
@[simp] theorem streamOf_updTower (t : Nat) (f : Tower → Tower) (x : Nat) : streamOf (updTower ch t f) x = streamOf ch x := rfl

/-! ### updTcore -/

@[simp] theorem updTcore_free (g : Nat) (f : TCore → TCore) : (updTcore ch g f).free = ch.free := rfl
@[simp] theorem updTcore_us (g : Nat) (f : TCore → TCore) : (updTcore ch g f).us = ch.us := rfl
@[simp] theorem updTcore_isl (g : Nat) (f : TCore → TCore) : (updTcore ch g f).isl = ch.isl := rfl
@[simp] theorem updTcore_islRun (g : Nat) (f : TCore → TCore) : (updTcore ch g f).islRun = ch.islRun := rfl
@[simp] theorem updTcore_phase (g : Nat) (f : TCore → TCore) : (updTcore ch g f).phase = ch.phase := rfl
@[simp] theorem updTcore_mem (g : Nat) (f : TCore → TCore) : (updTcore ch g f).mem = ch.mem := rfl
@[simp] theorem updTcore_poi (g : Nat) (f : TCore → TCore) : (updTcore ch g f).poi = ch.poi := rfl
@[simp] theorem updTcore_regs (g : Nat) (f : TCore → TCore) : (updTcore ch g f).regs = ch.regs := rfl
@[simp] theorem updTcore_blks (g : Nat) (f : TCore → TCore) : (updTcore ch g f).blks = ch.blks := rfl
@[simp] theorem updTcore_resp (g : Nat) (f : TCore → TCore) : (updTcore ch g f).resp = ch.resp := rfl
@[simp] theorem updTcore_cnts (g : Nat) (f : TCore → TCore) : (updTcore ch g f).cnts = ch.cnts := rfl
@[simp] theorem updTcore_cores (g : Nat) (f : TCore → TCore) : (updTcore ch g f).cores = ch.cores := rfl
@[simp] theorem updTcore_accs (g : Nat) (f : TCore → TCore) : (updTcore ch g f).accs = ch.accs := rfl
@[simp] theorem updTcore_banks (g : Nat) (f : TCore → TCore) : (updTcore ch g f).banks = ch.banks := rfl
@[simp] theorem updTcore_arrs (g : Nat) (f : TCore → TCore) : (updTcore ch g f).arrs = ch.arrs := rfl
@[simp] theorem updTcore_stats (g : Nat) (f : TCore → TCore) : (updTcore ch g f).stats = ch.stats := rfl
@[simp] theorem updTcore_fields (g : Nat) (f : TCore → TCore) : (updTcore ch g f).fields = ch.fields := rfl
@[simp] theorem updTcore_towers (g : Nat) (f : TCore → TCore) : (updTcore ch g f).towers = ch.towers := rfl
@[simp] theorem updTcore_tsl (g : Nat) (f : TCore → TCore) : (updTcore ch g f).tsl = ch.tsl := rfl
@[simp] theorem updTcore_clus (g : Nat) (f : TCore → TCore) : (updTcore ch g f).clus = ch.clus := rfl
@[simp] theorem updTcore_objs (g : Nat) (f : TCore → TCore) : (updTcore ch g f).objs = ch.objs := rfl
@[simp] theorem updTcore_objPoi (g : Nat) (f : TCore → TCore) : (updTcore ch g f).objPoi = ch.objPoi := rfl
@[simp] theorem updTcore_ports (g : Nat) (f : TCore → TCore) : (updTcore ch g f).ports = ch.ports := rfl
@[simp] theorem updTcore_fab (g : Nat) (f : TCore → TCore) : (updTcore ch g f).fab = ch.fab := rfl
@[simp] theorem updTcore_nwl (g : Nat) (f : TCore → TCore) : (updTcore ch g f).nwl = ch.nwl := rfl
@[simp] theorem updTcore_obs (g : Nat) (f : TCore → TCore) : (updTcore ch g f).obs = ch.obs := rfl
@[simp] theorem updTcore_land (g : Nat) (f : TCore → TCore) : (updTcore ch g f).land = ch.land := rfl
@[simp] theorem updTcore_globalLayers (g : Nat) (f : TCore → TCore) : (updTcore ch g f).globalLayers = ch.globalLayers := rfl
@[simp] theorem updTcore_stks (g : Nat) (f : TCore → TCore) : (updTcore ch g f).stks = ch.stks := rfl
@[simp] theorem updTcore_jobs (g : Nat) (f : TCore → TCore) : (updTcore ch g f).jobs = ch.jobs := rfl
@[simp] theorem updTcore_pci (g : Nat) (f : TCore → TCore) : (updTcore ch g f).pci = ch.pci := rfl
@[simp] theorem updTcore_sys (g : Nat) (f : TCore → TCore) : (updTcore ch g f).sys = ch.sys := rfl
@[simp] theorem coreOf_updTcore (g : Nat) (f : TCore → TCore) (x : Nat) : coreOf (updTcore ch g f) x = coreOf ch x := rfl
@[simp] theorem accOf_updTcore (g : Nat) (f : TCore → TCore) (x : Nat) : accOf (updTcore ch g f) x = accOf ch x := rfl
@[simp] theorem bankOf_updTcore (g : Nat) (f : TCore → TCore) (x : Nat) : bankOf (updTcore ch g f) x = bankOf ch x := rfl
@[simp] theorem arrOf_updTcore (g : Nat) (f : TCore → TCore) (x y : Nat) : arrOf (updTcore ch g f) x y = arrOf ch x y := rfl
@[simp] theorem statOf_updTcore (g : Nat) (f : TCore → TCore) (x y : Nat) : statOf (updTcore ch g f) x y = statOf ch x y := rfl
@[simp] theorem fieldOf_updTcore (g : Nat) (f : TCore → TCore) (x : Nat) : fieldOf (updTcore ch g f) x = fieldOf ch x := rfl
@[simp] theorem towerOf_updTcore (g : Nat) (f : TCore → TCore) (x : Nat) : towerOf (updTcore ch g f) x = towerOf ch x := rfl
@[simp] theorem stackOf_updTcore (g : Nat) (f : TCore → TCore) (x : Nat) : stackOf (updTcore ch g f) x = stackOf ch x := rfl
@[simp] theorem jobOf_updTcore (g : Nat) (f : TCore → TCore) (x : Nat) : jobOf (updTcore ch g f) x = jobOf ch x := rfl
@[simp] theorem owner_updTcore (g : Nat) (f : TCore → TCore) (x : Nat) : owner (updTcore ch g f) x = owner ch x := rfl
@[simp] theorem coreJob_updTcore (g : Nat) (f : TCore → TCore) (x : Nat) : coreJob (updTcore ch g f) x = coreJob ch x := rfl
@[simp] theorem clustersOf_updTcore (g : Nat) (f : TCore → TCore) (x : JobId) : clustersOf (updTcore ch g f) x = clustersOf ch x := rfl
@[simp] theorem regGet_updTcore (g : Nat) (f : TCore → TCore) (x : Reg) (y z : Nat) : regGet (updTcore ch g f) x y z = regGet ch x y z := rfl
@[simp] theorem blkGet_updTcore (g : Nat) (f : TCore → TCore) (x : Blk) (y : Nat) (z : Bool) : blkGet (updTcore ch g f) x y z = blkGet ch x y z := rfl
@[simp] theorem enabled_updTcore (g : Nat) (f : TCore → TCore) (x : Blk) (y : Nat) : enabled (updTcore ch g f) x y = enabled ch x y := rfl
@[simp] theorem islandRuns_updTcore (g : Nat) (f : TCore → TCore) (x : Nat) : islandRuns (updTcore ch g f) x = islandRuns ch x := rfl
@[simp] theorem objGet_updTcore (g : Nat) (f : TCore → TCore) (x : ObjId) : objGet (updTcore ch g f) x = objGet ch x := rfl
@[simp] theorem objPoisoned_updTcore (g : Nat) (f : TCore → TCore) (x : ObjId) : objPoisoned (updTcore ch g f) x = objPoisoned ch x := rfl
@[simp] theorem streamOf_updTcore (g : Nat) (f : TCore → TCore) (x : Nat) : streamOf (updTcore ch g f) x = streamOf ch x := rfl

/-! ### updStack -/

@[simp] theorem updStack_free (k : Nat) (f : Stack → Stack) : (updStack ch k f).free = ch.free := rfl
@[simp] theorem updStack_us (k : Nat) (f : Stack → Stack) : (updStack ch k f).us = ch.us := rfl
@[simp] theorem updStack_isl (k : Nat) (f : Stack → Stack) : (updStack ch k f).isl = ch.isl := rfl
@[simp] theorem updStack_islRun (k : Nat) (f : Stack → Stack) : (updStack ch k f).islRun = ch.islRun := rfl
@[simp] theorem updStack_phase (k : Nat) (f : Stack → Stack) : (updStack ch k f).phase = ch.phase := rfl
@[simp] theorem updStack_mem (k : Nat) (f : Stack → Stack) : (updStack ch k f).mem = ch.mem := rfl
@[simp] theorem updStack_poi (k : Nat) (f : Stack → Stack) : (updStack ch k f).poi = ch.poi := rfl
@[simp] theorem updStack_regs (k : Nat) (f : Stack → Stack) : (updStack ch k f).regs = ch.regs := rfl
@[simp] theorem updStack_blks (k : Nat) (f : Stack → Stack) : (updStack ch k f).blks = ch.blks := rfl
@[simp] theorem updStack_resp (k : Nat) (f : Stack → Stack) : (updStack ch k f).resp = ch.resp := rfl
@[simp] theorem updStack_cnts (k : Nat) (f : Stack → Stack) : (updStack ch k f).cnts = ch.cnts := rfl
@[simp] theorem updStack_cores (k : Nat) (f : Stack → Stack) : (updStack ch k f).cores = ch.cores := rfl
@[simp] theorem updStack_accs (k : Nat) (f : Stack → Stack) : (updStack ch k f).accs = ch.accs := rfl
@[simp] theorem updStack_banks (k : Nat) (f : Stack → Stack) : (updStack ch k f).banks = ch.banks := rfl
@[simp] theorem updStack_arrs (k : Nat) (f : Stack → Stack) : (updStack ch k f).arrs = ch.arrs := rfl
@[simp] theorem updStack_stats (k : Nat) (f : Stack → Stack) : (updStack ch k f).stats = ch.stats := rfl
@[simp] theorem updStack_fields (k : Nat) (f : Stack → Stack) : (updStack ch k f).fields = ch.fields := rfl
@[simp] theorem updStack_towers (k : Nat) (f : Stack → Stack) : (updStack ch k f).towers = ch.towers := rfl
@[simp] theorem updStack_tcores (k : Nat) (f : Stack → Stack) : (updStack ch k f).tcores = ch.tcores := rfl
@[simp] theorem updStack_tsl (k : Nat) (f : Stack → Stack) : (updStack ch k f).tsl = ch.tsl := rfl
@[simp] theorem updStack_clus (k : Nat) (f : Stack → Stack) : (updStack ch k f).clus = ch.clus := rfl
@[simp] theorem updStack_objs (k : Nat) (f : Stack → Stack) : (updStack ch k f).objs = ch.objs := rfl
@[simp] theorem updStack_objPoi (k : Nat) (f : Stack → Stack) : (updStack ch k f).objPoi = ch.objPoi := rfl
@[simp] theorem updStack_ports (k : Nat) (f : Stack → Stack) : (updStack ch k f).ports = ch.ports := rfl
@[simp] theorem updStack_fab (k : Nat) (f : Stack → Stack) : (updStack ch k f).fab = ch.fab := rfl
@[simp] theorem updStack_nwl (k : Nat) (f : Stack → Stack) : (updStack ch k f).nwl = ch.nwl := rfl
@[simp] theorem updStack_obs (k : Nat) (f : Stack → Stack) : (updStack ch k f).obs = ch.obs := rfl
@[simp] theorem updStack_land (k : Nat) (f : Stack → Stack) : (updStack ch k f).land = ch.land := rfl
@[simp] theorem updStack_globalLayers (k : Nat) (f : Stack → Stack) : (updStack ch k f).globalLayers = ch.globalLayers := rfl
@[simp] theorem updStack_jobs (k : Nat) (f : Stack → Stack) : (updStack ch k f).jobs = ch.jobs := rfl
@[simp] theorem updStack_pci (k : Nat) (f : Stack → Stack) : (updStack ch k f).pci = ch.pci := rfl
@[simp] theorem updStack_sys (k : Nat) (f : Stack → Stack) : (updStack ch k f).sys = ch.sys := rfl
@[simp] theorem coreOf_updStack (k : Nat) (f : Stack → Stack) (x : Nat) : coreOf (updStack ch k f) x = coreOf ch x := rfl
@[simp] theorem accOf_updStack (k : Nat) (f : Stack → Stack) (x : Nat) : accOf (updStack ch k f) x = accOf ch x := rfl
@[simp] theorem bankOf_updStack (k : Nat) (f : Stack → Stack) (x : Nat) : bankOf (updStack ch k f) x = bankOf ch x := rfl
@[simp] theorem arrOf_updStack (k : Nat) (f : Stack → Stack) (x y : Nat) : arrOf (updStack ch k f) x y = arrOf ch x y := rfl
@[simp] theorem statOf_updStack (k : Nat) (f : Stack → Stack) (x y : Nat) : statOf (updStack ch k f) x y = statOf ch x y := rfl
@[simp] theorem fieldOf_updStack (k : Nat) (f : Stack → Stack) (x : Nat) : fieldOf (updStack ch k f) x = fieldOf ch x := rfl
@[simp] theorem towerOf_updStack (k : Nat) (f : Stack → Stack) (x : Nat) : towerOf (updStack ch k f) x = towerOf ch x := rfl
@[simp] theorem tcoreOf_updStack (k : Nat) (f : Stack → Stack) (x : Nat) : tcoreOf (updStack ch k f) x = tcoreOf ch x := rfl
@[simp] theorem jobOf_updStack (k : Nat) (f : Stack → Stack) (x : Nat) : jobOf (updStack ch k f) x = jobOf ch x := rfl
@[simp] theorem owner_updStack (k : Nat) (f : Stack → Stack) (x : Nat) : owner (updStack ch k f) x = owner ch x := rfl
@[simp] theorem coreJob_updStack (k : Nat) (f : Stack → Stack) (x : Nat) : coreJob (updStack ch k f) x = coreJob ch x := rfl
@[simp] theorem clustersOf_updStack (k : Nat) (f : Stack → Stack) (x : JobId) : clustersOf (updStack ch k f) x = clustersOf ch x := rfl
@[simp] theorem regGet_updStack (k : Nat) (f : Stack → Stack) (x : Reg) (y z : Nat) : regGet (updStack ch k f) x y z = regGet ch x y z := rfl
@[simp] theorem blkGet_updStack (k : Nat) (f : Stack → Stack) (x : Blk) (y : Nat) (z : Bool) : blkGet (updStack ch k f) x y z = blkGet ch x y z := rfl
@[simp] theorem enabled_updStack (k : Nat) (f : Stack → Stack) (x : Blk) (y : Nat) : enabled (updStack ch k f) x y = enabled ch x y := rfl
@[simp] theorem islandRuns_updStack (k : Nat) (f : Stack → Stack) (x : Nat) : islandRuns (updStack ch k f) x = islandRuns ch x := rfl
@[simp] theorem objGet_updStack (k : Nat) (f : Stack → Stack) (x : ObjId) : objGet (updStack ch k f) x = objGet ch x := rfl
@[simp] theorem objPoisoned_updStack (k : Nat) (f : Stack → Stack) (x : ObjId) : objPoisoned (updStack ch k f) x = objPoisoned ch x := rfl
@[simp] theorem streamOf_updStack (k : Nat) (f : Stack → Stack) (x : Nat) : streamOf (updStack ch k f) x = streamOf ch x := rfl

/-! ### updJob -/

@[simp] theorem updJob_free (j : Nat) (f : Job → Job) : (updJob ch j f).free = ch.free := rfl
@[simp] theorem updJob_us (j : Nat) (f : Job → Job) : (updJob ch j f).us = ch.us := rfl
@[simp] theorem updJob_isl (j : Nat) (f : Job → Job) : (updJob ch j f).isl = ch.isl := rfl
@[simp] theorem updJob_islRun (j : Nat) (f : Job → Job) : (updJob ch j f).islRun = ch.islRun := rfl
@[simp] theorem updJob_phase (j : Nat) (f : Job → Job) : (updJob ch j f).phase = ch.phase := rfl
@[simp] theorem updJob_mem (j : Nat) (f : Job → Job) : (updJob ch j f).mem = ch.mem := rfl
@[simp] theorem updJob_poi (j : Nat) (f : Job → Job) : (updJob ch j f).poi = ch.poi := rfl
@[simp] theorem updJob_regs (j : Nat) (f : Job → Job) : (updJob ch j f).regs = ch.regs := rfl
@[simp] theorem updJob_blks (j : Nat) (f : Job → Job) : (updJob ch j f).blks = ch.blks := rfl
@[simp] theorem updJob_resp (j : Nat) (f : Job → Job) : (updJob ch j f).resp = ch.resp := rfl
@[simp] theorem updJob_cnts (j : Nat) (f : Job → Job) : (updJob ch j f).cnts = ch.cnts := rfl
@[simp] theorem updJob_cores (j : Nat) (f : Job → Job) : (updJob ch j f).cores = ch.cores := rfl
@[simp] theorem updJob_accs (j : Nat) (f : Job → Job) : (updJob ch j f).accs = ch.accs := rfl
@[simp] theorem updJob_banks (j : Nat) (f : Job → Job) : (updJob ch j f).banks = ch.banks := rfl
@[simp] theorem updJob_arrs (j : Nat) (f : Job → Job) : (updJob ch j f).arrs = ch.arrs := rfl
@[simp] theorem updJob_stats (j : Nat) (f : Job → Job) : (updJob ch j f).stats = ch.stats := rfl
@[simp] theorem updJob_fields (j : Nat) (f : Job → Job) : (updJob ch j f).fields = ch.fields := rfl
@[simp] theorem updJob_towers (j : Nat) (f : Job → Job) : (updJob ch j f).towers = ch.towers := rfl
@[simp] theorem updJob_tcores (j : Nat) (f : Job → Job) : (updJob ch j f).tcores = ch.tcores := rfl
@[simp] theorem updJob_tsl (j : Nat) (f : Job → Job) : (updJob ch j f).tsl = ch.tsl := rfl
@[simp] theorem updJob_clus (j : Nat) (f : Job → Job) : (updJob ch j f).clus = ch.clus := rfl
@[simp] theorem updJob_objs (j : Nat) (f : Job → Job) : (updJob ch j f).objs = ch.objs := rfl
@[simp] theorem updJob_objPoi (j : Nat) (f : Job → Job) : (updJob ch j f).objPoi = ch.objPoi := rfl
@[simp] theorem updJob_ports (j : Nat) (f : Job → Job) : (updJob ch j f).ports = ch.ports := rfl
@[simp] theorem updJob_fab (j : Nat) (f : Job → Job) : (updJob ch j f).fab = ch.fab := rfl
@[simp] theorem updJob_nwl (j : Nat) (f : Job → Job) : (updJob ch j f).nwl = ch.nwl := rfl
@[simp] theorem updJob_obs (j : Nat) (f : Job → Job) : (updJob ch j f).obs = ch.obs := rfl
@[simp] theorem updJob_land (j : Nat) (f : Job → Job) : (updJob ch j f).land = ch.land := rfl
@[simp] theorem updJob_globalLayers (j : Nat) (f : Job → Job) : (updJob ch j f).globalLayers = ch.globalLayers := rfl
@[simp] theorem updJob_stks (j : Nat) (f : Job → Job) : (updJob ch j f).stks = ch.stks := rfl
@[simp] theorem updJob_pci (j : Nat) (f : Job → Job) : (updJob ch j f).pci = ch.pci := rfl
@[simp] theorem updJob_sys (j : Nat) (f : Job → Job) : (updJob ch j f).sys = ch.sys := rfl
@[simp] theorem coreOf_updJob (j : Nat) (f : Job → Job) (x : Nat) : coreOf (updJob ch j f) x = coreOf ch x := rfl
@[simp] theorem accOf_updJob (j : Nat) (f : Job → Job) (x : Nat) : accOf (updJob ch j f) x = accOf ch x := rfl
@[simp] theorem bankOf_updJob (j : Nat) (f : Job → Job) (x : Nat) : bankOf (updJob ch j f) x = bankOf ch x := rfl
@[simp] theorem arrOf_updJob (j : Nat) (f : Job → Job) (x y : Nat) : arrOf (updJob ch j f) x y = arrOf ch x y := rfl
@[simp] theorem statOf_updJob (j : Nat) (f : Job → Job) (x y : Nat) : statOf (updJob ch j f) x y = statOf ch x y := rfl
@[simp] theorem fieldOf_updJob (j : Nat) (f : Job → Job) (x : Nat) : fieldOf (updJob ch j f) x = fieldOf ch x := rfl
@[simp] theorem towerOf_updJob (j : Nat) (f : Job → Job) (x : Nat) : towerOf (updJob ch j f) x = towerOf ch x := rfl
@[simp] theorem tcoreOf_updJob (j : Nat) (f : Job → Job) (x : Nat) : tcoreOf (updJob ch j f) x = tcoreOf ch x := rfl
@[simp] theorem stackOf_updJob (j : Nat) (f : Job → Job) (x : Nat) : stackOf (updJob ch j f) x = stackOf ch x := rfl
@[simp] theorem owner_updJob (j : Nat) (f : Job → Job) (x : Nat) : owner (updJob ch j f) x = owner ch x := rfl
@[simp] theorem coreJob_updJob (j : Nat) (f : Job → Job) (x : Nat) : coreJob (updJob ch j f) x = coreJob ch x := rfl
@[simp] theorem clustersOf_updJob (j : Nat) (f : Job → Job) (x : JobId) : clustersOf (updJob ch j f) x = clustersOf ch x := rfl
@[simp] theorem regGet_updJob (j : Nat) (f : Job → Job) (x : Reg) (y z : Nat) : regGet (updJob ch j f) x y z = regGet ch x y z := rfl
@[simp] theorem blkGet_updJob (j : Nat) (f : Job → Job) (x : Blk) (y : Nat) (z : Bool) : blkGet (updJob ch j f) x y z = blkGet ch x y z := rfl
@[simp] theorem enabled_updJob (j : Nat) (f : Job → Job) (x : Blk) (y : Nat) : enabled (updJob ch j f) x y = enabled ch x y := rfl
@[simp] theorem islandRuns_updJob (j : Nat) (f : Job → Job) (x : Nat) : islandRuns (updJob ch j f) x = islandRuns ch x := rfl
@[simp] theorem objGet_updJob (j : Nat) (f : Job → Job) (x : ObjId) : objGet (updJob ch j f) x = objGet ch x := rfl
@[simp] theorem objPoisoned_updJob (j : Nat) (f : Job → Job) (x : ObjId) : objPoisoned (updJob ch j f) x = objPoisoned ch x := rfl
@[simp] theorem streamOf_updJob (j : Nat) (f : Job → Job) (x : Nat) : streamOf (updJob ch j f) x = streamOf ch x := rfl

/-! ### regSet -/

@[simp] theorem regSet_free (r : Reg) (u : Nat) (v : Word) (k : Nat) : (regSet ch r u v k).free = ch.free := rfl
@[simp] theorem regSet_us (r : Reg) (u : Nat) (v : Word) (k : Nat) : (regSet ch r u v k).us = ch.us := rfl
@[simp] theorem regSet_isl (r : Reg) (u : Nat) (v : Word) (k : Nat) : (regSet ch r u v k).isl = ch.isl := rfl
@[simp] theorem regSet_islRun (r : Reg) (u : Nat) (v : Word) (k : Nat) : (regSet ch r u v k).islRun = ch.islRun := rfl
@[simp] theorem regSet_phase (r : Reg) (u : Nat) (v : Word) (k : Nat) : (regSet ch r u v k).phase = ch.phase := rfl
@[simp] theorem regSet_mem (r : Reg) (u : Nat) (v : Word) (k : Nat) : (regSet ch r u v k).mem = ch.mem := rfl
@[simp] theorem regSet_poi (r : Reg) (u : Nat) (v : Word) (k : Nat) : (regSet ch r u v k).poi = ch.poi := rfl
@[simp] theorem regSet_blks (r : Reg) (u : Nat) (v : Word) (k : Nat) : (regSet ch r u v k).blks = ch.blks := rfl
@[simp] theorem regSet_resp (r : Reg) (u : Nat) (v : Word) (k : Nat) : (regSet ch r u v k).resp = ch.resp := rfl
@[simp] theorem regSet_cnts (r : Reg) (u : Nat) (v : Word) (k : Nat) : (regSet ch r u v k).cnts = ch.cnts := rfl
@[simp] theorem regSet_cores (r : Reg) (u : Nat) (v : Word) (k : Nat) : (regSet ch r u v k).cores = ch.cores := rfl
@[simp] theorem regSet_accs (r : Reg) (u : Nat) (v : Word) (k : Nat) : (regSet ch r u v k).accs = ch.accs := rfl
@[simp] theorem regSet_banks (r : Reg) (u : Nat) (v : Word) (k : Nat) : (regSet ch r u v k).banks = ch.banks := rfl
@[simp] theorem regSet_arrs (r : Reg) (u : Nat) (v : Word) (k : Nat) : (regSet ch r u v k).arrs = ch.arrs := rfl
@[simp] theorem regSet_stats (r : Reg) (u : Nat) (v : Word) (k : Nat) : (regSet ch r u v k).stats = ch.stats := rfl
@[simp] theorem regSet_fields (r : Reg) (u : Nat) (v : Word) (k : Nat) : (regSet ch r u v k).fields = ch.fields := rfl
@[simp] theorem regSet_towers (r : Reg) (u : Nat) (v : Word) (k : Nat) : (regSet ch r u v k).towers = ch.towers := rfl
@[simp] theorem regSet_tcores (r : Reg) (u : Nat) (v : Word) (k : Nat) : (regSet ch r u v k).tcores = ch.tcores := rfl
@[simp] theorem regSet_tsl (r : Reg) (u : Nat) (v : Word) (k : Nat) : (regSet ch r u v k).tsl = ch.tsl := rfl
@[simp] theorem regSet_clus (r : Reg) (u : Nat) (v : Word) (k : Nat) : (regSet ch r u v k).clus = ch.clus := rfl
@[simp] theorem regSet_objs (r : Reg) (u : Nat) (v : Word) (k : Nat) : (regSet ch r u v k).objs = ch.objs := rfl
@[simp] theorem regSet_objPoi (r : Reg) (u : Nat) (v : Word) (k : Nat) : (regSet ch r u v k).objPoi = ch.objPoi := rfl
@[simp] theorem regSet_ports (r : Reg) (u : Nat) (v : Word) (k : Nat) : (regSet ch r u v k).ports = ch.ports := rfl
@[simp] theorem regSet_fab (r : Reg) (u : Nat) (v : Word) (k : Nat) : (regSet ch r u v k).fab = ch.fab := rfl
@[simp] theorem regSet_nwl (r : Reg) (u : Nat) (v : Word) (k : Nat) : (regSet ch r u v k).nwl = ch.nwl := rfl
@[simp] theorem regSet_obs (r : Reg) (u : Nat) (v : Word) (k : Nat) : (regSet ch r u v k).obs = ch.obs := rfl
@[simp] theorem regSet_land (r : Reg) (u : Nat) (v : Word) (k : Nat) : (regSet ch r u v k).land = ch.land := rfl
@[simp] theorem regSet_globalLayers (r : Reg) (u : Nat) (v : Word) (k : Nat) : (regSet ch r u v k).globalLayers = ch.globalLayers := rfl
@[simp] theorem regSet_stks (r : Reg) (u : Nat) (v : Word) (k : Nat) : (regSet ch r u v k).stks = ch.stks := rfl
@[simp] theorem regSet_jobs (r : Reg) (u : Nat) (v : Word) (k : Nat) : (regSet ch r u v k).jobs = ch.jobs := rfl
@[simp] theorem regSet_pci (r : Reg) (u : Nat) (v : Word) (k : Nat) : (regSet ch r u v k).pci = ch.pci := rfl
@[simp] theorem regSet_sys (r : Reg) (u : Nat) (v : Word) (k : Nat) : (regSet ch r u v k).sys = ch.sys := rfl
@[simp] theorem coreOf_regSet (r : Reg) (u : Nat) (v : Word) (k : Nat) (x : Nat) : coreOf (regSet ch r u v k) x = coreOf ch x := rfl
@[simp] theorem accOf_regSet (r : Reg) (u : Nat) (v : Word) (k : Nat) (x : Nat) : accOf (regSet ch r u v k) x = accOf ch x := rfl
@[simp] theorem bankOf_regSet (r : Reg) (u : Nat) (v : Word) (k : Nat) (x : Nat) : bankOf (regSet ch r u v k) x = bankOf ch x := rfl
@[simp] theorem arrOf_regSet (r : Reg) (u : Nat) (v : Word) (k : Nat) (x y : Nat) : arrOf (regSet ch r u v k) x y = arrOf ch x y := rfl
@[simp] theorem statOf_regSet (r : Reg) (u : Nat) (v : Word) (k : Nat) (x y : Nat) : statOf (regSet ch r u v k) x y = statOf ch x y := rfl
@[simp] theorem fieldOf_regSet (r : Reg) (u : Nat) (v : Word) (k : Nat) (x : Nat) : fieldOf (regSet ch r u v k) x = fieldOf ch x := rfl
@[simp] theorem towerOf_regSet (r : Reg) (u : Nat) (v : Word) (k : Nat) (x : Nat) : towerOf (regSet ch r u v k) x = towerOf ch x := rfl
@[simp] theorem tcoreOf_regSet (r : Reg) (u : Nat) (v : Word) (k : Nat) (x : Nat) : tcoreOf (regSet ch r u v k) x = tcoreOf ch x := rfl
@[simp] theorem stackOf_regSet (r : Reg) (u : Nat) (v : Word) (k : Nat) (x : Nat) : stackOf (regSet ch r u v k) x = stackOf ch x := rfl
@[simp] theorem jobOf_regSet (r : Reg) (u : Nat) (v : Word) (k : Nat) (x : Nat) : jobOf (regSet ch r u v k) x = jobOf ch x := rfl
@[simp] theorem owner_regSet (r : Reg) (u : Nat) (v : Word) (k : Nat) (x : Nat) : owner (regSet ch r u v k) x = owner ch x := rfl
@[simp] theorem coreJob_regSet (r : Reg) (u : Nat) (v : Word) (k : Nat) (x : Nat) : coreJob (regSet ch r u v k) x = coreJob ch x := rfl
@[simp] theorem clustersOf_regSet (r : Reg) (u : Nat) (v : Word) (k : Nat) (x : JobId) : clustersOf (regSet ch r u v k) x = clustersOf ch x := rfl
@[simp] theorem blkGet_regSet (r : Reg) (u : Nat) (v : Word) (k : Nat) (x : Blk) (y : Nat) (z : Bool) : blkGet (regSet ch r u v k) x y z = blkGet ch x y z := rfl
@[simp] theorem enabled_regSet (r : Reg) (u : Nat) (v : Word) (k : Nat) (x : Blk) (y : Nat) : enabled (regSet ch r u v k) x y = enabled ch x y := rfl
@[simp] theorem islandRuns_regSet (r : Reg) (u : Nat) (v : Word) (k : Nat) (x : Nat) : islandRuns (regSet ch r u v k) x = islandRuns ch x := rfl
@[simp] theorem objGet_regSet (r : Reg) (u : Nat) (v : Word) (k : Nat) (x : ObjId) : objGet (regSet ch r u v k) x = objGet ch x := rfl
@[simp] theorem objPoisoned_regSet (r : Reg) (u : Nat) (v : Word) (k : Nat) (x : ObjId) : objPoisoned (regSet ch r u v k) x = objPoisoned ch x := rfl
@[simp] theorem streamOf_regSet (r : Reg) (u : Nat) (v : Word) (k : Nat) (x : Nat) : streamOf (regSet ch r u v k) x = streamOf ch x := rfl

/-! ### blkSet -/

@[simp] theorem blkSet_free (b : Blk) (u : Nat) (two : Bool) (v : BlkState) : (blkSet ch b u two v).free = ch.free := rfl
@[simp] theorem blkSet_us (b : Blk) (u : Nat) (two : Bool) (v : BlkState) : (blkSet ch b u two v).us = ch.us := rfl
@[simp] theorem blkSet_isl (b : Blk) (u : Nat) (two : Bool) (v : BlkState) : (blkSet ch b u two v).isl = ch.isl := rfl
@[simp] theorem blkSet_islRun (b : Blk) (u : Nat) (two : Bool) (v : BlkState) : (blkSet ch b u two v).islRun = ch.islRun := rfl
@[simp] theorem blkSet_phase (b : Blk) (u : Nat) (two : Bool) (v : BlkState) : (blkSet ch b u two v).phase = ch.phase := rfl
@[simp] theorem blkSet_mem (b : Blk) (u : Nat) (two : Bool) (v : BlkState) : (blkSet ch b u two v).mem = ch.mem := rfl
@[simp] theorem blkSet_poi (b : Blk) (u : Nat) (two : Bool) (v : BlkState) : (blkSet ch b u two v).poi = ch.poi := rfl
@[simp] theorem blkSet_regs (b : Blk) (u : Nat) (two : Bool) (v : BlkState) : (blkSet ch b u two v).regs = ch.regs := rfl
@[simp] theorem blkSet_resp (b : Blk) (u : Nat) (two : Bool) (v : BlkState) : (blkSet ch b u two v).resp = ch.resp := rfl
@[simp] theorem blkSet_cnts (b : Blk) (u : Nat) (two : Bool) (v : BlkState) : (blkSet ch b u two v).cnts = ch.cnts := rfl
@[simp] theorem blkSet_cores (b : Blk) (u : Nat) (two : Bool) (v : BlkState) : (blkSet ch b u two v).cores = ch.cores := rfl
@[simp] theorem blkSet_accs (b : Blk) (u : Nat) (two : Bool) (v : BlkState) : (blkSet ch b u two v).accs = ch.accs := rfl
@[simp] theorem blkSet_banks (b : Blk) (u : Nat) (two : Bool) (v : BlkState) : (blkSet ch b u two v).banks = ch.banks := rfl
@[simp] theorem blkSet_arrs (b : Blk) (u : Nat) (two : Bool) (v : BlkState) : (blkSet ch b u two v).arrs = ch.arrs := rfl
@[simp] theorem blkSet_stats (b : Blk) (u : Nat) (two : Bool) (v : BlkState) : (blkSet ch b u two v).stats = ch.stats := rfl
@[simp] theorem blkSet_fields (b : Blk) (u : Nat) (two : Bool) (v : BlkState) : (blkSet ch b u two v).fields = ch.fields := rfl
@[simp] theorem blkSet_towers (b : Blk) (u : Nat) (two : Bool) (v : BlkState) : (blkSet ch b u two v).towers = ch.towers := rfl
@[simp] theorem blkSet_tcores (b : Blk) (u : Nat) (two : Bool) (v : BlkState) : (blkSet ch b u two v).tcores = ch.tcores := rfl
@[simp] theorem blkSet_tsl (b : Blk) (u : Nat) (two : Bool) (v : BlkState) : (blkSet ch b u two v).tsl = ch.tsl := rfl
@[simp] theorem blkSet_clus (b : Blk) (u : Nat) (two : Bool) (v : BlkState) : (blkSet ch b u two v).clus = ch.clus := rfl
@[simp] theorem blkSet_objs (b : Blk) (u : Nat) (two : Bool) (v : BlkState) : (blkSet ch b u two v).objs = ch.objs := rfl
@[simp] theorem blkSet_objPoi (b : Blk) (u : Nat) (two : Bool) (v : BlkState) : (blkSet ch b u two v).objPoi = ch.objPoi := rfl
@[simp] theorem blkSet_ports (b : Blk) (u : Nat) (two : Bool) (v : BlkState) : (blkSet ch b u two v).ports = ch.ports := rfl
@[simp] theorem blkSet_fab (b : Blk) (u : Nat) (two : Bool) (v : BlkState) : (blkSet ch b u two v).fab = ch.fab := rfl
@[simp] theorem blkSet_nwl (b : Blk) (u : Nat) (two : Bool) (v : BlkState) : (blkSet ch b u two v).nwl = ch.nwl := rfl
@[simp] theorem blkSet_obs (b : Blk) (u : Nat) (two : Bool) (v : BlkState) : (blkSet ch b u two v).obs = ch.obs := rfl
@[simp] theorem blkSet_land (b : Blk) (u : Nat) (two : Bool) (v : BlkState) : (blkSet ch b u two v).land = ch.land := rfl
@[simp] theorem blkSet_globalLayers (b : Blk) (u : Nat) (two : Bool) (v : BlkState) : (blkSet ch b u two v).globalLayers = ch.globalLayers := rfl
@[simp] theorem blkSet_stks (b : Blk) (u : Nat) (two : Bool) (v : BlkState) : (blkSet ch b u two v).stks = ch.stks := rfl
@[simp] theorem blkSet_jobs (b : Blk) (u : Nat) (two : Bool) (v : BlkState) : (blkSet ch b u two v).jobs = ch.jobs := rfl
@[simp] theorem blkSet_pci (b : Blk) (u : Nat) (two : Bool) (v : BlkState) : (blkSet ch b u two v).pci = ch.pci := rfl
@[simp] theorem blkSet_sys (b : Blk) (u : Nat) (two : Bool) (v : BlkState) : (blkSet ch b u two v).sys = ch.sys := rfl
@[simp] theorem coreOf_blkSet (b : Blk) (u : Nat) (two : Bool) (v : BlkState) (x : Nat) : coreOf (blkSet ch b u two v) x = coreOf ch x := rfl
@[simp] theorem accOf_blkSet (b : Blk) (u : Nat) (two : Bool) (v : BlkState) (x : Nat) : accOf (blkSet ch b u two v) x = accOf ch x := rfl
@[simp] theorem bankOf_blkSet (b : Blk) (u : Nat) (two : Bool) (v : BlkState) (x : Nat) : bankOf (blkSet ch b u two v) x = bankOf ch x := rfl
@[simp] theorem arrOf_blkSet (b : Blk) (u : Nat) (two : Bool) (v : BlkState) (x y : Nat) : arrOf (blkSet ch b u two v) x y = arrOf ch x y := rfl
@[simp] theorem statOf_blkSet (b : Blk) (u : Nat) (two : Bool) (v : BlkState) (x y : Nat) : statOf (blkSet ch b u two v) x y = statOf ch x y := rfl
@[simp] theorem fieldOf_blkSet (b : Blk) (u : Nat) (two : Bool) (v : BlkState) (x : Nat) : fieldOf (blkSet ch b u two v) x = fieldOf ch x := rfl
@[simp] theorem towerOf_blkSet (b : Blk) (u : Nat) (two : Bool) (v : BlkState) (x : Nat) : towerOf (blkSet ch b u two v) x = towerOf ch x := rfl
@[simp] theorem tcoreOf_blkSet (b : Blk) (u : Nat) (two : Bool) (v : BlkState) (x : Nat) : tcoreOf (blkSet ch b u two v) x = tcoreOf ch x := rfl
@[simp] theorem stackOf_blkSet (b : Blk) (u : Nat) (two : Bool) (v : BlkState) (x : Nat) : stackOf (blkSet ch b u two v) x = stackOf ch x := rfl
@[simp] theorem jobOf_blkSet (b : Blk) (u : Nat) (two : Bool) (v : BlkState) (x : Nat) : jobOf (blkSet ch b u two v) x = jobOf ch x := rfl
@[simp] theorem owner_blkSet (b : Blk) (u : Nat) (two : Bool) (v : BlkState) (x : Nat) : owner (blkSet ch b u two v) x = owner ch x := rfl
@[simp] theorem coreJob_blkSet (b : Blk) (u : Nat) (two : Bool) (v : BlkState) (x : Nat) : coreJob (blkSet ch b u two v) x = coreJob ch x := rfl
@[simp] theorem clustersOf_blkSet (b : Blk) (u : Nat) (two : Bool) (v : BlkState) (x : JobId) : clustersOf (blkSet ch b u two v) x = clustersOf ch x := rfl
@[simp] theorem regGet_blkSet (b : Blk) (u : Nat) (two : Bool) (v : BlkState) (x : Reg) (y z : Nat) : regGet (blkSet ch b u two v) x y z = regGet ch x y z := rfl
@[simp] theorem islandRuns_blkSet (b : Blk) (u : Nat) (two : Bool) (v : BlkState) (x : Nat) : islandRuns (blkSet ch b u two v) x = islandRuns ch x := rfl
@[simp] theorem objGet_blkSet (b : Blk) (u : Nat) (two : Bool) (v : BlkState) (x : ObjId) : objGet (blkSet ch b u two v) x = objGet ch x := rfl
@[simp] theorem objPoisoned_blkSet (b : Blk) (u : Nat) (two : Bool) (v : BlkState) (x : ObjId) : objPoisoned (blkSet ch b u two v) x = objPoisoned ch x := rfl
@[simp] theorem streamOf_blkSet (b : Blk) (u : Nat) (two : Bool) (v : BlkState) (x : Nat) : streamOf (blkSet ch b u two v) x = streamOf ch x := rfl

/-! ### wrRaw -/

@[simp] theorem wrRaw_free (a : Nat) (bs : List Byte) : (wrRaw ch a bs).free = ch.free := rfl
@[simp] theorem wrRaw_us (a : Nat) (bs : List Byte) : (wrRaw ch a bs).us = ch.us := rfl
@[simp] theorem wrRaw_isl (a : Nat) (bs : List Byte) : (wrRaw ch a bs).isl = ch.isl := rfl
@[simp] theorem wrRaw_islRun (a : Nat) (bs : List Byte) : (wrRaw ch a bs).islRun = ch.islRun := rfl
@[simp] theorem wrRaw_phase (a : Nat) (bs : List Byte) : (wrRaw ch a bs).phase = ch.phase := rfl
@[simp] theorem wrRaw_poi (a : Nat) (bs : List Byte) : (wrRaw ch a bs).poi = ch.poi := rfl
@[simp] theorem wrRaw_regs (a : Nat) (bs : List Byte) : (wrRaw ch a bs).regs = ch.regs := rfl
@[simp] theorem wrRaw_blks (a : Nat) (bs : List Byte) : (wrRaw ch a bs).blks = ch.blks := rfl
@[simp] theorem wrRaw_resp (a : Nat) (bs : List Byte) : (wrRaw ch a bs).resp = ch.resp := rfl
@[simp] theorem wrRaw_cnts (a : Nat) (bs : List Byte) : (wrRaw ch a bs).cnts = ch.cnts := rfl
@[simp] theorem wrRaw_cores (a : Nat) (bs : List Byte) : (wrRaw ch a bs).cores = ch.cores := rfl
@[simp] theorem wrRaw_accs (a : Nat) (bs : List Byte) : (wrRaw ch a bs).accs = ch.accs := rfl
@[simp] theorem wrRaw_banks (a : Nat) (bs : List Byte) : (wrRaw ch a bs).banks = ch.banks := rfl
@[simp] theorem wrRaw_arrs (a : Nat) (bs : List Byte) : (wrRaw ch a bs).arrs = ch.arrs := rfl
@[simp] theorem wrRaw_stats (a : Nat) (bs : List Byte) : (wrRaw ch a bs).stats = ch.stats := rfl
@[simp] theorem wrRaw_fields (a : Nat) (bs : List Byte) : (wrRaw ch a bs).fields = ch.fields := rfl
@[simp] theorem wrRaw_towers (a : Nat) (bs : List Byte) : (wrRaw ch a bs).towers = ch.towers := rfl
@[simp] theorem wrRaw_tcores (a : Nat) (bs : List Byte) : (wrRaw ch a bs).tcores = ch.tcores := rfl
@[simp] theorem wrRaw_tsl (a : Nat) (bs : List Byte) : (wrRaw ch a bs).tsl = ch.tsl := rfl
@[simp] theorem wrRaw_clus (a : Nat) (bs : List Byte) : (wrRaw ch a bs).clus = ch.clus := rfl
@[simp] theorem wrRaw_objs (a : Nat) (bs : List Byte) : (wrRaw ch a bs).objs = ch.objs := rfl
@[simp] theorem wrRaw_objPoi (a : Nat) (bs : List Byte) : (wrRaw ch a bs).objPoi = ch.objPoi := rfl
@[simp] theorem wrRaw_ports (a : Nat) (bs : List Byte) : (wrRaw ch a bs).ports = ch.ports := rfl
@[simp] theorem wrRaw_fab (a : Nat) (bs : List Byte) : (wrRaw ch a bs).fab = ch.fab := rfl
@[simp] theorem wrRaw_nwl (a : Nat) (bs : List Byte) : (wrRaw ch a bs).nwl = ch.nwl := rfl
@[simp] theorem wrRaw_obs (a : Nat) (bs : List Byte) : (wrRaw ch a bs).obs = ch.obs := rfl
@[simp] theorem wrRaw_land (a : Nat) (bs : List Byte) : (wrRaw ch a bs).land = ch.land := rfl
@[simp] theorem wrRaw_globalLayers (a : Nat) (bs : List Byte) : (wrRaw ch a bs).globalLayers = ch.globalLayers := rfl
@[simp] theorem wrRaw_stks (a : Nat) (bs : List Byte) : (wrRaw ch a bs).stks = ch.stks := rfl
@[simp] theorem wrRaw_jobs (a : Nat) (bs : List Byte) : (wrRaw ch a bs).jobs = ch.jobs := rfl
@[simp] theorem wrRaw_pci (a : Nat) (bs : List Byte) : (wrRaw ch a bs).pci = ch.pci := rfl
@[simp] theorem wrRaw_sys (a : Nat) (bs : List Byte) : (wrRaw ch a bs).sys = ch.sys := rfl
@[simp] theorem coreOf_wrRaw (a : Nat) (bs : List Byte) (x : Nat) : coreOf (wrRaw ch a bs) x = coreOf ch x := rfl
@[simp] theorem accOf_wrRaw (a : Nat) (bs : List Byte) (x : Nat) : accOf (wrRaw ch a bs) x = accOf ch x := rfl
@[simp] theorem bankOf_wrRaw (a : Nat) (bs : List Byte) (x : Nat) : bankOf (wrRaw ch a bs) x = bankOf ch x := rfl
@[simp] theorem arrOf_wrRaw (a : Nat) (bs : List Byte) (x y : Nat) : arrOf (wrRaw ch a bs) x y = arrOf ch x y := rfl
@[simp] theorem statOf_wrRaw (a : Nat) (bs : List Byte) (x y : Nat) : statOf (wrRaw ch a bs) x y = statOf ch x y := rfl
@[simp] theorem fieldOf_wrRaw (a : Nat) (bs : List Byte) (x : Nat) : fieldOf (wrRaw ch a bs) x = fieldOf ch x := rfl
@[simp] theorem towerOf_wrRaw (a : Nat) (bs : List Byte) (x : Nat) : towerOf (wrRaw ch a bs) x = towerOf ch x := rfl
@[simp] theorem tcoreOf_wrRaw (a : Nat) (bs : List Byte) (x : Nat) : tcoreOf (wrRaw ch a bs) x = tcoreOf ch x := rfl
@[simp] theorem stackOf_wrRaw (a : Nat) (bs : List Byte) (x : Nat) : stackOf (wrRaw ch a bs) x = stackOf ch x := rfl
@[simp] theorem jobOf_wrRaw (a : Nat) (bs : List Byte) (x : Nat) : jobOf (wrRaw ch a bs) x = jobOf ch x := rfl
@[simp] theorem owner_wrRaw (a : Nat) (bs : List Byte) (x : Nat) : owner (wrRaw ch a bs) x = owner ch x := rfl
@[simp] theorem coreJob_wrRaw (a : Nat) (bs : List Byte) (x : Nat) : coreJob (wrRaw ch a bs) x = coreJob ch x := rfl
@[simp] theorem clustersOf_wrRaw (a : Nat) (bs : List Byte) (x : JobId) : clustersOf (wrRaw ch a bs) x = clustersOf ch x := rfl
@[simp] theorem regGet_wrRaw (a : Nat) (bs : List Byte) (x : Reg) (y z : Nat) : regGet (wrRaw ch a bs) x y z = regGet ch x y z := rfl
@[simp] theorem blkGet_wrRaw (a : Nat) (bs : List Byte) (x : Blk) (y : Nat) (z : Bool) : blkGet (wrRaw ch a bs) x y z = blkGet ch x y z := rfl
@[simp] theorem enabled_wrRaw (a : Nat) (bs : List Byte) (x : Blk) (y : Nat) : enabled (wrRaw ch a bs) x y = enabled ch x y := rfl
@[simp] theorem islandRuns_wrRaw (a : Nat) (bs : List Byte) (x : Nat) : islandRuns (wrRaw ch a bs) x = islandRuns ch x := rfl
@[simp] theorem objGet_wrRaw (a : Nat) (bs : List Byte) (x : ObjId) : objGet (wrRaw ch a bs) x = objGet ch x := rfl
@[simp] theorem objPoisoned_wrRaw (a : Nat) (bs : List Byte) (x : ObjId) : objPoisoned (wrRaw ch a bs) x = objPoisoned ch x := rfl
@[simp] theorem streamOf_wrRaw (a : Nat) (bs : List Byte) (x : Nat) : streamOf (wrRaw ch a bs) x = streamOf ch x := rfl

/-! ### markPoi -/

@[simp] theorem markPoi_free (a n : Nat) : (markPoi ch a n).free = ch.free := rfl
@[simp] theorem markPoi_us (a n : Nat) : (markPoi ch a n).us = ch.us := rfl
@[simp] theorem markPoi_isl (a n : Nat) : (markPoi ch a n).isl = ch.isl := rfl
@[simp] theorem markPoi_islRun (a n : Nat) : (markPoi ch a n).islRun = ch.islRun := rfl
@[simp] theorem markPoi_phase (a n : Nat) : (markPoi ch a n).phase = ch.phase := rfl
@[simp] theorem markPoi_regs (a n : Nat) : (markPoi ch a n).regs = ch.regs := rfl
@[simp] theorem markPoi_blks (a n : Nat) : (markPoi ch a n).blks = ch.blks := rfl
@[simp] theorem markPoi_resp (a n : Nat) : (markPoi ch a n).resp = ch.resp := rfl
@[simp] theorem markPoi_cnts (a n : Nat) : (markPoi ch a n).cnts = ch.cnts := rfl
@[simp] theorem markPoi_cores (a n : Nat) : (markPoi ch a n).cores = ch.cores := rfl
@[simp] theorem markPoi_accs (a n : Nat) : (markPoi ch a n).accs = ch.accs := rfl
@[simp] theorem markPoi_banks (a n : Nat) : (markPoi ch a n).banks = ch.banks := rfl
@[simp] theorem markPoi_arrs (a n : Nat) : (markPoi ch a n).arrs = ch.arrs := rfl
@[simp] theorem markPoi_stats (a n : Nat) : (markPoi ch a n).stats = ch.stats := rfl
@[simp] theorem markPoi_fields (a n : Nat) : (markPoi ch a n).fields = ch.fields := rfl
@[simp] theorem markPoi_towers (a n : Nat) : (markPoi ch a n).towers = ch.towers := rfl
@[simp] theorem markPoi_tcores (a n : Nat) : (markPoi ch a n).tcores = ch.tcores := rfl
@[simp] theorem markPoi_tsl (a n : Nat) : (markPoi ch a n).tsl = ch.tsl := rfl
@[simp] theorem markPoi_clus (a n : Nat) : (markPoi ch a n).clus = ch.clus := rfl
@[simp] theorem markPoi_objs (a n : Nat) : (markPoi ch a n).objs = ch.objs := rfl
@[simp] theorem markPoi_objPoi (a n : Nat) : (markPoi ch a n).objPoi = ch.objPoi := rfl
@[simp] theorem markPoi_ports (a n : Nat) : (markPoi ch a n).ports = ch.ports := rfl
@[simp] theorem markPoi_fab (a n : Nat) : (markPoi ch a n).fab = ch.fab := rfl
@[simp] theorem markPoi_nwl (a n : Nat) : (markPoi ch a n).nwl = ch.nwl := rfl
@[simp] theorem markPoi_obs (a n : Nat) : (markPoi ch a n).obs = ch.obs := rfl
@[simp] theorem markPoi_land (a n : Nat) : (markPoi ch a n).land = ch.land := rfl
@[simp] theorem markPoi_globalLayers (a n : Nat) : (markPoi ch a n).globalLayers = ch.globalLayers := rfl
@[simp] theorem markPoi_stks (a n : Nat) : (markPoi ch a n).stks = ch.stks := rfl
@[simp] theorem markPoi_jobs (a n : Nat) : (markPoi ch a n).jobs = ch.jobs := rfl
@[simp] theorem markPoi_pci (a n : Nat) : (markPoi ch a n).pci = ch.pci := rfl
@[simp] theorem markPoi_sys (a n : Nat) : (markPoi ch a n).sys = ch.sys := rfl
@[simp] theorem coreOf_markPoi (a n : Nat) (x : Nat) : coreOf (markPoi ch a n) x = coreOf ch x := rfl
@[simp] theorem accOf_markPoi (a n : Nat) (x : Nat) : accOf (markPoi ch a n) x = accOf ch x := rfl
@[simp] theorem bankOf_markPoi (a n : Nat) (x : Nat) : bankOf (markPoi ch a n) x = bankOf ch x := rfl
@[simp] theorem arrOf_markPoi (a n : Nat) (x y : Nat) : arrOf (markPoi ch a n) x y = arrOf ch x y := rfl
@[simp] theorem statOf_markPoi (a n : Nat) (x y : Nat) : statOf (markPoi ch a n) x y = statOf ch x y := rfl
@[simp] theorem fieldOf_markPoi (a n : Nat) (x : Nat) : fieldOf (markPoi ch a n) x = fieldOf ch x := rfl
@[simp] theorem towerOf_markPoi (a n : Nat) (x : Nat) : towerOf (markPoi ch a n) x = towerOf ch x := rfl
@[simp] theorem tcoreOf_markPoi (a n : Nat) (x : Nat) : tcoreOf (markPoi ch a n) x = tcoreOf ch x := rfl
@[simp] theorem stackOf_markPoi (a n : Nat) (x : Nat) : stackOf (markPoi ch a n) x = stackOf ch x := rfl
@[simp] theorem jobOf_markPoi (a n : Nat) (x : Nat) : jobOf (markPoi ch a n) x = jobOf ch x := rfl
@[simp] theorem owner_markPoi (a n : Nat) (x : Nat) : owner (markPoi ch a n) x = owner ch x := rfl
@[simp] theorem coreJob_markPoi (a n : Nat) (x : Nat) : coreJob (markPoi ch a n) x = coreJob ch x := rfl
@[simp] theorem clustersOf_markPoi (a n : Nat) (x : JobId) : clustersOf (markPoi ch a n) x = clustersOf ch x := rfl
@[simp] theorem regGet_markPoi (a n : Nat) (x : Reg) (y z : Nat) : regGet (markPoi ch a n) x y z = regGet ch x y z := rfl
@[simp] theorem blkGet_markPoi (a n : Nat) (x : Blk) (y : Nat) (z : Bool) : blkGet (markPoi ch a n) x y z = blkGet ch x y z := rfl
@[simp] theorem enabled_markPoi (a n : Nat) (x : Blk) (y : Nat) : enabled (markPoi ch a n) x y = enabled ch x y := rfl
@[simp] theorem islandRuns_markPoi (a n : Nat) (x : Nat) : islandRuns (markPoi ch a n) x = islandRuns ch x := rfl
@[simp] theorem objGet_markPoi (a n : Nat) (x : ObjId) : objGet (markPoi ch a n) x = objGet ch x := rfl
@[simp] theorem objPoisoned_markPoi (a n : Nat) (x : ObjId) : objPoisoned (markPoi ch a n) x = objPoisoned ch x := rfl
@[simp] theorem streamOf_markPoi (a n : Nat) (x : Nat) : streamOf (markPoi ch a n) x = streamOf ch x := rfl

/-! ### clearPoi -/

@[simp] theorem clearPoi_free (a n : Nat) : (clearPoi ch a n).free = ch.free := rfl
@[simp] theorem clearPoi_us (a n : Nat) : (clearPoi ch a n).us = ch.us := rfl
@[simp] theorem clearPoi_isl (a n : Nat) : (clearPoi ch a n).isl = ch.isl := rfl
@[simp] theorem clearPoi_islRun (a n : Nat) : (clearPoi ch a n).islRun = ch.islRun := rfl
@[simp] theorem clearPoi_phase (a n : Nat) : (clearPoi ch a n).phase = ch.phase := rfl
@[simp] theorem clearPoi_regs (a n : Nat) : (clearPoi ch a n).regs = ch.regs := rfl
@[simp] theorem clearPoi_blks (a n : Nat) : (clearPoi ch a n).blks = ch.blks := rfl
@[simp] theorem clearPoi_resp (a n : Nat) : (clearPoi ch a n).resp = ch.resp := rfl
@[simp] theorem clearPoi_cnts (a n : Nat) : (clearPoi ch a n).cnts = ch.cnts := rfl
@[simp] theorem clearPoi_cores (a n : Nat) : (clearPoi ch a n).cores = ch.cores := rfl
@[simp] theorem clearPoi_accs (a n : Nat) : (clearPoi ch a n).accs = ch.accs := rfl
@[simp] theorem clearPoi_banks (a n : Nat) : (clearPoi ch a n).banks = ch.banks := rfl
@[simp] theorem clearPoi_arrs (a n : Nat) : (clearPoi ch a n).arrs = ch.arrs := rfl
@[simp] theorem clearPoi_stats (a n : Nat) : (clearPoi ch a n).stats = ch.stats := rfl
@[simp] theorem clearPoi_fields (a n : Nat) : (clearPoi ch a n).fields = ch.fields := rfl
@[simp] theorem clearPoi_towers (a n : Nat) : (clearPoi ch a n).towers = ch.towers := rfl
@[simp] theorem clearPoi_tcores (a n : Nat) : (clearPoi ch a n).tcores = ch.tcores := rfl
@[simp] theorem clearPoi_tsl (a n : Nat) : (clearPoi ch a n).tsl = ch.tsl := rfl
@[simp] theorem clearPoi_clus (a n : Nat) : (clearPoi ch a n).clus = ch.clus := rfl
@[simp] theorem clearPoi_objs (a n : Nat) : (clearPoi ch a n).objs = ch.objs := rfl
@[simp] theorem clearPoi_objPoi (a n : Nat) : (clearPoi ch a n).objPoi = ch.objPoi := rfl
@[simp] theorem clearPoi_ports (a n : Nat) : (clearPoi ch a n).ports = ch.ports := rfl
@[simp] theorem clearPoi_fab (a n : Nat) : (clearPoi ch a n).fab = ch.fab := rfl
@[simp] theorem clearPoi_nwl (a n : Nat) : (clearPoi ch a n).nwl = ch.nwl := rfl
@[simp] theorem clearPoi_obs (a n : Nat) : (clearPoi ch a n).obs = ch.obs := rfl
@[simp] theorem clearPoi_land (a n : Nat) : (clearPoi ch a n).land = ch.land := rfl
@[simp] theorem clearPoi_globalLayers (a n : Nat) : (clearPoi ch a n).globalLayers = ch.globalLayers := rfl
@[simp] theorem clearPoi_stks (a n : Nat) : (clearPoi ch a n).stks = ch.stks := rfl
@[simp] theorem clearPoi_jobs (a n : Nat) : (clearPoi ch a n).jobs = ch.jobs := rfl
@[simp] theorem clearPoi_pci (a n : Nat) : (clearPoi ch a n).pci = ch.pci := rfl
@[simp] theorem clearPoi_sys (a n : Nat) : (clearPoi ch a n).sys = ch.sys := rfl
@[simp] theorem coreOf_clearPoi (a n : Nat) (x : Nat) : coreOf (clearPoi ch a n) x = coreOf ch x := rfl
@[simp] theorem accOf_clearPoi (a n : Nat) (x : Nat) : accOf (clearPoi ch a n) x = accOf ch x := rfl
@[simp] theorem bankOf_clearPoi (a n : Nat) (x : Nat) : bankOf (clearPoi ch a n) x = bankOf ch x := rfl
@[simp] theorem arrOf_clearPoi (a n : Nat) (x y : Nat) : arrOf (clearPoi ch a n) x y = arrOf ch x y := rfl
@[simp] theorem statOf_clearPoi (a n : Nat) (x y : Nat) : statOf (clearPoi ch a n) x y = statOf ch x y := rfl
@[simp] theorem fieldOf_clearPoi (a n : Nat) (x : Nat) : fieldOf (clearPoi ch a n) x = fieldOf ch x := rfl
@[simp] theorem towerOf_clearPoi (a n : Nat) (x : Nat) : towerOf (clearPoi ch a n) x = towerOf ch x := rfl
@[simp] theorem tcoreOf_clearPoi (a n : Nat) (x : Nat) : tcoreOf (clearPoi ch a n) x = tcoreOf ch x := rfl
@[simp] theorem stackOf_clearPoi (a n : Nat) (x : Nat) : stackOf (clearPoi ch a n) x = stackOf ch x := rfl
@[simp] theorem jobOf_clearPoi (a n : Nat) (x : Nat) : jobOf (clearPoi ch a n) x = jobOf ch x := rfl
@[simp] theorem owner_clearPoi (a n : Nat) (x : Nat) : owner (clearPoi ch a n) x = owner ch x := rfl
@[simp] theorem coreJob_clearPoi (a n : Nat) (x : Nat) : coreJob (clearPoi ch a n) x = coreJob ch x := rfl
@[simp] theorem clustersOf_clearPoi (a n : Nat) (x : JobId) : clustersOf (clearPoi ch a n) x = clustersOf ch x := rfl
@[simp] theorem regGet_clearPoi (a n : Nat) (x : Reg) (y z : Nat) : regGet (clearPoi ch a n) x y z = regGet ch x y z := rfl
@[simp] theorem blkGet_clearPoi (a n : Nat) (x : Blk) (y : Nat) (z : Bool) : blkGet (clearPoi ch a n) x y z = blkGet ch x y z := rfl
@[simp] theorem enabled_clearPoi (a n : Nat) (x : Blk) (y : Nat) : enabled (clearPoi ch a n) x y = enabled ch x y := rfl
@[simp] theorem islandRuns_clearPoi (a n : Nat) (x : Nat) : islandRuns (clearPoi ch a n) x = islandRuns ch x := rfl
@[simp] theorem objGet_clearPoi (a n : Nat) (x : ObjId) : objGet (clearPoi ch a n) x = objGet ch x := rfl
@[simp] theorem objPoisoned_clearPoi (a n : Nat) (x : ObjId) : objPoisoned (clearPoi ch a n) x = objPoisoned ch x := rfl
@[simp] theorem streamOf_clearPoi (a n : Nat) (x : Nat) : streamOf (clearPoi ch a n) x = streamOf ch x := rfl

/-! ### landPut -/

@[simp] theorem landPut_free (k : Nat) (l : LLine) : (landPut ch k l).free = ch.free := rfl
@[simp] theorem landPut_us (k : Nat) (l : LLine) : (landPut ch k l).us = ch.us := rfl
@[simp] theorem landPut_isl (k : Nat) (l : LLine) : (landPut ch k l).isl = ch.isl := rfl
@[simp] theorem landPut_islRun (k : Nat) (l : LLine) : (landPut ch k l).islRun = ch.islRun := rfl
@[simp] theorem landPut_phase (k : Nat) (l : LLine) : (landPut ch k l).phase = ch.phase := rfl
@[simp] theorem landPut_mem (k : Nat) (l : LLine) : (landPut ch k l).mem = ch.mem := rfl
@[simp] theorem landPut_poi (k : Nat) (l : LLine) : (landPut ch k l).poi = ch.poi := rfl
@[simp] theorem landPut_regs (k : Nat) (l : LLine) : (landPut ch k l).regs = ch.regs := rfl
@[simp] theorem landPut_blks (k : Nat) (l : LLine) : (landPut ch k l).blks = ch.blks := rfl
@[simp] theorem landPut_resp (k : Nat) (l : LLine) : (landPut ch k l).resp = ch.resp := rfl
@[simp] theorem landPut_cnts (k : Nat) (l : LLine) : (landPut ch k l).cnts = ch.cnts := rfl
@[simp] theorem landPut_cores (k : Nat) (l : LLine) : (landPut ch k l).cores = ch.cores := rfl
@[simp] theorem landPut_accs (k : Nat) (l : LLine) : (landPut ch k l).accs = ch.accs := rfl
@[simp] theorem landPut_banks (k : Nat) (l : LLine) : (landPut ch k l).banks = ch.banks := rfl
@[simp] theorem landPut_arrs (k : Nat) (l : LLine) : (landPut ch k l).arrs = ch.arrs := rfl
@[simp] theorem landPut_stats (k : Nat) (l : LLine) : (landPut ch k l).stats = ch.stats := rfl
@[simp] theorem landPut_fields (k : Nat) (l : LLine) : (landPut ch k l).fields = ch.fields := rfl
@[simp] theorem landPut_towers (k : Nat) (l : LLine) : (landPut ch k l).towers = ch.towers := rfl
@[simp] theorem landPut_tcores (k : Nat) (l : LLine) : (landPut ch k l).tcores = ch.tcores := rfl
@[simp] theorem landPut_tsl (k : Nat) (l : LLine) : (landPut ch k l).tsl = ch.tsl := rfl
@[simp] theorem landPut_clus (k : Nat) (l : LLine) : (landPut ch k l).clus = ch.clus := rfl
@[simp] theorem landPut_objs (k : Nat) (l : LLine) : (landPut ch k l).objs = ch.objs := rfl
@[simp] theorem landPut_objPoi (k : Nat) (l : LLine) : (landPut ch k l).objPoi = ch.objPoi := rfl
@[simp] theorem landPut_ports (k : Nat) (l : LLine) : (landPut ch k l).ports = ch.ports := rfl
@[simp] theorem landPut_fab (k : Nat) (l : LLine) : (landPut ch k l).fab = ch.fab := rfl
@[simp] theorem landPut_nwl (k : Nat) (l : LLine) : (landPut ch k l).nwl = ch.nwl := rfl
@[simp] theorem landPut_obs (k : Nat) (l : LLine) : (landPut ch k l).obs = ch.obs := rfl
@[simp] theorem landPut_globalLayers (k : Nat) (l : LLine) : (landPut ch k l).globalLayers = ch.globalLayers := rfl
@[simp] theorem landPut_stks (k : Nat) (l : LLine) : (landPut ch k l).stks = ch.stks := rfl
@[simp] theorem landPut_jobs (k : Nat) (l : LLine) : (landPut ch k l).jobs = ch.jobs := rfl
@[simp] theorem landPut_pci (k : Nat) (l : LLine) : (landPut ch k l).pci = ch.pci := rfl
@[simp] theorem landPut_sys (k : Nat) (l : LLine) : (landPut ch k l).sys = ch.sys := rfl
@[simp] theorem coreOf_landPut (k : Nat) (l : LLine) (x : Nat) : coreOf (landPut ch k l) x = coreOf ch x := rfl
@[simp] theorem accOf_landPut (k : Nat) (l : LLine) (x : Nat) : accOf (landPut ch k l) x = accOf ch x := rfl
@[simp] theorem bankOf_landPut (k : Nat) (l : LLine) (x : Nat) : bankOf (landPut ch k l) x = bankOf ch x := rfl
@[simp] theorem arrOf_landPut (k : Nat) (l : LLine) (x y : Nat) : arrOf (landPut ch k l) x y = arrOf ch x y := rfl
@[simp] theorem statOf_landPut (k : Nat) (l : LLine) (x y : Nat) : statOf (landPut ch k l) x y = statOf ch x y := rfl
@[simp] theorem fieldOf_landPut (k : Nat) (l : LLine) (x : Nat) : fieldOf (landPut ch k l) x = fieldOf ch x := rfl
@[simp] theorem towerOf_landPut (k : Nat) (l : LLine) (x : Nat) : towerOf (landPut ch k l) x = towerOf ch x := rfl
@[simp] theorem tcoreOf_landPut (k : Nat) (l : LLine) (x : Nat) : tcoreOf (landPut ch k l) x = tcoreOf ch x := rfl
@[simp] theorem stackOf_landPut (k : Nat) (l : LLine) (x : Nat) : stackOf (landPut ch k l) x = stackOf ch x := rfl
@[simp] theorem jobOf_landPut (k : Nat) (l : LLine) (x : Nat) : jobOf (landPut ch k l) x = jobOf ch x := rfl
@[simp] theorem owner_landPut (k : Nat) (l : LLine) (x : Nat) : owner (landPut ch k l) x = owner ch x := rfl
@[simp] theorem coreJob_landPut (k : Nat) (l : LLine) (x : Nat) : coreJob (landPut ch k l) x = coreJob ch x := rfl
@[simp] theorem clustersOf_landPut (k : Nat) (l : LLine) (x : JobId) : clustersOf (landPut ch k l) x = clustersOf ch x := rfl
@[simp] theorem regGet_landPut (k : Nat) (l : LLine) (x : Reg) (y z : Nat) : regGet (landPut ch k l) x y z = regGet ch x y z := rfl
@[simp] theorem blkGet_landPut (k : Nat) (l : LLine) (x : Blk) (y : Nat) (z : Bool) : blkGet (landPut ch k l) x y z = blkGet ch x y z := rfl
@[simp] theorem enabled_landPut (k : Nat) (l : LLine) (x : Blk) (y : Nat) : enabled (landPut ch k l) x y = enabled ch x y := rfl
@[simp] theorem islandRuns_landPut (k : Nat) (l : LLine) (x : Nat) : islandRuns (landPut ch k l) x = islandRuns ch x := rfl
@[simp] theorem objGet_landPut (k : Nat) (l : LLine) (x : ObjId) : objGet (landPut ch k l) x = objGet ch x := rfl
@[simp] theorem objPoisoned_landPut (k : Nat) (l : LLine) (x : ObjId) : objPoisoned (landPut ch k l) x = objPoisoned ch x := rfl
@[simp] theorem streamOf_landPut (k : Nat) (l : LLine) (x : Nat) : streamOf (landPut ch k l) x = streamOf ch x := rfl

/-! ### landDel -/

@[simp] theorem landDel_free (k : Nat) : (landDel ch k).free = ch.free := rfl
@[simp] theorem landDel_us (k : Nat) : (landDel ch k).us = ch.us := rfl
@[simp] theorem landDel_isl (k : Nat) : (landDel ch k).isl = ch.isl := rfl
@[simp] theorem landDel_islRun (k : Nat) : (landDel ch k).islRun = ch.islRun := rfl
@[simp] theorem landDel_phase (k : Nat) : (landDel ch k).phase = ch.phase := rfl
@[simp] theorem landDel_mem (k : Nat) : (landDel ch k).mem = ch.mem := rfl
@[simp] theorem landDel_poi (k : Nat) : (landDel ch k).poi = ch.poi := rfl
@[simp] theorem landDel_regs (k : Nat) : (landDel ch k).regs = ch.regs := rfl
@[simp] theorem landDel_blks (k : Nat) : (landDel ch k).blks = ch.blks := rfl
@[simp] theorem landDel_resp (k : Nat) : (landDel ch k).resp = ch.resp := rfl
@[simp] theorem landDel_cnts (k : Nat) : (landDel ch k).cnts = ch.cnts := rfl
@[simp] theorem landDel_cores (k : Nat) : (landDel ch k).cores = ch.cores := rfl
@[simp] theorem landDel_accs (k : Nat) : (landDel ch k).accs = ch.accs := rfl
@[simp] theorem landDel_banks (k : Nat) : (landDel ch k).banks = ch.banks := rfl
@[simp] theorem landDel_arrs (k : Nat) : (landDel ch k).arrs = ch.arrs := rfl
@[simp] theorem landDel_stats (k : Nat) : (landDel ch k).stats = ch.stats := rfl
@[simp] theorem landDel_fields (k : Nat) : (landDel ch k).fields = ch.fields := rfl
@[simp] theorem landDel_towers (k : Nat) : (landDel ch k).towers = ch.towers := rfl
@[simp] theorem landDel_tcores (k : Nat) : (landDel ch k).tcores = ch.tcores := rfl
@[simp] theorem landDel_tsl (k : Nat) : (landDel ch k).tsl = ch.tsl := rfl
@[simp] theorem landDel_clus (k : Nat) : (landDel ch k).clus = ch.clus := rfl
@[simp] theorem landDel_objs (k : Nat) : (landDel ch k).objs = ch.objs := rfl
@[simp] theorem landDel_objPoi (k : Nat) : (landDel ch k).objPoi = ch.objPoi := rfl
@[simp] theorem landDel_ports (k : Nat) : (landDel ch k).ports = ch.ports := rfl
@[simp] theorem landDel_fab (k : Nat) : (landDel ch k).fab = ch.fab := rfl
@[simp] theorem landDel_nwl (k : Nat) : (landDel ch k).nwl = ch.nwl := rfl
@[simp] theorem landDel_obs (k : Nat) : (landDel ch k).obs = ch.obs := rfl
@[simp] theorem landDel_globalLayers (k : Nat) : (landDel ch k).globalLayers = ch.globalLayers := rfl
@[simp] theorem landDel_stks (k : Nat) : (landDel ch k).stks = ch.stks := rfl
@[simp] theorem landDel_jobs (k : Nat) : (landDel ch k).jobs = ch.jobs := rfl
@[simp] theorem landDel_pci (k : Nat) : (landDel ch k).pci = ch.pci := rfl
@[simp] theorem landDel_sys (k : Nat) : (landDel ch k).sys = ch.sys := rfl
@[simp] theorem coreOf_landDel (k : Nat) (x : Nat) : coreOf (landDel ch k) x = coreOf ch x := rfl
@[simp] theorem accOf_landDel (k : Nat) (x : Nat) : accOf (landDel ch k) x = accOf ch x := rfl
@[simp] theorem bankOf_landDel (k : Nat) (x : Nat) : bankOf (landDel ch k) x = bankOf ch x := rfl
@[simp] theorem arrOf_landDel (k : Nat) (x y : Nat) : arrOf (landDel ch k) x y = arrOf ch x y := rfl
@[simp] theorem statOf_landDel (k : Nat) (x y : Nat) : statOf (landDel ch k) x y = statOf ch x y := rfl
@[simp] theorem fieldOf_landDel (k : Nat) (x : Nat) : fieldOf (landDel ch k) x = fieldOf ch x := rfl
@[simp] theorem towerOf_landDel (k : Nat) (x : Nat) : towerOf (landDel ch k) x = towerOf ch x := rfl
@[simp] theorem tcoreOf_landDel (k : Nat) (x : Nat) : tcoreOf (landDel ch k) x = tcoreOf ch x := rfl
@[simp] theorem stackOf_landDel (k : Nat) (x : Nat) : stackOf (landDel ch k) x = stackOf ch x := rfl
@[simp] theorem jobOf_landDel (k : Nat) (x : Nat) : jobOf (landDel ch k) x = jobOf ch x := rfl
@[simp] theorem owner_landDel (k : Nat) (x : Nat) : owner (landDel ch k) x = owner ch x := rfl
@[simp] theorem coreJob_landDel (k : Nat) (x : Nat) : coreJob (landDel ch k) x = coreJob ch x := rfl
@[simp] theorem clustersOf_landDel (k : Nat) (x : JobId) : clustersOf (landDel ch k) x = clustersOf ch x := rfl
@[simp] theorem regGet_landDel (k : Nat) (x : Reg) (y z : Nat) : regGet (landDel ch k) x y z = regGet ch x y z := rfl
@[simp] theorem blkGet_landDel (k : Nat) (x : Blk) (y : Nat) (z : Bool) : blkGet (landDel ch k) x y z = blkGet ch x y z := rfl
@[simp] theorem enabled_landDel (k : Nat) (x : Blk) (y : Nat) : enabled (landDel ch k) x y = enabled ch x y := rfl
@[simp] theorem islandRuns_landDel (k : Nat) (x : Nat) : islandRuns (landDel ch k) x = islandRuns ch x := rfl
@[simp] theorem objGet_landDel (k : Nat) (x : ObjId) : objGet (landDel ch k) x = objGet ch x := rfl
@[simp] theorem objPoisoned_landDel (k : Nat) (x : ObjId) : objPoisoned (landDel ch k) x = objPoisoned ch x := rfl
@[simp] theorem streamOf_landDel (k : Nat) (x : Nat) : streamOf (landDel ch k) x = streamOf ch x := rfl

/-! ### updStream -/

@[simp] theorem updStream_free (k : Nat) (f : FwStream → FwStream) : (updStream ch k f).free = ch.free := rfl
@[simp] theorem updStream_us (k : Nat) (f : FwStream → FwStream) : (updStream ch k f).us = ch.us := rfl
@[simp] theorem updStream_isl (k : Nat) (f : FwStream → FwStream) : (updStream ch k f).isl = ch.isl := rfl
@[simp] theorem updStream_islRun (k : Nat) (f : FwStream → FwStream) : (updStream ch k f).islRun = ch.islRun := rfl
@[simp] theorem updStream_phase (k : Nat) (f : FwStream → FwStream) : (updStream ch k f).phase = ch.phase := rfl
@[simp] theorem updStream_mem (k : Nat) (f : FwStream → FwStream) : (updStream ch k f).mem = ch.mem := rfl
@[simp] theorem updStream_poi (k : Nat) (f : FwStream → FwStream) : (updStream ch k f).poi = ch.poi := rfl
@[simp] theorem updStream_regs (k : Nat) (f : FwStream → FwStream) : (updStream ch k f).regs = ch.regs := rfl
@[simp] theorem updStream_blks (k : Nat) (f : FwStream → FwStream) : (updStream ch k f).blks = ch.blks := rfl
@[simp] theorem updStream_resp (k : Nat) (f : FwStream → FwStream) : (updStream ch k f).resp = ch.resp := rfl
@[simp] theorem updStream_cnts (k : Nat) (f : FwStream → FwStream) : (updStream ch k f).cnts = ch.cnts := rfl
@[simp] theorem updStream_cores (k : Nat) (f : FwStream → FwStream) : (updStream ch k f).cores = ch.cores := rfl
@[simp] theorem updStream_accs (k : Nat) (f : FwStream → FwStream) : (updStream ch k f).accs = ch.accs := rfl
@[simp] theorem updStream_banks (k : Nat) (f : FwStream → FwStream) : (updStream ch k f).banks = ch.banks := rfl
@[simp] theorem updStream_arrs (k : Nat) (f : FwStream → FwStream) : (updStream ch k f).arrs = ch.arrs := rfl
@[simp] theorem updStream_stats (k : Nat) (f : FwStream → FwStream) : (updStream ch k f).stats = ch.stats := rfl
@[simp] theorem updStream_fields (k : Nat) (f : FwStream → FwStream) : (updStream ch k f).fields = ch.fields := rfl
@[simp] theorem updStream_towers (k : Nat) (f : FwStream → FwStream) : (updStream ch k f).towers = ch.towers := rfl
@[simp] theorem updStream_tcores (k : Nat) (f : FwStream → FwStream) : (updStream ch k f).tcores = ch.tcores := rfl
@[simp] theorem updStream_tsl (k : Nat) (f : FwStream → FwStream) : (updStream ch k f).tsl = ch.tsl := rfl
@[simp] theorem updStream_clus (k : Nat) (f : FwStream → FwStream) : (updStream ch k f).clus = ch.clus := rfl
@[simp] theorem updStream_objs (k : Nat) (f : FwStream → FwStream) : (updStream ch k f).objs = ch.objs := rfl
@[simp] theorem updStream_objPoi (k : Nat) (f : FwStream → FwStream) : (updStream ch k f).objPoi = ch.objPoi := rfl
@[simp] theorem updStream_ports (k : Nat) (f : FwStream → FwStream) : (updStream ch k f).ports = ch.ports := rfl
@[simp] theorem updStream_fab (k : Nat) (f : FwStream → FwStream) : (updStream ch k f).fab = ch.fab := rfl
@[simp] theorem updStream_nwl (k : Nat) (f : FwStream → FwStream) : (updStream ch k f).nwl = ch.nwl := rfl
@[simp] theorem updStream_obs (k : Nat) (f : FwStream → FwStream) : (updStream ch k f).obs = ch.obs := rfl
@[simp] theorem updStream_land (k : Nat) (f : FwStream → FwStream) : (updStream ch k f).land = ch.land := rfl
@[simp] theorem updStream_globalLayers (k : Nat) (f : FwStream → FwStream) : (updStream ch k f).globalLayers = ch.globalLayers := rfl
@[simp] theorem updStream_stks (k : Nat) (f : FwStream → FwStream) : (updStream ch k f).stks = ch.stks := rfl
@[simp] theorem updStream_jobs (k : Nat) (f : FwStream → FwStream) : (updStream ch k f).jobs = ch.jobs := rfl
@[simp] theorem updStream_pci (k : Nat) (f : FwStream → FwStream) : (updStream ch k f).pci = ch.pci := rfl
@[simp] theorem coreOf_updStream (k : Nat) (f : FwStream → FwStream) (x : Nat) : coreOf (updStream ch k f) x = coreOf ch x := rfl
@[simp] theorem accOf_updStream (k : Nat) (f : FwStream → FwStream) (x : Nat) : accOf (updStream ch k f) x = accOf ch x := rfl
@[simp] theorem bankOf_updStream (k : Nat) (f : FwStream → FwStream) (x : Nat) : bankOf (updStream ch k f) x = bankOf ch x := rfl
@[simp] theorem arrOf_updStream (k : Nat) (f : FwStream → FwStream) (x y : Nat) : arrOf (updStream ch k f) x y = arrOf ch x y := rfl
@[simp] theorem statOf_updStream (k : Nat) (f : FwStream → FwStream) (x y : Nat) : statOf (updStream ch k f) x y = statOf ch x y := rfl
@[simp] theorem fieldOf_updStream (k : Nat) (f : FwStream → FwStream) (x : Nat) : fieldOf (updStream ch k f) x = fieldOf ch x := rfl
@[simp] theorem towerOf_updStream (k : Nat) (f : FwStream → FwStream) (x : Nat) : towerOf (updStream ch k f) x = towerOf ch x := rfl
@[simp] theorem tcoreOf_updStream (k : Nat) (f : FwStream → FwStream) (x : Nat) : tcoreOf (updStream ch k f) x = tcoreOf ch x := rfl
@[simp] theorem stackOf_updStream (k : Nat) (f : FwStream → FwStream) (x : Nat) : stackOf (updStream ch k f) x = stackOf ch x := rfl
@[simp] theorem jobOf_updStream (k : Nat) (f : FwStream → FwStream) (x : Nat) : jobOf (updStream ch k f) x = jobOf ch x := rfl
@[simp] theorem owner_updStream (k : Nat) (f : FwStream → FwStream) (x : Nat) : owner (updStream ch k f) x = owner ch x := rfl
@[simp] theorem coreJob_updStream (k : Nat) (f : FwStream → FwStream) (x : Nat) : coreJob (updStream ch k f) x = coreJob ch x := rfl
@[simp] theorem clustersOf_updStream (k : Nat) (f : FwStream → FwStream) (x : JobId) : clustersOf (updStream ch k f) x = clustersOf ch x := rfl
@[simp] theorem regGet_updStream (k : Nat) (f : FwStream → FwStream) (x : Reg) (y z : Nat) : regGet (updStream ch k f) x y z = regGet ch x y z := rfl
@[simp] theorem blkGet_updStream (k : Nat) (f : FwStream → FwStream) (x : Blk) (y : Nat) (z : Bool) : blkGet (updStream ch k f) x y z = blkGet ch x y z := rfl
@[simp] theorem enabled_updStream (k : Nat) (f : FwStream → FwStream) (x : Blk) (y : Nat) : enabled (updStream ch k f) x y = enabled ch x y := rfl
@[simp] theorem islandRuns_updStream (k : Nat) (f : FwStream → FwStream) (x : Nat) : islandRuns (updStream ch k f) x = islandRuns ch x := rfl
@[simp] theorem objGet_updStream (k : Nat) (f : FwStream → FwStream) (x : ObjId) : objGet (updStream ch k f) x = objGet ch x := rfl
@[simp] theorem objPoisoned_updStream (k : Nat) (f : FwStream → FwStream) (x : ObjId) : objPoisoned (updStream ch k f) x = objPoisoned ch x := rfl

/-! ### updCamp -/

@[simp] theorem updCamp_free (f : Campion → Campion) : (updCamp ch f).free = ch.free := rfl
@[simp] theorem updCamp_us (f : Campion → Campion) : (updCamp ch f).us = ch.us := rfl
@[simp] theorem updCamp_isl (f : Campion → Campion) : (updCamp ch f).isl = ch.isl := rfl
@[simp] theorem updCamp_islRun (f : Campion → Campion) : (updCamp ch f).islRun = ch.islRun := rfl
@[simp] theorem updCamp_phase (f : Campion → Campion) : (updCamp ch f).phase = ch.phase := rfl
@[simp] theorem updCamp_mem (f : Campion → Campion) : (updCamp ch f).mem = ch.mem := rfl
@[simp] theorem updCamp_poi (f : Campion → Campion) : (updCamp ch f).poi = ch.poi := rfl
@[simp] theorem updCamp_regs (f : Campion → Campion) : (updCamp ch f).regs = ch.regs := rfl
@[simp] theorem updCamp_blks (f : Campion → Campion) : (updCamp ch f).blks = ch.blks := rfl
@[simp] theorem updCamp_resp (f : Campion → Campion) : (updCamp ch f).resp = ch.resp := rfl
@[simp] theorem updCamp_cnts (f : Campion → Campion) : (updCamp ch f).cnts = ch.cnts := rfl
@[simp] theorem updCamp_cores (f : Campion → Campion) : (updCamp ch f).cores = ch.cores := rfl
@[simp] theorem updCamp_accs (f : Campion → Campion) : (updCamp ch f).accs = ch.accs := rfl
@[simp] theorem updCamp_banks (f : Campion → Campion) : (updCamp ch f).banks = ch.banks := rfl
@[simp] theorem updCamp_arrs (f : Campion → Campion) : (updCamp ch f).arrs = ch.arrs := rfl
@[simp] theorem updCamp_stats (f : Campion → Campion) : (updCamp ch f).stats = ch.stats := rfl
@[simp] theorem updCamp_fields (f : Campion → Campion) : (updCamp ch f).fields = ch.fields := rfl
@[simp] theorem updCamp_towers (f : Campion → Campion) : (updCamp ch f).towers = ch.towers := rfl
@[simp] theorem updCamp_tcores (f : Campion → Campion) : (updCamp ch f).tcores = ch.tcores := rfl
@[simp] theorem updCamp_tsl (f : Campion → Campion) : (updCamp ch f).tsl = ch.tsl := rfl
@[simp] theorem updCamp_clus (f : Campion → Campion) : (updCamp ch f).clus = ch.clus := rfl
@[simp] theorem updCamp_objs (f : Campion → Campion) : (updCamp ch f).objs = ch.objs := rfl
@[simp] theorem updCamp_objPoi (f : Campion → Campion) : (updCamp ch f).objPoi = ch.objPoi := rfl
@[simp] theorem updCamp_ports (f : Campion → Campion) : (updCamp ch f).ports = ch.ports := rfl
@[simp] theorem updCamp_fab (f : Campion → Campion) : (updCamp ch f).fab = ch.fab := rfl
@[simp] theorem updCamp_nwl (f : Campion → Campion) : (updCamp ch f).nwl = ch.nwl := rfl
@[simp] theorem updCamp_obs (f : Campion → Campion) : (updCamp ch f).obs = ch.obs := rfl
@[simp] theorem updCamp_land (f : Campion → Campion) : (updCamp ch f).land = ch.land := rfl
@[simp] theorem updCamp_globalLayers (f : Campion → Campion) : (updCamp ch f).globalLayers = ch.globalLayers := rfl
@[simp] theorem updCamp_stks (f : Campion → Campion) : (updCamp ch f).stks = ch.stks := rfl
@[simp] theorem updCamp_jobs (f : Campion → Campion) : (updCamp ch f).jobs = ch.jobs := rfl
@[simp] theorem updCamp_pci (f : Campion → Campion) : (updCamp ch f).pci = ch.pci := rfl
@[simp] theorem coreOf_updCamp (f : Campion → Campion) (x : Nat) : coreOf (updCamp ch f) x = coreOf ch x := rfl
@[simp] theorem accOf_updCamp (f : Campion → Campion) (x : Nat) : accOf (updCamp ch f) x = accOf ch x := rfl
@[simp] theorem bankOf_updCamp (f : Campion → Campion) (x : Nat) : bankOf (updCamp ch f) x = bankOf ch x := rfl
@[simp] theorem arrOf_updCamp (f : Campion → Campion) (x y : Nat) : arrOf (updCamp ch f) x y = arrOf ch x y := rfl
@[simp] theorem statOf_updCamp (f : Campion → Campion) (x y : Nat) : statOf (updCamp ch f) x y = statOf ch x y := rfl
@[simp] theorem fieldOf_updCamp (f : Campion → Campion) (x : Nat) : fieldOf (updCamp ch f) x = fieldOf ch x := rfl
@[simp] theorem towerOf_updCamp (f : Campion → Campion) (x : Nat) : towerOf (updCamp ch f) x = towerOf ch x := rfl
@[simp] theorem tcoreOf_updCamp (f : Campion → Campion) (x : Nat) : tcoreOf (updCamp ch f) x = tcoreOf ch x := rfl
@[simp] theorem stackOf_updCamp (f : Campion → Campion) (x : Nat) : stackOf (updCamp ch f) x = stackOf ch x := rfl
@[simp] theorem jobOf_updCamp (f : Campion → Campion) (x : Nat) : jobOf (updCamp ch f) x = jobOf ch x := rfl
@[simp] theorem owner_updCamp (f : Campion → Campion) (x : Nat) : owner (updCamp ch f) x = owner ch x := rfl
@[simp] theorem coreJob_updCamp (f : Campion → Campion) (x : Nat) : coreJob (updCamp ch f) x = coreJob ch x := rfl
@[simp] theorem clustersOf_updCamp (f : Campion → Campion) (x : JobId) : clustersOf (updCamp ch f) x = clustersOf ch x := rfl
@[simp] theorem regGet_updCamp (f : Campion → Campion) (x : Reg) (y z : Nat) : regGet (updCamp ch f) x y z = regGet ch x y z := rfl
@[simp] theorem blkGet_updCamp (f : Campion → Campion) (x : Blk) (y : Nat) (z : Bool) : blkGet (updCamp ch f) x y z = blkGet ch x y z := rfl
@[simp] theorem enabled_updCamp (f : Campion → Campion) (x : Blk) (y : Nat) : enabled (updCamp ch f) x y = enabled ch x y := rfl
@[simp] theorem islandRuns_updCamp (f : Campion → Campion) (x : Nat) : islandRuns (updCamp ch f) x = islandRuns ch x := rfl
@[simp] theorem objGet_updCamp (f : Campion → Campion) (x : ObjId) : objGet (updCamp ch f) x = objGet ch x := rfl
@[simp] theorem objPoisoned_updCamp (f : Campion → Campion) (x : ObjId) : objPoisoned (updCamp ch f) x = objPoisoned ch x := rfl

/-! ### A part read after its own update -/

@[simp] theorem coreOf_setCore_same (g : Nat) (k : Core) : coreOf (setCore ch g k) g = k := by simp [coreOf, setCore]
theorem coreOf_setCore_other {g x : Nat} (k : Core) (h : x ≠ g) : coreOf (setCore ch g k) x = coreOf ch x :=
  tget_tput_other _ _ _ h
@[simp] theorem coreOf_updCore_same (g : Nat) (f : Core → Core) : coreOf (updCore ch g f) g = f (coreOf ch g) :=
  coreOf_setCore_same ch g _
theorem coreOf_updCore_other {g x : Nat} (f : Core → Core) (h : x ≠ g) : coreOf (updCore ch g f) x = coreOf ch x :=
  tget_tput_other _ _ _ h
@[simp] theorem accOf_updAcc_same (g : Nat) (f : Acc → Acc) : accOf (updAcc ch g f) g = f (accOf ch g) := by
  simp [accOf, updAcc, setAcc]
theorem accOf_updAcc_other {g x : Nat} (f : Acc → Acc) (h : x ≠ g) : accOf (updAcc ch g f) x = accOf ch x :=
  tget_tput_other _ _ _ h
@[simp] theorem bankOf_updBank_same (g : Nat) (f : Bank → Bank) : bankOf (updBank ch g f) g = f (bankOf ch g) := by
  simp [bankOf, updBank, setBank]
theorem bankOf_updBank_other {g x : Nat} (f : Bank → Bank) (h : x ≠ g) : bankOf (updBank ch g f) x = bankOf ch x :=
  tget_tput_other _ _ _ h
@[simp] theorem arrOf_updArr_same (g a : Nat) (f : Arr → Arr) : arrOf (updArr ch g a f) g a = f (arrOf ch g a) := by
  simp [arrOf, updArr, setArr]
@[simp] theorem statOf_updStat_same (g a : Nat) (f : ArrStat → ArrStat) :
    statOf (updStat ch g a f) g a = f (statOf ch g a) := by
  simp [statOf, updStat]
@[simp] theorem fieldOf_updField_same (g : Nat) (f : Field → Field) : fieldOf (updField ch g f) g = f (fieldOf ch g) := by
  simp [fieldOf, updField]
@[simp] theorem towerOf_updTower_same (t : Nat) (f : Tower → Tower) : towerOf (updTower ch t f) t = f (towerOf ch t) := by
  simp [towerOf, updTower]
@[simp] theorem tcoreOf_updTcore_same (g : Nat) (f : TCore → TCore) : tcoreOf (updTcore ch g f) g = f (tcoreOf ch g) := by
  simp [tcoreOf, updTcore]
@[simp] theorem stackOf_updStack_same (k : Nat) (f : Stack → Stack) : stackOf (updStack ch k f) k = f (stackOf ch k) := by
  simp [stackOf, updStack]
@[simp] theorem jobOf_updJob_same (j : Nat) (f : Job → Job) : jobOf (updJob ch j f) j = f (jobOf ch j) := by
  simp [jobOf, updJob]
theorem jobOf_updJob_other {j x : Nat} (f : Job → Job) (h : x ≠ j) : jobOf (updJob ch j f) x = jobOf ch x :=
  tget_tput_other _ _ _ h
@[simp] theorem regGet_regSet_same (r : Reg) (u : Nat) (v : Word) (k : Nat) : regGet (regSet ch r u v k) r u k = v := by
  simp [regGet, regSet]
/-- Registers at different addresses are different. -/
theorem regGet_regSet_other {r q : Reg} {u x : Nat} (v : Word) {k y : Nat} (h : regAddr q x y ≠ regAddr r u k) :
    regGet (regSet ch r u v k) q x y = regGet ch q x y := tget_tput_other _ _ _ h
@[simp] theorem blkGet_blkSet_same (b : Blk) (u : Nat) (two : Bool) (v : BlkState) :
    blkGet (blkSet ch b u two v) b u two = v := by
  simp [blkGet, blkSet]
@[simp] theorem streamOf_updStream_same (k : Nat) (f : FwStream → FwStream) :
    streamOf (updStream ch k f) k = f (streamOf ch k) := by
  simp [streamOf, updStream]
theorem streamOf_updStream_other {k x : Nat} (f : FwStream → FwStream) (h : x ≠ k) :
    streamOf (updStream ch k f) x = streamOf ch x := tget_tput_other _ _ _ h

end Sys2Proof.Laws
end

