-- ==== Sys2Proof/Laws/Ops.lean ====
section
/-! SUPPORT. For each shared operation one lemma that says everything it can change (its shape), and after it one lemma
per field that it leaves alone. -/

namespace Sys2Proof.Laws
open Sys2Proof.Machine

variable (ch : Chip)

/-- A count changes the counters alone. -/
theorem count_shape (k n : Nat) :
    ∃ x0, count ch k n = { ch with cnts := x0 } := by
  unfold count; split
  · exact ⟨_, rfl⟩
  · exact ⟨ch.cnts, rfl⟩

@[simp] theorem count_free (k n : Nat) : (count ch k n).free = ch.free := by
  obtain ⟨_, h⟩ := count_shape ch k n; rw [h]
@[simp] theorem count_us (k n : Nat) : (count ch k n).us = ch.us := by
  obtain ⟨_, h⟩ := count_shape ch k n; rw [h]
@[simp] theorem count_isl (k n : Nat) : (count ch k n).isl = ch.isl := by
  obtain ⟨_, h⟩ := count_shape ch k n; rw [h]
@[simp] theorem count_islRun (k n : Nat) : (count ch k n).islRun = ch.islRun := by
  obtain ⟨_, h⟩ := count_shape ch k n; rw [h]
@[simp] theorem count_phase (k n : Nat) : (count ch k n).phase = ch.phase := by
  obtain ⟨_, h⟩ := count_shape ch k n; rw [h]
@[simp] theorem count_mem (k n : Nat) : (count ch k n).mem = ch.mem := by
  obtain ⟨_, h⟩ := count_shape ch k n; rw [h]
@[simp] theorem count_poi (k n : Nat) : (count ch k n).poi = ch.poi := by
  obtain ⟨_, h⟩ := count_shape ch k n; rw [h]
@[simp] theorem count_regs (k n : Nat) : (count ch k n).regs = ch.regs := by
  obtain ⟨_, h⟩ := count_shape ch k n; rw [h]
@[simp] theorem count_blks (k n : Nat) : (count ch k n).blks = ch.blks := by
  obtain ⟨_, h⟩ := count_shape ch k n; rw [h]
@[simp] theorem count_resp (k n : Nat) : (count ch k n).resp = ch.resp := by
  obtain ⟨_, h⟩ := count_shape ch k n; rw [h]
@[simp] theorem count_cores (k n : Nat) : (count ch k n).cores = ch.cores := by
  obtain ⟨_, h⟩ := count_shape ch k n; rw [h]
@[simp] theorem count_accs (k n : Nat) : (count ch k n).accs = ch.accs := by
  obtain ⟨_, h⟩ := count_shape ch k n; rw [h]
@[simp] theorem count_banks (k n : Nat) : (count ch k n).banks = ch.banks := by
  obtain ⟨_, h⟩ := count_shape ch k n; rw [h]
@[simp] theorem count_arrs (k n : Nat) : (count ch k n).arrs = ch.arrs := by
  obtain ⟨_, h⟩ := count_shape ch k n; rw [h]
@[simp] theorem count_stats (k n : Nat) : (count ch k n).stats = ch.stats := by
  obtain ⟨_, h⟩ := count_shape ch k n; rw [h]
@[simp] theorem count_fields (k n : Nat) : (count ch k n).fields = ch.fields := by
  obtain ⟨_, h⟩ := count_shape ch k n; rw [h]
@[simp] theorem count_towers (k n : Nat) : (count ch k n).towers = ch.towers := by
  obtain ⟨_, h⟩ := count_shape ch k n; rw [h]
@[simp] theorem count_tcores (k n : Nat) : (count ch k n).tcores = ch.tcores := by
  obtain ⟨_, h⟩ := count_shape ch k n; rw [h]
@[simp] theorem count_tsl (k n : Nat) : (count ch k n).tsl = ch.tsl := by
  obtain ⟨_, h⟩ := count_shape ch k n; rw [h]
@[simp] theorem count_clus (k n : Nat) : (count ch k n).clus = ch.clus := by
  obtain ⟨_, h⟩ := count_shape ch k n; rw [h]
@[simp] theorem count_objs (k n : Nat) : (count ch k n).objs = ch.objs := by
  obtain ⟨_, h⟩ := count_shape ch k n; rw [h]
@[simp] theorem count_objPoi (k n : Nat) : (count ch k n).objPoi = ch.objPoi := by
  obtain ⟨_, h⟩ := count_shape ch k n; rw [h]
@[simp] theorem count_ports (k n : Nat) : (count ch k n).ports = ch.ports := by
  obtain ⟨_, h⟩ := count_shape ch k n; rw [h]
@[simp] theorem count_fab (k n : Nat) : (count ch k n).fab = ch.fab := by
  obtain ⟨_, h⟩ := count_shape ch k n; rw [h]
@[simp] theorem count_nwl (k n : Nat) : (count ch k n).nwl = ch.nwl := by
  obtain ⟨_, h⟩ := count_shape ch k n; rw [h]
@[simp] theorem count_obs (k n : Nat) : (count ch k n).obs = ch.obs := by
  obtain ⟨_, h⟩ := count_shape ch k n; rw [h]
@[simp] theorem count_land (k n : Nat) : (count ch k n).land = ch.land := by
  obtain ⟨_, h⟩ := count_shape ch k n; rw [h]
@[simp] theorem count_globalLayers (k n : Nat) : (count ch k n).globalLayers = ch.globalLayers := by
  obtain ⟨_, h⟩ := count_shape ch k n; rw [h]
@[simp] theorem count_stks (k n : Nat) : (count ch k n).stks = ch.stks := by
  obtain ⟨_, h⟩ := count_shape ch k n; rw [h]
@[simp] theorem count_jobs (k n : Nat) : (count ch k n).jobs = ch.jobs := by
  obtain ⟨_, h⟩ := count_shape ch k n; rw [h]
@[simp] theorem count_pci (k n : Nat) : (count ch k n).pci = ch.pci := by
  obtain ⟨_, h⟩ := count_shape ch k n; rw [h]
@[simp] theorem count_sys (k n : Nat) : (count ch k n).sys = ch.sys := by
  obtain ⟨_, h⟩ := count_shape ch k n; rw [h]

/-- So does the count of a core counter. -/
theorem countCore_shape (g i n : Nat) :
    ∃ x0, countCore ch g i n = { ch with cnts := x0 } := by
  exact count_shape ch _ n

@[simp] theorem countCore_free (g i n : Nat) : (countCore ch g i n).free = ch.free := by
  obtain ⟨_, h⟩ := countCore_shape ch g i n; rw [h]
@[simp] theorem countCore_us (g i n : Nat) : (countCore ch g i n).us = ch.us := by
  obtain ⟨_, h⟩ := countCore_shape ch g i n; rw [h]
@[simp] theorem countCore_isl (g i n : Nat) : (countCore ch g i n).isl = ch.isl := by
  obtain ⟨_, h⟩ := countCore_shape ch g i n; rw [h]
@[simp] theorem countCore_islRun (g i n : Nat) : (countCore ch g i n).islRun = ch.islRun := by
  obtain ⟨_, h⟩ := countCore_shape ch g i n; rw [h]
@[simp] theorem countCore_phase (g i n : Nat) : (countCore ch g i n).phase = ch.phase := by
  obtain ⟨_, h⟩ := countCore_shape ch g i n; rw [h]
@[simp] theorem countCore_mem (g i n : Nat) : (countCore ch g i n).mem = ch.mem := by
  obtain ⟨_, h⟩ := countCore_shape ch g i n; rw [h]
@[simp] theorem countCore_poi (g i n : Nat) : (countCore ch g i n).poi = ch.poi := by
  obtain ⟨_, h⟩ := countCore_shape ch g i n; rw [h]
@[simp] theorem countCore_regs (g i n : Nat) : (countCore ch g i n).regs = ch.regs := by
  obtain ⟨_, h⟩ := countCore_shape ch g i n; rw [h]
@[simp] theorem countCore_blks (g i n : Nat) : (countCore ch g i n).blks = ch.blks := by
  obtain ⟨_, h⟩ := countCore_shape ch g i n; rw [h]
@[simp] theorem countCore_resp (g i n : Nat) : (countCore ch g i n).resp = ch.resp := by
  obtain ⟨_, h⟩ := countCore_shape ch g i n; rw [h]
@[simp] theorem countCore_cores (g i n : Nat) : (countCore ch g i n).cores = ch.cores := by
  obtain ⟨_, h⟩ := countCore_shape ch g i n; rw [h]
@[simp] theorem countCore_accs (g i n : Nat) : (countCore ch g i n).accs = ch.accs := by
  obtain ⟨_, h⟩ := countCore_shape ch g i n; rw [h]
@[simp] theorem countCore_banks (g i n : Nat) : (countCore ch g i n).banks = ch.banks := by
  obtain ⟨_, h⟩ := countCore_shape ch g i n; rw [h]
@[simp] theorem countCore_arrs (g i n : Nat) : (countCore ch g i n).arrs = ch.arrs := by
  obtain ⟨_, h⟩ := countCore_shape ch g i n; rw [h]
@[simp] theorem countCore_stats (g i n : Nat) : (countCore ch g i n).stats = ch.stats := by
  obtain ⟨_, h⟩ := countCore_shape ch g i n; rw [h]
@[simp] theorem countCore_fields (g i n : Nat) : (countCore ch g i n).fields = ch.fields := by
  obtain ⟨_, h⟩ := countCore_shape ch g i n; rw [h]
@[simp] theorem countCore_towers (g i n : Nat) : (countCore ch g i n).towers = ch.towers := by
  obtain ⟨_, h⟩ := countCore_shape ch g i n; rw [h]
@[simp] theorem countCore_tcores (g i n : Nat) : (countCore ch g i n).tcores = ch.tcores := by
  obtain ⟨_, h⟩ := countCore_shape ch g i n; rw [h]
@[simp] theorem countCore_tsl (g i n : Nat) : (countCore ch g i n).tsl = ch.tsl := by
  obtain ⟨_, h⟩ := countCore_shape ch g i n; rw [h]
@[simp] theorem countCore_clus (g i n : Nat) : (countCore ch g i n).clus = ch.clus := by
  obtain ⟨_, h⟩ := countCore_shape ch g i n; rw [h]
@[simp] theorem countCore_objs (g i n : Nat) : (countCore ch g i n).objs = ch.objs := by
  obtain ⟨_, h⟩ := countCore_shape ch g i n; rw [h]
@[simp] theorem countCore_objPoi (g i n : Nat) : (countCore ch g i n).objPoi = ch.objPoi := by
  obtain ⟨_, h⟩ := countCore_shape ch g i n; rw [h]
@[simp] theorem countCore_ports (g i n : Nat) : (countCore ch g i n).ports = ch.ports := by
  obtain ⟨_, h⟩ := countCore_shape ch g i n; rw [h]
@[simp] theorem countCore_fab (g i n : Nat) : (countCore ch g i n).fab = ch.fab := by
  obtain ⟨_, h⟩ := countCore_shape ch g i n; rw [h]
@[simp] theorem countCore_nwl (g i n : Nat) : (countCore ch g i n).nwl = ch.nwl := by
  obtain ⟨_, h⟩ := countCore_shape ch g i n; rw [h]
@[simp] theorem countCore_obs (g i n : Nat) : (countCore ch g i n).obs = ch.obs := by
  obtain ⟨_, h⟩ := countCore_shape ch g i n; rw [h]
@[simp] theorem countCore_land (g i n : Nat) : (countCore ch g i n).land = ch.land := by
  obtain ⟨_, h⟩ := countCore_shape ch g i n; rw [h]
@[simp] theorem countCore_globalLayers (g i n : Nat) : (countCore ch g i n).globalLayers = ch.globalLayers := by
  obtain ⟨_, h⟩ := countCore_shape ch g i n; rw [h]
@[simp] theorem countCore_stks (g i n : Nat) : (countCore ch g i n).stks = ch.stks := by
  obtain ⟨_, h⟩ := countCore_shape ch g i n; rw [h]
@[simp] theorem countCore_jobs (g i n : Nat) : (countCore ch g i n).jobs = ch.jobs := by
  obtain ⟨_, h⟩ := countCore_shape ch g i n; rw [h]
@[simp] theorem countCore_pci (g i n : Nat) : (countCore ch g i n).pci = ch.pci := by
  obtain ⟨_, h⟩ := countCore_shape ch g i n; rw [h]
@[simp] theorem countCore_sys (g i n : Nat) : (countCore ch g i n).sys = ch.sys := by
  obtain ⟨_, h⟩ := countCore_shape ch g i n; rw [h]

/-- An event changes registers and counters alone. -/
theorem raise_shape (e : Ev) (u : Nat) :
    ∃ x0 x1, raise ch e u = { ch with regs := x0, cnts := x1 } := by
  unfold raise
  split
  · obtain ⟨x, h⟩ := countCore_shape (regSet ch (evInfo e).1 u
      (regGet ch (evInfo e).1 u ||| BitVec.ofNat 32 (2 ^ (evInfo e).2))) u _ 1
    exact ⟨_, x, h⟩
  · obtain ⟨x, h⟩ := count_shape (regSet ch (evInfo e).1 u
      (regGet ch (evInfo e).1 u ||| BitVec.ofNat 32 (2 ^ (evInfo e).2))) _ 1
    exact ⟨_, x, h⟩
  · exact ⟨_, ch.cnts, rfl⟩

@[simp] theorem raise_free (e : Ev) (u : Nat) : (raise ch e u).free = ch.free := by
  obtain ⟨_, _, h⟩ := raise_shape ch e u; rw [h]
@[simp] theorem raise_us (e : Ev) (u : Nat) : (raise ch e u).us = ch.us := by
  obtain ⟨_, _, h⟩ := raise_shape ch e u; rw [h]
@[simp] theorem raise_isl (e : Ev) (u : Nat) : (raise ch e u).isl = ch.isl := by
  obtain ⟨_, _, h⟩ := raise_shape ch e u; rw [h]
@[simp] theorem raise_islRun (e : Ev) (u : Nat) : (raise ch e u).islRun = ch.islRun := by
  obtain ⟨_, _, h⟩ := raise_shape ch e u; rw [h]
@[simp] theorem raise_phase (e : Ev) (u : Nat) : (raise ch e u).phase = ch.phase := by
  obtain ⟨_, _, h⟩ := raise_shape ch e u; rw [h]
@[simp] theorem raise_mem (e : Ev) (u : Nat) : (raise ch e u).mem = ch.mem := by
  obtain ⟨_, _, h⟩ := raise_shape ch e u; rw [h]
@[simp] theorem raise_poi (e : Ev) (u : Nat) : (raise ch e u).poi = ch.poi := by
  obtain ⟨_, _, h⟩ := raise_shape ch e u; rw [h]
@[simp] theorem raise_blks (e : Ev) (u : Nat) : (raise ch e u).blks = ch.blks := by
  obtain ⟨_, _, h⟩ := raise_shape ch e u; rw [h]
@[simp] theorem raise_resp (e : Ev) (u : Nat) : (raise ch e u).resp = ch.resp := by
  obtain ⟨_, _, h⟩ := raise_shape ch e u; rw [h]
@[simp] theorem raise_cores (e : Ev) (u : Nat) : (raise ch e u).cores = ch.cores := by
  obtain ⟨_, _, h⟩ := raise_shape ch e u; rw [h]
@[simp] theorem raise_accs (e : Ev) (u : Nat) : (raise ch e u).accs = ch.accs := by
  obtain ⟨_, _, h⟩ := raise_shape ch e u; rw [h]
@[simp] theorem raise_banks (e : Ev) (u : Nat) : (raise ch e u).banks = ch.banks := by
  obtain ⟨_, _, h⟩ := raise_shape ch e u; rw [h]
@[simp] theorem raise_arrs (e : Ev) (u : Nat) : (raise ch e u).arrs = ch.arrs := by
  obtain ⟨_, _, h⟩ := raise_shape ch e u; rw [h]
@[simp] theorem raise_stats (e : Ev) (u : Nat) : (raise ch e u).stats = ch.stats := by
  obtain ⟨_, _, h⟩ := raise_shape ch e u; rw [h]
@[simp] theorem raise_fields (e : Ev) (u : Nat) : (raise ch e u).fields = ch.fields := by
  obtain ⟨_, _, h⟩ := raise_shape ch e u; rw [h]
@[simp] theorem raise_towers (e : Ev) (u : Nat) : (raise ch e u).towers = ch.towers := by
  obtain ⟨_, _, h⟩ := raise_shape ch e u; rw [h]
@[simp] theorem raise_tcores (e : Ev) (u : Nat) : (raise ch e u).tcores = ch.tcores := by
  obtain ⟨_, _, h⟩ := raise_shape ch e u; rw [h]
@[simp] theorem raise_tsl (e : Ev) (u : Nat) : (raise ch e u).tsl = ch.tsl := by
  obtain ⟨_, _, h⟩ := raise_shape ch e u; rw [h]
@[simp] theorem raise_clus (e : Ev) (u : Nat) : (raise ch e u).clus = ch.clus := by
  obtain ⟨_, _, h⟩ := raise_shape ch e u; rw [h]
@[simp] theorem raise_objs (e : Ev) (u : Nat) : (raise ch e u).objs = ch.objs := by
  obtain ⟨_, _, h⟩ := raise_shape ch e u; rw [h]
@[simp] theorem raise_objPoi (e : Ev) (u : Nat) : (raise ch e u).objPoi = ch.objPoi := by
  obtain ⟨_, _, h⟩ := raise_shape ch e u; rw [h]
@[simp] theorem raise_ports (e : Ev) (u : Nat) : (raise ch e u).ports = ch.ports := by
  obtain ⟨_, _, h⟩ := raise_shape ch e u; rw [h]
@[simp] theorem raise_fab (e : Ev) (u : Nat) : (raise ch e u).fab = ch.fab := by
  obtain ⟨_, _, h⟩ := raise_shape ch e u; rw [h]
@[simp] theorem raise_nwl (e : Ev) (u : Nat) : (raise ch e u).nwl = ch.nwl := by
  obtain ⟨_, _, h⟩ := raise_shape ch e u; rw [h]
@[simp] theorem raise_obs (e : Ev) (u : Nat) : (raise ch e u).obs = ch.obs := by
  obtain ⟨_, _, h⟩ := raise_shape ch e u; rw [h]
@[simp] theorem raise_land (e : Ev) (u : Nat) : (raise ch e u).land = ch.land := by
  obtain ⟨_, _, h⟩ := raise_shape ch e u; rw [h]
@[simp] theorem raise_globalLayers (e : Ev) (u : Nat) : (raise ch e u).globalLayers = ch.globalLayers := by
  obtain ⟨_, _, h⟩ := raise_shape ch e u; rw [h]
@[simp] theorem raise_stks (e : Ev) (u : Nat) : (raise ch e u).stks = ch.stks := by
  obtain ⟨_, _, h⟩ := raise_shape ch e u; rw [h]
@[simp] theorem raise_jobs (e : Ev) (u : Nat) : (raise ch e u).jobs = ch.jobs := by
  obtain ⟨_, _, h⟩ := raise_shape ch e u; rw [h]
@[simp] theorem raise_pci (e : Ev) (u : Nat) : (raise ch e u).pci = ch.pci := by
  obtain ⟨_, _, h⟩ := raise_shape ch e u; rw [h]
@[simp] theorem raise_sys (e : Ev) (u : Nat) : (raise ch e u).sys = ch.sys := by
  obtain ⟨_, _, h⟩ := raise_shape ch e u; rw [h]

/-- A conditional event too. -/
theorem raiseIf_shape (b : Bool) (ch : Chip) (e : Ev) (u : Nat) :
    ∃ x0 x1, raiseIf b ch e u = { ch with regs := x0, cnts := x1 } := by
  unfold raiseIf
  split
  · exact raise_shape ch e u
  · exact ⟨ch.regs, ch.cnts, rfl⟩

@[simp] theorem raiseIf_free (b : Bool) (e : Ev) (u : Nat) : (raiseIf b ch e u).free = ch.free := by
  obtain ⟨_, _, h⟩ := raiseIf_shape b ch e u; rw [h]
@[simp] theorem raiseIf_us (b : Bool) (e : Ev) (u : Nat) : (raiseIf b ch e u).us = ch.us := by
  obtain ⟨_, _, h⟩ := raiseIf_shape b ch e u; rw [h]
@[simp] theorem raiseIf_isl (b : Bool) (e : Ev) (u : Nat) : (raiseIf b ch e u).isl = ch.isl := by
  obtain ⟨_, _, h⟩ := raiseIf_shape b ch e u; rw [h]
@[simp] theorem raiseIf_islRun (b : Bool) (e : Ev) (u : Nat) : (raiseIf b ch e u).islRun = ch.islRun := by
  obtain ⟨_, _, h⟩ := raiseIf_shape b ch e u; rw [h]
@[simp] theorem raiseIf_phase (b : Bool) (e : Ev) (u : Nat) : (raiseIf b ch e u).phase = ch.phase := by
  obtain ⟨_, _, h⟩ := raiseIf_shape b ch e u; rw [h]
@[simp] theorem raiseIf_mem (b : Bool) (e : Ev) (u : Nat) : (raiseIf b ch e u).mem = ch.mem := by
  obtain ⟨_, _, h⟩ := raiseIf_shape b ch e u; rw [h]
@[simp] theorem raiseIf_poi (b : Bool) (e : Ev) (u : Nat) : (raiseIf b ch e u).poi = ch.poi := by
  obtain ⟨_, _, h⟩ := raiseIf_shape b ch e u; rw [h]
@[simp] theorem raiseIf_blks (b : Bool) (e : Ev) (u : Nat) : (raiseIf b ch e u).blks = ch.blks := by
  obtain ⟨_, _, h⟩ := raiseIf_shape b ch e u; rw [h]
@[simp] theorem raiseIf_resp (b : Bool) (e : Ev) (u : Nat) : (raiseIf b ch e u).resp = ch.resp := by
  obtain ⟨_, _, h⟩ := raiseIf_shape b ch e u; rw [h]
@[simp] theorem raiseIf_cores (b : Bool) (e : Ev) (u : Nat) : (raiseIf b ch e u).cores = ch.cores := by
  obtain ⟨_, _, h⟩ := raiseIf_shape b ch e u; rw [h]
@[simp] theorem raiseIf_accs (b : Bool) (e : Ev) (u : Nat) : (raiseIf b ch e u).accs = ch.accs := by
  obtain ⟨_, _, h⟩ := raiseIf_shape b ch e u; rw [h]
@[simp] theorem raiseIf_banks (b : Bool) (e : Ev) (u : Nat) : (raiseIf b ch e u).banks = ch.banks := by
  obtain ⟨_, _, h⟩ := raiseIf_shape b ch e u; rw [h]
@[simp] theorem raiseIf_arrs (b : Bool) (e : Ev) (u : Nat) : (raiseIf b ch e u).arrs = ch.arrs := by
  obtain ⟨_, _, h⟩ := raiseIf_shape b ch e u; rw [h]
@[simp] theorem raiseIf_stats (b : Bool) (e : Ev) (u : Nat) : (raiseIf b ch e u).stats = ch.stats := by
  obtain ⟨_, _, h⟩ := raiseIf_shape b ch e u; rw [h]
@[simp] theorem raiseIf_fields (b : Bool) (e : Ev) (u : Nat) : (raiseIf b ch e u).fields = ch.fields := by
  obtain ⟨_, _, h⟩ := raiseIf_shape b ch e u; rw [h]
@[simp] theorem raiseIf_towers (b : Bool) (e : Ev) (u : Nat) : (raiseIf b ch e u).towers = ch.towers := by
  obtain ⟨_, _, h⟩ := raiseIf_shape b ch e u; rw [h]
@[simp] theorem raiseIf_tcores (b : Bool) (e : Ev) (u : Nat) : (raiseIf b ch e u).tcores = ch.tcores := by
  obtain ⟨_, _, h⟩ := raiseIf_shape b ch e u; rw [h]
@[simp] theorem raiseIf_tsl (b : Bool) (e : Ev) (u : Nat) : (raiseIf b ch e u).tsl = ch.tsl := by
  obtain ⟨_, _, h⟩ := raiseIf_shape b ch e u; rw [h]
@[simp] theorem raiseIf_clus (b : Bool) (e : Ev) (u : Nat) : (raiseIf b ch e u).clus = ch.clus := by
  obtain ⟨_, _, h⟩ := raiseIf_shape b ch e u; rw [h]
@[simp] theorem raiseIf_objs (b : Bool) (e : Ev) (u : Nat) : (raiseIf b ch e u).objs = ch.objs := by
  obtain ⟨_, _, h⟩ := raiseIf_shape b ch e u; rw [h]
@[simp] theorem raiseIf_objPoi (b : Bool) (e : Ev) (u : Nat) : (raiseIf b ch e u).objPoi = ch.objPoi := by
  obtain ⟨_, _, h⟩ := raiseIf_shape b ch e u; rw [h]
@[simp] theorem raiseIf_ports (b : Bool) (e : Ev) (u : Nat) : (raiseIf b ch e u).ports = ch.ports := by
  obtain ⟨_, _, h⟩ := raiseIf_shape b ch e u; rw [h]
@[simp] theorem raiseIf_fab (b : Bool) (e : Ev) (u : Nat) : (raiseIf b ch e u).fab = ch.fab := by
  obtain ⟨_, _, h⟩ := raiseIf_shape b ch e u; rw [h]
@[simp] theorem raiseIf_nwl (b : Bool) (e : Ev) (u : Nat) : (raiseIf b ch e u).nwl = ch.nwl := by
  obtain ⟨_, _, h⟩ := raiseIf_shape b ch e u; rw [h]
@[simp] theorem raiseIf_obs (b : Bool) (e : Ev) (u : Nat) : (raiseIf b ch e u).obs = ch.obs := by
  obtain ⟨_, _, h⟩ := raiseIf_shape b ch e u; rw [h]
@[simp] theorem raiseIf_land (b : Bool) (e : Ev) (u : Nat) : (raiseIf b ch e u).land = ch.land := by
  obtain ⟨_, _, h⟩ := raiseIf_shape b ch e u; rw [h]
@[simp] theorem raiseIf_globalLayers (b : Bool) (e : Ev) (u : Nat) : (raiseIf b ch e u).globalLayers = ch.globalLayers := by
  obtain ⟨_, _, h⟩ := raiseIf_shape b ch e u; rw [h]
@[simp] theorem raiseIf_stks (b : Bool) (e : Ev) (u : Nat) : (raiseIf b ch e u).stks = ch.stks := by
  obtain ⟨_, _, h⟩ := raiseIf_shape b ch e u; rw [h]
@[simp] theorem raiseIf_jobs (b : Bool) (e : Ev) (u : Nat) : (raiseIf b ch e u).jobs = ch.jobs := by
  obtain ⟨_, _, h⟩ := raiseIf_shape b ch e u; rw [h]
@[simp] theorem raiseIf_pci (b : Bool) (e : Ev) (u : Nat) : (raiseIf b ch e u).pci = ch.pci := by
  obtain ⟨_, _, h⟩ := raiseIf_shape b ch e u; rw [h]
@[simp] theorem raiseIf_sys (b : Bool) (e : Ev) (u : Nat) : (raiseIf b ch e u).sys = ch.sys := by
  obtain ⟨_, _, h⟩ := raiseIf_shape b ch e u; rw [h]

/-- And several at once. -/
theorem raiseN_shape (e : Ev) (u n : Nat) :
    ∃ x0 x1, raiseN ch e u n = { ch with regs := x0, cnts := x1 } := by
  unfold raiseN
  split
  · exact ⟨ch.regs, ch.cnts, rfl⟩
  · obtain ⟨r, x, h⟩ := raise_shape ch e u
    simp only [h]
    split
    · obtain ⟨y, h⟩ := countCore_shape { ch with regs := r, cnts := x } u _ (n - 1)
      exact ⟨r, y, h⟩
    · obtain ⟨y, h⟩ := count_shape { ch with regs := r, cnts := x } _ (n - 1)
      exact ⟨r, y, h⟩
    · exact ⟨r, x, rfl⟩

@[simp] theorem raiseN_free (e : Ev) (u n : Nat) : (raiseN ch e u n).free = ch.free := by
  obtain ⟨_, _, h⟩ := raiseN_shape ch e u n; rw [h]
@[simp] theorem raiseN_us (e : Ev) (u n : Nat) : (raiseN ch e u n).us = ch.us := by
  obtain ⟨_, _, h⟩ := raiseN_shape ch e u n; rw [h]
@[simp] theorem raiseN_isl (e : Ev) (u n : Nat) : (raiseN ch e u n).isl = ch.isl := by
  obtain ⟨_, _, h⟩ := raiseN_shape ch e u n; rw [h]
@[simp] theorem raiseN_islRun (e : Ev) (u n : Nat) : (raiseN ch e u n).islRun = ch.islRun := by
  obtain ⟨_, _, h⟩ := raiseN_shape ch e u n; rw [h]
@[simp] theorem raiseN_phase (e : Ev) (u n : Nat) : (raiseN ch e u n).phase = ch.phase := by
  obtain ⟨_, _, h⟩ := raiseN_shape ch e u n; rw [h]
@[simp] theorem raiseN_mem (e : Ev) (u n : Nat) : (raiseN ch e u n).mem = ch.mem := by
  obtain ⟨_, _, h⟩ := raiseN_shape ch e u n; rw [h]
@[simp] theorem raiseN_poi (e : Ev) (u n : Nat) : (raiseN ch e u n).poi = ch.poi := by
  obtain ⟨_, _, h⟩ := raiseN_shape ch e u n; rw [h]
@[simp] theorem raiseN_blks (e : Ev) (u n : Nat) : (raiseN ch e u n).blks = ch.blks := by
  obtain ⟨_, _, h⟩ := raiseN_shape ch e u n; rw [h]
@[simp] theorem raiseN_resp (e : Ev) (u n : Nat) : (raiseN ch e u n).resp = ch.resp := by
  obtain ⟨_, _, h⟩ := raiseN_shape ch e u n; rw [h]
@[simp] theorem raiseN_cores (e : Ev) (u n : Nat) : (raiseN ch e u n).cores = ch.cores := by
  obtain ⟨_, _, h⟩ := raiseN_shape ch e u n; rw [h]
@[simp] theorem raiseN_accs (e : Ev) (u n : Nat) : (raiseN ch e u n).accs = ch.accs := by
  obtain ⟨_, _, h⟩ := raiseN_shape ch e u n; rw [h]
@[simp] theorem raiseN_banks (e : Ev) (u n : Nat) : (raiseN ch e u n).banks = ch.banks := by
  obtain ⟨_, _, h⟩ := raiseN_shape ch e u n; rw [h]
@[simp] theorem raiseN_arrs (e : Ev) (u n : Nat) : (raiseN ch e u n).arrs = ch.arrs := by
  obtain ⟨_, _, h⟩ := raiseN_shape ch e u n; rw [h]
@[simp] theorem raiseN_stats (e : Ev) (u n : Nat) : (raiseN ch e u n).stats = ch.stats := by
  obtain ⟨_, _, h⟩ := raiseN_shape ch e u n; rw [h]
@[simp] theorem raiseN_fields (e : Ev) (u n : Nat) : (raiseN ch e u n).fields = ch.fields := by
  obtain ⟨_, _, h⟩ := raiseN_shape ch e u n; rw [h]
@[simp] theorem raiseN_towers (e : Ev) (u n : Nat) : (raiseN ch e u n).towers = ch.towers := by
  obtain ⟨_, _, h⟩ := raiseN_shape ch e u n; rw [h]
@[simp] theorem raiseN_tcores (e : Ev) (u n : Nat) : (raiseN ch e u n).tcores = ch.tcores := by
  obtain ⟨_, _, h⟩ := raiseN_shape ch e u n; rw [h]
@[simp] theorem raiseN_tsl (e : Ev) (u n : Nat) : (raiseN ch e u n).tsl = ch.tsl := by
  obtain ⟨_, _, h⟩ := raiseN_shape ch e u n; rw [h]
@[simp] theorem raiseN_clus (e : Ev) (u n : Nat) : (raiseN ch e u n).clus = ch.clus := by
  obtain ⟨_, _, h⟩ := raiseN_shape ch e u n; rw [h]
@[simp] theorem raiseN_objs (e : Ev) (u n : Nat) : (raiseN ch e u n).objs = ch.objs := by
  obtain ⟨_, _, h⟩ := raiseN_shape ch e u n; rw [h]
@[simp] theorem raiseN_objPoi (e : Ev) (u n : Nat) : (raiseN ch e u n).objPoi = ch.objPoi := by
  obtain ⟨_, _, h⟩ := raiseN_shape ch e u n; rw [h]
@[simp] theorem raiseN_ports (e : Ev) (u n : Nat) : (raiseN ch e u n).ports = ch.ports := by
  obtain ⟨_, _, h⟩ := raiseN_shape ch e u n; rw [h]
@[simp] theorem raiseN_fab (e : Ev) (u n : Nat) : (raiseN ch e u n).fab = ch.fab := by
  obtain ⟨_, _, h⟩ := raiseN_shape ch e u n; rw [h]
@[simp] theorem raiseN_nwl (e : Ev) (u n : Nat) : (raiseN ch e u n).nwl = ch.nwl := by
  obtain ⟨_, _, h⟩ := raiseN_shape ch e u n; rw [h]
@[simp] theorem raiseN_obs (e : Ev) (u n : Nat) : (raiseN ch e u n).obs = ch.obs := by
  obtain ⟨_, _, h⟩ := raiseN_shape ch e u n; rw [h]
@[simp] theorem raiseN_land (e : Ev) (u n : Nat) : (raiseN ch e u n).land = ch.land := by
  obtain ⟨_, _, h⟩ := raiseN_shape ch e u n; rw [h]
@[simp] theorem raiseN_globalLayers (e : Ev) (u n : Nat) : (raiseN ch e u n).globalLayers = ch.globalLayers := by
  obtain ⟨_, _, h⟩ := raiseN_shape ch e u n; rw [h]
@[simp] theorem raiseN_stks (e : Ev) (u n : Nat) : (raiseN ch e u n).stks = ch.stks := by
  obtain ⟨_, _, h⟩ := raiseN_shape ch e u n; rw [h]
@[simp] theorem raiseN_jobs (e : Ev) (u n : Nat) : (raiseN ch e u n).jobs = ch.jobs := by
  obtain ⟨_, _, h⟩ := raiseN_shape ch e u n; rw [h]
@[simp] theorem raiseN_pci (e : Ev) (u n : Nat) : (raiseN ch e u n).pci = ch.pci := by
  obtain ⟨_, _, h⟩ := raiseN_shape ch e u n; rw [h]
@[simp] theorem raiseN_sys (e : Ev) (u n : Nat) : (raiseN ch e u n).sys = ch.sys := by
  obtain ⟨_, _, h⟩ := raiseN_shape ch e u n; rw [h]

/-- A snapshot source changes observation, or the trigger line, alone. -/
theorem fireSource_shape (c d : Nat) :
    ∃ x0 x1, fireSource ch c d = { ch with nwl := x0, obs := x1 } := by
  unfold fireSource
  split
  · exact ⟨ch.nwl, ch.obs, rfl⟩
  · dsimp only
    generalize (bit _ _ && _) = on
    cases on
    · exact ⟨ch.nwl, ch.obs, rfl⟩
    · rename_i m _
      cases hm : m.system
      · exact ⟨ch.nwl, _, rfl⟩
      · exact ⟨_, ch.obs, rfl⟩

@[simp] theorem fireSource_free (c d : Nat) : (fireSource ch c d).free = ch.free := by
  obtain ⟨_, _, h⟩ := fireSource_shape ch c d; rw [h]
@[simp] theorem fireSource_us (c d : Nat) : (fireSource ch c d).us = ch.us := by
  obtain ⟨_, _, h⟩ := fireSource_shape ch c d; rw [h]
@[simp] theorem fireSource_isl (c d : Nat) : (fireSource ch c d).isl = ch.isl := by
  obtain ⟨_, _, h⟩ := fireSource_shape ch c d; rw [h]
@[simp] theorem fireSource_islRun (c d : Nat) : (fireSource ch c d).islRun = ch.islRun := by
  obtain ⟨_, _, h⟩ := fireSource_shape ch c d; rw [h]
@[simp] theorem fireSource_phase (c d : Nat) : (fireSource ch c d).phase = ch.phase := by
  obtain ⟨_, _, h⟩ := fireSource_shape ch c d; rw [h]
@[simp] theorem fireSource_mem (c d : Nat) : (fireSource ch c d).mem = ch.mem := by
  obtain ⟨_, _, h⟩ := fireSource_shape ch c d; rw [h]
@[simp] theorem fireSource_poi (c d : Nat) : (fireSource ch c d).poi = ch.poi := by
  obtain ⟨_, _, h⟩ := fireSource_shape ch c d; rw [h]
@[simp] theorem fireSource_regs (c d : Nat) : (fireSource ch c d).regs = ch.regs := by
  obtain ⟨_, _, h⟩ := fireSource_shape ch c d; rw [h]
@[simp] theorem fireSource_blks (c d : Nat) : (fireSource ch c d).blks = ch.blks := by
  obtain ⟨_, _, h⟩ := fireSource_shape ch c d; rw [h]
@[simp] theorem fireSource_resp (c d : Nat) : (fireSource ch c d).resp = ch.resp := by
  obtain ⟨_, _, h⟩ := fireSource_shape ch c d; rw [h]
@[simp] theorem fireSource_cnts (c d : Nat) : (fireSource ch c d).cnts = ch.cnts := by
  obtain ⟨_, _, h⟩ := fireSource_shape ch c d; rw [h]
@[simp] theorem fireSource_cores (c d : Nat) : (fireSource ch c d).cores = ch.cores := by
  obtain ⟨_, _, h⟩ := fireSource_shape ch c d; rw [h]
@[simp] theorem fireSource_accs (c d : Nat) : (fireSource ch c d).accs = ch.accs := by
  obtain ⟨_, _, h⟩ := fireSource_shape ch c d; rw [h]
@[simp] theorem fireSource_banks (c d : Nat) : (fireSource ch c d).banks = ch.banks := by
  obtain ⟨_, _, h⟩ := fireSource_shape ch c d; rw [h]
@[simp] theorem fireSource_arrs (c d : Nat) : (fireSource ch c d).arrs = ch.arrs := by
  obtain ⟨_, _, h⟩ := fireSource_shape ch c d; rw [h]
@[simp] theorem fireSource_stats (c d : Nat) : (fireSource ch c d).stats = ch.stats := by
  obtain ⟨_, _, h⟩ := fireSource_shape ch c d; rw [h]
@[simp] theorem fireSource_fields (c d : Nat) : (fireSource ch c d).fields = ch.fields := by
  obtain ⟨_, _, h⟩ := fireSource_shape ch c d; rw [h]
@[simp] theorem fireSource_towers (c d : Nat) : (fireSource ch c d).towers = ch.towers := by
  obtain ⟨_, _, h⟩ := fireSource_shape ch c d; rw [h]
@[simp] theorem fireSource_tcores (c d : Nat) : (fireSource ch c d).tcores = ch.tcores := by
  obtain ⟨_, _, h⟩ := fireSource_shape ch c d; rw [h]
@[simp] theorem fireSource_tsl (c d : Nat) : (fireSource ch c d).tsl = ch.tsl := by
  obtain ⟨_, _, h⟩ := fireSource_shape ch c d; rw [h]
@[simp] theorem fireSource_clus (c d : Nat) : (fireSource ch c d).clus = ch.clus := by
  obtain ⟨_, _, h⟩ := fireSource_shape ch c d; rw [h]
@[simp] theorem fireSource_objs (c d : Nat) : (fireSource ch c d).objs = ch.objs := by
  obtain ⟨_, _, h⟩ := fireSource_shape ch c d; rw [h]
@[simp] theorem fireSource_objPoi (c d : Nat) : (fireSource ch c d).objPoi = ch.objPoi := by
  obtain ⟨_, _, h⟩ := fireSource_shape ch c d; rw [h]
@[simp] theorem fireSource_ports (c d : Nat) : (fireSource ch c d).ports = ch.ports := by
  obtain ⟨_, _, h⟩ := fireSource_shape ch c d; rw [h]
@[simp] theorem fireSource_fab (c d : Nat) : (fireSource ch c d).fab = ch.fab := by
  obtain ⟨_, _, h⟩ := fireSource_shape ch c d; rw [h]
@[simp] theorem fireSource_land (c d : Nat) : (fireSource ch c d).land = ch.land := by
  obtain ⟨_, _, h⟩ := fireSource_shape ch c d; rw [h]
@[simp] theorem fireSource_globalLayers (c d : Nat) : (fireSource ch c d).globalLayers = ch.globalLayers := by
  obtain ⟨_, _, h⟩ := fireSource_shape ch c d; rw [h]
@[simp] theorem fireSource_stks (c d : Nat) : (fireSource ch c d).stks = ch.stks := by
  obtain ⟨_, _, h⟩ := fireSource_shape ch c d; rw [h]
@[simp] theorem fireSource_jobs (c d : Nat) : (fireSource ch c d).jobs = ch.jobs := by
  obtain ⟨_, _, h⟩ := fireSource_shape ch c d; rw [h]
@[simp] theorem fireSource_pci (c d : Nat) : (fireSource ch c d).pci = ch.pci := by
  obtain ⟨_, _, h⟩ := fireSource_shape ch c d; rw [h]
@[simp] theorem fireSource_sys (c d : Nat) : (fireSource ch c d).sys = ch.sys := by
  obtain ⟨_, _, h⟩ := fireSource_shape ch c d; rw [h]

/-- An interrupt changes the PCI Express side and a counter alone. -/
theorem msix_shape (f v : Nat) :
    ∃ x0 x1, msix ch f v = { ch with pci := x0, cnts := x1 } := by
  unfold msix
  dsimp only
  split
  · exact ⟨_, ch.cnts, rfl⟩
  · obtain ⟨x, h⟩ := count_shape { ch with pci := { ch.pci with
      msixSent := tput ch.pci.msixSent (f * 1024 + v) (tget ch.pci.msixSent 0 (f * 1024 + v) + 1) } } 133 1
    exact ⟨_, x, h⟩

@[simp] theorem msix_free (f v : Nat) : (msix ch f v).free = ch.free := by
  obtain ⟨_, _, h⟩ := msix_shape ch f v; rw [h]
@[simp] theorem msix_us (f v : Nat) : (msix ch f v).us = ch.us := by
  obtain ⟨_, _, h⟩ := msix_shape ch f v; rw [h]
@[simp] theorem msix_isl (f v : Nat) : (msix ch f v).isl = ch.isl := by
  obtain ⟨_, _, h⟩ := msix_shape ch f v; rw [h]
@[simp] theorem msix_islRun (f v : Nat) : (msix ch f v).islRun = ch.islRun := by
  obtain ⟨_, _, h⟩ := msix_shape ch f v; rw [h]
@[simp] theorem msix_phase (f v : Nat) : (msix ch f v).phase = ch.phase := by
  obtain ⟨_, _, h⟩ := msix_shape ch f v; rw [h]
@[simp] theorem msix_mem (f v : Nat) : (msix ch f v).mem = ch.mem := by
  obtain ⟨_, _, h⟩ := msix_shape ch f v; rw [h]
@[simp] theorem msix_poi (f v : Nat) : (msix ch f v).poi = ch.poi := by
  obtain ⟨_, _, h⟩ := msix_shape ch f v; rw [h]
@[simp] theorem msix_regs (f v : Nat) : (msix ch f v).regs = ch.regs := by
  obtain ⟨_, _, h⟩ := msix_shape ch f v; rw [h]
@[simp] theorem msix_blks (f v : Nat) : (msix ch f v).blks = ch.blks := by
  obtain ⟨_, _, h⟩ := msix_shape ch f v; rw [h]
@[simp] theorem msix_resp (f v : Nat) : (msix ch f v).resp = ch.resp := by
  obtain ⟨_, _, h⟩ := msix_shape ch f v; rw [h]
@[simp] theorem msix_cores (f v : Nat) : (msix ch f v).cores = ch.cores := by
  obtain ⟨_, _, h⟩ := msix_shape ch f v; rw [h]
@[simp] theorem msix_accs (f v : Nat) : (msix ch f v).accs = ch.accs := by
  obtain ⟨_, _, h⟩ := msix_shape ch f v; rw [h]
@[simp] theorem msix_banks (f v : Nat) : (msix ch f v).banks = ch.banks := by
  obtain ⟨_, _, h⟩ := msix_shape ch f v; rw [h]
@[simp] theorem msix_arrs (f v : Nat) : (msix ch f v).arrs = ch.arrs := by
  obtain ⟨_, _, h⟩ := msix_shape ch f v; rw [h]
@[simp] theorem msix_stats (f v : Nat) : (msix ch f v).stats = ch.stats := by
  obtain ⟨_, _, h⟩ := msix_shape ch f v; rw [h]
@[simp] theorem msix_fields (f v : Nat) : (msix ch f v).fields = ch.fields := by
  obtain ⟨_, _, h⟩ := msix_shape ch f v; rw [h]
@[simp] theorem msix_towers (f v : Nat) : (msix ch f v).towers = ch.towers := by
  obtain ⟨_, _, h⟩ := msix_shape ch f v; rw [h]
@[simp] theorem msix_tcores (f v : Nat) : (msix ch f v).tcores = ch.tcores := by
  obtain ⟨_, _, h⟩ := msix_shape ch f v; rw [h]
@[simp] theorem msix_tsl (f v : Nat) : (msix ch f v).tsl = ch.tsl := by
  obtain ⟨_, _, h⟩ := msix_shape ch f v; rw [h]
@[simp] theorem msix_clus (f v : Nat) : (msix ch f v).clus = ch.clus := by
  obtain ⟨_, _, h⟩ := msix_shape ch f v; rw [h]
@[simp] theorem msix_objs (f v : Nat) : (msix ch f v).objs = ch.objs := by
  obtain ⟨_, _, h⟩ := msix_shape ch f v; rw [h]
@[simp] theorem msix_objPoi (f v : Nat) : (msix ch f v).objPoi = ch.objPoi := by
  obtain ⟨_, _, h⟩ := msix_shape ch f v; rw [h]
@[simp] theorem msix_ports (f v : Nat) : (msix ch f v).ports = ch.ports := by
  obtain ⟨_, _, h⟩ := msix_shape ch f v; rw [h]
@[simp] theorem msix_fab (f v : Nat) : (msix ch f v).fab = ch.fab := by
  obtain ⟨_, _, h⟩ := msix_shape ch f v; rw [h]
@[simp] theorem msix_nwl (f v : Nat) : (msix ch f v).nwl = ch.nwl := by
  obtain ⟨_, _, h⟩ := msix_shape ch f v; rw [h]
@[simp] theorem msix_obs (f v : Nat) : (msix ch f v).obs = ch.obs := by
  obtain ⟨_, _, h⟩ := msix_shape ch f v; rw [h]
@[simp] theorem msix_land (f v : Nat) : (msix ch f v).land = ch.land := by
  obtain ⟨_, _, h⟩ := msix_shape ch f v; rw [h]
@[simp] theorem msix_globalLayers (f v : Nat) : (msix ch f v).globalLayers = ch.globalLayers := by
  obtain ⟨_, _, h⟩ := msix_shape ch f v; rw [h]
@[simp] theorem msix_stks (f v : Nat) : (msix ch f v).stks = ch.stks := by
  obtain ⟨_, _, h⟩ := msix_shape ch f v; rw [h]
@[simp] theorem msix_jobs (f v : Nat) : (msix ch f v).jobs = ch.jobs := by
  obtain ⟨_, _, h⟩ := msix_shape ch f v; rw [h]
@[simp] theorem msix_sys (f v : Nat) : (msix ch f v).sys = ch.sys := by
  obtain ⟨_, _, h⟩ := msix_shape ch f v; rw [h]

/-- A notification changes the ring of its job, an event, a counter and interrupts alone. -/
theorem notify_shape (j r d c i t : Nat) (m : Dword) :
    ∃ x0 x1 x2 x3, notify ch j r d c i t m = { ch with jobs := x0, regs := x1, cnts := x2, pci := x3 } := by
  have step2 (a : Chip) (full : Bool) : ∃ r x p,
      msix (msix (count (raiseIf full a .tslNotifyLost 0) (cntPkg (8 * j + 6)) 1) (j + 1) 2) 0 (3 + j) =
        { a with regs := r, cnts := x, pci := p } := by
    have h0 : ∃ r x, raiseIf full a .tslNotifyLost 0 = { a with regs := r, cnts := x } := by
      unfold raiseIf
      split
      · exact raise_shape a _ _
      · exact ⟨a.regs, a.cnts, rfl⟩
    obtain ⟨r, x, h0⟩ := h0
    obtain ⟨y, h1⟩ := count_shape { a with regs := r, cnts := x } (cntPkg (8 * j + 6)) 1
    obtain ⟨p, z, h2⟩ := msix_shape { a with regs := r, cnts := y } (j + 1) 2
    obtain ⟨p', z', h3⟩ := msix_shape { a with regs := r, pci := p, cnts := z } 0 (3 + j)
    exact ⟨r, z', p', by rw [h0, h1]; simp only []; rw [h2, h3]⟩
  unfold notify
  split
  · exact ⟨_, _, _, _, rfl⟩
  obtain ⟨y, z, p, h⟩ := step2 (updJob ch j fun b => { b with
    notes := (if decide (256 ≤ (jobOf ch j).notes.length) then b.notes.drop 1 else b.notes) ++
      [{ seq := (jobOf ch j).noteSeq, us := ch.us, reason := r, detail := d, core := c, tid := i, tile := t, bitmap := m }],
    noteSeq := b.noteSeq + 1 }) (decide (256 ≤ (jobOf ch j).notes.length))
  exact ⟨_, y, z, p, h⟩

@[simp] theorem notify_free (j r d c i t : Nat) (m : Dword) : (notify ch j r d c i t m).free = ch.free := by
  obtain ⟨_, _, _, _, h⟩ := notify_shape ch j r d c i t m; rw [h]
@[simp] theorem notify_us (j r d c i t : Nat) (m : Dword) : (notify ch j r d c i t m).us = ch.us := by
  obtain ⟨_, _, _, _, h⟩ := notify_shape ch j r d c i t m; rw [h]
@[simp] theorem notify_isl (j r d c i t : Nat) (m : Dword) : (notify ch j r d c i t m).isl = ch.isl := by
  obtain ⟨_, _, _, _, h⟩ := notify_shape ch j r d c i t m; rw [h]
@[simp] theorem notify_islRun (j r d c i t : Nat) (m : Dword) : (notify ch j r d c i t m).islRun = ch.islRun := by
  obtain ⟨_, _, _, _, h⟩ := notify_shape ch j r d c i t m; rw [h]
@[simp] theorem notify_phase (j r d c i t : Nat) (m : Dword) : (notify ch j r d c i t m).phase = ch.phase := by
  obtain ⟨_, _, _, _, h⟩ := notify_shape ch j r d c i t m; rw [h]
@[simp] theorem notify_mem (j r d c i t : Nat) (m : Dword) : (notify ch j r d c i t m).mem = ch.mem := by
  obtain ⟨_, _, _, _, h⟩ := notify_shape ch j r d c i t m; rw [h]
@[simp] theorem notify_poi (j r d c i t : Nat) (m : Dword) : (notify ch j r d c i t m).poi = ch.poi := by
  obtain ⟨_, _, _, _, h⟩ := notify_shape ch j r d c i t m; rw [h]
@[simp] theorem notify_blks (j r d c i t : Nat) (m : Dword) : (notify ch j r d c i t m).blks = ch.blks := by
  obtain ⟨_, _, _, _, h⟩ := notify_shape ch j r d c i t m; rw [h]
@[simp] theorem notify_resp (j r d c i t : Nat) (m : Dword) : (notify ch j r d c i t m).resp = ch.resp := by
  obtain ⟨_, _, _, _, h⟩ := notify_shape ch j r d c i t m; rw [h]
@[simp] theorem notify_cores (j r d c i t : Nat) (m : Dword) : (notify ch j r d c i t m).cores = ch.cores := by
  obtain ⟨_, _, _, _, h⟩ := notify_shape ch j r d c i t m; rw [h]
@[simp] theorem notify_accs (j r d c i t : Nat) (m : Dword) : (notify ch j r d c i t m).accs = ch.accs := by
  obtain ⟨_, _, _, _, h⟩ := notify_shape ch j r d c i t m; rw [h]
@[simp] theorem notify_banks (j r d c i t : Nat) (m : Dword) : (notify ch j r d c i t m).banks = ch.banks := by
  obtain ⟨_, _, _, _, h⟩ := notify_shape ch j r d c i t m; rw [h]
@[simp] theorem notify_arrs (j r d c i t : Nat) (m : Dword) : (notify ch j r d c i t m).arrs = ch.arrs := by
  obtain ⟨_, _, _, _, h⟩ := notify_shape ch j r d c i t m; rw [h]
@[simp] theorem notify_stats (j r d c i t : Nat) (m : Dword) : (notify ch j r d c i t m).stats = ch.stats := by
  obtain ⟨_, _, _, _, h⟩ := notify_shape ch j r d c i t m; rw [h]
@[simp] theorem notify_fields (j r d c i t : Nat) (m : Dword) : (notify ch j r d c i t m).fields = ch.fields := by
  obtain ⟨_, _, _, _, h⟩ := notify_shape ch j r d c i t m; rw [h]
@[simp] theorem notify_towers (j r d c i t : Nat) (m : Dword) : (notify ch j r d c i t m).towers = ch.towers := by
  obtain ⟨_, _, _, _, h⟩ := notify_shape ch j r d c i t m; rw [h]
@[simp] theorem notify_tcores (j r d c i t : Nat) (m : Dword) : (notify ch j r d c i t m).tcores = ch.tcores := by
  obtain ⟨_, _, _, _, h⟩ := notify_shape ch j r d c i t m; rw [h]
@[simp] theorem notify_tsl (j r d c i t : Nat) (m : Dword) : (notify ch j r d c i t m).tsl = ch.tsl := by
  obtain ⟨_, _, _, _, h⟩ := notify_shape ch j r d c i t m; rw [h]
@[simp] theorem notify_clus (j r d c i t : Nat) (m : Dword) : (notify ch j r d c i t m).clus = ch.clus := by
  obtain ⟨_, _, _, _, h⟩ := notify_shape ch j r d c i t m; rw [h]
@[simp] theorem notify_objs (j r d c i t : Nat) (m : Dword) : (notify ch j r d c i t m).objs = ch.objs := by
  obtain ⟨_, _, _, _, h⟩ := notify_shape ch j r d c i t m; rw [h]
@[simp] theorem notify_objPoi (j r d c i t : Nat) (m : Dword) : (notify ch j r d c i t m).objPoi = ch.objPoi := by
  obtain ⟨_, _, _, _, h⟩ := notify_shape ch j r d c i t m; rw [h]
@[simp] theorem notify_ports (j r d c i t : Nat) (m : Dword) : (notify ch j r d c i t m).ports = ch.ports := by
  obtain ⟨_, _, _, _, h⟩ := notify_shape ch j r d c i t m; rw [h]
@[simp] theorem notify_fab (j r d c i t : Nat) (m : Dword) : (notify ch j r d c i t m).fab = ch.fab := by
  obtain ⟨_, _, _, _, h⟩ := notify_shape ch j r d c i t m; rw [h]
@[simp] theorem notify_nwl (j r d c i t : Nat) (m : Dword) : (notify ch j r d c i t m).nwl = ch.nwl := by
  obtain ⟨_, _, _, _, h⟩ := notify_shape ch j r d c i t m; rw [h]
@[simp] theorem notify_obs (j r d c i t : Nat) (m : Dword) : (notify ch j r d c i t m).obs = ch.obs := by
  obtain ⟨_, _, _, _, h⟩ := notify_shape ch j r d c i t m; rw [h]
@[simp] theorem notify_land (j r d c i t : Nat) (m : Dword) : (notify ch j r d c i t m).land = ch.land := by
  obtain ⟨_, _, _, _, h⟩ := notify_shape ch j r d c i t m; rw [h]
@[simp] theorem notify_globalLayers (j r d c i t : Nat) (m : Dword) : (notify ch j r d c i t m).globalLayers = ch.globalLayers := by
  obtain ⟨_, _, _, _, h⟩ := notify_shape ch j r d c i t m; rw [h]
@[simp] theorem notify_stks (j r d c i t : Nat) (m : Dword) : (notify ch j r d c i t m).stks = ch.stks := by
  obtain ⟨_, _, _, _, h⟩ := notify_shape ch j r d c i t m; rw [h]
@[simp] theorem notify_sys (j r d c i t : Nat) (m : Dword) : (notify ch j r d c i t m).sys = ch.sys := by
  obtain ⟨_, _, _, _, h⟩ := notify_shape ch j r d c i t m; rw [h]

/-- A halt changes the cores alone. -/
theorem haltCore_shape (g : Nat) :
    ∃ x0, haltCore ch g = { ch with cores := x0 } := by
  exact ⟨_, rfl⟩

@[simp] theorem haltCore_free (g : Nat) : (haltCore ch g).free = ch.free := by
  obtain ⟨_, h⟩ := haltCore_shape ch g; rw [h]
@[simp] theorem haltCore_us (g : Nat) : (haltCore ch g).us = ch.us := by
  obtain ⟨_, h⟩ := haltCore_shape ch g; rw [h]
@[simp] theorem haltCore_isl (g : Nat) : (haltCore ch g).isl = ch.isl := by
  obtain ⟨_, h⟩ := haltCore_shape ch g; rw [h]
@[simp] theorem haltCore_islRun (g : Nat) : (haltCore ch g).islRun = ch.islRun := by
  obtain ⟨_, h⟩ := haltCore_shape ch g; rw [h]
@[simp] theorem haltCore_phase (g : Nat) : (haltCore ch g).phase = ch.phase := by
  obtain ⟨_, h⟩ := haltCore_shape ch g; rw [h]
@[simp] theorem haltCore_mem (g : Nat) : (haltCore ch g).mem = ch.mem := by
  obtain ⟨_, h⟩ := haltCore_shape ch g; rw [h]
@[simp] theorem haltCore_poi (g : Nat) : (haltCore ch g).poi = ch.poi := by
  obtain ⟨_, h⟩ := haltCore_shape ch g; rw [h]
@[simp] theorem haltCore_regs (g : Nat) : (haltCore ch g).regs = ch.regs := by
  obtain ⟨_, h⟩ := haltCore_shape ch g; rw [h]
@[simp] theorem haltCore_blks (g : Nat) : (haltCore ch g).blks = ch.blks := by
  obtain ⟨_, h⟩ := haltCore_shape ch g; rw [h]
@[simp] theorem haltCore_resp (g : Nat) : (haltCore ch g).resp = ch.resp := by
  obtain ⟨_, h⟩ := haltCore_shape ch g; rw [h]
@[simp] theorem haltCore_cnts (g : Nat) : (haltCore ch g).cnts = ch.cnts := by
  obtain ⟨_, h⟩ := haltCore_shape ch g; rw [h]
@[simp] theorem haltCore_accs (g : Nat) : (haltCore ch g).accs = ch.accs := by
  obtain ⟨_, h⟩ := haltCore_shape ch g; rw [h]
@[simp] theorem haltCore_banks (g : Nat) : (haltCore ch g).banks = ch.banks := by
  obtain ⟨_, h⟩ := haltCore_shape ch g; rw [h]
@[simp] theorem haltCore_arrs (g : Nat) : (haltCore ch g).arrs = ch.arrs := by
  obtain ⟨_, h⟩ := haltCore_shape ch g; rw [h]
@[simp] theorem haltCore_stats (g : Nat) : (haltCore ch g).stats = ch.stats := by
  obtain ⟨_, h⟩ := haltCore_shape ch g; rw [h]
@[simp] theorem haltCore_fields (g : Nat) : (haltCore ch g).fields = ch.fields := by
  obtain ⟨_, h⟩ := haltCore_shape ch g; rw [h]
@[simp] theorem haltCore_towers (g : Nat) : (haltCore ch g).towers = ch.towers := by
  obtain ⟨_, h⟩ := haltCore_shape ch g; rw [h]
@[simp] theorem haltCore_tcores (g : Nat) : (haltCore ch g).tcores = ch.tcores := by
  obtain ⟨_, h⟩ := haltCore_shape ch g; rw [h]
@[simp] theorem haltCore_tsl (g : Nat) : (haltCore ch g).tsl = ch.tsl := by
  obtain ⟨_, h⟩ := haltCore_shape ch g; rw [h]
@[simp] theorem haltCore_clus (g : Nat) : (haltCore ch g).clus = ch.clus := by
  obtain ⟨_, h⟩ := haltCore_shape ch g; rw [h]
@[simp] theorem haltCore_objs (g : Nat) : (haltCore ch g).objs = ch.objs := by
  obtain ⟨_, h⟩ := haltCore_shape ch g; rw [h]
@[simp] theorem haltCore_objPoi (g : Nat) : (haltCore ch g).objPoi = ch.objPoi := by
  obtain ⟨_, h⟩ := haltCore_shape ch g; rw [h]
@[simp] theorem haltCore_ports (g : Nat) : (haltCore ch g).ports = ch.ports := by
  obtain ⟨_, h⟩ := haltCore_shape ch g; rw [h]
@[simp] theorem haltCore_fab (g : Nat) : (haltCore ch g).fab = ch.fab := by
  obtain ⟨_, h⟩ := haltCore_shape ch g; rw [h]
@[simp] theorem haltCore_nwl (g : Nat) : (haltCore ch g).nwl = ch.nwl := by
  obtain ⟨_, h⟩ := haltCore_shape ch g; rw [h]
@[simp] theorem haltCore_obs (g : Nat) : (haltCore ch g).obs = ch.obs := by
  obtain ⟨_, h⟩ := haltCore_shape ch g; rw [h]
@[simp] theorem haltCore_land (g : Nat) : (haltCore ch g).land = ch.land := by
  obtain ⟨_, h⟩ := haltCore_shape ch g; rw [h]
@[simp] theorem haltCore_globalLayers (g : Nat) : (haltCore ch g).globalLayers = ch.globalLayers := by
  obtain ⟨_, h⟩ := haltCore_shape ch g; rw [h]
@[simp] theorem haltCore_stks (g : Nat) : (haltCore ch g).stks = ch.stks := by
  obtain ⟨_, h⟩ := haltCore_shape ch g; rw [h]
@[simp] theorem haltCore_jobs (g : Nat) : (haltCore ch g).jobs = ch.jobs := by
  obtain ⟨_, h⟩ := haltCore_shape ch g; rw [h]
@[simp] theorem haltCore_pci (g : Nat) : (haltCore ch g).pci = ch.pci := by
  obtain ⟨_, h⟩ := haltCore_shape ch g; rw [h]
@[simp] theorem haltCore_sys (g : Nat) : (haltCore ch g).sys = ch.sys := by
  obtain ⟨_, h⟩ := haltCore_shape ch g; rw [h]

/-- Consumed poison halts cores and tells the job. -/
theorem haltCluster_shape (g : Nat) :
    ∃ x0 x1 x2 x3 x4, haltCluster ch g = { ch with cores := x0, cnts := x1, jobs := x2, regs := x3, pci := x4 } := by
  have hs (l : List Nat) (a : Chip) : ∃ x, l.foldl haltCore a = { a with cores := x } := by
    induction l generalizing a with
    | nil => exact ⟨a.cores, rfl⟩
    | cons g l ih => obtain ⟨x, h⟩ := ih (haltCore a g); exact ⟨x, h⟩
  obtain ⟨x, h1⟩ := hs (coresOfCluster (g / 8)) ch
  obtain ⟨y, h2⟩ := count_shape { ch with cores := x } (cntCluster (g / 8) 8) 1
  unfold haltCluster
  simp only [h1, h2]
  split
  · rename_i j _
    obtain ⟨a, b, c, d, h3⟩ := notify_shape { ch with cores := x, cnts := y } j.val 2 9 g 0 0 0
    exact ⟨x, c, a, b, d, h3⟩
  · exact ⟨x, y, ch.jobs, ch.regs, ch.pci, rfl⟩

@[simp] theorem haltCluster_free (g : Nat) : (haltCluster ch g).free = ch.free := by
  obtain ⟨_, _, _, _, _, h⟩ := haltCluster_shape ch g; rw [h]
@[simp] theorem haltCluster_us (g : Nat) : (haltCluster ch g).us = ch.us := by
  obtain ⟨_, _, _, _, _, h⟩ := haltCluster_shape ch g; rw [h]
@[simp] theorem haltCluster_isl (g : Nat) : (haltCluster ch g).isl = ch.isl := by
  obtain ⟨_, _, _, _, _, h⟩ := haltCluster_shape ch g; rw [h]
@[simp] theorem haltCluster_islRun (g : Nat) : (haltCluster ch g).islRun = ch.islRun := by
  obtain ⟨_, _, _, _, _, h⟩ := haltCluster_shape ch g; rw [h]
@[simp] theorem haltCluster_phase (g : Nat) : (haltCluster ch g).phase = ch.phase := by
  obtain ⟨_, _, _, _, _, h⟩ := haltCluster_shape ch g; rw [h]
@[simp] theorem haltCluster_mem (g : Nat) : (haltCluster ch g).mem = ch.mem := by
  obtain ⟨_, _, _, _, _, h⟩ := haltCluster_shape ch g; rw [h]
@[simp] theorem haltCluster_poi (g : Nat) : (haltCluster ch g).poi = ch.poi := by
  obtain ⟨_, _, _, _, _, h⟩ := haltCluster_shape ch g; rw [h]
@[simp] theorem haltCluster_blks (g : Nat) : (haltCluster ch g).blks = ch.blks := by
  obtain ⟨_, _, _, _, _, h⟩ := haltCluster_shape ch g; rw [h]
@[simp] theorem haltCluster_resp (g : Nat) : (haltCluster ch g).resp = ch.resp := by
  obtain ⟨_, _, _, _, _, h⟩ := haltCluster_shape ch g; rw [h]
@[simp] theorem haltCluster_accs (g : Nat) : (haltCluster ch g).accs = ch.accs := by
  obtain ⟨_, _, _, _, _, h⟩ := haltCluster_shape ch g; rw [h]
@[simp] theorem haltCluster_banks (g : Nat) : (haltCluster ch g).banks = ch.banks := by
  obtain ⟨_, _, _, _, _, h⟩ := haltCluster_shape ch g; rw [h]
@[simp] theorem haltCluster_arrs (g : Nat) : (haltCluster ch g).arrs = ch.arrs := by
  obtain ⟨_, _, _, _, _, h⟩ := haltCluster_shape ch g; rw [h]
@[simp] theorem haltCluster_stats (g : Nat) : (haltCluster ch g).stats = ch.stats := by
  obtain ⟨_, _, _, _, _, h⟩ := haltCluster_shape ch g; rw [h]
@[simp] theorem haltCluster_fields (g : Nat) : (haltCluster ch g).fields = ch.fields := by
  obtain ⟨_, _, _, _, _, h⟩ := haltCluster_shape ch g; rw [h]
@[simp] theorem haltCluster_towers (g : Nat) : (haltCluster ch g).towers = ch.towers := by
  obtain ⟨_, _, _, _, _, h⟩ := haltCluster_shape ch g; rw [h]
@[simp] theorem haltCluster_tcores (g : Nat) : (haltCluster ch g).tcores = ch.tcores := by
  obtain ⟨_, _, _, _, _, h⟩ := haltCluster_shape ch g; rw [h]
@[simp] theorem haltCluster_tsl (g : Nat) : (haltCluster ch g).tsl = ch.tsl := by
  obtain ⟨_, _, _, _, _, h⟩ := haltCluster_shape ch g; rw [h]
@[simp] theorem haltCluster_clus (g : Nat) : (haltCluster ch g).clus = ch.clus := by
  obtain ⟨_, _, _, _, _, h⟩ := haltCluster_shape ch g; rw [h]
@[simp] theorem haltCluster_objs (g : Nat) : (haltCluster ch g).objs = ch.objs := by
  obtain ⟨_, _, _, _, _, h⟩ := haltCluster_shape ch g; rw [h]
@[simp] theorem haltCluster_objPoi (g : Nat) : (haltCluster ch g).objPoi = ch.objPoi := by
  obtain ⟨_, _, _, _, _, h⟩ := haltCluster_shape ch g; rw [h]
@[simp] theorem haltCluster_ports (g : Nat) : (haltCluster ch g).ports = ch.ports := by
  obtain ⟨_, _, _, _, _, h⟩ := haltCluster_shape ch g; rw [h]
@[simp] theorem haltCluster_fab (g : Nat) : (haltCluster ch g).fab = ch.fab := by
  obtain ⟨_, _, _, _, _, h⟩ := haltCluster_shape ch g; rw [h]
@[simp] theorem haltCluster_nwl (g : Nat) : (haltCluster ch g).nwl = ch.nwl := by
  obtain ⟨_, _, _, _, _, h⟩ := haltCluster_shape ch g; rw [h]
@[simp] theorem haltCluster_obs (g : Nat) : (haltCluster ch g).obs = ch.obs := by
  obtain ⟨_, _, _, _, _, h⟩ := haltCluster_shape ch g; rw [h]
@[simp] theorem haltCluster_land (g : Nat) : (haltCluster ch g).land = ch.land := by
  obtain ⟨_, _, _, _, _, h⟩ := haltCluster_shape ch g; rw [h]
@[simp] theorem haltCluster_globalLayers (g : Nat) : (haltCluster ch g).globalLayers = ch.globalLayers := by
  obtain ⟨_, _, _, _, _, h⟩ := haltCluster_shape ch g; rw [h]
@[simp] theorem haltCluster_stks (g : Nat) : (haltCluster ch g).stks = ch.stks := by
  obtain ⟨_, _, _, _, _, h⟩ := haltCluster_shape ch g; rw [h]
@[simp] theorem haltCluster_sys (g : Nat) : (haltCluster ch g).sys = ch.sys := by
  obtain ⟨_, _, _, _, _, h⟩ := haltCluster_shape ch g; rw [h]

/-- The fault source of a snapshot too. -/
theorem faultMark_shape (g : Nat) :
    ∃ x0 x1, faultMark ch g = { ch with nwl := x0, obs := x1 } := by
  exact fireSource_shape ch 4 g

@[simp] theorem faultMark_free (g : Nat) : (faultMark ch g).free = ch.free := by
  obtain ⟨_, _, h⟩ := faultMark_shape ch g; rw [h]
@[simp] theorem faultMark_us (g : Nat) : (faultMark ch g).us = ch.us := by
  obtain ⟨_, _, h⟩ := faultMark_shape ch g; rw [h]
@[simp] theorem faultMark_isl (g : Nat) : (faultMark ch g).isl = ch.isl := by
  obtain ⟨_, _, h⟩ := faultMark_shape ch g; rw [h]
@[simp] theorem faultMark_islRun (g : Nat) : (faultMark ch g).islRun = ch.islRun := by
  obtain ⟨_, _, h⟩ := faultMark_shape ch g; rw [h]
@[simp] theorem faultMark_phase (g : Nat) : (faultMark ch g).phase = ch.phase := by
  obtain ⟨_, _, h⟩ := faultMark_shape ch g; rw [h]
@[simp] theorem faultMark_mem (g : Nat) : (faultMark ch g).mem = ch.mem := by
  obtain ⟨_, _, h⟩ := faultMark_shape ch g; rw [h]
@[simp] theorem faultMark_poi (g : Nat) : (faultMark ch g).poi = ch.poi := by
  obtain ⟨_, _, h⟩ := faultMark_shape ch g; rw [h]
@[simp] theorem faultMark_regs (g : Nat) : (faultMark ch g).regs = ch.regs := by
  obtain ⟨_, _, h⟩ := faultMark_shape ch g; rw [h]
@[simp] theorem faultMark_blks (g : Nat) : (faultMark ch g).blks = ch.blks := by
  obtain ⟨_, _, h⟩ := faultMark_shape ch g; rw [h]
@[simp] theorem faultMark_resp (g : Nat) : (faultMark ch g).resp = ch.resp := by
  obtain ⟨_, _, h⟩ := faultMark_shape ch g; rw [h]
@[simp] theorem faultMark_cnts (g : Nat) : (faultMark ch g).cnts = ch.cnts := by
  obtain ⟨_, _, h⟩ := faultMark_shape ch g; rw [h]
@[simp] theorem faultMark_cores (g : Nat) : (faultMark ch g).cores = ch.cores := by
  obtain ⟨_, _, h⟩ := faultMark_shape ch g; rw [h]
@[simp] theorem faultMark_accs (g : Nat) : (faultMark ch g).accs = ch.accs := by
  obtain ⟨_, _, h⟩ := faultMark_shape ch g; rw [h]
@[simp] theorem faultMark_banks (g : Nat) : (faultMark ch g).banks = ch.banks := by
  obtain ⟨_, _, h⟩ := faultMark_shape ch g; rw [h]
@[simp] theorem faultMark_arrs (g : Nat) : (faultMark ch g).arrs = ch.arrs := by
  obtain ⟨_, _, h⟩ := faultMark_shape ch g; rw [h]
@[simp] theorem faultMark_stats (g : Nat) : (faultMark ch g).stats = ch.stats := by
  obtain ⟨_, _, h⟩ := faultMark_shape ch g; rw [h]
@[simp] theorem faultMark_fields (g : Nat) : (faultMark ch g).fields = ch.fields := by
  obtain ⟨_, _, h⟩ := faultMark_shape ch g; rw [h]
@[simp] theorem faultMark_towers (g : Nat) : (faultMark ch g).towers = ch.towers := by
  obtain ⟨_, _, h⟩ := faultMark_shape ch g; rw [h]
@[simp] theorem faultMark_tcores (g : Nat) : (faultMark ch g).tcores = ch.tcores := by
  obtain ⟨_, _, h⟩ := faultMark_shape ch g; rw [h]
@[simp] theorem faultMark_tsl (g : Nat) : (faultMark ch g).tsl = ch.tsl := by
  obtain ⟨_, _, h⟩ := faultMark_shape ch g; rw [h]
@[simp] theorem faultMark_clus (g : Nat) : (faultMark ch g).clus = ch.clus := by
  obtain ⟨_, _, h⟩ := faultMark_shape ch g; rw [h]
@[simp] theorem faultMark_objs (g : Nat) : (faultMark ch g).objs = ch.objs := by
  obtain ⟨_, _, h⟩ := faultMark_shape ch g; rw [h]
@[simp] theorem faultMark_objPoi (g : Nat) : (faultMark ch g).objPoi = ch.objPoi := by
  obtain ⟨_, _, h⟩ := faultMark_shape ch g; rw [h]
@[simp] theorem faultMark_ports (g : Nat) : (faultMark ch g).ports = ch.ports := by
  obtain ⟨_, _, h⟩ := faultMark_shape ch g; rw [h]
@[simp] theorem faultMark_fab (g : Nat) : (faultMark ch g).fab = ch.fab := by
  obtain ⟨_, _, h⟩ := faultMark_shape ch g; rw [h]
@[simp] theorem faultMark_land (g : Nat) : (faultMark ch g).land = ch.land := by
  obtain ⟨_, _, h⟩ := faultMark_shape ch g; rw [h]
@[simp] theorem faultMark_globalLayers (g : Nat) : (faultMark ch g).globalLayers = ch.globalLayers := by
  obtain ⟨_, _, h⟩ := faultMark_shape ch g; rw [h]
@[simp] theorem faultMark_stks (g : Nat) : (faultMark ch g).stks = ch.stks := by
  obtain ⟨_, _, h⟩ := faultMark_shape ch g; rw [h]
@[simp] theorem faultMark_jobs (g : Nat) : (faultMark ch g).jobs = ch.jobs := by
  obtain ⟨_, _, h⟩ := faultMark_shape ch g; rw [h]
@[simp] theorem faultMark_pci (g : Nat) : (faultMark ch g).pci = ch.pci := by
  obtain ⟨_, _, h⟩ := faultMark_shape ch g; rw [h]
@[simp] theorem faultMark_sys (g : Nat) : (faultMark ch g).sys = ch.sys := by
  obtain ⟨_, _, h⟩ := faultMark_shape ch g; rw [h]

/-- Entering FAULTED changes the cores and that source alone. -/
theorem enterFaulted_shape (g : Nat) :
    ∃ x0 x1 x2, enterFaulted ch g = { ch with cores := x0, nwl := x1, obs := x2 } := by
  unfold enterFaulted
  dsimp only
  split
  · obtain ⟨n, o, h⟩ := faultMark_shape (updCore ch g fun k => { k with run := .faulted, halting := false }) g
    exact ⟨_, n, o, by rw [h]; rfl⟩
  · exact ⟨ch.cores, ch.nwl, ch.obs, rfl⟩

@[simp] theorem enterFaulted_free (g : Nat) : (enterFaulted ch g).free = ch.free := by
  obtain ⟨_, _, _, h⟩ := enterFaulted_shape ch g; rw [h]
@[simp] theorem enterFaulted_us (g : Nat) : (enterFaulted ch g).us = ch.us := by
  obtain ⟨_, _, _, h⟩ := enterFaulted_shape ch g; rw [h]
@[simp] theorem enterFaulted_isl (g : Nat) : (enterFaulted ch g).isl = ch.isl := by
  obtain ⟨_, _, _, h⟩ := enterFaulted_shape ch g; rw [h]
@[simp] theorem enterFaulted_islRun (g : Nat) : (enterFaulted ch g).islRun = ch.islRun := by
  obtain ⟨_, _, _, h⟩ := enterFaulted_shape ch g; rw [h]
@[simp] theorem enterFaulted_phase (g : Nat) : (enterFaulted ch g).phase = ch.phase := by
  obtain ⟨_, _, _, h⟩ := enterFaulted_shape ch g; rw [h]
@[simp] theorem enterFaulted_mem (g : Nat) : (enterFaulted ch g).mem = ch.mem := by
  obtain ⟨_, _, _, h⟩ := enterFaulted_shape ch g; rw [h]
@[simp] theorem enterFaulted_poi (g : Nat) : (enterFaulted ch g).poi = ch.poi := by
  obtain ⟨_, _, _, h⟩ := enterFaulted_shape ch g; rw [h]
@[simp] theorem enterFaulted_regs (g : Nat) : (enterFaulted ch g).regs = ch.regs := by
  obtain ⟨_, _, _, h⟩ := enterFaulted_shape ch g; rw [h]
@[simp] theorem enterFaulted_blks (g : Nat) : (enterFaulted ch g).blks = ch.blks := by
  obtain ⟨_, _, _, h⟩ := enterFaulted_shape ch g; rw [h]
@[simp] theorem enterFaulted_resp (g : Nat) : (enterFaulted ch g).resp = ch.resp := by
  obtain ⟨_, _, _, h⟩ := enterFaulted_shape ch g; rw [h]
@[simp] theorem enterFaulted_cnts (g : Nat) : (enterFaulted ch g).cnts = ch.cnts := by
  obtain ⟨_, _, _, h⟩ := enterFaulted_shape ch g; rw [h]
@[simp] theorem enterFaulted_accs (g : Nat) : (enterFaulted ch g).accs = ch.accs := by
  obtain ⟨_, _, _, h⟩ := enterFaulted_shape ch g; rw [h]
@[simp] theorem enterFaulted_banks (g : Nat) : (enterFaulted ch g).banks = ch.banks := by
  obtain ⟨_, _, _, h⟩ := enterFaulted_shape ch g; rw [h]
@[simp] theorem enterFaulted_arrs (g : Nat) : (enterFaulted ch g).arrs = ch.arrs := by
  obtain ⟨_, _, _, h⟩ := enterFaulted_shape ch g; rw [h]
@[simp] theorem enterFaulted_stats (g : Nat) : (enterFaulted ch g).stats = ch.stats := by
  obtain ⟨_, _, _, h⟩ := enterFaulted_shape ch g; rw [h]
@[simp] theorem enterFaulted_fields (g : Nat) : (enterFaulted ch g).fields = ch.fields := by
  obtain ⟨_, _, _, h⟩ := enterFaulted_shape ch g; rw [h]
@[simp] theorem enterFaulted_towers (g : Nat) : (enterFaulted ch g).towers = ch.towers := by
  obtain ⟨_, _, _, h⟩ := enterFaulted_shape ch g; rw [h]
@[simp] theorem enterFaulted_tcores (g : Nat) : (enterFaulted ch g).tcores = ch.tcores := by
  obtain ⟨_, _, _, h⟩ := enterFaulted_shape ch g; rw [h]
@[simp] theorem enterFaulted_tsl (g : Nat) : (enterFaulted ch g).tsl = ch.tsl := by
  obtain ⟨_, _, _, h⟩ := enterFaulted_shape ch g; rw [h]
@[simp] theorem enterFaulted_clus (g : Nat) : (enterFaulted ch g).clus = ch.clus := by
  obtain ⟨_, _, _, h⟩ := enterFaulted_shape ch g; rw [h]
@[simp] theorem enterFaulted_objs (g : Nat) : (enterFaulted ch g).objs = ch.objs := by
  obtain ⟨_, _, _, h⟩ := enterFaulted_shape ch g; rw [h]
@[simp] theorem enterFaulted_objPoi (g : Nat) : (enterFaulted ch g).objPoi = ch.objPoi := by
  obtain ⟨_, _, _, h⟩ := enterFaulted_shape ch g; rw [h]
@[simp] theorem enterFaulted_ports (g : Nat) : (enterFaulted ch g).ports = ch.ports := by
  obtain ⟨_, _, _, h⟩ := enterFaulted_shape ch g; rw [h]
@[simp] theorem enterFaulted_fab (g : Nat) : (enterFaulted ch g).fab = ch.fab := by
  obtain ⟨_, _, _, h⟩ := enterFaulted_shape ch g; rw [h]
@[simp] theorem enterFaulted_land (g : Nat) : (enterFaulted ch g).land = ch.land := by
  obtain ⟨_, _, _, h⟩ := enterFaulted_shape ch g; rw [h]
@[simp] theorem enterFaulted_globalLayers (g : Nat) : (enterFaulted ch g).globalLayers = ch.globalLayers := by
  obtain ⟨_, _, _, h⟩ := enterFaulted_shape ch g; rw [h]
@[simp] theorem enterFaulted_stks (g : Nat) : (enterFaulted ch g).stks = ch.stks := by
  obtain ⟨_, _, _, h⟩ := enterFaulted_shape ch g; rw [h]
@[simp] theorem enterFaulted_jobs (g : Nat) : (enterFaulted ch g).jobs = ch.jobs := by
  obtain ⟨_, _, _, h⟩ := enterFaulted_shape ch g; rw [h]
@[simp] theorem enterFaulted_pci (g : Nat) : (enterFaulted ch g).pci = ch.pci := by
  obtain ⟨_, _, _, h⟩ := enterFaulted_shape ch g; rw [h]
@[simp] theorem enterFaulted_sys (g : Nat) : (enterFaulted ch g).sys = ch.sys := by
  obtain ⟨_, _, _, h⟩ := enterFaulted_shape ch g; rw [h]

/-- Two chips differ at most in what a fault can change. -/
def FaultChange (a b : Chip) : Prop :=
  ∃ x0 x1 x2 x3 x4 x5 x6, b =
    { a with cores := x0, regs := x1, cnts := x2, nwl := x3, obs := x4, jobs := x5, pci := x6 }

/-- A fault: what it can change, and nothing else (R236, R434). -/
theorem faultCore_shape (g c p : Nat) (w : Dword) (q : Nat) :
    ∃ x0 x1 x2 x3 x4 x5 x6, faultCore ch g c p w q = { ch with cores := x0, regs := x1, cnts := x2, nwl := x3, obs := x4, jobs := x5, pci := x6 } := by
  have trans {a b c : Chip} (h : FaultChange a b) (k : FaultChange b c) : FaultChange a c := by
    obtain ⟨_, _, _, _, _, _, _, rfl⟩ := h
    obtain ⟨x, r, y, n, o, j, i, rfl⟩ := k
    exact ⟨x, r, y, n, o, j, i, rfl⟩
  have event (b : Bool) (a : Chip) (e : Ev) : FaultChange a (raiseIf b a e g) := by
    obtain ⟨r, y, h⟩ := raiseIf_shape b a e g
    exact ⟨a.cores, r, y, a.nwl, a.obs, a.jobs, a.pci, h⟩
  have first (b : Bool) : FaultChange ch (if b = true then
      regSet (regSet (regSet (regSet ch .seqFaultCode g (BitVec.ofNat 32 c)) .seqFaultPc g (BitVec.ofNat 32 p))
        .seqFaultWordLo g (w.extractLsb' 0 32)) .seqFaultWordHi g (w.extractLsb' 32 32) else ch) := by
    cases b
    · exact ⟨ch.cores, ch.regs, ch.cnts, ch.nwl, ch.obs, ch.jobs, ch.pci, rfl⟩
    · exact ⟨ch.cores, _, ch.cnts, ch.nwl, ch.obs, ch.jobs, ch.pci, rfl⟩
  have mark (d : Prop) [Decidable d] (a : Chip) : FaultChange a (if d then faultMark a g else a) := by
    split
    · obtain ⟨n, o, h⟩ := faultMark_shape a g
      exact ⟨a.cores, a.regs, a.cnts, n, o, a.jobs, a.pci, h⟩
    · exact ⟨a.cores, a.regs, a.cnts, a.nwl, a.obs, a.jobs, a.pci, rfl⟩
  have core (a : Chip) (f : Core → Core) : FaultChange a (updCore a g f) :=
    ⟨_, a.regs, a.cnts, a.nwl, a.obs, a.jobs, a.pci, rfl⟩
  have told (a : Chip) (j : JobId) (b : Bool) : FaultChange a (if b = true then a else notify a j.val 1 c g 0 0 0) := by
    split
    · exact ⟨a.cores, a.regs, a.cnts, a.nwl, a.obs, a.jobs, a.pci, rfl⟩
    · obtain ⟨j, r, y, i, h⟩ := notify_shape a j.val 1 c g 0 0 0
      exact ⟨a.cores, r, y, a.nwl, a.obs, j, i, h⟩
  have halts (a : Chip) : FaultChange a (haltCluster a g) := by
    obtain ⟨x, y, j, r, i, h⟩ := haltCluster_shape a g
    exact ⟨x, r, y, a.nwl, a.obs, j, i, h⟩
  have body (b d e : Bool) (v v' : Ev) (f : Core → Core) :=
    trans (trans (trans (trans (first b) (event d _ v)) (core _ f)) (event e _ v'))
      (mark (c = 9 ∨ queuesDone (coreOf ch g) = true) _)
  show FaultChange ch _
  unfold faultCore
  dsimp only
  split
  · exact trans (body _ _ _ _ _ _) (halts _)
  · split
    · exact trans (body _ _ _ _ _ _) (told _ _ _)
    · exact body _ _ _ _ _ _

@[simp] theorem faultCore_free (g c p : Nat) (w : Dword) (q : Nat) : (faultCore ch g c p w q).free = ch.free := by
  obtain ⟨_, _, _, _, _, _, _, h⟩ := faultCore_shape ch g c p w q; rw [h]
@[simp] theorem faultCore_us (g c p : Nat) (w : Dword) (q : Nat) : (faultCore ch g c p w q).us = ch.us := by
  obtain ⟨_, _, _, _, _, _, _, h⟩ := faultCore_shape ch g c p w q; rw [h]
@[simp] theorem faultCore_isl (g c p : Nat) (w : Dword) (q : Nat) : (faultCore ch g c p w q).isl = ch.isl := by
  obtain ⟨_, _, _, _, _, _, _, h⟩ := faultCore_shape ch g c p w q; rw [h]
@[simp] theorem faultCore_islRun (g c p : Nat) (w : Dword) (q : Nat) : (faultCore ch g c p w q).islRun = ch.islRun := by
  obtain ⟨_, _, _, _, _, _, _, h⟩ := faultCore_shape ch g c p w q; rw [h]
@[simp] theorem faultCore_phase (g c p : Nat) (w : Dword) (q : Nat) : (faultCore ch g c p w q).phase = ch.phase := by
  obtain ⟨_, _, _, _, _, _, _, h⟩ := faultCore_shape ch g c p w q; rw [h]
@[simp] theorem faultCore_mem (g c p : Nat) (w : Dword) (q : Nat) : (faultCore ch g c p w q).mem = ch.mem := by
  obtain ⟨_, _, _, _, _, _, _, h⟩ := faultCore_shape ch g c p w q; rw [h]
@[simp] theorem faultCore_poi (g c p : Nat) (w : Dword) (q : Nat) : (faultCore ch g c p w q).poi = ch.poi := by
  obtain ⟨_, _, _, _, _, _, _, h⟩ := faultCore_shape ch g c p w q; rw [h]
@[simp] theorem faultCore_blks (g c p : Nat) (w : Dword) (q : Nat) : (faultCore ch g c p w q).blks = ch.blks := by
  obtain ⟨_, _, _, _, _, _, _, h⟩ := faultCore_shape ch g c p w q; rw [h]
@[simp] theorem faultCore_resp (g c p : Nat) (w : Dword) (q : Nat) : (faultCore ch g c p w q).resp = ch.resp := by
  obtain ⟨_, _, _, _, _, _, _, h⟩ := faultCore_shape ch g c p w q; rw [h]
@[simp] theorem faultCore_accs (g c p : Nat) (w : Dword) (q : Nat) : (faultCore ch g c p w q).accs = ch.accs := by
  obtain ⟨_, _, _, _, _, _, _, h⟩ := faultCore_shape ch g c p w q; rw [h]
@[simp] theorem faultCore_banks (g c p : Nat) (w : Dword) (q : Nat) : (faultCore ch g c p w q).banks = ch.banks := by
  obtain ⟨_, _, _, _, _, _, _, h⟩ := faultCore_shape ch g c p w q; rw [h]
@[simp] theorem faultCore_arrs (g c p : Nat) (w : Dword) (q : Nat) : (faultCore ch g c p w q).arrs = ch.arrs := by
  obtain ⟨_, _, _, _, _, _, _, h⟩ := faultCore_shape ch g c p w q; rw [h]
@[simp] theorem faultCore_stats (g c p : Nat) (w : Dword) (q : Nat) : (faultCore ch g c p w q).stats = ch.stats := by
  obtain ⟨_, _, _, _, _, _, _, h⟩ := faultCore_shape ch g c p w q; rw [h]
@[simp] theorem faultCore_fields (g c p : Nat) (w : Dword) (q : Nat) : (faultCore ch g c p w q).fields = ch.fields := by
  obtain ⟨_, _, _, _, _, _, _, h⟩ := faultCore_shape ch g c p w q; rw [h]
@[simp] theorem faultCore_towers (g c p : Nat) (w : Dword) (q : Nat) : (faultCore ch g c p w q).towers = ch.towers := by
  obtain ⟨_, _, _, _, _, _, _, h⟩ := faultCore_shape ch g c p w q; rw [h]
@[simp] theorem faultCore_tcores (g c p : Nat) (w : Dword) (q : Nat) : (faultCore ch g c p w q).tcores = ch.tcores := by
  obtain ⟨_, _, _, _, _, _, _, h⟩ := faultCore_shape ch g c p w q; rw [h]
@[simp] theorem faultCore_tsl (g c p : Nat) (w : Dword) (q : Nat) : (faultCore ch g c p w q).tsl = ch.tsl := by
  obtain ⟨_, _, _, _, _, _, _, h⟩ := faultCore_shape ch g c p w q; rw [h]
@[simp] theorem faultCore_clus (g c p : Nat) (w : Dword) (q : Nat) : (faultCore ch g c p w q).clus = ch.clus := by
  obtain ⟨_, _, _, _, _, _, _, h⟩ := faultCore_shape ch g c p w q; rw [h]
@[simp] theorem faultCore_objs (g c p : Nat) (w : Dword) (q : Nat) : (faultCore ch g c p w q).objs = ch.objs := by
  obtain ⟨_, _, _, _, _, _, _, h⟩ := faultCore_shape ch g c p w q; rw [h]
@[simp] theorem faultCore_objPoi (g c p : Nat) (w : Dword) (q : Nat) : (faultCore ch g c p w q).objPoi = ch.objPoi := by
  obtain ⟨_, _, _, _, _, _, _, h⟩ := faultCore_shape ch g c p w q; rw [h]
@[simp] theorem faultCore_ports (g c p : Nat) (w : Dword) (q : Nat) : (faultCore ch g c p w q).ports = ch.ports := by
  obtain ⟨_, _, _, _, _, _, _, h⟩ := faultCore_shape ch g c p w q; rw [h]
@[simp] theorem faultCore_fab (g c p : Nat) (w : Dword) (q : Nat) : (faultCore ch g c p w q).fab = ch.fab := by
  obtain ⟨_, _, _, _, _, _, _, h⟩ := faultCore_shape ch g c p w q; rw [h]
@[simp] theorem faultCore_land (g c p : Nat) (w : Dword) (q : Nat) : (faultCore ch g c p w q).land = ch.land := by
  obtain ⟨_, _, _, _, _, _, _, h⟩ := faultCore_shape ch g c p w q; rw [h]
@[simp] theorem faultCore_globalLayers (g c p : Nat) (w : Dword) (q : Nat) : (faultCore ch g c p w q).globalLayers = ch.globalLayers := by
  obtain ⟨_, _, _, _, _, _, _, h⟩ := faultCore_shape ch g c p w q; rw [h]
@[simp] theorem faultCore_stks (g c p : Nat) (w : Dword) (q : Nat) : (faultCore ch g c p w q).stks = ch.stks := by
  obtain ⟨_, _, _, _, _, _, _, h⟩ := faultCore_shape ch g c p w q; rw [h]
@[simp] theorem faultCore_sys (g c p : Nat) (w : Dword) (q : Nat) : (faultCore ch g c p w q).sys = ch.sys := by
  obtain ⟨_, _, _, _, _, _, _, h⟩ := faultCore_shape ch g c p w q; rw [h]

end Sys2Proof.Laws
end

