-- ==== Sys2Proof/Laws/Arrays.lean ====
section
/-! SUPPORT. What writing an array does to the Landing: nothing but the two fetches of its master and its image record
(R43, R254). Weights, check cells, exception lists, retirement and rotation reach no line. -/

namespace Sys2Proof.Laws
open Sys2Proof Sys2Proof.Machine

variable {ch : Chip}

/-- A fold of steps that each keep a part of the chip keeps it. -/
theorem foldl_keeps {α β : Type} (p : Chip → β) (f : Chip → α → Chip) (h : ∀ c x, p (f c x) = p c) (l : List α) (ch : Chip) :
    p (l.foldl f ch) = p ch := by
  induction l generalizing ch with
  | nil => rfl
  | cons x l ih => rw [List.foldl_cons, ih, h]

@[simp] theorem wrNat_land (a n v : Nat) : (wrNat ch a n v).land = ch.land := by simp [wrNat, wrMem]
@[simp] theorem degrade_land (g a : Nat) : (degrade ch g a).land = ch.land := by simp [degrade]
@[simp] theorem queueCal_land (g a : Nat) : (queueCal ch g a).land = ch.land := by simp [queueCal]
@[simp] theorem dropRun_land (g a : Nat) : (dropRun ch g a).land = ch.land := by simp [dropRun]
@[simp] theorem regPut_land (r : Reg) (u hi lo v k : Nat) : (regPut ch r u hi lo v k).land = ch.land := by simp [regPut]
@[simp] theorem dropRefresh_land (g a : Nat) : (dropRefresh ch g a).land = ch.land := by
  unfold dropRefresh; repeat' (first | split | simp)
@[simp] theorem dropTransfers_land (g a : Nat) : (dropTransfers ch g a).land = ch.land := by
  unfold dropTransfers; repeat' (first | split | simp)
@[simp] theorem startMove_land (g a : Nat) (b : Bool) (e : Option Ev) : (startMove ch g a b e).land = ch.land := by
  unfold startMove
  repeat' split
  all_goals simp
@[simp] theorem leaveArray_land (g a : Nat) (b : Bool) (e : Option Ev) : (leaveArray ch g a b e).land = ch.land := by
  unfold leaveArray; split <;> simp
@[simp] theorem retireIfBad_land (x : Arr) (g a : Nat) : (retireIfBad x ch g a).land = ch.land := by
  unfold retireIfBad; simp only []; split <;> simp
@[simp] theorem rotateIfWorn_land (x : Arr) (g a : Nat) : (rotateIfWorn x ch g a).land = ch.land := by
  unfold rotateIfWorn; simp only []; split <;> simp
@[simp] theorem afterWrite_land (x : Arr) (g a : Nat) : (afterWrite x ch g a).land = ch.land := by simp [afterWrite]
@[simp] theorem putWeight_land (g a r w : Nat) (v d : Int) (x : WCells) (b : Bool) :
    (putWeight ch g a r w v d x b).land = ch.land := by
  unfold putWeight; cases b <;> simp
@[simp] theorem putCheck_land (g a r j : Nat) (o : List CellObs) : (putCheck ch g a r j o).land = ch.land := by
  unfold putCheck
  simp only []
  repeat' split
  all_goals simp
@[simp] theorem moveEntry_land (g : Nat) (m : Move) : (moveEntry ch g m).land = ch.land := by simp [moveEntry]
@[simp] theorem finishMove_land (g : Nat) (m : Move) : (finishMove ch g m).land = ch.land := by simp [finishMove]

/-- A load reads the master, and where every weight has a source writes the image record; nothing else of it reaches a
home slice. -/
theorem loadArray_land (g a : Nat) (u : Bool) (o : List CellObs) :
    (loadArray ch g a u o).land =
      let x := arrOf ch g a
      let ch0 := arrayFetch (raiseIf (masterPoisoned ch x) ch .prgMasterPoison g) x x.master false
      (if loadable ch x u then arrayFetch ch0 x x.image true else ch0).land := by
  have keep : ∀ (n m : Nat) (f : Chip → Nat → Nat → Chip), (∀ c r w, (f c r w).land = c.land) → ∀ c : Chip,
      ((List.range n).foldl (fun c r => (List.range m).foldl (fun c w => f c r w) c) c).land = c.land := fun n m f h c =>
    foldl_keeps Chip.land _ (fun c r => foldl_keeps Chip.land _ (fun c w => h c r w) _ c) _ c
  unfold loadArray
  simp only []
  generalize loadable ch (arrOf ch g a) u = l
  cases l
  · simp
  · rw [if_neg (by simp), if_pos rfl, afterWrite_land, countCore_land, updArr_land]
    refine (keep 512 8 _ (fun c r j => putCheck_land ..) _).trans (keep 512 128 _ (fun c r w => ?_) _)
    split <;> simp

end Sys2Proof.Laws
end

