-- ==== Sys2Proof/Laws/Exec.lean ====
section
/-! SUPPORT. What exec calls for each constructor. All hold by rfl. -/

namespace Sys2Proof.Laws
open Sys2Proof.Machine

@[simp] theorem exec_nop x1 (s : State) : exec (.nop x1) s = execNop x1 s := rfl
@[simp] theorem exec_add x1 (s : State) : exec (.add x1) s = execAdd x1 s := rfl
@[simp] theorem exec_sub x1 (s : State) : exec (.sub x1) s = execSub x1 s := rfl
@[simp] theorem exec_mul x1 (s : State) : exec (.mul x1) s = execMul x1 s := rfl
@[simp] theorem exec_andI x1 (s : State) : exec (.andI x1) s = execAnd x1 s := rfl
@[simp] theorem exec_orI x1 (s : State) : exec (.orI x1) s = execOr x1 s := rfl
@[simp] theorem exec_xor x1 (s : State) : exec (.xor x1) s = execXor x1 s := rfl
@[simp] theorem exec_shl x1 (s : State) : exec (.shl x1) s = execShl x1 s := rfl
@[simp] theorem exec_shr x1 (s : State) : exec (.shr x1) s = execShr x1 s := rfl
@[simp] theorem exec_sra x1 (s : State) : exec (.sra x1) s = execSra x1 s := rfl
@[simp] theorem exec_minI x1 (s : State) : exec (.minI x1) s = execMin x1 s := rfl
@[simp] theorem exec_maxI x1 (s : State) : exec (.maxI x1) s = execMax x1 s := rfl
@[simp] theorem exec_cmpeq x1 (s : State) : exec (.cmpeq x1) s = execCmpeq x1 s := rfl
@[simp] theorem exec_cmplt x1 (s : State) : exec (.cmplt x1) s = execCmplt x1 s := rfl
@[simp] theorem exec_cmpltu x1 (s : State) : exec (.cmpltu x1) s = execCmpltu x1 s := rfl
@[simp] theorem exec_ins32 x1 (s : State) : exec (.ins32 x1) s = execIns32 x1 s := rfl
@[simp] theorem exec_ld x1 x2 (s : State) : exec (.ld x1 x2) s = execLd x1 x2 s := rfl
@[simp] theorem exec_st x1 (s : State) : exec (.st x1) s = execSt x1 s := rfl
@[simp] theorem exec_mfs x1 (s : State) : exec (.mfs x1) s = execMfs x1 s := rfl
@[simp] theorem exec_mts x1 (s : State) : exec (.mts x1) s = execMts x1 s := rfl
@[simp] theorem exec_dset x1 (s : State) : exec (.dset x1) s = execDset x1 s := rfl
@[simp] theorem exec_br x1 (s : State) : exec (.br x1) s = execBr x1 s := rfl
@[simp] theorem exec_loop x1 (s : State) : exec (.loop x1) s = execLoop x1 s := rfl
@[simp] theorem exec_call x1 (s : State) : exec (.call x1) s = execCall x1 s := rfl
@[simp] theorem exec_ret x1 (s : State) : exec (.ret x1) s = execRet x1 s := rfl
@[simp] theorem exec_halt x1 (s : State) : exec (.halt x1) s = execHalt x1 s := rfl
@[simp] theorem exec_coreHalted x1 (s : State) : exec (.coreHalted x1) s = execCoreHalted x1 s := rfl
@[simp] theorem exec_sywToken x1 (s : State) : exec (.sywToken x1) s = execSywToken x1 s := rfl
@[simp] theorem exec_sywGe x1 (s : State) : exec (.sywGe x1) s = execSywGe x1 s := rfl
@[simp] theorem exec_sywEq x1 (s : State) : exec (.sywEq x1) s = execSywEq x1 s := rfl
@[simp] theorem exec_sywResume x1 (s : State) : exec (.sywResume x1) s = execSywResume x1 s := rfl
@[simp] theorem exec_longWait x1 (s : State) : exec (.longWait x1) s = execLongWait x1 s := rfl
@[simp] theorem exec_sysSignal x1 (s : State) : exec (.sysSignal x1) s = execSysSignal x1 s := rfl
@[simp] theorem exec_sysReset x1 (s : State) : exec (.sysReset x1) s = execSysReset x1 s := rfl
@[simp] theorem exec_sysArrive x1 (s : State) : exec (.sysArrive x1) s = execSysArrive x1 s := rfl
@[simp] theorem exec_sysAfterSend x1 (s : State) : exec (.sysAfterSend x1) s = execSysAfterSend x1 s := rfl
@[simp] theorem exec_fence x1 (s : State) : exec (.fence x1) s = execFence x1 s := rfl
@[simp] theorem exec_fenceResume x1 (s : State) : exec (.fenceResume x1) s = execFenceResume x1 s := rfl
@[simp] theorem exec_queueStart x1 x2 (s : State) : exec (.queueStart x1 x2) s = execQueueStart x1 x2 s := rfl
@[simp] theorem exec_mma x1 (s : State) : exec (.mma x1) s = execMma x1 s := rfl
@[simp] theorem exec_ard x1 (s : State) : exec (.ard x1) s = execArd x1 s := rfl
@[simp] theorem exec_art x1 (s : State) : exec (.art x1) s = execArt x1 s := rfl
@[simp] theorem exec_apgLoad x1 x2 (s : State) : exec (.apgLoad x1 x2) s = execApgLoad x1 x2 s := rfl
@[simp] theorem exec_apgTransfer x1 (s : State) : exec (.apgTransfer x1) s = execApgTransfer x1 s := rfl
@[simp] theorem exec_preloadBias x1 (s : State) : exec (.preloadBias x1) s = execPreloadBias x1 s := rfl
@[simp] theorem exec_preloadResid x1 (s : State) : exec (.preloadResid x1) s = execPreloadResid x1 s := rfl
@[simp] theorem exec_mupd x1 (s : State) : exec (.mupd x1) s = execMupd x1 s := rfl
@[simp] theorem exec_wflush x1 (s : State) : exec (.wflush x1) s = execWflush x1 s := rfl
@[simp] theorem exec_wstep x1 (s : State) : exec (.wstep x1) s = execWstep x1 s := rfl
@[simp] theorem exec_wcheck x1 (s : State) : exec (.wcheck x1) s = execWcheck x1 s := rfl
@[simp] theorem exec_wprobe x1 (s : State) : exec (.wprobe x1) s = execWprobe x1 s := rfl
@[simp] theorem exec_scalegen x1 (s : State) : exec (.scalegen x1) s = execScalegen x1 s := rfl
@[simp] theorem exec_vopAdd x1 (s : State) : exec (.vopAdd x1) s = execVopAdd x1 s := rfl
@[simp] theorem exec_vopSub x1 (s : State) : exec (.vopSub x1) s = execVopSub x1 s := rfl
@[simp] theorem exec_vopMul x1 (s : State) : exec (.vopMul x1) s = execVopMul x1 s := rfl
@[simp] theorem exec_vopFma x1 (s : State) : exec (.vopFma x1) s = execVopFma x1 s := rfl
@[simp] theorem exec_vopMax x1 (s : State) : exec (.vopMax x1) s = execVopMax x1 s := rfl
@[simp] theorem exec_vopMin x1 (s : State) : exec (.vopMin x1) s = execVopMin x1 s := rfl
@[simp] theorem exec_cvt x1 (s : State) : exec (.cvt x1) s = execCvt x1 s := rfl
@[simp] theorem exec_sfu x1 (s : State) : exec (.sfu x1) s = execSfu x1 s := rfl
@[simp] theorem exec_scale x1 (s : State) : exec (.scale x1) s = execScale x1 s := rfl
@[simp] theorem exec_colsum x1 (s : State) : exec (.colsum x1) s = execColsum x1 s := rfl
@[simp] theorem exec_softmaxBwd x1 (s : State) : exec (.softmaxBwd x1) s = execSoftmaxBwd x1 s := rfl
@[simp] theorem exec_normBwd x1 (s : State) : exec (.normBwd x1) s = execNormBwd x1 s := rfl
@[simp] theorem exec_drn x1 (s : State) : exec (.drn x1) s = execDrn x1 s := rfl
@[simp] theorem exec_dmaCopy x1 x2 (s : State) : exec (.dmaCopy x1 x2) s = execDmaCopy x1 x2 s := rfl
@[simp] theorem exec_dmaTranspose x1 x2 (s : State) : exec (.dmaTranspose x1 x2) s = execDmaTranspose x1 x2 s := rfl
@[simp] theorem exec_dmaConvert x1 x2 (s : State) : exec (.dmaConvert x1 x2) s = execDmaConvert x1 x2 s := rfl
@[simp] theorem exec_dmaTransposeConvert x1 x2 (s : State) : exec (.dmaTransposeConvert x1 x2) s = execDmaTransposeConvert x1 x2 s := rfl
@[simp] theorem exec_instructionComplete x1 x2 x3 (s : State) : exec (.instructionComplete x1 x2 x3) s = execInstructionComplete x1 x2 x3 s := rfl
@[simp] theorem exec_descStoreRelease x1 (s : State) : exec (.descStoreRelease x1) s = execDescStoreRelease x1 s := rfl
@[simp] theorem exec_readResolve x1 x2 x3 (s : State) : exec (.readResolve x1 x2 x3) s = execReadResolve x1 x2 x3 s := rfl
@[simp] theorem exec_banisterReferee x1 x2 (s : State) : exec (.banisterReferee x1 x2) s = execBanisterReferee x1 x2 s := rfl
@[simp] theorem exec_tileContribution x1 x2 x3 x4 x5 x6 (s : State) : exec (.tileContribution x1 x2 x3 x4 x5 x6) s = execTileContribution x1 x2 x3 x4 x5 x6 s := rfl
@[simp] theorem exec_tileScrub x1 x2 x3 x4 x5 (s : State) : exec (.tileScrub x1 x2 x3 x4 x5) s = execTileScrub x1 x2 x3 x4 x5 s := rfl
@[simp] theorem exec_memoryScrub x1 x2 x3 x4 (s : State) : exec (.memoryScrub x1 x2 x3 x4) s = execMemoryScrub x1 x2 x3 x4 s := rfl
@[simp] theorem exec_syncObjectScrub x1 x2 (s : State) : exec (.syncObjectScrub x1 x2) s = execSyncObjectScrub x1 x2 s := rfl
@[simp] theorem exec_programBatch x1 x2 (s : State) : exec (.programBatch x1 x2) s = execProgramBatch x1 x2 s := rfl
@[simp] theorem exec_programBurst x1 x2 (s : State) : exec (.programBurst x1 x2) s = execProgramBurst x1 x2 s := rfl
@[simp] theorem exec_spareSwitch x1 x2 x3 (s : State) : exec (.spareSwitch x1 x2 x3) s = execSpareSwitch x1 x2 x3 s := rfl
@[simp] theorem exec_fencedSpareLoad x1 x2 x3 (s : State) : exec (.fencedSpareLoad x1 x2 x3) s = execFencedSpareLoad x1 x2 x3 s := rfl
@[simp] theorem exec_refreshTimer x1 x2 (s : State) : exec (.refreshTimer x1 x2) s = execRefreshTimer x1 x2 s := rfl
@[simp] theorem exec_arrayRefreshRun x1 x2 x3 (s : State) : exec (.arrayRefreshRun x1 x2 x3) s = execArrayRefreshRun x1 x2 x3 s := rfl
@[simp] theorem exec_wearLogWrite (s : State) : exec .wearLogWrite s = execWearLogWrite s := rfl
@[simp] theorem exec_fieldDue x1 x2 (s : State) : exec (.fieldDue x1 x2) s = execFieldDue x1 x2 s := rfl
@[simp] theorem exec_calGroup x1 x2 (s : State) : exec (.calGroup x1 x2) s = execCalGroup x1 x2 s := rfl
@[simp] theorem exec_retrace x1 x2 (s : State) : exec (.retrace x1 x2) s = execRetrace x1 x2 s := rfl
@[simp] theorem exec_traceRetry x1 x2 (s : State) : exec (.traceRetry x1 x2) s = execTraceRetry x1 x2 s := rfl
@[simp] theorem exec_calStarved x1 (s : State) : exec (.calStarved x1) s = execCalStarved x1 s := rfl
@[simp] theorem exec_testWindow x1 x2 (s : State) : exec (.testWindow x1 x2) s = execTestWindow x1 x2 s := rfl
@[simp] theorem exec_forcedWindow x1 x2 (s : State) : exec (.forcedWindow x1 x2) s = execForcedWindow x1 x2 s := rfl
@[simp] theorem exec_landingAccess x1 (s : State) : exec (.landingAccess x1) s = execLandingAccess x1 s := rfl
@[simp] theorem exec_landingFill x1 x2 x3 x4 (s : State) : exec (.landingFill x1 x2 x3 x4) s = execLandingFill x1 x2 x3 x4 s := rfl
@[simp] theorem exec_fineGrain x1 (s : State) : exec (.fineGrain x1) s = execFineGrain x1 s := rfl
@[simp] theorem exec_hbmAdmit x1 x2 x3 x4 x5 (s : State) : exec (.hbmAdmit x1 x2 x3 x4 x5) s = execHbmAdmit x1 x2 x3 x4 x5 s := rfl
@[simp] theorem exec_patrolScrub x1 x2 x3 x4 (s : State) : exec (.patrolScrub x1 x2 x3 x4) s = execPatrolScrub x1 x2 x3 x4 s := rfl
@[simp] theorem exec_hbmTempRead x1 x2 (s : State) : exec (.hbmTempRead x1 x2) s = execHbmTempRead x1 x2 s := rfl
@[simp] theorem exec_hbmRefresh x1 (s : State) : exec (.hbmRefresh x1) s = execHbmRefresh x1 s := rfl
@[simp] theorem exec_galleryReplay x1 (s : State) : exec (.galleryReplay x1) s = execGalleryReplay x1 s := rfl
@[simp] theorem exec_signal x1 x2 x3 (s : State) : exec (.signal x1 x2 x3) s = execSignal x1 x2 x3 s := rfl
@[simp] theorem exec_reset x1 x2 (s : State) : exec (.reset x1 x2) s = execReset x1 x2 s := rfl
@[simp] theorem exec_arrive x1 x2 (s : State) : exec (.arrive x1 x2) s = execArrive x1 x2 s := rfl
@[simp] theorem exec_completion x1 (s : State) : exec (.completion x1) s = execCompletion x1 s := rfl
@[simp] theorem exec_waitRegister x1 (s : State) : exec (.waitRegister x1) s = execWaitRegister x1 s := rfl
@[simp] theorem exec_newelStateReport x1 (s : State) : exec (.newelStateReport x1) s = execNewelStateReport x1 s := rfl
@[simp] theorem exec_barrierCompletion x1 (s : State) : exec (.barrierCompletion x1) s = execBarrierCompletion x1 s := rfl
@[simp] theorem exec_nwlTrigFall (s : State) : exec .nwlTrigFall s = execNwlTrigFall s := rfl
@[simp] theorem exec_fenceRequest (s : State) : exec .fenceRequest s = execFenceRequest s := rfl
@[simp] theorem exec_nwlClkLost (s : State) : exec .nwlClkLost s = execNwlClkLost s := rfl
@[simp] theorem exec_nwlClkReturn (s : State) : exec .nwlClkReturn s = execNwlClkReturn s := rfl
@[simp] theorem exec_nwlBindWrite x1 x2 x3 (s : State) : exec (.nwlBindWrite x1 x2 x3) s = execNwlBindWrite x1 x2 x3 s := rfl
@[simp] theorem exec_nwlFenceHold x1 (s : State) : exec (.nwlFenceHold x1) s = execNwlFenceHold x1 s := rfl
@[simp] theorem exec_sigFlit x1 x2 (s : State) : exec (.sigFlit x1 x2) s = execSigFlit x1 x2 s := rfl
@[simp] theorem exec_collFlit x1 x2 x3 (s : State) : exec (.collFlit x1 x2 x3) s = execCollFlit x1 x2 x3 s := rfl
@[simp] theorem exec_ctrlFlit x1 x2 (s : State) : exec (.ctrlFlit x1 x2) s = execCtrlFlit x1 x2 s := rfl
@[simp] theorem exec_ctrlFlitSend x1 (s : State) : exec (.ctrlFlitSend x1) s = execCtrlFlitSend x1 s := rfl
@[simp] theorem exec_flitReject x1 x2 (s : State) : exec (.flitReject x1 x2) s = execFlitReject x1 x2 s := rfl
@[simp] theorem exec_proto x1 x2 (s : State) : exec (.proto x1 x2) s = execProto x1 x2 s := rfl
@[simp] theorem exec_handshake x1 x2 (s : State) : exec (.handshake x1 x2) s = execHandshake x1 x2 s := rfl
@[simp] theorem exec_handshakeSend x1 (s : State) : exec (.handshakeSend x1) s = execHandshakeSend x1 s := rfl
@[simp] theorem exec_noPartner x1 (s : State) : exec (.noPartner x1) s = execNoPartner x1 s := rfl
@[simp] theorem exec_replayExhausted x1 (s : State) : exec (.replayExhausted x1) s = execReplayExhausted x1 s := rfl
@[simp] theorem exec_linkDown x1 (s : State) : exec (.linkDown x1) s = execLinkDown x1 s := rfl
@[simp] theorem exec_eyeMeasure x1 x2 (s : State) : exec (.eyeMeasure x1 x2) s = execEyeMeasure x1 x2 s := rfl
@[simp] theorem exec_collStart x1 (s : State) : exec (.collStart x1) s = execCollStart x1 s := rfl
@[simp] theorem exec_collDeadline x1 x2 (s : State) : exec (.collDeadline x1 x2) s = execCollDeadline x1 x2 s := rfl
@[simp] theorem exec_collLateStart x1 (s : State) : exec (.collLateStart x1) s = execCollLateStart x1 s := rfl
@[simp] theorem exec_opTimeout x1 (s : State) : exec (.opTimeout x1) s = execOpTimeout x1 s := rfl
@[simp] theorem exec_collComplete x1 (s : State) : exec (.collComplete x1) s = execCollComplete x1 s := rfl
@[simp] theorem exec_twinGate x1 (s : State) : exec (.twinGate x1) s = execTwinGate x1 s := rfl
@[simp] theorem exec_twinCopy x1 (s : State) : exec (.twinCopy x1) s = execTwinCopy x1 s := rfl
@[simp] theorem exec_twinData x1 x2 (s : State) : exec (.twinData x1 x2) s = execTwinData x1 x2 s := rfl
@[simp] theorem exec_openTwin x1 x2 (s : State) : exec (.openTwin x1 x2) s = execOpenTwin x1 x2 s := rfl
@[simp] theorem exec_closeTwin x1 x2 (s : State) : exec (.closeTwin x1 x2) s = execCloseTwin x1 x2 s := rfl
@[simp] theorem exec_commitTwin x1 x2 (s : State) : exec (.commitTwin x1 x2) s = execCommitTwin x1 x2 s := rfl
@[simp] theorem exec_abortTwin x1 x2 (s : State) : exec (.abortTwin x1 x2) s = execAbortTwin x1 x2 s := rfl
@[simp] theorem exec_pullTwin x1 x2 (s : State) : exec (.pullTwin x1 x2) s = execPullTwin x1 x2 s := rfl
@[simp] theorem exec_twinOpenTimeout x1 (s : State) : exec (.twinOpenTimeout x1) s = execTwinOpenTimeout x1 s := rfl
@[simp] theorem exec_twinStreamTimeout x1 x2 (s : State) : exec (.twinStreamTimeout x1 x2) s = execTwinStreamTimeout x1 x2 s := rfl
@[simp] theorem exec_inboundRequest x1 (s : State) : exec (.inboundRequest x1) s = execInboundRequest x1 s := rfl
@[simp] theorem exec_flrVf x1 (s : State) : exec (.flrVf x1) s = execFlrVf x1 s := rfl
@[simp] theorem exec_flrPf (s : State) : exec .flrPf s = execFlrPf s := rfl
@[simp] theorem exec_pcieLinkDown (s : State) : exec .pcieLinkDown s = execPcieLinkDown s := rfl
@[simp] theorem exec_bindweedPush x1 (s : State) : exec (.bindweedPush x1) s = execBindweedPush x1 s := rfl
@[simp] theorem exec_prefetchStart x1 (s : State) : exec (.prefetchStart x1) s = execPrefetchStart x1 s := rfl
@[simp] theorem exec_bindweedEntryDone x1 x2 x3 (s : State) : exec (.bindweedEntryDone x1 x2 x3) s = execBindweedEntryDone x1 x2 x3 s := rfl
@[simp] theorem exec_mbxDoorbell x1 (s : State) : exec (.mbxDoorbell x1) s = execMbxDoorbell x1 s := rfl
@[simp] theorem exec_mbxRingTail x1 x2 (s : State) : exec (.mbxRingTail x1 x2) s = execMbxRingTail x1 x2 s := rfl
@[simp] theorem exec_mbxCplHead x1 x2 (s : State) : exec (.mbxCplHead x1 x2) s = execMbxCplHead x1 x2 s := rfl
@[simp] theorem exec_mbxRingEnable x1 x2 (s : State) : exec (.mbxRingEnable x1 x2) s = execMbxRingEnable x1 x2 s := rfl
@[simp] theorem exec_commandStart x1 x2 (s : State) : exec (.commandStart x1 x2) s = execCommandStart x1 x2 s := rfl
@[simp] theorem exec_commandBound x1 (s : State) : exec (.commandBound x1) s = execCommandBound x1 s := rfl
@[simp] theorem exec_lockstepMismatch (s : State) : exec .lockstepMismatch s = execLockstepMismatch s := rfl
@[simp] theorem exec_devQuery x1 (s : State) : exec (.devQuery x1) s = execDevQuery x1 s := rfl
@[simp] theorem exec_jobCreate x1 (s : State) : exec (.jobCreate x1) s = execJobCreate x1 s := rfl
@[simp] theorem exec_jobDestroy x1 (s : State) : exec (.jobDestroy x1) s = execJobDestroy x1 s := rfl
@[simp] theorem exec_jobAssignClustersAssign x1 (s : State) : exec (.jobAssignClustersAssign x1) s = execJobAssignClustersAssign x1 s := rfl
@[simp] theorem exec_jobAssignClustersRelease x1 (s : State) : exec (.jobAssignClustersRelease x1) s = execJobAssignClustersRelease x1 s := rfl
@[simp] theorem exec_memMap x1 (s : State) : exec (.memMap x1) s = execMemMap x1 s := rfl
@[simp] theorem exec_memUnmap x1 (s : State) : exec (.memUnmap x1) s = execMemUnmap x1 s := rfl
@[simp] theorem exec_partSetRate x1 (s : State) : exec (.partSetRate x1) s = execPartSetRate x1 s := rfl
@[simp] theorem exec_progLoad x1 (s : State) : exec (.progLoad x1) s = execProgLoad x1 s := rfl
@[simp] theorem exec_launch x1 (s : State) : exec (.launch x1) s = execLaunch x1 s := rfl
@[simp] theorem exec_haltJob x1 (s : State) : exec (.haltJob x1) s = execHaltJob x1 s := rfl
@[simp] theorem exec_jobIdle x1 (s : State) : exec (.jobIdle x1) s = execJobIdle x1 s := rfl
@[simp] theorem exec_arrayProgram x1 x2 (s : State) : exec (.arrayProgram x1 x2) s = execArrayProgram x1 x2 s := rfl
@[simp] theorem exec_arrayTransferPolicy x1 (s : State) : exec (.arrayTransferPolicy x1) s = execArrayTransferPolicy x1 s := rfl
@[simp] theorem exec_arrayRefresh x1 x2 (s : State) : exec (.arrayRefresh x1 x2) s = execArrayRefresh x1 x2 s := rfl
@[simp] theorem exec_calRun x1 (s : State) : exec (.calRun x1) s = execCalRun x1 s := rfl
@[simp] theorem exec_calPolicy x1 (s : State) : exec (.calPolicy x1) s = execCalPolicy x1 s := rfl
@[simp] theorem exec_calQuality x1 (s : State) : exec (.calQuality x1) s = execCalQuality x1 s := rfl
@[simp] theorem exec_fabPortCfgPort x1 (s : State) : exec (.fabPortCfgPort x1) s = execFabPortCfgPort x1 s := rfl
@[simp] theorem exec_fabPortCfgRoute x1 (s : State) : exec (.fabPortCfgRoute x1) s = execFabPortCfgRoute x1 s := rfl
@[simp] theorem exec_fabTrainTrain x1 (s : State) : exec (.fabTrainTrain x1) s = execFabTrainTrain x1 s := rfl
@[simp] theorem exec_fabTrainTakeDown x1 (s : State) : exec (.fabTrainTakeDown x1) s = execFabTrainTakeDown x1 s := rfl
@[simp] theorem exec_fabTrainRetrain x1 (s : State) : exec (.fabTrainRetrain x1) s = execFabTrainRetrain x1 s := rfl
@[simp] theorem exec_collGroupCreate x1 (s : State) : exec (.collGroupCreate x1) s = execCollGroupCreate x1 s := rfl
@[simp] theorem exec_collGroupDestroy x1 (s : State) : exec (.collGroupDestroy x1) s = execCollGroupDestroy x1 s := rfl
@[simp] theorem exec_stragglerPolicy x1 (s : State) : exec (.stragglerPolicy x1) s = execStragglerPolicy x1 s := rfl
@[simp] theorem exec_twinCfgSource x1 (s : State) : exec (.twinCfgSource x1) s = execTwinCfgSource x1 s := rfl
@[simp] theorem exec_twinCfgHold x1 (s : State) : exec (.twinCfgHold x1) s = execTwinCfgHold x1 s := rfl
@[simp] theorem exec_twinCfgRemove x1 (s : State) : exec (.twinCfgRemove x1) s = execTwinCfgRemove x1 s := rfl
@[simp] theorem exec_twinCfgQuery x1 (s : State) : exec (.twinCfgQuery x1) s = execTwinCfgQuery x1 s := rfl
@[simp] theorem exec_twinCopyNow x1 (s : State) : exec (.twinCopyNow x1) s = execTwinCopyNow x1 s := rfl
@[simp] theorem exec_twinRestore x1 (s : State) : exec (.twinRestore x1) s = execTwinRestore x1 s := rfl
@[simp] theorem exec_testPackLoad x1 x2 x3 (s : State) : exec (.testPackLoad x1 x2 x3) s = execTestPackLoad x1 x2 x3 s := rfl
@[simp] theorem exec_testScheduleSet x1 (s : State) : exec (.testScheduleSet x1) s = execTestScheduleSet x1 s := rfl
@[simp] theorem exec_testNow x1 x2 (s : State) : exec (.testNow x1 x2) s = execTestNow x1 x2 s := rfl
@[simp] theorem exec_testScheduleFence x1 (s : State) : exec (.testScheduleFence x1) s = execTestScheduleFence x1 s := rfl
@[simp] theorem exec_fenceQueryFences x1 (s : State) : exec (.fenceQueryFences x1) s = execFenceQueryFences x1 s := rfl
@[simp] theorem exec_fenceQueryNotify x1 (s : State) : exec (.fenceQueryNotify x1) s = execFenceQueryNotify x1 s := rfl
@[simp] theorem exec_readmit x1 x2 (s : State) : exec (.readmit x1 x2) s = execReadmit x1 x2 s := rfl
@[simp] theorem exec_ctrAccessGrant x1 (s : State) : exec (.ctrAccessGrant x1) s = execCtrAccessGrant x1 s := rfl
@[simp] theorem exec_ctrAccessRevoke x1 (s : State) : exec (.ctrAccessRevoke x1) s = execCtrAccessRevoke x1 s := rfl
@[simp] theorem exec_ctrDumpEnable x1 (s : State) : exec (.ctrDumpEnable x1) s = execCtrDumpEnable x1 s := rfl
@[simp] theorem exec_ctrDumpDisable x1 (s : State) : exec (.ctrDumpDisable x1) s = execCtrDumpDisable x1 s := rfl
@[simp] theorem exec_snapArm x1 (s : State) : exec (.snapArm x1) s = execSnapArm x1 s := rfl
@[simp] theorem exec_snapDisarm x1 (s : State) : exec (.snapDisarm x1) s = execSnapDisarm x1 s := rfl
@[simp] theorem exec_snapTriggerNow x1 (s : State) : exec (.snapTriggerNow x1) s = execSnapTriggerNow x1 s := rfl
@[simp] theorem exec_sensorCfgConverter x1 (s : State) : exec (.sensorCfgConverter x1) s = execSensorCfgConverter x1 s := rfl
@[simp] theorem exec_sensorCfgSequence x1 (s : State) : exec (.sensorCfgSequence x1) s = execSensorCfgSequence x1 s := rfl
@[simp] theorem exec_sensorCfgBuffer x1 (s : State) : exec (.sensorCfgBuffer x1) s = execSensorCfgBuffer x1 s := rfl
@[simp] theorem exec_sensorCfgAlarm x1 (s : State) : exec (.sensorCfgAlarm x1) s = execSensorCfgAlarm x1 s := rfl
@[simp] theorem exec_attestReport x1 x2 (s : State) : exec (.attestReport x1 x2) s = execAttestReport x1 x2 s := rfl
@[simp] theorem exec_fwUpdateFirmware x1 x2 x3 (s : State) : exec (.fwUpdateFirmware x1 x2 x3) s = execFwUpdateFirmware x1 x2 x3 s := rfl
@[simp] theorem exec_fwUpdateConfiguration x1 x2 x3 (s : State) : exec (.fwUpdateConfiguration x1 x2 x3) s = execFwUpdateConfiguration x1 x2 x3 s := rfl
@[simp] theorem exec_fwUpdateOwner x1 x2 x3 (s : State) : exec (.fwUpdateOwner x1 x2 x3) s = execFwUpdateOwner x1 x2 x3 s := rfl
@[simp] theorem exec_fwUpdateRaise x1 (s : State) : exec (.fwUpdateRaise x1) s = execFwUpdateRaise x1 s := rfl
@[simp] theorem exec_hbmRepairQuery x1 (s : State) : exec (.hbmRepairQuery x1) s = execHbmRepairQuery x1 s := rfl
@[simp] theorem exec_hbmRepairApply x1 (s : State) : exec (.hbmRepairApply x1) s = execHbmRepairApply x1 s := rfl
@[simp] theorem exec_offloadCfgEnable x1 (s : State) : exec (.offloadCfgEnable x1) s = execOffloadCfgEnable x1 s := rfl
@[simp] theorem exec_offloadCfgDisable x1 (s : State) : exec (.offloadCfgDisable x1) s = execOffloadCfgDisable x1 s := rfl
@[simp] theorem exec_powerCapSet x1 (s : State) : exec (.powerCapSet x1) s = execPowerCapSet x1 s := rfl
@[simp] theorem exec_sorrelCut (s : State) : exec .sorrelCut s = execSorrelCut s := rfl
@[simp] theorem exec_cutSkipped (s : State) : exec .cutSkipped s = execCutSkipped s := rfl
@[simp] theorem exec_healthMonitorWindow x1 (s : State) : exec (.healthMonitorWindow x1) s = execHealthMonitorWindow x1 s := rfl
@[simp] theorem exec_yarrowTrigger x1 x2 (s : State) : exec (.yarrowTrigger x1 x2) s = execYarrowTrigger x1 x2 s := rfl
@[simp] theorem exec_obsCntLoRead (s : State) : exec .obsCntLoRead s = execObsCntLoRead s := rfl
@[simp] theorem exec_obsFreeze x1 (s : State) : exec (.obsFreeze x1) s = execObsFreeze x1 s := rfl
@[simp] theorem exec_snsRegularTrigger x1 (s : State) : exec (.snsRegularTrigger x1) s = execSnsRegularTrigger x1 s := rfl
@[simp] theorem exec_snsUrgentTrigger x1 x2 (s : State) : exec (.snsUrgentTrigger x1 x2) s = execSnsUrgentTrigger x1 x2 s := rfl
@[simp] theorem exec_snsConversion x1 x2 (s : State) : exec (.snsConversion x1 x2) s = execSnsConversion x1 x2 s := rfl
@[simp] theorem exec_injNow x1 (s : State) : exec (.injNow x1) s = execInjNow x1 s := rfl
@[simp] theorem exec_regNow x1 (s : State) : exec (.regNow x1) s = execRegNow x1 s := rfl
@[simp] theorem exec_powerInterval x1 (s : State) : exec (.powerInterval x1) s = execPowerInterval x1 s := rfl
@[simp] theorem exec_powerBiasCorrect (s : State) : exec .powerBiasCorrect s = execPowerBiasCorrect s := rfl
@[simp] theorem exec_freqGlide x1 (s : State) : exec (.freqGlide x1) s = execFreqGlide x1 s := rfl
@[simp] theorem exec_voltageRampDone x1 x2 (s : State) : exec (.voltageRampDone x1 x2) s = execVoltageRampDone x1 x2 s := rfl
@[simp] theorem exec_thermalHoldRaise x1 (s : State) : exec (.thermalHoldRaise x1) s = execThermalHoldRaise x1 s := rfl
@[simp] theorem exec_thermtrip x1 (s : State) : exec (.thermtrip x1) s = execThermtrip x1 s := rfl
@[simp] theorem exec_clockLossTower x1 x2 (s : State) : exec (.clockLossTower x1 x2) s = execClockLossTower x1 x2 s := rfl
@[simp] theorem exec_clockLossIsland x1 (s : State) : exec (.clockLossIsland x1) s = execClockLossIsland x1 s := rfl
@[simp] theorem exec_registerBusTimeout x1 x2 (s : State) : exec (.registerBusTimeout x1 x2) s = execRegisterBusTimeout x1 x2 s := rfl
@[simp] theorem exec_blockEnable x1 x2 (s : State) : exec (.blockEnable x1 x2) s = execBlockEnable x1 x2 s := rfl
@[simp] theorem exec_blockDisable x1 x2 (s : State) : exec (.blockDisable x1 x2) s = execBlockDisable x1 x2 s := rfl
@[simp] theorem exec_blockStopped x1 x2 (s : State) : exec (.blockStopped x1 x2) s = execBlockStopped x1 x2 s := rfl
@[simp] theorem exec_registerWrite x1 x2 (s : State) : exec (.registerWrite x1 x2) s = execRegisterWrite x1 x2 s := rfl
@[simp] theorem exec_refreshNow x1 (s : State) : exec (.refreshNow x1) s = execRefreshNow x1 s := rfl
@[simp] theorem exec_traceNow x1 (s : State) : exec (.traceNow x1) s = execTraceNow x1 s := rfl
@[simp] theorem exec_runArray x1 (s : State) : exec (.runArray x1) s = execRunArray x1 s := rfl
@[simp] theorem exec_runField x1 (s : State) : exec (.runField x1) s = execRunField x1 s := rfl
@[simp] theorem exec_synOpSignal x1 (s : State) : exec (.synOpSignal x1) s = execSynOpSignal x1 s := rfl
@[simp] theorem exec_synOpReset x1 (s : State) : exec (.synOpReset x1) s = execSynOpReset x1 s := rfl
@[simp] theorem exec_prgEventRead x1 (s : State) : exec (.prgEventRead x1) s = execPrgEventRead x1 s := rfl
@[simp] theorem exec_arcEventRead x1 (s : State) : exec (.arcEventRead x1) s = execArcEventRead x1 s := rfl
@[simp] theorem exec_calEventRead x1 (s : State) : exec (.calEventRead x1) s = execCalEventRead x1 s := rfl
@[simp] theorem exec_engEventRead x1 (s : State) : exec (.engEventRead x1) s = execEngEventRead x1 s := rfl
@[simp] theorem exec_engAccEventRead x1 (s : State) : exec (.engAccEventRead x1) s = execEngAccEventRead x1 s := rfl
@[simp] theorem exec_wchEventRead x1 (s : State) : exec (.wchEventRead x1) s = execWchEventRead x1 s := rfl
@[simp] theorem exec_vecEventRead x1 (s : State) : exec (.vecEventRead x1) s = execVecEventRead x1 s := rfl
@[simp] theorem exec_vecTileHoldRead x1 (s : State) : exec (.vecTileHoldRead x1) s = execVecTileHoldRead x1 s := rfl
@[simp] theorem exec_seqEventRead x1 (s : State) : exec (.seqEventRead x1) s = execSeqEventRead x1 s := rfl
@[simp] theorem exec_dmaEventRead x1 (s : State) : exec (.dmaEventRead x1) s = execDmaEventRead x1 s := rfl
@[simp] theorem exec_lndEventRead x1 (s : State) : exec (.lndEventRead x1) s = execLndEventRead x1 s := rfl
@[simp] theorem exec_hbmEventRead x1 (s : State) : exec (.hbmEventRead x1) s = execHbmEventRead x1 s := rfl
@[simp] theorem exec_hbmEccCntRead x1 (s : State) : exec (.hbmEccCntRead x1) s = execHbmEccCntRead x1 s := rfl
@[simp] theorem exec_hbmPartWaitRead x1 (s : State) : exec (.hbmPartWaitRead x1) s = execHbmPartWaitRead x1 s := rfl
@[simp] theorem exec_galEventRead x1 (s : State) : exec (.galEventRead x1) s = execGalEventRead x1 s := rfl
@[simp] theorem exec_galReplayCntRead x1 (s : State) : exec (.galReplayCntRead x1) s = execGalReplayCntRead x1 s := rfl
@[simp] theorem exec_synEventRead x1 (s : State) : exec (.synEventRead x1) s = execSynEventRead x1 s := rfl
@[simp] theorem exec_nwlEventRead (s : State) : exec .nwlEventRead s = execNwlEventRead s := rfl
@[simp] theorem exec_fabEventRead x1 (s : State) : exec (.fabEventRead x1) s = execFabEventRead x1 s := rfl
@[simp] theorem exec_fabReplayCntRead x1 (s : State) : exec (.fabReplayCntRead x1) s = execFabReplayCntRead x1 s := rfl
@[simp] theorem exec_fabFecCntRead x1 (s : State) : exec (.fabFecCntRead x1) s = execFabFecCntRead x1 s := rfl
@[simp] theorem exec_colEventRead (s : State) : exec .colEventRead s = execColEventRead s := rfl
@[simp] theorem exec_pciEventRead (s : State) : exec .pciEventRead s = execPciEventRead s := rfl
@[simp] theorem exec_pwrIslLostRead (s : State) : exec .pwrIslLostRead s = execPwrIslLostRead s := rfl
@[simp] theorem exec_pwrBusEventRead (s : State) : exec .pwrBusEventRead s = execPwrBusEventRead s := rfl
@[simp] theorem exec_pwrBusMaxstallRead (s : State) : exec .pwrBusMaxstallRead s = execPwrBusMaxstallRead s := rfl
@[simp] theorem exec_mbxEventRead x1 (s : State) : exec (.mbxEventRead x1) s = execMbxEventRead x1 s := rfl
@[simp] theorem exec_pwrResetCauseRead (s : State) : exec .pwrResetCauseRead s = execPwrResetCauseRead s := rfl
@[simp] theorem exec_tslEventRead (s : State) : exec .tslEventRead s = execTslEventRead s := rfl
@[simp] theorem exec_tslCRefRead x1 (s : State) : exec (.tslCRefRead x1) s = execTslCRefRead x1 s := rfl
@[simp] theorem exec_obsEventRead (s : State) : exec .obsEventRead s = execObsEventRead s := rfl
@[simp] theorem exec_obsHmStatRead x1 (s : State) : exec (.obsHmStatRead x1) s = execObsHmStatRead x1 s := rfl
@[simp] theorem exec_snsEventRead x1 (s : State) : exec (.snsEventRead x1) s = execSnsEventRead x1 s := rfl
@[simp] theorem exec_pwrEventRead (s : State) : exec .pwrEventRead s = execPwrEventRead s := rfl
@[simp] theorem exec_pwrOkRise x1 (s : State) : exec (.pwrOkRise x1) s = execPwrOkRise x1 s := rfl
@[simp] theorem exec_pwrOkFall (s : State) : exec .pwrOkFall s = execPwrOkFall s := rfl
@[simp] theorem exec_perstAssert (s : State) : exec .perstAssert s = execPerstAssert s := rfl
@[simp] theorem exec_sysRstAssert (s : State) : exec .sysRstAssert s = execSysRstAssert s := rfl
@[simp] theorem exec_resetRelease (s : State) : exec .resetRelease s = execResetRelease s := rfl
@[simp] theorem exec_bootEnd x1 (s : State) : exec (.bootEnd x1) s = execBootEnd x1 s := rfl
@[simp] theorem exec_memoryEnd x1 x2 x3 (s : State) : exec (.memoryEnd x1 x2 x3) s = execMemoryEnd x1 x2 x3 s := rfl
@[simp] theorem exec_calibrationEnd x1 x2 (s : State) : exec (.calibrationEnd x1 x2) s = execCalibrationEnd x1 x2 s := rfl
@[simp] theorem exec_ready (s : State) : exec .ready s = execReady s := rfl
@[simp] theorem exec_failed x1 (s : State) : exec (.failed x1) s = execFailed x1 s := rfl
@[simp] theorem exec_fabTrainingDone x1 x2 (s : State) : exec (.fabTrainingDone x1 x2) s = execFabTrainingDone x1 x2 s := rfl
@[simp] theorem exec_pcieLinkUp x1 x2 x3 (s : State) : exec (.pcieLinkUp x1 x2 x3) s = execPcieLinkUp x1 x2 x3 s := rfl
@[simp] theorem exec_configurationRequest (s : State) : exec .configurationRequest s = execConfigurationRequest s := rfl
@[simp] theorem exec_referenceSettled x1 x2 (s : State) : exec (.referenceSettled x1 x2) s = execReferenceSettled x1 x2 s := rfl
@[simp] theorem exec_snapshotRecordWritten (s : State) : exec .snapshotRecordWritten s = execSnapshotRecordWritten s := rfl
@[simp] theorem exec_cutRecordsWritten (s : State) : exec .cutRecordsWritten s = execCutRecordsWritten s := rfl
@[simp] theorem exec_testAccessPort x1 (s : State) : exec (.testAccessPort x1) s = execTestAccessPort x1 s := rfl
@[simp] theorem exec_illegalInstruction x1 (s : State) : exec (.illegalInstruction x1) s = execIllegalInstruction x1 s := rfl

end Sys2Proof.Laws
end

