-- ==== Sys2Proof/Laws/Meaning.lean ====
section
/-! SUPPORT. What the shared runners of the meanings answer under the words of the statements: the issue of a word
(R209, R214), the run of a started queue instruction (R229), and a command of Campion (R385 to R390). -/

namespace Sys2Proof.Laws
open Sys2Proof Sys2Proof.Machine Sys2Proof.Claims

variable {s : State} {c : CoreId} {op : Op} {w : Dword}

theorem onChip_live (h : live s.chip = true) (f : Chip → Chip) : onChip s f = .next (after s (f s.chip)) := by
  simp [onChip, h, after]

/-- A device that does not run keeps its state. -/
theorem onChip_dead (h : live s.chip = false) (f : Chip → Chip) : onChip s f = .next s := by
  simp [onChip, h]

/-- A word that issues runs its effect on the chip that counted it. -/
theorem issue_of_issuing (h : Issuing s c op w) (f : Chip → Core → Dword → Chip) :
    onChip s (fun ch => issue ch c.val op f) = .next (after s (f (issued s c) (theCore s c) w)) := by
  obtain ⟨h1, h2, h3, h4, h5, h6, h7, h8⟩ := h
  unfold onChip issue
  simp [after, issued, theCore, h1, h2, h3, h4, h5, h6, h7, h8]

/-- A word whose guard is false only advances (R214). -/
theorem issue_of_guard_false (h1 : live s.chip = true) (h2 : canIssue s.chip c.val = true)
    (h3 : anyPoi s.chip (imemBase c.val + 8 * (theCore s c).pc) 8 = false)
    (h4 : fetchWord s.chip c.val (theCore s c).pc = w) (h5 : decodeWord w = some op)
    (h6 : (regUse op w).1.any (pendingReg (theCore s c)) = false)
    (h7 : (regUse op w).2.any (pendingReg (theCore s c)) = false) (h8 : guardOk (theCore s c) w = false)
    (f : Chip → Core → Dword → Chip) :
    onChip s (fun ch => issue ch c.val op f) = .next (after s (updCore (issued s c) c.val advance)) := by
  unfold theCore at *
  unfold onChip issue
  simp [after, issued, h1, h2, h3, h4, h5, h6, h7, h8]

theorem runStarted_of_started {q : Queue} {i : QInstr} (h : Started s c q op i) (f : Chip → QInstr → Chip × QInstr) :
    onChip s (fun ch => runStarted ch c.val q op f) = .next (ran s c (f s.chip i).1 (f s.chip i).2 i.seq) := by
  obtain ⟨h1, h2, h3, h4, h5⟩ := h
  unfold onChip runStarted
  simp [after, ran, h1, h2, h3, h4, h5]

/-! ### Work on memory (R277, R281, R285, R431) -/

/-- Work that goes on does its effect. -/
theorem memWork_of_goesOn {via : Via} {b : Bursts} {f : Chip → Chip} {t : State} (h : GoesOn s via b f t) :
    onChip s (memWork via b f) = .next (after s (f t.chip)) := by
  obtain ⟨h1, h2, h3, rfl⟩ := h
  simp [onChip, after, memWork, h1, h2, h3]

/-- Work that goes on is its effect on the state in which it works. -/
theorem memWork_on_ready {via : Via} {b : Bursts} {f : Chip → Chip} {t : State} (h : GoesOn s via b f t)
    (hl : live t.chip = true) : onChip s (memWork via b f) = onChip t f := by
  rw [memWork_of_goesOn h, onChip_live hl, h.state]
  rfl

/-- A command that is one work on memory waits, or loses accesses, as every work does. -/
theorem waitsOrLoses_of_memWork {i : Instr} {via : Via} {b : Bursts} {f : Chip → Chip}
    (h : Machine.exec i s = onChip s (memWork via b f)) : waitsOrLoses s i via b f := by
  intro hl
  rw [h, onChip_live hl]
  refine ⟨fun h1 => ?_, fun h1 h2 => ?_⟩
  · simp [memWork, h1]
  · simp [memWork, h1, h2]

@[simp] theorem shutOf_nil (ch : Chip) (via : Via) : shutOf ch via [] = [] := rfl
@[simp] theorem shortOf_nil (ch : Chip) : shortOf ch [] = [] := rfl
@[simp] theorem memHeld_nil (ch : Chip) (via : Via) : memHeld ch via [] = false := rfl
@[simp] theorem memReady_nil (ch : Chip) (b : Bursts) : memReady ch b [] = ch := by
  have h : payers [] = [] := rfl
  unfold memReady reported
  induction b <;> simp_all

/-- Work that touches no memory does its effect at once. -/
theorem memWork_untouched {via : Via} {b : Bursts} {f : Chip → Chip} {ch : Chip} (h : touched f ch = []) :
    memWork via b f ch = f ch := by
  simp [memWork, h]

/-- A started queue instruction that goes on has run, with the failures its reads met. -/
theorem coreRun_of_works {r : CoreRun} {q : Queue} {i : QInstr} {f : Chip → QInstr → Chip × QInstr} {t : State}
    (h : Works s r q op f i t) : onChip s (coreRun r q op f) = .next (worked t r f i) := by
  have hr := runStarted_of_started h.started (withFailures r f)
  rw [onChip_live h.started.live] at hr
  injection hr with hr
  have hc : coreRun r q op f = memWork (.core (r.core.val / 128)) r.bursts (coreStep r q op f) := rfl
  rw [hc, memWork_of_goesOn h.goes]
  unfold worked
  rw [← hr, h.goes.state]
  simp [after, coreStep]

variable {k : Stream} {n : Nat} {mine : Nat → Bool} {chk : Nat → List (Nat × Nat) × List Nat} {d : Cmd}

theorem runCmd_of_taking (h : Taking s k n mine chk d) (start go : Chip → Cmd → Did) :
    runCmd s k n mine chk start go = .next (after s (settle (streamIx k) d (start s.chip d))) := by
  obtain ⟨h1, h2, h3, h4, h5⟩ := h
  unfold runCmd onChip runCmdOn
  simp [after, h1, h2, h3, h4, h5]

theorem runCmd_of_waiting (h : Waiting s k n mine d) (start go : Chip → Cmd → Did) :
    runCmd s k n mine chk start go = .next (after s (settle (streamIx k) d (go s.chip d))) := by
  obtain ⟨h1, h2, h3⟩ := h
  unfold runCmd onChip runCmdOn
  simp [after, h1, h2, h3]

@[simp] theorem settle_reply (x : Nat) (ch : Chip) (r : Rsp) : settle x d (reply ch r) = respond ch x d r := by
  simp [settle, reply]

@[simp] theorem settle_stay (x : Nat) (ch : Chip) (m : List Nat) :
    settle x d (stay ch m) = updStream ch x fun y => { y with cmd := some { d with committed := true, memo := m } } := by
  simp [settle, stay]

theorem runNow_of_taking (h : Taking s k n mine chk d) (f : Chip → Cmd → Chip × Rsp) :
    runNow s k n mine chk f = .next (answered s k d (f s.chip d).1 (f s.chip d).2) := by
  unfold runNow
  rw [runCmd_of_taking h]
  simp [answered]

theorem runNv_of_taking (h : Taking s k n mine chk d) (f : Chip → NonVol → Cmd → Chip × NonVol × Rsp) :
    runNv s k n mine chk f = .next
      { s with
        chip := respond (f s.chip s.nv d).1 (streamIx k) d (f s.chip s.nv d).2.2
        nv := (f s.chip s.nv d).2.1 } := by
  obtain ⟨h1, h2, h3, h4, h5⟩ := h
  unfold runNv
  simp [h1, h2, h4, h5]

/-! ### The chip that counted an issued word -/

@[simp] theorem issued_us (s : State) (c : CoreId) : (issued s c).us = s.chip.us := by simp [issued]
@[simp] theorem issued_isl (s : State) (c : CoreId) : (issued s c).isl = s.chip.isl := by simp [issued]
@[simp] theorem issued_islRun (s : State) (c : CoreId) : (issued s c).islRun = s.chip.islRun := by simp [issued]
@[simp] theorem issued_phase (s : State) (c : CoreId) : (issued s c).phase = s.chip.phase := by simp [issued]
@[simp] theorem issued_mem (s : State) (c : CoreId) : (issued s c).mem = s.chip.mem := by simp [issued]
@[simp] theorem issued_poi (s : State) (c : CoreId) : (issued s c).poi = s.chip.poi := by simp [issued]
@[simp] theorem issued_regs (s : State) (c : CoreId) : (issued s c).regs = s.chip.regs := by simp [issued]
@[simp] theorem issued_blks (s : State) (c : CoreId) : (issued s c).blks = s.chip.blks := by simp [issued]
@[simp] theorem issued_resp (s : State) (c : CoreId) : (issued s c).resp = s.chip.resp := by simp [issued]
@[simp] theorem issued_cores (s : State) (c : CoreId) : (issued s c).cores = s.chip.cores := by simp [issued]
@[simp] theorem issued_accs (s : State) (c : CoreId) : (issued s c).accs = s.chip.accs := by simp [issued]
@[simp] theorem issued_banks (s : State) (c : CoreId) : (issued s c).banks = s.chip.banks := by simp [issued]
@[simp] theorem issued_arrs (s : State) (c : CoreId) : (issued s c).arrs = s.chip.arrs := by simp [issued]
@[simp] theorem issued_stats (s : State) (c : CoreId) : (issued s c).stats = s.chip.stats := by simp [issued]
@[simp] theorem issued_fields (s : State) (c : CoreId) : (issued s c).fields = s.chip.fields := by simp [issued]
@[simp] theorem issued_towers (s : State) (c : CoreId) : (issued s c).towers = s.chip.towers := by simp [issued]
@[simp] theorem issued_tcores (s : State) (c : CoreId) : (issued s c).tcores = s.chip.tcores := by simp [issued]
@[simp] theorem issued_tsl (s : State) (c : CoreId) : (issued s c).tsl = s.chip.tsl := by simp [issued]
@[simp] theorem issued_clus (s : State) (c : CoreId) : (issued s c).clus = s.chip.clus := by simp [issued]
@[simp] theorem issued_objs (s : State) (c : CoreId) : (issued s c).objs = s.chip.objs := by simp [issued]
@[simp] theorem issued_objPoi (s : State) (c : CoreId) : (issued s c).objPoi = s.chip.objPoi := by simp [issued]
@[simp] theorem issued_ports (s : State) (c : CoreId) : (issued s c).ports = s.chip.ports := by simp [issued]
@[simp] theorem issued_fab (s : State) (c : CoreId) : (issued s c).fab = s.chip.fab := by simp [issued]
@[simp] theorem issued_nwl (s : State) (c : CoreId) : (issued s c).nwl = s.chip.nwl := by simp [issued]
@[simp] theorem issued_obs (s : State) (c : CoreId) : (issued s c).obs = s.chip.obs := by simp [issued]
@[simp] theorem issued_land (s : State) (c : CoreId) : (issued s c).land = s.chip.land := by simp [issued]
@[simp] theorem issued_globalLayers (s : State) (c : CoreId) : (issued s c).globalLayers = s.chip.globalLayers := by simp [issued]
@[simp] theorem issued_stks (s : State) (c : CoreId) : (issued s c).stks = s.chip.stks := by simp [issued]
@[simp] theorem issued_jobs (s : State) (c : CoreId) : (issued s c).jobs = s.chip.jobs := by simp [issued]
@[simp] theorem issued_pci (s : State) (c : CoreId) : (issued s c).pci = s.chip.pci := by simp [issued]
@[simp] theorem issued_sys (s : State) (c : CoreId) : (issued s c).sys = s.chip.sys := by simp [issued]
@[simp] theorem issued_coreOf (s : State) (c : CoreId) (g : Nat) : coreOf (issued s c) g = coreOf s.chip g := by
  simp [coreOf]
@[simp] theorem issued_islandRuns (s : State) (c : CoreId) (i : Nat) :
    islandRuns (issued s c) i = islandRuns s.chip i := by simp [islandRuns]
@[simp] theorem issued_anyPoi (s : State) (c : CoreId) (a n : Nat) :
    anyPoi (issued s c) a n = anyPoi s.chip a n := by simp [anyPoi, hbmLost]
@[simp] theorem issued_rdNat (s : State) (c : CoreId) (a n : Nat) :
    rdNat (issued s c) a n = rdNat s.chip a n := by simp [rdNat, rdBytes]
@[simp] theorem after_chip (s : State) (ch : Chip) : (after s ch).chip = ch := rfl
@[simp] theorem after_nv (s : State) (ch : Chip) : (after s ch).nv = s.nv := rfl
@[simp] theorem after_pending (s : State) (ch : Chip) : (after s ch).pending = s.pending := rfl

end Sys2Proof.Laws
end

