-- ==== Sys2Proof/Tests/Slice0.lean ====
section
/-! SUPPORT. Tests of single commands, an ill-formed command for each check of WellFormed.lean, and for each statement
a state and operands that meet its hypotheses. Expected values come from the rules of spec/. -/

set_option Elab.async false
namespace Sys2Proof.Tests
open Sys2Proof Sys2Proof.Machine Sys2Proof.Claims

/-! ### Ill-formed commands -/

def host0 : HostIn := ⟨[], false, false, []⟩
def badHost : HostIn := ⟨[(0, 1)], false, false, []⟩
def oddBurst : HostIn := ⟨[], false, false, [(16, .clean)]⟩
def run0 : CoreRun := ⟨0, [], [], []⟩
def vf0 : Stream := ⟨0, false⟩
def badLevel : List CellObs := [⟨0, 0, 1009⟩]
def longReading : Reading := ⟨List.replicate 513 0, []⟩
def noReading : Reading := ⟨[], []⟩
def flit0 : Flit := ⟨3, 0, false, false, 0, 0, 0, 0, 0, List.replicate 248 0⟩
def shortFlit : Flit := { flit0 with payload := [] }
def bar0 : BarReq := ⟨0, none, 0, 0, 4, none, false, false, []⟩
def port0 : PortCfg := ⟨0, false, false, 0, 0, (64, 480, 480)⟩
def verdict0 : Verdict := ⟨true, true, true, 0⟩
def slot0 : SlotObs := ⟨true, List.replicate 64 0, verdict0⟩
def boot0 : BootObs := ⟨true, List.replicate 6 0, true, slot0, slot0, slot0, slot0, 0, true, ⟨0, 0, 16⟩, 0, []⟩

/-- Bytes outside the outbound window, in every command that carries host bytes (R354), and a burst out of place. -/
theorem test_wf_host : [Instr.ld 0 badHost, .ld 0 oddBurst, .dmaCopy 0 badHost, .dmaTranspose 0 badHost, .dmaConvert 0 badHost,
    .dmaTransposeConvert 0 badHost, .commandStart vf0 badHost, .progLoad ⟨vf0, badHost⟩, .arrayProgram ⟨vf0, badHost⟩ [],
    .testPackLoad vf0 badHost verdict0, .fwUpdateFirmware vf0 badHost verdict0,
    .fwUpdateConfiguration vf0 badHost verdict0, .fwUpdateOwner vf0 badHost verdict0,
    .bindweedEntryDone 0 0 ⟨false, [], 0, badHost.cells, []⟩].any Instr.wf = false := by
  decide +kernel

/-- Levels above the 64 of a cell (R35), readings of more lines than an array (R34), a word outside a scrubbed memory
(R211), a batch of more than 64 cells, a burst of more than four rounds (R46), a trim code of no column (R92). -/
theorem test_wf_arrays : [Instr.apgLoad run0 badLevel, .spareSwitch run0 0 badLevel, .fencedSpareLoad run0 0 badLevel,
    .arrayRefreshRun run0 0 [List.replicate 65 0], .arrayProgram ⟨vf0, host0⟩ [(0, ⟨0, 0, 1009⟩)],
    .arrayProgram ⟨vf0, host0⟩ [(128, ⟨0, 0, 0⟩)],
    .readResolve 0 ⟨0, [], []⟩ [⟨longReading, noReading, noReading, noReading⟩],
    .readResolve 0 ⟨0, [], []⟩ [⟨noReading, noReading, noReading, ⟨[], List.replicate 9 0⟩⟩],
    .memoryScrub 0 .scratch 0xC0000 false, .memoryScrub 0 .imem 0x8000 false, .memoryScrub 0 .desc 0x4000 false,
    .programBatch run0 [List.replicate 65 0], .programBurst run0 (List.replicate 5 []),
    .calGroup 0 ⟨0, [(520, 0)], [], []⟩].any Instr.wf = false := by
  decide +kernel

/-- An access across two lines, a fill that is no line or has no eight bursts, a grain across two, a burst out of place
(R263, R267, R273). -/
theorem test_wf_memory : [Instr.landingAccess ⟨.firmware, 0, 255, some [0, 0], .normal, false, []⟩,
    .landingAccess ⟨.firmware, 0, 0xC000000000, none, .normal, false, []⟩,
    .landingAccess ⟨.firmware, 0, 0, none, .normal, false, List.replicate 9 .clean⟩, .landingFill .firmware 128 .normal
      (List.replicate 8 .clean), .landingFill .firmware 0 .normal [], .fineGrain ⟨.firmware, 0, 63, some [0, 0], .normal, false, []⟩,
    .patrolScrub 0 16 .clean false, .patrolScrub 0 0xC000000000 .clean false].any Instr.wf = false := by
  decide +kernel

/-- Flits, credits, eyes and requests of the wrong length, and a PCI Express link whose flits do not fit its speed (R103,
R309, R312, R314, R323, R342, R348). -/
theorem test_wf_links : [Instr.sigFlit 0 shortFlit, .collFlit 0 shortFlit [], .ctrlFlit 0 ⟨0, false, []⟩, .proto 0 shortFlit,
    .handshake 0 ⟨0, 0, 0, false, false, 0, 0, [], false⟩,
    .handshake 0 ⟨0, 0, 0, false, false, 0, 0, [65536, 0, 0, 0, 0, 0], false⟩,
    .eyeMeasure 0 (List.replicate 9 ⟨0, 0⟩), .fabTrainingDone 0 (.trained (List.replicate 9 ⟨0, 0⟩)),
    .twinData ⟨0, []⟩ shortFlit, .openTwin 0 shortFlit, .closeTwin ⟨0, []⟩ shortFlit, .commitTwin 0 shortFlit,
    .abortTwin 0 shortFlit, .pullTwin ⟨0, []⟩ shortFlit, .inboundRequest { bar0 with len := 0 },
    .inboundRequest { bar0 with len := 4097 }, .inboundRequest { bar0 with write := some [] },
    .pcieLinkUp 0 1 false, .pcieLinkUp 1 0 false, .pcieLinkUp 5 6 false, .pcieLinkUp 5 5 true].any Instr.wf = false := by
  decide +kernel

/-- A position of no core, a signature of another length, an address that is no register, a port listed twice, headers
and a directory of another length, a bring-up that reports other towers than there are, and FAILED without a cause (R410,
R412, R413, R417, R443, R492). -/
theorem test_wf_system : [Instr.readmit vf0 [(129, .pass)], .attestReport vf0 [],
    .registerBusTimeout 2 false, .blockEnable 0 false, .blockDisable 0 false, .blockStopped 0 false,
    .registerWrite 0x200000000001 0, .bootEnd { boot0 with ports := [port0, port0] }, .bootEnd { boot0 with dir := [] },
    .bootEnd { boot0 with cfgB := { slot0 with header := [] } }, .calibrationEnd [] [], .failed 0].any Instr.wf = false := by
  decide +kernel

/-- Well-formed commands pass: the checks are not all false. -/
theorem test_wf_pass : [Instr.ld 0 ⟨[(0x800000000000, 1)], false, false, [(32, .corrected)]⟩, .apgLoad run0 [⟨511, 519, 1008⟩],
    .programBurst run0 [[], [], [], []], .landingAccess ⟨.firmware, 7, 255, some [0], .normal, false, []⟩, .sigFlit 0 flit0,
    .inboundRequest bar0, .registerWrite 0x200000000000 0, .failed 1, .bootEnd boot0, .pcieLinkUp 5 6 true].all Instr.wf
      = true := by
  decide +kernel
/-! ### States of the tests -/

def st (ch : Chip) : State := { State.reset with chip := ch }
def on (l : List (Blk × Nat)) (ch : Chip) : Chip := l.foldl (fun c p => blkSet c p.1 p.2 false .enabled) ch
/-- A READY device of which every island runs; job 0 is running and has cluster 0. -/
def up : Chip := { Chip.reset with
  phase := 4, islRun := 0x1FFFFFF, clus := [(0, 0)], jobs := [(0, { jobReset with state := .running })] }
/-- Core 0 in state `k` issues, and its word 0 is `w`. -/
def atWord (k : Core) (w : Nat) : State := st (setCore (wrMem (on [(.seq, 0), (.syn, 0)] up) (imemBase 0) (leBytes w 8) false) 0 k)
def ready : Core := { coreReset with run := .running }

def issuesB (s : State) (c : CoreId) (op : Op) (w : Dword) : Bool :=
  live s.chip && canIssue s.chip c.val && !anyPoi s.chip (imemBase c.val + 8 * (coreOf s.chip c.val).pc) 8 &&
    (fetchWord s.chip c.val (coreOf s.chip c.val).pc == w) && (decodeWord w == some op) &&
    !(regUse op w).1.any (pendingReg (coreOf s.chip c.val)) && !(regUse op w).2.any (pendingReg (coreOf s.chip c.val)) &&
    guardOk (coreOf s.chip c.val) w

theorem issuing_of {s : State} {c : CoreId} {op : Op} {w : Dword} (h : issuesB s c op w = true) : Issuing s c op w := by
  simp only [issuesB, Bool.and_eq_true, Bool.not_eq_true', beq_iff_eq] at h
  obtain ⟨⟨⟨⟨⟨⟨⟨a, b⟩, d⟩, e⟩, f⟩, g⟩, i⟩, j⟩ := h
  exact ⟨a, b, d, e, f, g, i, j⟩

/-- Each instruction of a list issues as its word. -/
theorem all_issue (f : Nat → State) (l : List (Op × Nat))
    (h : (l.all fun p => issuesB (f p.2) 0 p.1 (BitVec.ofNat 64 p.2)) = true) :
    ∀ p ∈ l, Issuing (f p.2) 0 p.1 (BitVec.ofNat 64 p.2) :=
  fun p m => issuing_of (List.all_eq_true.mp h p m)

/-! ### Cores -/

/-- Words of the ALU: s3 := s1 op s2; INS32 takes its immediate (R217). -/
def aluWords : List (Op × Nat) := [(.add, 0x1000C10800000000), (.sub, 0x1100C10800000000), (.mul, 0x1200C10800000000),
  (.andI, 0x1300C10800000000), (.orI, 0x1400C10800000000), (.xor, 0x1500C10800000000), (.shl, 0x1600C10800000000),
  (.shr, 0x1700C10800000000), (.sra, 0x1800C10800000000), (.minI, 0x1900C10800000000), (.maxI, 0x1A00C10800000000),
  (.cmpeq, 0x1B00C10800000000), (.cmplt, 0x1C00C10800000000), (.cmpltu, 0x1D00C10800000000), (.ins32, 0x1E00C10200000005)]

theorem witness_AluResults : (∀ p ∈ aluWords, Issuing (atWord ready p.2) 0 p.1 (BitVec.ofNat 64 p.2)) ∧
    wb 0x1000C10800000000 33 33 = 0 ∧ wb 0x1E00C10200000005 33 33 = 1 ∧ decodeWord 0x1E00C10200000005 = some .ins32 :=
  ⟨all_issue (atWord ready) aluWords (by decide +kernel), by decide, by decide, by decide⟩
abbrev dw (n : Nat) : Dword := BitVec.ofNat 64 n

/-- The boundary registers of each kind. -/
theorem witness_RegisterFile : ∀ r ∈ [0, 1, 0x1F, 0x20, 0x2F, 0x30, 0x31, 0x37], r < 0x38 := by decide

/-- MFS of the selectors where the clauses meet, MTS of the first and the last token counter and beside them. -/
theorem witness_ScalarMoves :
    Issuing (atWord ready 0x0100000000000000) 0 .nop (dw 0x0100000000000000) ∧
    (∀ p ∈ [(Op.dset, 0x24004000000003FF), (.dset, 0x2400400000000400)],
      Issuing (atWord ready p.2) 0 p.1 (dw p.2)) ∧
    (∀ p ∈ [0, 1, 2, 3, 4, 8, 9, 15, 16, 255].map fun n => (Op.mfs, 0x2200400000000000 + n),
      Issuing (atWord ready p.2) 0 p.1 (dw p.2)) ∧
    (∀ n ∈ [0, 1, 2, 3, 4, 8, 9, 15, 16, 255], wb (dw (0x2200400000000000 + n)) 7 0 = n) ∧
    coreJob (atWord ready 0x2200400000000001).chip 0 = some 0 ∧
    (∀ p ∈ [8, 9, 15, 16].map fun n => (Op.mts, 0x2300000000000000 + n), Issuing (atWord ready p.2) 0 p.1 (dw p.2)) ∧
    (∀ n ∈ [8, 9, 15, 16], wb (dw (0x2300000000000000 + n)) 7 0 = n) := by
  and_intros
  · exact issuing_of (by decide +kernel)
  · exact all_issue (atWord ready) _ (by decide +kernel)
  · exact all_issue (atWord ready) _ (by decide +kernel)
  · decide +kernel
  · decide +kernel
  · exact all_issue (atWord ready) _ (by decide +kernel)
  · decide +kernel

/-- An instruction of the vector queue that names entry 1023 and has not fetched it. -/
def naming : Core :=
  let i : QInstr := ⟨0, .engine, 0, 0x5000000000000000, some 1023, none, none, none, 0, .queued, 0, 0, 0, 0, 0, 0, 0, [], false, 0, false⟩
  { ready with q := [i] }

/-- LD and ST of 8 bytes at byte 8 of the scratchpad, of 1 byte at the last of descriptor memory, and of 4 bytes at 2; a load at 4 MiB
and a store at 3 MiB of the scratchpad; a store to an entry that a waiting instruction names. -/
theorem witness_LoadStoreLocal :
    (∀ p ∈ [(Op.ld, 0x2000403000000008), (.st, 0x2100403000000008), (.ld, 0x200040400000FFFF),
        (.st, 0x210040400000FFFF), (.ld, 0x2000402000000002), (.st, 0x2100402000000002)],
      Issuing (atWord ready p.2) 0 p.1 (dw p.2)) ∧
    (∀ p ∈ [(false, 8, 8, 0x2000403000000008), (true, 8, 8, 0x2100403000000008), (false, 65535, 1, 0x200040400000FFFF),
        (true, 65535, 1, 0x210040400000FFFF)],
      p.2.2.1 = 2 ^ wb (dw p.2.2.2) 37 36 ∧ accessLoc ready (dw p.2.2.2) = p.2.1 ∧
      accessFault (issued (atWord ready p.2.2.2) 0) 0 (dw p.2.2.2) p.2.1 p.2.2.1 p.1 = none) ∧
    anyPoi (markPoi (issued (atWord ready 0x2000403000000008) 0) (scratchBase 0 + 8) 8) (scratchBase 0 + 8) 8 = true ∧
    wb (dw 0x210040400000FFFF) 39 38 = 1 ∧
    entryNamed (issued (atWord ready 0x210040400000FFFF) 0) 0 (65535 / 64) = false ∧
    accessLoc ready (dw 0x2000402000000002) % 4 ≠ 0 ∧ accessLoc ready (dw 0x2100402000000002) % 4 ≠ 0 ∧
    (∀ p ∈ [(Op.ld, 0x2000403000400000), (.st, 0x2100403000300000), (.st, 0x210040700000FFF8)],
      Issuing (atWord naming p.2) 0 p.1 (dw p.2)) ∧
    accessFault (issued (atWord naming 0x2000403000400000) 0) 0 (dw 0x2000403000400000) 0x400000 8 false = some 3 ∧
    accessFault (issued (atWord naming 0x2100403000300000) 0) 0 (dw 0x2100403000300000) 0x300000 8 true = some 3 ∧
    entryNamed (issued (atWord naming 0x210040700000FFF8) 0) 0 1023 = true := by
  and_intros
  · exact all_issue (atWord ready) _ (by decide +kernel)
  on_goal 7 => exact all_issue (atWord naming) _ (by decide +kernel)
  all_goals decide +kernel

/-- Core 0 with word 0 `w`, of a job that maps the first MiB of HBM. -/
def mapped (w : Nat) : State :=
  let s := atWord ready w
  st (updJob (on ((List.range 8).map fun t => (.gal, t)) s.chip) 0 fun j => { j with maps := [⟨0, 0x100000, false⟩] })

/-- Core 0 with word 0 `w` and the address `a` in s1, of a job that maps 8 bytes there; the link to the host is `link`. -/
def far (a : Nat) (link : Bool) (w : Nat) : State :=
  let s := atWord { ready with s := [(1, BitVec.ofNat 64 a)] } w
  let ch := updJob (on ((.pci, 0) :: (List.range 8).map fun t => (.gal, t)) s.chip) 0 fun j => { j with maps := [⟨a, 8, false⟩] }
  st { ch with pci := { ch.pci with width := if link then 16 else 0 } }

/-- The state in which work that goes on without reports of the stacks works. -/
def onIt (s : State) (f : Chip → Chip) : State := after s (memReady s.chip [] (touched f s.chip))
def goesB (s : State) (via : Via) (f : Chip → Chip) : Bool :=
  live s.chip && !memHeld s.chip via (touched f s.chip) && !(touched f s.chip).any (touchLost s.chip via)
theorem goes_of {s : State} {via : Via} {f : Chip → Chip} (h : goesB s via f = true) : GoesOn s via [] f (onIt s f) := by
  simp only [goesB, Bool.and_eq_true, Bool.not_eq_true'] at h
  exact ⟨h.1.1, h.1.2, h.2, rfl⟩

/-- The load and the store of the word at the PC of core 0. -/
def ldAt (s : State) : State := onIt s (loadWord 0 host0)
def stAt (s : State) : State := onIt s (storeWord 0)

/-- LD and ST of device memory in a mapping, at its last doubleword, and past it; of another tower's line held by a DISABLED
stop and with the islands of the stacks lost; of host memory with the link up and down; of another scratchpad. -/
theorem witness_LoadStoreHbm :
    (∀ w ∈ [0x200040B0000FFFF8, 0x200040B000100000], GoesOn (mapped w) (.core 0) [] (loadWord 0 host0) (ldAt (mapped w)) ∧
      Issuing (ldAt (mapped w)) 0 .ld (dw w)) ∧
    (∀ w ∈ [0x210040B0000FFFF8, 0x210040B000100000], GoesOn (mapped w) (.core 0) [] (storeWord 0) (stAt (mapped w)) ∧
      Issuing (stAt (mapped w)) 0 .st (dw w)) ∧
    (∀ p ∈ [(0x200040B0000FFFF8, ldAt), (0x210040B0000FFFF8, stAt)], 8 = 2 ^ wb (dw p.1) 37 36 ∧ wb (dw p.1) 39 38 = 2 ∧
      fetchWord (mapped p.1).chip 0 0 = dw p.1 ∧ accessLoc (theCore (p.2 (mapped p.1)) 0) (dw p.1) = 0xFFFF8 ∧
      coreJob (issued (p.2 (mapped p.1)) 0) 0 = some 0 ∧
      reaches (issued (p.2 (mapped p.1)) 0) 0 0xFFFF8 0xFFFFF false = true ∧
      reaches (issued (p.2 (mapped p.1)) 0) 0 0xFFFF8 0xFFFFF true = true ∧
      anyPoi (issued (p.2 (mapped p.1)) 0) 0xFFFF8 8 = false) ∧
    (∀ p ∈ [(0x200040B000100000, ldAt), (0x210040B000100000, stAt)],
      accessLoc (theCore (p.2 (mapped p.1)) 0) (dw p.1) = 0x100000 ∧ coreJob (issued (p.2 (mapped p.1)) 0) 0 = some 0 ∧
      reaches (issued (p.2 (mapped p.1)) 0) 0 0x100000 0x100007 false = false ∧
      reaches (issued (p.2 (mapped p.1)) 0) 0 0x100000 0x100007 true = false) ∧
    (∀ p ∈ [(0x200041B000000000, loadWord 0 host0), (0x210041B000000000, storeWord 0)],
      ∀ s ch, s = far 0x4000000000 true p.1 →
      (ch = blkSet s.chip .gal 0 false .disabled → live ch = true ∧ memHeld ch (.core 0) (touched p.2 ch) = true) ∧
      (ch = { s.chip with islRun := 0xFFFF } → live ch = true ∧
        memHeld ch (.core 0) (touched p.2 ch) = false ∧ (touched p.2 ch).any (touchLost ch (.core 0)) = true)) ∧
    (∀ p ∈ [(outBase, true), (outBase, false), (scratchBase 1, true)], ∀ s, s = far p.1 p.2 0x200041B000000000 →
      goesB s (.core 0) (loadWord 0 host0) = true ∧ issuesB (ldAt s) 0 .ld (dw 0x200041B000000000) = true ∧
      ∀ ch, ch = issued (ldAt s) 0 → reaches ch 0 p.1 (p.1 + 7) false = true ∧
        anyPoi (hostRead ch 1 host0 [(p.1, 8)]) p.1 8 = false ∧ hostBad (hostRead ch 1 host0 [(p.1, 8)]) host0 = !p.2) ∧
    (∀ p ∈ [(outBase, true), (outBase, false), (scratchBase 1, true)], ∀ s, s = far p.1 p.2 0x210041B000000000 →
      goesB s (.core 0) (storeWord 0) = true ∧ issuesB (stAt s) 0 .st (dw 0x210041B000000000) = true ∧
      ∀ ch, ch = issued (stAt s) 0 → reaches ch 0 p.1 (p.1 + 7) true = true ∧
        hostOpen (landRange ch (some 0) .normal p.1 8 true) = p.2) ∧
    hbmEnd ≤ scratchBase 1 ∧ scratchBase 1 < outBase := by
  and_intros
  · exact fun w m => ⟨goes_of (by revert w; decide +kernel), issuing_of (by revert w; decide +kernel)⟩
  · exact fun w m => ⟨goes_of (by revert w; decide +kernel), issuing_of (by revert w; decide +kernel)⟩
  · simp only [List.forall_mem_cons, List.not_mem_nil, false_imp_iff, implies_true, and_true]; decide +kernel
  · simp only [List.forall_mem_cons, List.not_mem_nil, false_imp_iff, implies_true, and_true]; decide +kernel
  · intro p m s ch e
    subst e
    refine ⟨fun e => ?_, fun e => ?_⟩ <;> (subst e; revert p; decide +kernel)
  · simp only [List.forall_mem_cons, List.not_mem_nil, false_imp_iff, implies_true, and_true, forall_eq]; decide +kernel
  · simp only [List.forall_mem_cons, List.not_mem_nil, false_imp_iff, implies_true, and_true, forall_eq]; decide +kernel
  all_goals decide +kernel

def fullLoops : Core := { ready with loops := List.replicate 4 ⟨0, 5, 2⟩ }
def fullRets : Core := { ready with rets := List.replicate 16 7 }

/-- Both forms of BR; LOOP with L = 0, with a full stack, with n = 1 and n = 0, and past the end; CALL, RET. -/
theorem witness_ControlFlow :
    (∀ p ∈ [(Op.br, 0x3000200000000003), (.br, 0x3000400000000000), (.br, 0x30002000FFFFFFFF),
        (.loop, 0x3100200000010000), (.loop, 0x3100200000010001), (.loop, 0x3100200000000001), (.loop, 0x310020000000FFFF),
        (.call, 0x3200000000003FFF), (.call, 0x3200000000004000), (.ret, 0x3300000000000000)],
      Issuing (atWord ready p.2) 0 p.1 (dw p.2)) ∧
    (∀ p ∈ [(0x3100200000010000, 1, 0), (0x3100200000010001, 1, 1), (0x3100200000000001, 0, 1), (0x310020000000FFFF, 0, 0xFFFF)],
      wb (dw p.1) 45 45 = 1 ∧ wb (dw p.1) 31 16 = p.2.1 ∧ wb (dw p.1) 15 0 = p.2.2) ∧
    Issuing (atWord fullLoops 0x3100200000010001) 0 .loop (dw 0x3100200000010001) ∧
    Issuing (atWord fullRets 0x3200000000000001) 0 .call (dw 0x3200000000000001) ∧
    Issuing (atWord fullRets 0x3300000000000000) 0 .ret (dw 0x3300000000000000) := by
  and_intros
  · exact all_issue (atWord ready) _ (by decide +kernel)
  · decide +kernel
  all_goals exact issuing_of (by decide +kernel)

theorem witness_Halting :
    Issuing (atWord ready 0x3400000000000000) 0 .halt (dw 0x3400000000000000) ∧
    (live (atWord { ready with halting := true } 0).chip = true ∧
      (theCore (atWord { ready with halting := true } 0) 0).run = .running ∧
      (theCore (atWord { ready with halting := true } 0) 0).halting = true ∧
      (theCore (atWord { ready with halting := true } 0) 0).faultSeq = none ∧
      (theCore (atWord { ready with halting := true } 0) 0).q.all (fun i => i.phase == .done) = true) ∧
    (∀ s, s = atWord { ready with faultSeq := some 0 } 0 → live s.chip = true ∧ (theCore s 0).faultSeq.isSome = true ∧
      (theCore s 0).run = .running ∧ (theCore s 0).q.all (fun i => i.phase == .done) = true) ∧
    (live (atWord ready 0).chip = true ∧ canIssue (atWord ready 0).chip 0 = true ∧
      anyPoi (atWord ready 0).chip (imemBase 0) 8 = false ∧ decodeWord (fetchWord (atWord ready 0).chip 0 0) = none) := by
  and_intros
  · exact issuing_of (by decide +kernel)
  on_goal 6 => intro s e; subst e
  all_goals decide +kernel

/-- The words of the instructions that the sequencer executes, with a guard on p0 inverted. -/
def guarded : List (Op × Nat) := aluWords.map (fun p => (p.1, p.2 + 0x80000000000000)) ++
  [(.nop, 0x0180000000000000), (.ld, 0x2080403000000008), (.st, 0x2180403000000008), (.mfs, 0x2280400000000000),
   (.mts, 0x2380000000000009), (.dset, 0x2480400000000000), (.br, 0x3080200000000003), (.loop, 0x3180200000010001),
   (.call, 0x3280000000000001), (.ret, 0x3380000000000000), (.halt, 0x3480000000000000), (.sywToken, 0x4080400000000000),
   (.sywGe, 0x4082000000000000), (.sywEq, 0x4084000000000000), (.sysSignal, 0x4180000000000000),
   (.sysReset, 0x4182000000000000), (.sysArrive, 0x4184000000000000), (.fence, 0x4280000000000000)]

theorem witness_GuardFalse : guarded.length = 33 ∧ ∀ p ∈ guarded, ∀ s, s = atWord ready p.2 →
    live s.chip = true ∧ canIssue s.chip 0 = true ∧ anyPoi s.chip (imemBase 0 + 8 * (theCore s 0).pc) 8 = false ∧
    fetchWord s.chip 0 (theCore s 0).pc = dw p.2 ∧ decodeWord (dw p.2) = some p.1 ∧
    (regUse p.1 (dw p.2)).1.any (pendingReg (theCore s 0)) = false ∧
    (regUse p.1 (dw p.2)).2.any (pendingReg (theCore s 0)) = false ∧ guardOk (theCore s 0) (dw p.2) = false := by
  refine ⟨rfl, fun p m s e => ?_⟩
  subst e
  revert p
  decide +kernel

theorem witness_PreciseFault : (255 : Nat) < 256 ∧ (theCore (atWord ready 0) 0).faultSeq = none ∧
    queuesDone (theCore (atWord ready 0) 0) = true ∧ (theCore (atWord naming 0) 0).faultSeq = none ∧
    queuesDone (theCore (atWord naming 0) 0) = false := by decide +kernel
/-- An issued instruction of a queue, with word `w` and nothing fetched. -/
def qi (q : Queue) (w : Nat) (ph : Phase) : QInstr :=
  { seq := 0, q := q, pc := 0, word := dw w, eA := none, eB := none, eC := none, eP := none, x := 0, phase := ph, fA := 0,
    fB := 0, fC := 0, fP := 0, f1 := 0, f2 := 0, conf := 0, aux := [], auxPoi := false, sres := 0, pres := false }
def withQ (i : QInstr) : Core := { ready with q := [i] }
def mmaWord : Nat := 0x5000000000000000

/-- A wait on object 0. -/
def sywOn : SywWait := ⟨0, some 0, false, 0, false, false, 0, 0, 0⟩

/-- Tokens 1 and 7, objects 0 and 511 of the core's job and 512 of none, a poisoned object, a block that is not ENABLED, and
waits that hold, and one that is registered, faulted and held as the block and the object stand. -/
theorem witness_SyncWaits :
    (∀ p ∈ [(Op.sywToken, 0x4000400000000000), (.sywToken, 0x4001C00000000000), (.sywGe, 0x4002000000000000),
        (.sywEq, 0x40040000000001FF), (.sywGe, 0x4002000000000200), (.sywEq, 0x4004000000000200)],
      Issuing (atWord ready p.2) 0 p.1 (dw p.2)) ∧
    (∀ p ∈ [(0x4002000000000000, some 0), (0x40040000000001FF, some 511), (0x4002000000000200, none), (0x4004000000000200, none)],
      objOwned (issued (atWord ready p.1) 0) 0 (objectId ready (dw p.1)) = p.2) ∧
    Issuing (st { (atWord ready 0x4002000000000000).chip with objPoi := [0] }) 0 .sywGe (dw 0x4002000000000000) ∧
    Issuing (st { (atWord ready 0x4004000000000000).chip with objPoi := [0] }) 0 .sywEq (dw 0x4004000000000000) ∧
    (∀ p ∈ [(Op.sywGe, 0x4002000000000000), (.sywEq, 0x4004000000000000)],
      Issuing (st (blkSet (atWord ready p.2).chip .syn 0 false .disabled)) 0 p.1 (dw p.2)) ∧
    enabled (issued (atWord ready 0x4002000000000000) 0) .syn (objTower 0) = true ∧
    enabled (blkSet up .syn 0 false .disabled) .syn (objTower 0) = false ∧
    objPoisoned up 0 = false ∧ objPoisoned { up with objPoi := [0] } 0 = true ∧
    (∀ x ∈ [({ sywOn with seen := true } : SywWait), { sywOn with token := 1, obj := none }],
      (x.seen = true ∨ x.obj = none ∧ tokenHolds ready x.token x.v = true) ∧
      coreAlive (atWord { ready with run := .waiting, syw := some x } 0).chip 0 = true ∧
      (tcoreOf (atWord { ready with run := .waiting, syw := some x } 0).chip 0).under = none) ∧
    (live (atWord { ready with syw := some sywOn } 0).chip = true ∧
      enabled (atWord { ready with syw := some sywOn } 0).chip .syn (objTower 0) = true ∧
      objPoisoned (atWord { ready with syw := some sywOn } 0).chip 0 = false) ∧
    (0 < (regGet (regSet up .seqCfg 0 5) .seqCfg 0).toNat ∧
      0 + (regGet (regSet up .seqCfg 0 5) .seqCfg 0).toNat < tget [(0, 6)] 0 0) := by
  and_intros
  · exact all_issue (atWord ready) _ (by decide +kernel)
  · decide +kernel
  · exact issuing_of (by decide +kernel)
  · exact issuing_of (by decide +kernel)
  · intro p m
    apply issuing_of
    revert p
    decide +kernel
  all_goals decide +kernel

/-- A deferred SYS on object 0, and a remote one to package 0. -/
def behind : Core := { ready with defer := [⟨[0], 0, 0, 1, false, 0⟩, ⟨[0], 0, 9, 1, true, 0⟩] }

/-- Each mode on object 0 with no queue and with the engine queue, behind deferred ones, on an object of no
cluster, and remote. -/
theorem witness_SysOperations :
    (∀ p ∈ [(Op.sysSignal, 0x4100000000000000), (.sysReset, 0x4102000000000000), (.sysArrive, 0x4104000000000000),
        (.sysSignal, 0x4100000002000000), (.sysReset, 0x4102000002000000), (.sysArrive, 0x4104000002000000),
        (.sysSignal, 0x4100000000000200), (.sysReset, 0x4102000000000200), (.sysArrive, 0x4104000000000200)],
      Issuing (atWord ready p.2) 0 p.1 (dw p.2)) ∧
    (∀ p ∈ [(Op.sysSignal, 0x4100000000000000), (.sysReset, 0x4102000000000000), (.sysArrive, 0x4104000000000000),
        (.sysSignal, 0x4100000000000200)], Issuing (atWord behind p.2) 0 p.1 (dw p.2)) ∧
    Issuing (atWord (withQ (qi .engine mmaWord .queued)) 0x4100100000000200) 0 .sysSignal (dw 0x4100100000000200) ∧
    (behind.defer.any fun e => sendsAfter e ⟨[], 0, 0, 0, false, 0⟩) = true ∧
    (behind.defer.any fun e => sendsAfter e ⟨[], 0, 5, 0, true, 0⟩) = true ∧
    (∀ p ∈ [(Op.sysSignal, 0x4100100000000000), (.sysReset, 0x4102100000000000), (.sysArrive, 0x4104100000000000)],
      Issuing (atWord (withQ (qi .engine mmaWord .queued)) p.2) 0 p.1 (dw p.2)) ∧
    (wb (dw 0x4100100000000000) 9 9 = 0 ∧ wb (dw 0x4100000000000200) 9 9 = 1 ∧ ready.defer = [] ∧
      pendingSeqs (withQ (qi .engine mmaWord .queued)) (wb (dw 0x4100100000000000) 48 44) ≠ [] ∧
      pendingSeqs ready (wb (dw 0x4100000000000000) 48 44) = []) ∧
    objOwned (issued (atWord ready 0x4100000000000000) 0) 0 (0 + sx 16 0) = some 0 ∧
    objOwned (issued (atWord ready 0x4100000002000000) 0) 0 (0 + sx 16 0x200) = none := by
  and_intros
  · exact all_issue (atWord ready) _ (by decide +kernel)
  · exact all_issue (atWord behind) _ (by decide +kernel)
  · exact issuing_of (by decide +kernel)
  · decide +kernel
  · decide +kernel
  · exact all_issue (atWord (withQ (qi .engine mmaWord .queued))) _ (by decide +kernel)
  all_goals decide +kernel

theorem witness_FencesAndDeferred :
    nextSend { ready with defer := [⟨[], 0, 0, 1, false, 0⟩] } [] [⟨[], 0, 0, 1, false, 0⟩] =
      some (⟨[], 0, 0, 1, false, 0⟩, []) ∧
    Issuing (atWord ready 0x420F800000000000) 0 .fence (dw 0x420F800000000000) ∧
    (seqsDone (withQ (qi .engine mmaWord .done)) [0] = true ∧
      coreAlive (atWord { ready with fence := some ⟨[0], 8, false⟩ } 0).chip 0 = true) ∧
    entryNamed (atWord { ready with held := some ⟨64, [1]⟩ } 0).chip 0 (64 / 64) = false := by
  and_intros <;> first | exact issuing_of (by decide +kernel) | decide +kernel

/-- The device with the blocks of core 0 and tower 0 ENABLED, and core 0 in state `k` with word 0 `w`. -/
def busyWord (k : Core) (w : Nat) : State :=
  st (on [(.eng, 0), (.vec, 0), (.dma, 0), (.arc, 0), (.prg, 0), (.wch, 0), (.cal, 0)] (atWord k w).chip)
def wflushWord : Nat := 0x8000000000000200
def vecQueued : QInstr := qi .vector wflushWord .queued
def mmaQueued : QInstr := { qi .engine mmaWord .queued with eA := some 0 }

/-- A PRELOAD_BIAS of two tiles at tile `n`, of 32 elements at the start of the scratchpad, behind an MMA of one tile. -/
def biasEntry : Nat := scratchBase 0 + 0x21 * 2 ^ 48 + 32 * 2 ^ 128 + 4 * 2 ^ 224
def biasParam (n : Nat) : Nat := n * 2 ^ 16 + 2 ^ 24 + 2 ^ 32
def pairEntry : Nat := scratchBase 0 + 0x41 * 2 ^ 48 + 16 * 2 ^ 128 + 16 * 2 ^ 144 + 4 * 2 ^ 224 + 64 * 2 ^ 256
def biasQueued : QInstr := { qi .vector 0x8000000000000010 .queued with seq := 1, eA := some 0, eP := some 1 }
def biasAt (q : List QInstr) (e n : Nat) : Chip :=
  wrMem (busyWord { ready with q := q ++ [biasQueued] } 0).chip (descBase 0) (leBytes e 64 ++ leBytes (biasParam n) 64) false
def mmaOnTile0 : QInstr := { qi .engine mmaWord .started with fA := pairEntry, fB := pairEntry, fC := pairEntry, fP := 2 ^ 8 + 2 ^ 12 + 2 ^ 24 }

/-- Work that touches no memory goes on at once, on the state as it is. -/
theorem goes_still {s : State} {via : Via} {b : Bursts} {f : Chip → Chip} (h : live s.chip = true)
    (t : (touched f s.chip).isEmpty = true) : GoesOn s via b f s := by
  have t : touched f s.chip = [] := List.isEmpty_iff.mp t
  refine ⟨h, by rw [t]; rfl, by rw [t]; rfl, ?_⟩
  rw [t, Laws.memReady_nil]
  rfl

/-- Work on memory for which no partition waits goes on, on the state as it is, when the stacks report nothing. -/
def goesH (s : State) (via : Via) (f : Chip → Chip) : Bool :=
  goesB s via f && (payers (touched f s.chip)).all fun p => !(stackOf s.chip p.1).short.contains p.2.val
theorem goes_here {s : State} {via : Via} {f : Chip → Chip} (h : goesH s via f = true) : GoesOn s via [] f s := by
  simp only [goesH, goesB, Bool.and_eq_true, Bool.not_eq_true'] at h
  refine ⟨h.1.1.1, h.1.1.2, h.1.2, ?_⟩
  have e : ((payers (touched f s.chip)).filter fun p => (stackOf s.chip p.1).short.contains p.2.val) = [] := by
    rw [List.filter_eq_nil_iff]
    intro p m
    simpa using List.all_eq_true.mp h.2 p m
  unfold memReady
  rw [e]
  rfl

/-- An issue to a queue with room, to a full one, and to a block that is not ENABLED; starts with a poisoned entry, with
a slot that was never set, and of an instruction that passes its checks. -/
theorem witness_QueueIssueAndStart :
    queueOf .mma = some .engine ∧ queueOf .wflush = some .vector ∧
    Issuing (busyWord ready mmaWord) 0 .mma (dw mmaWord) ∧
    (∀ b code, queueBlk .engine = some (b, code) → enabled (busyWord ready mmaWord).chip b 0 = true) ∧
    (Issuing (busyWord { ready with q := List.replicate 16 mmaQueued } mmaWord) 0 .mma (dw mmaWord) ∧
      queueDepth .engine ≤ ((List.replicate 16 mmaQueued).filter fun i => i.q == .engine && i.phase != .done).length) ∧
    (queueBlk .engine = some (.eng, 7) ∧ enabled (atWord ready mmaWord).chip .eng 0 = false ∧
      Issuing (atWord ready mmaWord) 0 .mma (dw mmaWord)) ∧
    (∀ i ∈ [vecQueued, mmaQueued], queueRuns (busyWord (withQ i) 0).chip 0 i.q = true ∧
      islandRuns (busyWord (withQ i) 0).chip 0 = true ∧ (towerOf (busyWord (withQ i) 0).chip 0).fenced = false ∧
      ((withQ i).q.any fun j => j.q == i.q && j.phase == .started) = false ∧
      ((withQ i).q.find? fun j => j.q == i.q && j.phase == .queued) = some i) ∧
    (∀ p ∈ [(Queue.vector, (busyWord (withQ vecQueued) 0).chip), (.engine, (busyWord (withQ mmaQueued) 0).chip),
        (.engine, markPoi (busyWord (withQ mmaQueued) 0).chip (descBase 0) 64), (.vector, biasAt [] biasEntry 255),
        (.vector, biasAt [] biasEntry 254), (.vector, biasAt [] 0 0), (.vector, biasAt [mmaOnTile0] biasEntry 0),
        (.vector, blkSet (biasAt [] biasEntry 0) .eng 0 false .disabled)],
      live p.2 = true ∧ (touched (fun ch => startQueue ch 0 p.1) p.2).isEmpty = true) ∧
    fetchPoisoned (markPoi (busyWord (withQ mmaQueued) 0).chip (descBase 0) 64) 0 mmaQueued = true ∧
    (fetchPoisoned (busyWord (withQ mmaQueued) 0).chip 0 mmaQueued = false ∧
      slotMissing (fetched (busyWord (withQ mmaQueued) 0).chip 0 mmaQueued) .mma = true) ∧
    (∀ ch, ch = (busyWord (withQ vecQueued) 0).chip →
      fetchPoisoned ch 0 vecQueued = false ∧ slotMissing (fetched ch 0 vecQueued) .wflush = false ∧
      positionWaits ch 0 .wflush (fetched ch 0 vecQueued) = false ∧
      tileClash ch 0 true 0 [.engine, .array] (shapeTiles (tShape .wflush (fetched ch 0 vecQueued))) = false ∧
      opCheck ch 0 .wflush (fetched ch 0 vecQueued) = none) ∧
    (∀ p ∈ [(biasAt [] biasEntry 255, some 0x102), (biasAt [] biasEntry 254, none), (biasAt [] 0 0, some 2)],
      fetchPoisoned p.1 0 biasQueued = false ∧ slotMissing (fetched p.1 0 biasQueued) .preloadBias = false ∧
      tilesOff p.1 0 .preloadBias (fetched p.1 0 biasQueued) = false ∧
      tileClash p.1 0 true 1 [.engine, .array] (shapeTiles (tShape .preloadBias (fetched p.1 0 biasQueued))) = false ∧
      opCheck p.1 0 .preloadBias (fetched p.1 0 biasQueued) = p.2) ∧
    (∀ ch, ch = biasAt [mmaOnTile0] biasEntry 0 →
      tileClash ch 0 true 1 [.engine, .array] (shapeTiles (tShape .preloadBias (fetched ch 0 biasQueued))) = true) ∧
    (∀ ch, ch = blkSet (biasAt [] biasEntry 0) .eng 0 false .disabled →
      tilesOff ch 0 .preloadBias (fetched ch 0 biasQueued) = true) := by
  and_intros
  · decide
  · decide
  · exact issuing_of (by decide +kernel)
  · intro b code h
    injection h with h
    injection h with h1 h2
    subst h1
    decide +kernel
  · exact issuing_of (by decide +kernel)
  · decide +kernel
  · decide
  · decide +kernel
  · exact issuing_of (by decide +kernel)
  · decide +kernel
  · decide +kernel
  · decide +kernel
  · decide +kernel
  · decide +kernel
  · intro ch h
    subst h
    decide +kernel
  · decide +kernel
  · intro ch h
    subst h
    decide +kernel
  · intro ch h
    subst h
    decide +kernel

theorem witness_InstructionCompletes : ∀ p ∈ [(Queue.engine, mmaWord, Op.mma), (.vector, wflushWord, .wflush),
      (.array, 0x6000000000000000, .ard), (.vector, 0x8000000000000220, .wcheck)],
    ∀ i, i = qi p.1 p.2.1 .ran → ∀ s, s = busyWord (withQ i) 0 → live s.chip = true ∧
      (touched (instructionComplete 0 p.1 0) s.chip).isEmpty = true ∧ islandRuns s.chip 0 = true ∧
      ((theCore s 0).q.find? fun j => j.q == p.1 && j.phase == .ran && !unfinished s.chip 0 j) = some i ∧
      decodeWord i.word = some p.2.2 := by
  intro p m i e s f
  subst f
  subst e
  revert p
  decide +kernel

/-! ### Work of the queues -/

def startsB (s : State) (c : CoreId) (q : Queue) (op : Op) (i : QInstr) : Bool :=
  live s.chip && islandRuns s.chip (c.val / 128) &&
    (((coreOf s.chip c.val).q.find? fun j => j.q == q && j.phase == .started) == some i) && (decodeWord i.word == some op) &&
    !((q == .engine || q == .array) && tileClash s.chip c.val true i.seq [.vector] (instrTiles s.chip c.val i))

theorem started_of {s : State} {c : CoreId} {q : Queue} {op : Op} {i : QInstr} (h : startsB s c q op i = true) :
    Started s c q op i := by
  simp only [startsB, Bool.and_eq_true, Bool.not_eq_true', beq_iff_eq] at h
  obtain ⟨⟨⟨⟨a, b⟩, d⟩, e⟩, f⟩ := h
  exact ⟨a, b, d, e, f⟩

/-- Core 0 with the instruction `i` in its queue, its blocks ENABLED. -/
def running (i : QInstr) : State := busyWord (withQ i) 0

theorem all_start (l : List (Queue × Op × Nat))
    (h : (l.all fun p => startsB (running (qi p.1 p.2.2 .started)) 0 p.1 p.2.1 (qi p.1 p.2.2 .started)) = true) :
    ∀ p ∈ l, Started (running (qi p.1 p.2.2 .started)) 0 p.1 p.2.1 (qi p.1 p.2.2 .started) :=
  fun p m => started_of (List.all_eq_true.mp h p m)
/-- An operation of a queue: its word with every operand absent, and what it does. -/
abbrev Work := Queue × Op × Nat × (Chip → QInstr → Chip × QInstr)
/-- One that gives nothing at completion. -/
def plain (q : Queue) (op : Op) (w : Nat) (f : Chip → QInstr → Chip) : Work := (q, op, w, fun ch i => (f ch i, i))
def readWork0 (op : Op) (w : Nat) : Work := (.array, op, w, fun ch i => (readEffect ch 0 op i, { i with conf := 0 }))
def watchWork (op : Op) (w : Nat) (f : Chip → Nat → QInstr → Chip × QInstr) : Work := (.vector, op, w, fun ch i => f ch 0 i)
def vopWork (op : Op) (w : Nat) : Work := plain .vector op w fun ch i => vopEffect ch 0 op i
def vredWork (op : Op) (w : Nat) : Work := plain .vector op w fun ch i => vredEffect ch 0 op i
def preWork (op : Op) (w : Nat) : Work := plain .vector op w fun ch i => preloadEffect ch 0 op i
def dmaWork0 (op : Op) (w : Nat) : Work := plain .dma op w fun ch i => dmaEffect ch 0 op i host0
def workList : List Work :=
  [plain .engine .mma mmaWord fun ch i => mmaEffect ch 0 i, readWork0 .ard 0x6000000000000000,
    readWork0 .art 0x6100000000000000, preWork .preloadBias 0x8000000000000010, preWork .preloadResid 0x8000000000000020,
    plain .vector .mupd 0x8000000000000100 fun ch i => mupdEffect ch 0 i,
    plain .vector .wflush wflushWord fun ch _ => readArmed (if enabled ch .wch 0 then flushCache ch 0 else ch) 0,
    watchWork .wstep 0x8000000000000210 wstepEffect, watchWork .wcheck 0x8000000000000220 wcheckEffect,
    watchWork .wprobe 0x8000000000000230 wprobeEffect, watchWork .scalegen 0x8000000000000240 scalegenEffect,
    vopWork .vopAdd 0x8000000000000400, vopWork .vopSub 0x8000000000000410, vopWork .vopMul 0x8000000000000420,
    vopWork .vopFma 0x8000000000000430, vopWork .vopMax 0x8000000000000440, vopWork .vopMin 0x8000000000000450,
    vopWork .cvt 0x8000000000000460, vopWork .sfu 0x8000000000000470, vopWork .scale 0x8000000000000480,
    vopWork .colsum 0x8000000000000500, vredWork .softmaxBwd 0x8100000000000010, vredWork .normBwd 0x8100000000000020,
    plain .vector .drn 0x8200000000000000 fun ch i => drnEffect ch 0 i, dmaWork0 .dmaCopy 0x9000000000000000,
    dmaWork0 .dmaTranspose 0x9000000000000010, dmaWork0 .dmaConvert 0x9000000000000020,
    dmaWork0 .dmaTransposeConvert 0x9000000000000030]

/-- The started instruction of a line of the list (a WSTEP for step 1), and what it does as one work. -/
def instrOf (p : Work) : QInstr :=
  { qi p.1 p.2.2.1 .started with x := if p.2.1 = .wstep then 1 else 0 }
def workOf (p : Work) : Chip → Chip := coreStep run0 p.1 p.2.1 p.2.2.2

/-- In state `s` a line of the list goes on, on the memory as it is or with marks gone. -/
def worksB (s : State) (p : Work) : Bool :=
  startsB s 0 p.1 p.2.1 (instrOf p) && ((touched (workOf p) s.chip).isEmpty ||
    (goesB s (.core 0) (workOf p) && startsB (onIt s (workOf p)) 0 p.1 p.2.1 (instrOf p)))

theorem works_of {s : State} {p : Work} (h : worksB s p = true) :
    ∃ t, Works s run0 p.1 p.2.1 p.2.2.2 (instrOf p) t := by
  simp only [worksB, Bool.and_eq_true, Bool.or_eq_true] at h
  obtain ⟨a, b | b⟩ := h
  · exact ⟨s, goes_still (started_of a).live b, started_of a⟩
  · exact ⟨_, goes_of b.1, started_of b.2⟩

theorem all_work : ∀ p ∈ workList, ∃ t, Works (running (instrOf p)) run0 p.1 p.2.1 p.2.2.2 (instrOf p) t :=
  fun p m => works_of (List.all_eq_true.mp
    (by decide +kernel : (workList.all fun p => worksB (running (instrOf p)) p) = true) p m)

/-- A read in flight of array 0 of core 0: group 0, mode `m`, of all-zero widths. -/
def rd0 : Rd :=
  { seq := 0, phys := 0, logical := 0, trans := false, group := 0, mode := 0, g := 1, gMin := 1, lo := 0, hi := 0, sx := 0
    p := List.replicate 64 0, spill := none, side := [], masterBase := 0, tile := 0, pitch := 1, row := 0, cls := false
    nan := false, poison := false, doubt := none }
/-- One reading of 128 columns and 8 check columns. -/
def reading (y : Int) : ReadObs := ⟨⟨List.replicate 128 0, List.replicate 8 y⟩, ⟨[], []⟩, ⟨[], []⟩, ⟨[], []⟩⟩
def withRead (rd : Rd) (x : Arr) : State :=
  st (setArr (updBank (on [(.eng, 0)] (mapped 0).chip) 0 fun k => { k with reads := [rd] }) 0 0 x)
def loaded0 : Arr := { arrReset 0 0 with loaded := true, job := some 0 }

/-- A DOUBTFUL read whose own result for its one column is `y`. -/
def doubtful (y : Int) : Rd := { rd0 with doubt := some ([y], []) }
def rdT : Rd := { rd0 with trans := true, p := List.replicate 16 0 }
/-- One reading of 512 rows in both slots. -/
def readingT (y : Int) : ReadObs := ⟨⟨List.replicate 512 y, []⟩, ⟨[], []⟩, ⟨List.replicate 512 y, []⟩, ⟨[], []⟩⟩
/-- Core 0 with a batch in progress on array 0 and a read of it. -/
def splitRead (atomic : Bool) : State :=
  st (updBank (withRead rd0 loaded0).chip 0 fun k => { k with
    batch := some ⟨0, [], [], true, 1, atomic⟩ })

/-- An ARD of one vector of 32 elements and one group. -/
def oneRead (op : Nat) : QInstr := { qi .array op .started with fA := biasEntry, fC := biasEntry, fP := 256 }
/-- Core 0 with `i` started, array 0 loaded or not, and a move of its position under way or not. -/
def reading0 (i : QInstr) (x : Arr) (l : List Move) : State :=
  st (updBank (setArr (updTower (running i).chip 0 fun y => { y with traced := true }) 0 0 x) 0 fun k => { k with moves := l })
def toSpare : Move := ⟨0, 0, 128, true⟩
/-- An APG LOAD whose scales were poisoned, and an APG TRANSFER of a piece without elements. -/
def apgOne : QInstr := { qi .programmer 0x7000000000000010 .started with auxPoi := true }
def apgTwo : QInstr := { qi .programmer 0x7000000000000020 .started with fA := 1 * 2 ^ 48 + 2 ^ 128 * 0 }
def apgEffect (ch : Chip) (i : QInstr) : Chip × QInstr :=
  (loadPosition ch 0 (apgLogical i) (apgMaster i).base.toNat (apgImageDa i.fP)
    (if apgAuto i.fP then autoScales ch (apgMaster i).base.toNat else i.aux) i.auxPoi [], i)

/-- Every operation of the first three queues works; with the array loaded, unloaded, and its position waiting for a spare;
with the programmer's, what its parameter block says, a read that waits, a full transfer queue and a DISABLED block. -/
theorem witness_MatrixAndArrayWork :
    (∀ p ∈ workList, p.1 = .engine → ∃ t, Works (running (instrOf p)) run0 p.1 p.2.1 p.2.2.2 (instrOf p) t) ∧
    (∀ p ∈ [(Op.ard, 0x6000000000000000), (.art, 0x6100000000000000)],
      (∀ s, s = reading0 (oneRead p.2) loaded0 [] → startsB s 0 .array p.1 (oneRead p.2) = true ∧
        (touched (coreStep run0 .array p.1 fun ch i => (readEffect ch 0 p.1 i, { i with conf := 0 })) s.chip).isEmpty = true ∧
        posWaits s.chip 0 0 = false ∧ posLoaded s.chip 0 0 = true) ∧
      (∀ s, s = reading0 (oneRead p.2) (arrReset 0 0) [] → startsB s 0 .array p.1 (oneRead p.2) = true ∧
        posWaits s.chip 0 0 = false ∧ readsNothing p.1 (oneRead p.2) = false ∧ posLoaded s.chip 0 0 = false) ∧
      (∀ s, s = reading0 (oneRead p.2) loaded0 [toSpare] → startsB s 0 .array p.1 (oneRead p.2) = true ∧
        posWaits s.chip 0 0 = true)) ∧
    (∀ s, s = running apgOne → startsB s 0 .programmer .apgLoad apgOne = true ∧
      (touched (coreStep run0 .programmer .apgLoad apgEffect) s.chip).isEmpty = true ∧ loadReady s.chip 0 0 = true ∧
      serves s.chip 0 0 = true ∧ transfers (bankOf s.chip 0) < 16384 ∧
      loadReady (updBank s.chip 0 fun k => { k with reads := [rd0] }) 0 0 = false ∧
      serves (updArr s.chip 0 0 fun y => { y with role := 1 }) 0 0 = false) ∧
    (∀ (t : XEnt) (n : Nat), t.refresh = false → transfers { bankOf up 0 with xq := List.replicate n t, batch := none } = n) ∧
    (∀ i ∈ [apgTwo, { apgTwo with fA := biasEntry }], ∀ s, s = running i →
      startsB s 0 .programmer .apgTransfer i = true ∧ (touched (apgTransferWork run0) s.chip).isEmpty = true ∧
      progReady s.chip 0 = true ∧ posWaits s.chip 0 0 = false ∧ posLoaded s.chip 0 0 = false ∧
      ((apgMaster i).ext.contains 0 = decide (i = apgTwo)) ∧
      progReady (blkSet s.chip .prg 0 false .disabled) 0 = false) ∧
    posWaits (reading0 apgTwo loaded0 [toSpare]).chip 0 0 = true := by
  and_intros
  · exact fun p m _ => all_work p m
  · intro p m
    simp only [forall_eq]
    revert p
    decide +kernel
  · intro s h
    subst h
    decide +kernel
  · intro t n h
    simp [transfers, h]
  · intro i m
    simp only [forall_eq]
    revert i
    decide +kernel
  · decide +kernel

/-- The transposed pass of slots `p.2.2.1` times the reading `p.2.1` ends as `p.2.2.2` says: not enough slots, DOUBTFUL or not. -/
def transEnds (s : State) (p : Bool × Int × Nat × Option Bool) : Bool :=
  (resolve 0 1024 (regFld s.chip .arcCheckCfg 0 23 8) (2 ^ regFld s.chip .arcCfg 0 2 0) true (transExp loaded0 rdT p.1)
    ((List.replicate p.2.2.1 (readingT p.2.1)).map fun o => transSlot loaded0 rdT p.1 o.first o.spill)).map
      (fun r => decide (16 ≤ r.conf)) == p.2.2.2

theorem transEnds_first : transEnds (withRead rdT loaded0) (true, 0, 1, some false) = true := by decide +kernel

theorem transEnds_second : transEnds (withRead rdT loaded0) (false, 0, 1, some false) = true := by decide +kernel

theorem transEnds_doubtful : transEnds (withRead rdT loaded0) (false, 4000, 8, some true) = true := by decide +kernel

/-- A read behind a batch or DOUBTFUL, one whose checks agree at once, one that never does, and one with too few slots,
forward and transposed. -/
theorem witness_ForwardReadResolves :
    (∀ rd ∈ [rd0, rdT], ∀ s, s = withRead rd loaded0 → live s.chip = true ∧
      (touched (readFailing 0 ⟨0, [], []⟩ (readResolve 0 ⟨0, [], []⟩ [])) s.chip).isEmpty = true ∧
      islandRuns s.chip 0 = true ∧ islandRuns s.chip 8 = true ∧ blkGet s.chip .eng 0 ≠ .disabled ∧
      ((bankOf s.chip 0).reads.find? fun r => r.phys == 0) = some rd ∧ rd.doubt = none ∧ splits s 0 rd true = false) ∧
    (splits (splitRead true) 0 rd0 true = true ∧ splits (splitRead false) 0 rd0 true = false ∧
      splits (splitRead false) 0 rd0 false = true ∧ (doubtful 0).doubt.isSome = true) ∧
    (∀ s, s = withRead rd0 loaded0 → ∀ p ∈ [(0, 1, some 0), (16000, 8, some 19), (16000, 1, none)],
      (resolve 0 256 (regFld s.chip .arcCheckCfg 0 7 0) (2 ^ regFld s.chip .arcCfg 0 2 0) false
        (forwardExp loaded0 rd0) ((List.replicate p.2.1 (reading p.1)).map (forwardSlot loaded0 rd0))).map Resolved.conf =
          p.2.2) ∧
    (∀ s, s = withRead rdT loaded0 → ∀ p ∈ [(true, 0, 1, some false), (false, 0, 1, some false), (false, 4000, 8, some true),
        (false, 0, 0, none)], transEnds s p = true) := by
  and_intros
  · intro rd m s h
    subst h
    revert rd
    decide +kernel
  · decide +kernel
  · decide +kernel
  · decide +kernel
  · decide +kernel
  · intro s h
    subst h
    decide +kernel
  · intro s h
    subst h
    exact List.forall_mem_cons.2 ⟨transEnds_first, List.forall_mem_cons.2 ⟨transEnds_second,
      List.forall_mem_cons.2 ⟨transEnds_doubtful, by decide +kernel⟩⟩⟩

/-- The vector queue's operations work with every operand absent. -/
theorem witness_VectorWork : (workList.filter fun p => p.1 == .vector).length = 21 ∧
    ∀ p ∈ workList, p.1 = .vector → ∃ t, Works (running (instrOf p)) run0 p.1 p.2.1 p.2.2.2 (instrOf p) t :=
  ⟨by decide +kernel, fun p m _ => all_work p m⟩

/-- A WFLUSH started while WCH is in STOPPING with the cache `l`. -/
def stopping (l : List WEnt) : State :=
  st (updAcc (blkSet (running (qi .vector wflushWord .started)).chip .wch 0 false .stopping) 0 fun a => { a with cache := l })

theorem witness_WatcherWork :
    (∀ p ∈ workList, p.2.1 ∈ [Op.wflush, .wstep, .wcheck, .wprobe, .scalegen] →
      ∃ t, Works (running (instrOf p)) run0 p.1 p.2.1 p.2.2.2 (instrOf p) t) ∧
    blkGet (running (qi .vector wflushWord .started)).chip .wch 0 = .enabled ∧
    (Started (atWord (withQ (qi .vector wflushWord .started)) 0) 0 .vector .wflush (qi .vector wflushWord .started) ∧
      blkGet (atWord (withQ (qi .vector wflushWord .started)) 0).chip .wch 0 = .disabled) ∧
    (∀ l ∈ [[], [WEnt.mk 0 0 { recZero with flags := 1 }]], ∀ s, s = stopping l →
      startsB s 0 .vector .wflush (qi .vector wflushWord .started) = true ∧ blkGet s.chip .wch 0 = .stopping ∧
      (accOf s.chip 0).cache.any entDirty = (l != [])) := by
  and_intros
  · exact fun p m _ => all_work p m
  · decide +kernel
  · exact started_of (by decide +kernel)
  · decide +kernel
  · intro l m s h
    subst h
    revert l
    decide +kernel

/-- A copy of one F32 element to byte 0 of descriptor memory, behind an MMA that names entry 0 and has not fetched it. -/
def heldCopy : QInstr :=
  { qi .dma 0x9000000000000000 .started with seq := 1, fC := 0x21000000000000 + 2 ^ 128 + 4 * 2 ^ 224, fP := 2 }

/-- A copy of one F32 element of HBM to the scratchpad. -/
def hbmCopy : QInstr :=
  { qi .dma 0x9000000000000000 .started with
    fA := 0x21000000000000 + 2 ^ 128 + 4 * 2 ^ 224, fC := scratchBase 0 + 0x21000000000000 + 2 ^ 128 + 4 * 2 ^ 224 }

def hbmLine : Work := dmaWork0 .dmaCopy 0x9000000000000000
/-- The same of another tower's line. -/
def farCopy : QInstr := { hbmCopy with fA := hbmCopy.fA + 0x4000000000 }

theorem witness_DmaWork :
    (∀ p ∈ workList, p.1 = .dma → (∃ t, Works (running (instrOf p)) run0 p.1 p.2.1 p.2.2.2 (instrOf p) t)) ∧
    (∀ p ∈ workList, p.1 = .dma → dmaHeld (running (instrOf p)).chip 0 (instrOf p) = false) ∧
    (∀ s, s = busyWord { ready with q := [mmaQueued, heldCopy] } 0 →
      startsB s 0 .dma .dmaCopy heldCopy = true ∧ dmaHeld s.chip 0 heldCopy = true) ∧
    (∀ s, s = running hbmCopy → startsB s 0 .dma .dmaCopy hbmCopy = true ∧ dmaHeld s.chip 0 hbmCopy = false ∧
      goesB s (.core 0) (workOf hbmLine) = true ∧ startsB (onIt s (workOf hbmLine)) 0 .dma .dmaCopy hbmCopy = true) ∧
    (∀ s, s = running farCopy → startsB s 0 .dma .dmaCopy farCopy = true ∧ dmaHeld s.chip 0 farCopy = false ∧
      memHeld s.chip (.core 0) (touched (workOf hbmLine) s.chip) = true) := by
  and_intros
  · exact fun p m _ => all_work p m
  · decide +kernel
  · intro s h
    subst h
    decide +kernel
  · intro s h
    subst h
    decide +kernel
  · intro s h
    subst h
    decide +kernel

/-- Every operation works in the same kind of state, and what could hold it back does not. -/
theorem witness_StartedWorkRuns : workList.length = 28 ∧
    (∀ p ∈ workList, ∃ t, Works (running (instrOf p)) run0 p.1 p.2.1 p.2.2.2 (instrOf p) t) ∧
    (∀ s, s = running apgOne → startsB s 0 .programmer .apgLoad apgOne = true ∧
      (touched (coreStep run0 .programmer .apgLoad apgEffect) s.chip).isEmpty = true ∧ loadReady s.chip 0 0 = true ∧
      serves s.chip 0 0 = true ∧ transfers (bankOf s.chip 0) < 16384) ∧
    (∀ p ∈ [(Op.ard, 0x6000000000000000), (.art, 0x6100000000000000)], ∀ s, s = reading0 (oneRead p.2) loaded0 [] →
      startsB s 0 .array p.1 (oneRead p.2) = true ∧
      (touched (coreStep run0 .array p.1 fun ch i => (readEffect ch 0 p.1 i, { i with conf := 0 })) s.chip).isEmpty = true ∧
      posWaits s.chip 0 0 = false ∧ posLoaded s.chip 0 0 = true) ∧
    blkGet (running (qi .vector wflushWord .started)).chip .wch 0 ≠ .stopping ∧
    (∀ p ∈ workList, p.1 = .dma → dmaHeld (running (instrOf p)).chip 0 (instrOf p) = false) := by
  and_intros
  · decide +kernel
  · exact all_work
  · intro s h
    subst h
    decide +kernel
  · intro p m
    simp only [forall_eq]
    revert p
    decide +kernel
  · decide +kernel
  · decide +kernel

/-- A master that is not mapped, one that is poisoned, one that agrees and one that does not; a clean tile, a tile with
poison and one in use; a word of each scrubbed memory. -/
theorem witness_RefereeTilesAndScrubs :
    (∀ y ∈ [0, 4096], ∀ s, s = withRead (doubtful y) loaded0 →
      live s.chip = true ∧ islandRuns s.chip 0 = true ∧ blkGet s.chip .eng 0 ≠ .disabled ∧
      ((bankOf s.chip 0).reads.find? fun r => r.phys == 0) = some (doubtful y) ∧ (doubtful y).doubt = some ([y], []) ∧
      masterMapped s.chip (arrOf s.chip 0 0) = true ∧ refereePoisoned s.chip (arrOf s.chip 0 0) (doubtful y) = false ∧
      agrees (doubtful y) (regFld s.chip .tslRefCfg 0 15 0) y ((referee s.chip (arrOf s.chip 0 0) (doubtful y)).getD 0 0) =
        decide (y = 0)) ∧
    (∀ s, s = withRead (doubtful 0) loaded0 →
      goesB s (.core 0) (readFailing 0 ⟨0, [], []⟩ (banisterReferee 0 ⟨0, [], []⟩)) = true) ∧
    (masterMapped (withRead (doubtful 0) (arrReset 0 0)).chip (arrReset 0 0) = false ∧
      refereePoisoned (markPoi up 0 4) loaded0 (doubtful 0) = true ∧ coreJob up 0 = some 0 ∧ coreJob up 8 = none) ∧
    (∀ ch, ch = on [(.eng, 0)] up → islandRuns ch 0 = true ∧ blkGet ch .eng 0 = .enabled ∧ (tileOf ch 0 255).st ≠ 2 ∧
      (tileOf ch 0 255).poison = false ∧ contribVal (.fin 1 0) = some (vofInt 1 0) ∧
      (addConv (latchTile (tileOf ch 0 255) false) 255 false (vofInt 1 0)).saturated = false ∧
      (tileOf (updTile ch 0 0 fun x => { x with poison := true }) 0 0).poison = true ∧
      (tileOf (updTile ch 0 0 fun x => { x with poison := true }) 0 0).st ≠ 2 ∧
      (tileOf (updTile ch 0 0 fun x => { x with poison := true, st := 2 }) 0 0).st = 2 ∧ contribVal .poisoned = none ∧
      (∀ p ∈ [(130, false, false), (130, true, false), (200, true, true)],
        (addConv (latchTile (tileOf ch 0 255) p.2.1) 255 false (vofInt 1 p.1)).saturated = true ∧
        (latchTile (tileOf ch 0 255) p.2.1).grad = p.2.1 ∧
        (replay 4 (latchTile (tileOf ch 0 255) true) 255 false (vofInt 1 p.1) 0).how =
          if p.2.2 then .exhausted else .fits) ∧
      (replay 4 { latchTile (tileOf ch 0 255) true with fail := some 0 } 255 false (vofInt 1 130) 0).how = .parity ∧
      (tileOf (updTile ch 0 0 fun x => { x with st := 2, fail := some 0 }) 0 0).poison = false ∧
      (tileOf (tileRead (parityFind (updTile ch 0 0 fun x => { x with st := 2 }) 0 0) 0 0) 0 0).poison = true ∧
      (tileOf (updTile ch 0 0 fun x => { x with st := 1 }) 0 0).st ≠ 0) ∧
    (scrubAddr 0 .scratch 0xBFFFF).isSome = true ∧ (scrubAddr 0 .imem 0x7FFF).isSome = true ∧
    (scrubAddr 0 .desc 0x3FFF).isSome = true ∧ scrubAddr 0 .desc 0x4000 = none ∧ (tileOf up 0 0).st = 0 := by
  and_intros
  · intro y m s h
    subst h
    revert y
    decide +kernel
  · intro s h
    subst h
    decide +kernel
  · decide +kernel
  · decide +kernel
  · decide +kernel
  · decide +kernel
  · intro ch h
    subst h
    decide +kernel
  all_goals decide +kernel
/-- A batch of one cell that never reads its target. -/
def stuck : Batch := ⟨0, [⟨0, 0, 10, 0, 0, none, false⟩], [], true, 0, false⟩
def never : List (List Nat) := List.replicate 9 [0]
/-- Array 0 of core 0 is `x`, its bank `b`; the programmer of the core is ENABLED, and job 0 maps the first MiB. -/
def withBank (b : Bank) (x : Arr) : State := st (setArr (setBank (busyWord ready 0).chip 0 b) 0 0 x)
def move0 (fenced : Bool) : Bank := { bankReset with moves := [⟨0, 0, 128, fenced⟩] }

/-- An array whose master and image record lie where no home slice is reached. -/
def beyond : Arr := { loaded0 with master := 2 ^ 48, image := 2 ^ 48 }

theorem anyPoi_beyond (ch : Chip) (a : Nat) (h : ch.poi = []) (l : 2 ^ 48 ≤ a) : anyPoi ch a 4 = false := by
  simp only [anyPoi, List.any_eq_false, h, wordsOf]
  intro g m
  simp only [List.mem_map, List.mem_range, if_neg (by decide : ¬ (4 : Nat) = 0)] at m
  obtain ⟨k, hk, rfl⟩ := m
  have b : hbmEnd ≤ (a / 4 + k) * 4 := by simp only [hbmEnd]; omega
  have c : poisonWindow ((a / 4 + k) * 4) = false := by simp only [poisonWindow, decide_eq_false_iff_not]; omega
  simp [c, hbmLost, Nat.not_lt.mpr b]

theorem loadable_beyond (ch : Chip) (x : Arr) (u : Bool) (h : ch.poi = []) (m : x.master = 2 ^ 48) :
    loadable ch x u = true := by
  simp only [loadable, List.all_eq_true, List.mem_range]
  intro r hr w hw
  have e := anyPoi_beyond ch (masterAddr x r w) h (by simp only [masterAddr, m]; omega)
  simp [loadTarget, e]

/-- Loading such an array reaches no line. -/
theorem loadArray_beyond (ch : Chip) (u : Bool) (h : ch.poi = []) (m : (arrOf ch 0 128).master = 2 ^ 48)
    (i : (arrOf ch 0 128).image = 2 ^ 48) : (loadArray ch 0 128 u []).land = ch.land := by
  rw [Laws.loadArray_land]
  simp only []
  rw [if_pos (loadable_beyond ch _ u h m)]
  simp only [arrayFetch, landRange, landRangeBy, m, i]
  simp [hbmEnd]

def mv (f : Bool) : Move := ⟨0, 0, 128, f⟩
/-- The state in which the spare of `move0` is to be loaded while master word 0 and its image record are poisoned. -/
def lostWeight : State :=
  let ch := (withBank (move0 false) loaded0).chip
  st (markPoi (markPoi ch 0 4) (imgAddr (arrOf (moveEntry ch 0 (mv false)) 0 128) 0 0) 4)

/-- Loading the spare of a position touches nothing where its master and image lie beyond memory. -/
theorem still_move (f : Bool) (m : f ∈ [false, true]) :
    (touched (if f then fencedSpareLoadWork run0 0 [] else spareSwitchWork run0 0 [])
      (withBank (move0 f) beyond).chip).isEmpty = true := by
  unfold touched
  generalize hc : ({ (withBank (move0 f) beyond).chip with
    land := { (withBank (move0 f) beyond).chip.land with log := some [] } } : Chip) = ch
  have hb : (bankOf ch 0).moves.find? (fun m => m.logical == 0 && m.fenced == f) = some (mv f) := by
    subst hc; revert f; decide +kernel
  have hr : moveReady ch 0 (mv f) = true := by subst hc; revert f; decide +kernel
  have hl : (arrOf ch 0 0).loaded = true := by subst hc; revert f; decide +kernel
  have hp : (moveEntry ch 0 (mv f)).poi = [] := by subst hc; revert f; decide +kernel
  have hm : (arrOf (moveEntry ch 0 (mv f)) 0 128).master = 2 ^ 48 := by subst hc; revert f; decide +kernel
  have hi : (arrOf (moveEntry ch 0 (mv f)) 0 128).image = 2 ^ 48 := by subst hc; revert f; decide +kernel
  have hg : ch.land.log = some [] := by subst hc; rfl
  have hL := loadable_beyond _ _ true hp hm
  have hA := loadArray_beyond _ true hp hm hi
  cases f
  · have hb' : (bankOf ch 0).moves.find? (fun m => m.logical == 0 && !m.fenced) = some (mv false) := by
      simpa using hb
    have e : spareSwitchWork run0 0 [] ch = finishMove (loadArray (moveEntry ch 0 (mv false)) 0 128 true []) 0 (mv false) := by
      show (match (bankOf ch 0).moves.find? (fun m => m.logical == 0 && !m.fenced) with | none => ch | some m => _) = _
      rw [hb']
      exact (if_neg (not_not.mpr hr)).trans ((if_neg (not_not.mpr hl)).trans (if_pos hL))
    simp only [Bool.false_eq_true, if_false]
    rw [e, Laws.finishMove_land, hA, Laws.moveEntry_land, hg]
    rfl
  · have hb' : (bankOf ch 0).moves.find? (fun m => m.logical == 0 && m.fenced) = some (mv true) := by
      simpa using hb
    have e : fencedSpareLoadWork run0 0 [] ch = finishMove (loadArray (moveEntry ch 0 (mv true)) 0 128 true []) 0 (mv true) := by
      show (match (bankOf ch 0).moves.find? (fun m => m.logical == 0 && m.fenced) with | none => ch | some m => _) = _
      rw [hb']
      exact (if_neg (not_not.mpr hr)).trans (congrArg (fun x => finishMove x 0 (mv true)) (if_pos hl))
    simp only [if_true]
    rw [e, Laws.finishMove_land, hA, Laws.moveEntry_land, hg]
    rfl

/-- A batch that ends with its ninth round and one whose burst leaves it open; one behind a read, split and atomic; moves of
an array with data, without, and fenced, ready and not, and with a weight without a source; a refresh that is due and one
that is not, one that starts and one that goes on; the wear log. -/
theorem witness_ProgrammerWork :
    (∀ s, s = withBank { bankReset with batch := some stuck } loaded0 → live s.chip = true ∧
      (∀ n ∈ [4, 9], (touched (fun ch => runBatch ch 0 n never) s.chip).isEmpty = true) ∧
      (currentBatch s.chip 0).map Prod.snd = some stuck ∧ noReads s.chip 0 stuck.phys = true ∧
      (∀ n ∈ [4, 9], batchOver (batchRun (arrOf s.chip 0 0) n stuck never) = decide (n = 9))) ∧
    (∀ b ∈ [stuck, { stuck with atomic := true }, { stuck with atomic := true, rnd := 4 }],
      ∀ s, s = withBank { bankReset with batch := some b, reads := [rd0] } loaded0 →
      (touched (fun ch => runBatch ch 0 9 never) s.chip).isEmpty = true ∧
      (currentBatch s.chip 0).map Prod.snd = some b ∧ noReads s.chip 0 b.phys = false) ∧
    (currentBatch (withBank bankReset loaded0).chip 0 = none ∧
      (touched (fun ch => runBatch ch 0 9 never) (withBank bankReset loaded0).chip).isEmpty = true) ∧
    (∀ f ∈ [false, true], ∀ x ∈ [loaded0, arrReset 0 0], ∀ s, s = withBank (move0 f) x →
      moveReady s.chip 0 (mv f) = true ∧ moveReady (blkSet s.chip .prg 0 false .disabled) 0 (mv f) = false ∧
      ((bankOf s.chip 0).moves.find? fun m => m.logical == 0 && m.fenced == f) = some (mv f) ∧
      (arrOf s.chip 0 0).loaded = x.loaded) ∧
    (∀ f ∈ [false, true], ∀ s, s = withBank (move0 f) beyond →
      (touched (if f then fencedSpareLoadWork run0 0 [] else spareSwitchWork run0 0 []) s.chip).isEmpty = true ∧
      moveReady s.chip 0 (mv f) = true ∧ (arrOf s.chip 0 0).loaded = true ∧
      loadable (moveEntry s.chip 0 (mv f)) (arrOf (moveEntry s.chip 0 (mv f)) 0 128) true = true) ∧
    (∀ f ∈ [false, true], ∀ s, s = withBank (move0 f) (arrReset 0 0) →
      (touched (if f then fencedSpareLoadWork run0 0 [] else spareSwitchWork run0 0 []) s.chip).isEmpty = true) ∧
    (touched (spareSwitchWork run0 0 []) lostWeight.chip).isEmpty = true ∧
    (moveReady lostWeight.chip 0 (mv false) = true ∧ (arrOf lostWeight.chip 0 0).loaded = true ∧
      loadable (moveEntry lostWeight.chip 0 (mv false)) (arrOf (moveEntry lostWeight.chip 0 (mv false)) 0 128) true = false) ∧
    (∀ s, s = withBank bankReset { loaded0 with interval := some 1 } → 0 < refreshHours s.chip 0 0 ∧
      (arrOf s.chip 0 0).loadAt + refreshHours s.chip 0 0 * 3600000000 ≤ 3600000000 ∧
      s.chip.us < (arrOf s.chip 0 0).loadAt + refreshHours s.chip 0 0 * 3600000000) ∧
    refreshHours (regSet up .prgRefreshCfg 0 0) 0 0 = 0 ∧
    (∀ s, s = withBank { bankReset with refreshQ := [0] } loaded0 → progReady s.chip 0 = true ∧
      (touched (arrayRefreshRunWork run0 0 []) s.chip).isEmpty = true ∧
      (bankOf s.chip 0).refreshQ.contains 0 = true ∧ (bankOf s.chip 0).refresh = none ∧ (bankOf s.chip 0).batch = none) ∧
    (∀ s, s = withBank { bankReset with refresh := some ⟨0, 2112, 0⟩ } loaded0 → progReady s.chip 0 = true ∧
      (touched (arrayRefreshRunWork run0 0 []) s.chip).isEmpty = true ∧
      (bankOf s.chip 0).refresh = some ⟨0, 2112, 0⟩) ∧
    (2 ≤ up.phase ∧ up.phase ≤ 4) := by
  and_intros
  · intro s h; subst h; decide +kernel
  · intro b m s h; subst h; revert b; decide +kernel
  · decide +kernel
  · decide +kernel
  · intro f m x n s h; subst h; revert f x; decide +kernel
  · intro f m s h; subst h
    refine ⟨still_move f m, by revert f; decide +kernel, by revert f; decide +kernel, loadable_beyond _ _ _ ?_ ?_⟩ <;>
      (revert f; decide +kernel)
  · intro f m s h; subst h; revert f; decide +kernel
  · decide +kernel
  · decide +kernel
  · decide +kernel
  · decide +kernel
  · intro s h; subst h; decide +kernel
  · decide +kernel
  · intro s h; subst h; decide +kernel
  · intro s h; subst h; decide +kernel
  all_goals decide

/-- Tower 0 in state `t`, the field of core 0 in state `f`. -/
def calState (t : Tower) (f : Field) (x : Arr) : State :=
  st (setArr (updField (updTower (regSet (busyWord ready 0).chip .calCtrl 0 2) 0 fun _ => t) 0 fun _ => f) 0 0 x)

/-- What group n finds with the codes `l`. -/
def found0 (l : List (Nat × Nat)) : CalObs := ⟨128, l, [], []⟩

/-- A field that moved by one step more than the limit, idle and in its run, and one that did not, also in CALIBRATION; a
field with nothing due; group 1 of a due array with a code and with an end code, and group 9; traces asked for, due, neither, and after a
fault; a field that waited for a second and a microsecond. -/
theorem witness_CalibrationWork :
    (∀ f, f = { fieldReset with tNow := fieldReset.tLast + 10000 } →
      ∀ g ∈ [f, { f with running := true }, { f with running := true, again := true }],
      ∀ s, s = calState towerReset g loaded0 → live s.chip = true ∧ (fieldOf s.chip 0).running = g.running ∧
      (fieldOf s.chip 0).again = g.again ∧
      (calAuto s.chip 0 && moved (fieldTemp s.chip 0) (fieldOf s.chip 0).tLast (dtCal s.chip 0)) = true) ∧
    (∀ s, s = calState towerReset { fieldReset with due := [] } loaded0 → nextCal s.chip 0 = none ∧
      moved (fieldTemp s.chip 0) (fieldOf s.chip 0).tLast (dtCal s.chip 0) = false ∧
      (towerOf s.chip 0).busy = false ∧ traceDue s.chip 0 = false ∧ (fieldOf s.chip 0).due = []) ∧
    (∀ b ∈ [false, true], ∀ ch, ch = { (calState towerReset { fieldReset with running := b } loaded0).chip with phase := 2 } →
      live ch = true ∧ islandRuns ch 21 = true ∧ (fieldOf ch 0).running = b ∧ ch.phase ≠ 4) ∧
    ((runGroup loaded0.staged 9 (found0 [(0, 31)])).2.2 = true ∧ (runGroup loaded0.staged 9 (found0 [(0, 5)])).2.2 = false) ∧
    (∀ p ∈ [(1, [(0, 5)], false), (1, [(0, 31)], true), (9, [], false)],
      ∀ s, s = calState towerReset { fieldReset with due := [0] } { loaded0 with cal := p.1 } →
      enabled s.chip .cal 0 = true ∧ (towerOf s.chip 0).busy = false ∧ islandRuns s.chip 8 = true ∧
      (towerOf s.chip 0).fenced = false ∧ nextCal s.chip 0 = some 0 ∧ (arrOf s.chip 0 0).cal = p.1 ∧
      (runGroup (arrOf s.chip 0 0).staged p.1 (found0 p.2.1)).2.1 = p.2.2) ∧
    (∀ s, s = calState { towerReset with busy := true, fault := true, traced := true } fieldReset loaded0 →
      (towerOf s.chip 0).busy = true ∧ (towerOf s.chip 0).fault = true ∧ (towerOf s.chip 0).traced = true ∧
      (towerOf s.chip 0).traceAt + 100000 ≤ 100000 ∧ s.chip.us < (towerOf s.chip 0).traceAt + 100000 ∧
      islandRuns s.chip 8 = true ∧ enabled s.chip .cal 0 = true) ∧
    (∀ s, s = st { (calState towerReset { fieldReset with due := [0] } loaded0).chip with us := 1000001 } →
      (fieldOf s.chip 0).due ≠ [] ∧ (fieldOf s.chip 0).dueAt + 1000000 < s.chip.us ∧ (fieldOf s.chip 0).starved = false) := by
  and_intros
  · intro f e g m s h; subst h; subst e; revert g; decide +kernel
  · intro s h; subst h; decide +kernel
  · intro b m ch h; subst h; revert b; decide +kernel
  · decide +kernel
  · decide +kernel
  · intro p m s h; subst h; revert p; decide +kernel
  · intro s h; subst h; decide +kernel
  · intro s h; subst h; decide +kernel

/-- A core whose period nears its end with data in a tile; `x` is its place in the schedule. -/
def windowed (k : Core) (x : TCore → TCore) : Chip :=
  { updTcore (updTile (setCore (regSet (on [(.tsl, 0)] up) .tslCtrl 0 2) 0 k) 0 0 fun x => { x with st := 2 }) 0 x with
    us := 59900000 }

/-- A core that idles is taken at a test point and one with data in a tile by force, within 100 ms of the end of the period;
a core under test of either kind; one whose cluster has another core under test; one without a schedule. -/
theorem witness_TestWindows :
    (∀ p ∈ [(coreReset, WindowKind.point), (ready, .forced)], ∀ ch, ch = windowed p.1 id → live ch = true ∧
      (∀ o ∈ [TestObs.begins, .pass],
        (touched (testWindowWork run0 o) ch).isEmpty = true ∧ (touched (forcedWindowWork run0 o) ch).isEmpty = true) ∧
      ctlRuns ch = true ∧ (tcoreOf ch 0).under ≠ some p.2 ∧ clusterFree ch 0 = true ∧ mayTest ch 0 = true ∧
      atTestPoint ch 0 = decide (p.2 = .point) ∧ periodStart ch + periodUs ch ≤ ch.us + 100000) ∧
    (∀ k ∈ [WindowKind.point, .forced], ∀ ch, ch = windowed ready (fun x => { x with under := some k }) →
      live ch = true ∧ (touched (testWindowWork run0 .pass) ch).isEmpty = true ∧
      (touched (forcedWindowWork run0 .pass) ch).isEmpty = true ∧ ctlRuns ch = true ∧ (tcoreOf ch 0).under = some k) ∧
    clusterFree (updTcore up 1 fun x => { x with under := some .point }) 0 = false ∧
    mayTest up 0 = false ∧ scheduleOn up = false ∧ ctlRuns { up with islRun := 0 } = false := by
  and_intros
  · intro p m ch h; subst h; revert p; decide +kernel
  · intro k m ch h; subst h; revert k; decide +kernel
  all_goals decide +kernel
/-! ### Memory, objects and Newel -/

/-- Stack 0 serves; the Gallery stops of towers 0 and 1 are ENABLED. -/
def memUp : Chip := { on [(.gal, 0), (.gal, 1)] up with stks := [(0, { stackReset with inService := true })] }
/-- A request of job 0 for a line of HBM, and for a grain. -/
def req (grain : Bool) : LReq := ⟨⟨.job 0, 1, 0, none, .normal, false, []⟩, grain, none⟩
/-- Stack 0 as `x`, with the partition of job 0 limited at a rate and depth of 1. -/
def stackUp (x : Stack) : Chip := { on [(.gal, 0), (.gal, 1)] up with stks := [(0, { x with inService := true, rates := [(0, 0x00010001)] })] }

/-- Line 0 lies in stack 0 under the XOR of R264: a request that is served and one that is not, at DISABLED stops and from
firmware, with tokens and without; a line of no frame; a bank in repair; the temperatures where refresh changes. -/
theorem witness_MemorySide :
    (live memUp = true ∧ hbmServed memUp 0 = true ∧ shutStops memUp 1 0 = [] ∧ hbmServed up 0 = false ∧
      shutStops { memUp with blks := [] } 1 0 ≠ [] ∧ hbmServed { memUp with blks := [] } 0 = true ∧
      (req true).acc.who ≠ .firmware ∧ (req true).acc.who ≠ .unit ∧
      ([(stackLine memUp 0).1 / 2].filter fun t => blkGet memUp .gal t == .disabled) = []) ∧
    (∀ n ∈ [0, 2048], admits (stackUp { stackReset with tokens := [(0, n)] }) 0 (req false) false = decide (n = 2048) ∧
      inRepair (stackUp { stackReset with tokens := [(0, n)] }) 0 = false ∧
      lineHeld (stackUp { stackReset with tokens := [(0, n)] }) 0 = false ∧
      shutStops (stackUp { stackReset with tokens := [(0, n)] }) 1 0 = []) ∧
    (lineHeld memUp 0 = false ∧ (stackLine memUp 0).1 = 0 ∧ inRepair memUp 0 = false ∧
      0 < regFld (regSet memUp .hbmCfg 0 1) .hbmCfg 0 7 0 ∧ (stackOf memUp 0).repair = none) ∧
    (∀ b, b = (lineGeo (stackLine memUp 0).2).1 → ∀ ch, ch = stackUp { stackReset with repair := some b } →
      inRepair ch 0 = true ∧ hbmServed ch 0 = true ∧ (stackOf ch 0).repair = some (lineGeo (stackLine ch 0).2).1) ∧
    (islandRuns memUp 16 = true ∧ (85#8).toNat ≤ 85 ∧ 85 < (86#8).toNat ∧ islandRuns memUp 17 = true) := by
  and_intros
  all_goals first | decide +kernel | (intro b h ch e; subst e; subst h; decide +kernel)

/-- Nothing waits; a request that waits, for a line and for a grain, with the tokens it costs and with one less, with and
without a share, in a bank under repair; an unlimited partition; one of two rates. -/
theorem witness_TokenBuckets :
    (live up = true ∧ islandRuns up 16 = true ∧ ((stackOf up 0).queue.find? fun q => q.payer == some 0) = none) ∧
    (∀ g ∈ [false, true], ∀ n ∈ [511, 512, 2047, 2048],
      ∀ ch, ch = stackUp { stackReset with queue := [req g], tokens := [(0, n)] } →
      ((stackOf ch 0).queue.find? fun q => q.payer == some 0) = some (req g) ∧ inRepair ch (req g).acc.addr = false ∧
      tget (stackOf ch 0).tokens 0 0 = n ∧ (partRate ch 0 0).toNat % 65536 ≠ 0xFFFF ∧ (partRate ch 0 0).getLsbD 31 = false) ∧
    (∀ b, b = (lineGeo (stackLine memUp 0).2).1 →
      inRepair (stackUp { stackReset with queue := [req false], repair := some b }) 0 = true) ∧
    (0x80010001#32).getLsbD 31 = true ∧ (partRate up 0 0).toNat % 65536 = 0xFFFF ∧
    (∀ ch, ch = { up with stks := [(0, { stackReset with rates := [(0, 0x00010001), (1, 0x0001FFFF)] })] } →
      islandRuns ch 16 = true ∧ (([(0, 0x00010001), (1, 0x0001FFFF)] : Tab Word).map Prod.fst).Nodup ∧ (1, 0x0001FFFF) ∈ (stackOf ch 0).rates) := by
  and_intros
  on_goal 4 => intro g m n k ch h; subst h; revert g n
  on_goal 5 => intro b h; subst h
  on_goal 8 => intro ch h; subst h
  all_goals decide +kernel

/-- The first and the last byte of a write and those beside it; a write that covers granule 32 whole and cuts granule 64. -/
theorem witness_MemoryWrites :
    ((10 : Nat) ≤ 10 ∧ (10 : Nat) < 10 + 2 ∧ (11 : Nat) < 10 + 2 ∧ (9 : Nat) < 10 ∧ 10 + 2 ≤ (12 : Nat)) ∧
    (32 ∈ grans up 32 40 ∧ 92 ∈ grans up 32 40 ∧ 96 ∉ grans up 32 40 ∧ 60 ∈ wordsOf 32 40 ∧ 32 ≤ gran up 60 ∧
      gran up 60 + granLen up 60 ≤ 32 + 40 ∧ 72 ∉ wordsOf 32 40) := by decide +kernel

/-- Object 65535 clean and poisoned, its block ENABLED and not; a core whose wait was seen, or whose condition is false. -/
theorem witness_ObjectOperations :
    live up = true ∧ enabled (on [(.syn, 7)] up) .syn (objTower 65535) = true ∧ enabled up .syn (objTower 65535) = false ∧
    objPoisoned up 65535 = false ∧ objPoisoned { up with objPoi := [65535] } 65535 = true ∧ (0 : ObjId) ≠ 65535 ∧
    (∀ x ∈ [({ sywOn with v := 1 } : SywWait), { sywOn with seen := true }],
      ∀ p ∈ (setCore up 0 { ready with syw := some x }).cores, ∀ w, p.2.syw = some w → w.obj = some 0 →
        w.seen = true ∨ waitHolds up w 0 = false) := by
  and_intros
  · decide
  · decide
  · decide
  · decide
  · decide
  · decide
  · intro x m p n w e _
    simp only [setCore, tput, up, Chip.reset, List.mem_cons, List.not_mem_nil, or_false] at n m
    subst n
    simp only [Option.some.injEq] at e
    subst e
    rcases m with rfl | rfl
    · right; decide
    · left; rfl

/-- The interface is ENABLED, its line 0 bound to objects 0 and 1 with target 2, lines 0 and 1 released, the completion of
line 1 recorded and a report of line 0 on its way. -/
def nwlUp : Chip := { regSet (regSet (on [(.nwl, 0)] up) .nwlBindA 0 0x00020000) .nwlBindB 0 0x80000001 with
  nwl := { up.nwl with fenceArmed := true, toSend := [⟨1, 0, 2, 1⟩], barOut := 3, flight := [⟨0, 2, false⟩] } }

theorem witness_NewelLines :
    (live nwlUp = true ∧ nwlUp.nwl.clkLost = false ∧ islandRuns nwlUp 23 = true ∧ nwlRuns nwlUp = true ∧
      (nwlUp.nwl.flight.find? fun r => r.line == 0) = some ⟨0, 2, false⟩ ∧
      (nwlUp.nwl.flight.find? fun r => r.line == 1) = none) ∧
    (bound nwlUp 0 = true ∧ bound nwlUp 1 = false ∧ nwlUp.nwl.barOut.getLsbD 0 = true ∧ nwlUp.nwl.barOut.getLsbD 1 = true) ∧
    ((nwlUp.nwl.toSend.find? fun d => d.line == 0) = none ∧
      (nwlUp.nwl.toSend.find? fun d => d.line == 1) = some ⟨1, 0, 2, 1⟩) ∧
    (nwlUp.nwl.fenceArmed = true ∧ regFld (regSet nwlUp .nwlCfg 0 0) .nwlCfg 0 1 0 = 0 ∧
      regFld (regSet nwlUp .nwlCfg 0 1) .nwlCfg 0 1 0 = 1 ∧ 2 ≤ regFld (regSet nwlUp .nwlCfg 0 2) .nwlCfg 0 1 0 ∧
      nwlRuns up = false) := by
  decide +kernel

/-- Line 0 is bound; line 3 may be bound to objects of the one job with a target, and not without one. -/
theorem witness_NewelRegisters :
    (live nwlUp = true ∧ ({ nwlUp.nwl with clkLost := true }).clkLost = true ∧ nwlUp.phase = 4 ∧ nwlUp.nwl.clkLost = false ∧
      islandRuns nwlUp 23 = true ∧ bound nwlUp 0 = true ∧ bound nwlUp 3 = false) ∧
    ((0x80000001 : Word).getLsbD 31 = true ∧ (0x00000001 : Word).getLsbD 31 = false ∧
      bindOk (regSet (regSet nwlUp .nwlBindA 0 0x00010000 3) .nwlBindB 0 1 3) 3 1 = true ∧
      bindOk (regSet nwlUp .nwlBindB 0 1 3) 3 1 = false) := by
  decide +kernel

/-! ### Links, collective operations and twin copies -/

/-- Link 0 in state `k`, its port ENABLED, the collective engine ENABLED; the device at position 0. -/
def linkAt (k : Link) : Chip :=
  let ch := on [(.fab, 0), (.col, 0)] up
  { ch with fab := { ch.fab with links := [(0, k)] } }
def upLink : Link := { linkReset with st := 3 }

theorem inSeq {s : State} {l : LinkId} {f : Flit}
    (h : (live s.chip && linkUp s.chip l.val && (f.wpar == wparOf f) && (f.seq.toNat == (linkOf s.chip l.val).rxSeq) &&
      carries (accepted s l f) l.val f.jfid) = true) : InSequence s l f := by
  simp only [Bool.and_eq_true, beq_iff_eq] at h
  exact ⟨h.1.1.1.1, h.1.1.1.2, h.1.1.2, h.1.2, h.2⟩

def routed : Chip := { linkAt upLink with fab := { (linkAt upLink).fab with routes := [(5, ⟨0, false, true⟩)] } }
def sigTo (p : BitVec 6) : Flit := withWpar { flit0 with dst := p }
def sig0 : Flit := sigTo 0

/-- A SIG flit for an object with an owner, clean and with poison, its block ENABLED and not, the object clean and poisoned,
and for one without; to a package with a route and to one without; of another job; of a wrong parity; out of sequence; a
CTRL flit with and without NAK; a CTRL owed; a reserved type; a link that is not UP. -/
theorem witness_LinkFlits :
    (InSequence (st (linkAt upLink)) 0 sig0 ∧ sig0.ftype = 3 ∧ sig0.dst = (linkAt upLink).nwl.pos ∧
      leNat (sig0.payload.take 2) = (0 : ObjId).val ∧ sig0.poison = false ∧
      InSequence (st (linkAt upLink)) 0 (withWpar { sig0 with poison := true })) ∧
    (∀ ch, ch = accepted (st (linkAt upLink)) 0 sig0 → remoteOk ch 0 0 = true ∧ objPoisoned ch 0 = false ∧
      objPoisoned { ch with objPoi := [0] } 0 = true ∧ enabled ch .syn (objTower 0) = false ∧
      enabled (on [(.syn, 0)] ch) .syn (objTower 0) = true ∧ remoteOk { ch with clus := [] } 0 0 = false) ∧
    (InSequence (st routed) 0 (sigTo 5) ∧ (sigTo 5).dst ≠ routed.nwl.pos ∧
      (routeTo (accepted (st routed) 0 (sigTo 5)) 5 0).isSome = true ∧ InSequence (st routed) 0 (sigTo 6) ∧
      routeTo (accepted (st routed) 0 (sigTo 6)) 6 0 = none) ∧
    (∀ s, s = st (linkAt { upLink with jfid := 1 }) → live s.chip = true ∧ linkUp s.chip 0 = true ∧
      sig0.wpar = wparOf sig0 ∧ sig0.seq.toNat = (linkOf s.chip 0).rxSeq ∧
      carries (accepted s 0 sig0) 0 sig0.jfid = false) ∧
    ({ sig0 with wpar := sig0.wpar + 1 } : Flit).wpar ≠ wparOf { sig0 with wpar := sig0.wpar + 1 } ∧
    (withWpar { sig0 with seq := 4095 }).wpar = wparOf (withWpar { sig0 with seq := 4095 }) ∧
    (withWpar { sig0 with seq := 4095 }).seq.toNat ≠ upLink.rxSeq ∧
    (0 < ({ upLink with owe := 1 }).owe ∧ ({ upLink with nak := 1 }).nak = 1 ∧ upLink.owe = 0 ∧ upLink.nak ≠ 1) ∧
    (portRuns (linkAt upLink) 0 = true ∧ (linkOf (linkAt upLink) 0).st = 3 ∧ knownType 6 = false ∧ knownType 0 = false ∧
      knownType 15 = true ∧ linkUp (linkAt linkReset) 0 = false) := by
  and_intros
  all_goals first | exact inSeq (by decide +kernel) | decide +kernel | (intro s h; subst h; decide +kernel)

def hand0 : Hand := ⟨0, 0, 0, false, false, 0, 0x0100, [0, 0, 0, 0, 0, 0], true⟩

/-- Each state of a link, eyes at the limit and below, the third good handshake, a wrong one, and the times of the rule. -/
theorem witness_LinkLifecycle :
    live (linkAt upLink) = true ∧ portRuns (linkAt upLink) 0 = true ∧
    (∀ n ∈ [1, 2, 3], (linkOf (linkAt { linkReset with st := n }) 0).st = n ∧
      portRuns (linkAt { linkReset with st := n }) 0 = true) ∧
    (List.replicate 8 (Eye.mk 154 60)).all eyeOk = true ∧ (List.replicate 8 (Eye.mk 153 60)).all eyeOk = false ∧
    (lanesOf (linkAt upLink) 0).length = 8 ∧ linkReset.retrained = false ∧
    handFault (linkAt { linkReset with st := 2, good := 2 }) 0 hand0 = none ∧ hand0.seen = true ∧
    handFault (linkAt { linkReset with st := 2 }) 0 { hand0 with jfid := 1 } = some 5 ∧
    ({ linkReset with st := 2 }).since + 10000 ≤ 10000 ∧ hand0.seen = true ∧ linkReset.good < 2 ∧
    (∃ x ∈ ({ upLink with sent := [⟨flit0, 0, 8⟩] }).sent, 8 ≤ x.tries) ∧ (∀ x ∈ ({ upLink with sent := [⟨flit0, 0, 7⟩] }).sent, x.tries < 8) ∧
    ({ upLink with sent := [⟨flit0, 0, 0⟩] }).sent ≠ [] ∧ upLink.ackAt + 1000 ≤ 1000 := by
  decide +kernel

theorem witness_CollFlitsNeverRouted :
    InSequence (st routed) 0 (withWpar { sigTo 5 with ftype := 4 }) ∧ (sigTo 5).dst ≠ routed.nwl.pos :=
  ⟨inSeq (by decide +kernel), by decide⟩
/-- A two-rank ring group of job 0 with the operation `o`, its start released, and one in a tree with two children. -/
def group0 (o : Option CollOp) : Group :=
  { job := 0, tree := false, heritage := false, ranks := 2, rank := 0, next := [0], prev := [0], parent := none
    kids := [none, none], start := 0, done := 1, target := 1, ring := 0, work := 0, nMax := 4096, k := 1, rel := 1, op := o
    waiting := [], last := none, owe := [], heldOwn := none, heldKids := [], heard := [], deferred := 0, dropped := 0 }
def tree0 (o : Option CollOp) : Group := { group0 o with tree := true, kids := [some 0, some 0] }
def op0 : CollOp :=
  { rec_ := 3, bad := false, started := false, empty := false, firstUs := 0, startUs := 0, relUs := none, policy := 1, deadline := 0
    timeout := 0, plusOwn := false, plusKids := [], lateKids := [], kidSeen := [], red := [], gat := [], parts := []
    up := [], mask := none }
def begun : CollOp := { op0 with started := true, relUs := some 0 }
/-- The group at time `us`; and with the collective engine DISABLED. -/
def groupAt (x : Group) (us : Nat) : Chip :=
  let ch := on [(.gal, 0)] (linkAt upLink)
  { ch with us := us, fab := { ch.fab with groups := [(0, x)] } }
def engineOff (x : Group) : Chip := { groupAt x 0 with blks := (on [(.fab, 0), (.gal, 0)] up).blks }
/-- A COLL flit of the job fabric `f`. -/
def coll (f : BitVec 16) : Flit := withWpar { flit0 with ftype := 4, jfid := f }

theorem operating {s : State} {g : GroupId} {x : Group} {o : CollOp}
    (h : (live s.chip && (groupOf s.chip g.val == some x) && (x.op == some o) && colMoves s.chip) = true) :
    Operating s g x o := by
  simp only [Bool.and_eq_true, beq_iff_eq] at h
  exact ⟨h.1.1.1, h.1.1.2, h.1.2, h.2⟩

/-- A deadline's work for this rank, and for its child 1. -/
def late0 (d : Option Bool) : Chip → Chip := collDeadlineWork 0 d
def emptied : CollOp := { op0 with empty := true }

/-- A start that is released and one that is not, with no operation, one that a message brought, one begun and one that
a deadline emptied; with the stop of the record's home DISABLED. -/
theorem witness_CollectiveStarts :
    (∀ o ∈ [none, some op0, some begun, some emptied], ∀ rel ∈ [0, 1], ∀ x, x = { group0 o with rel := rel } →
      ∀ ch, ch = groupAt x 0 → goesH (st ch) .die (collStartWork ⟨0, []⟩) = true ∧ groupOf ch 0 = some x ∧
        colRuns ch = true ∧ startReached x x.k = decide (rel = 1)) ∧
    (goesH (st (engineOff (group0 none))) .die (collStartWork ⟨0, []⟩) = true ∧ colRuns (engineOff (group0 none)) = false) ∧
    (∀ ch, ch = blkSet (groupAt (group0 none) 0) .gal 0 false .disabled →
      live ch = true ∧ memHeld ch .die (touched (collStartWork ⟨0, []⟩) ch) = true) := by
  and_intros
  · intro o m rel n x h ch e; subst e; subst h; revert o rel; decide +kernel
  · decide +kernel
  · decide +kernel
  · intro ch h; subst h; decide +kernel

/-- Flits of the group, of another job, and of no group, and with the engine DISABLED; one that ends an empty message and
one that does not, and one of a message that lost a flit. -/
theorem witness_CollectiveFlits :
    (∀ x ∈ [group0 none, { group0 none with job := 1 }], ∀ ch, ch = groupAt x 0 → colMoves ch = true ∧
      groupOf ch 0 = some x ∧ groupOf ch 1 = none ∧ decide ((jobOf ch x.job.val).jfid = (coll 0).jfid) = true ∧
      decide ((jobOf ch x.job.val).jfid = (coll 1).jfid) = false) ∧
    (msgLen (List.replicate 248 0) = 8224 ∧ msgLen [0, 0, 0, 0, 0, 0, 1] = 16 ∧ msgLen [0, 0, 2] = 16400 ∧
      colMoves (engineOff (group0 none)) = false) ∧
    ((CollAsm.mk false [] false false).lost = false ∧ (CollAsm.mk false [] false true).lost = true) ∧
    (∀ s, s = st (groupAt (group0 none) 0) → InSequence s 0 (coll 0) ∧ (coll 0).dst = (accepted s 0 (coll 0)).nwl.pos ∧
      goesH s .die (collFlitWork 0 (coll 0)) = true) := by
  and_intros
  · intro x m ch h; subst h; revert x; decide +kernel
  · decide +kernel
  · decide +kernel
  · decide +kernel
  · decide +kernel
  · decide
  · decide
  · intro s h; subst h; exact ⟨inSeq (by decide +kernel), by decide +kernel⟩

/-- Deadlines that ran out and that did not, of this rank and of a child that is awaited, has begun, and of no tree. -/
theorem witness_CollectiveDeadlines :
    (∀ us ∈ [0, 1], ∀ o ∈ [op0, begun, emptied], ∀ s, s = st (groupAt (group0 (some o)) us) →
      Operating s 0 (group0 (some o)) o ∧ goesH s .die (late0 none) = true ∧ o.policy ≠ 0 ∧ o.bad = false ∧
      decide (o.firstUs + o.deadline < s.chip.us) = decide (us = 1)) ∧
    (∀ x ∈ [tree0 (some begun), tree0 (some { begun with kidSeen := [1] }), tree0 (some { begun with lateKids := [1] }),
        group0 (some begun)], goesH (st (groupAt x 1)) .die (late0 (some true)) = true) ∧
    ((tree0 (some begun)).tree = true ∧ (liveKids (tree0 (some begun)) begun).contains (b2n true) = true ∧
      begun.kidSeen.contains (b2n true) = false ∧ ({ begun with kidSeen := [1] }).kidSeen.contains (b2n true) = true ∧
      (liveKids (tree0 (some begun)) { begun with lateKids := [1] }).contains (b2n true) = false ∧
      (group0 (some begun)).tree = false ∧ (tree0 (some begun)).waiting = []) := by
  and_intros
  · intro us m o n s h; subst h
    simp only [List.mem_cons, List.not_mem_nil, or_false] at m n
    rcases m with rfl | rfl <;> rcases n with rfl | rfl | rfl <;> exact ⟨operating (by decide +kernel), by decide +kernel⟩
  all_goals decide +kernel

/-- Nothing owed, and owed late starts of each policy, released and not; time-outs; completions that are INVALID, whole,
partial and not due. -/
theorem witness_CollectiveEnds :
    (∀ p ∈ [1, 2], ∀ k ∈ [1, 2], ∀ x, x = { group0 none with owe := [(k, 3, p)] } → ∀ ch, ch = groupAt x 0 →
      goesH (st ch) .die (collLateStartWork 0) = true ∧ groupOf ch 0 = some x ∧ x.owe = [(k, 3, p)] ∧ colMoves ch = true ∧
      startReached x k = decide (k = 1)) ∧
    (goesH (st (groupAt (group0 none) 0)) .die (collLateStartWork 0) = true ∧ (group0 none).owe = []) ∧
    (∀ b : Bool, ∀ o, o = { begun with bad := b, timeout := 1 } → ∀ us ∈ [0, 1], ∀ s, s = st (groupAt (group0 (some o)) us) →
      Operating s 0 (group0 (some o)) o ∧ goesH s .die (opTimeoutWork 0) = true ∧
      goesH s .die (collCompleteWork ⟨0, []⟩) = true ∧ o.relUs = some 0 ∧ o.started = true ∧
      decide (0 + o.timeout ≤ s.chip.us) = decide (us = 1)) ∧
    op0.relUs = none ∧
    (opFinished (group0 none) begun = true ∧ opFinished (group0 none) op0 = false ∧
      contributors (group0 none) { begun with mask := some 3 } = allRanks 2 ∧
      contributors (group0 none) { begun with rec_ := 1, mask := some 1 } ≠ allRanks 2 ∧
      goesH (st (groupAt (group0 (some op0)) 0)) .die (collCompleteWork ⟨0, []⟩) = true) := by
  and_intros
  · intro p m k n x h ch e; subst e; subst h; revert p k; decide +kernel
  · decide +kernel
  · decide
  · intro b o h us m s e; subst e; subst h
    simp only [List.mem_cons, List.not_mem_nil, or_false] at m
    rcases m with rfl | rfl <;> cases b <;> exact ⟨operating (by decide +kernel), by decide +kernel⟩
  all_goals decide +kernel

def twin0 : TwinSrc :=
  { links := [0], partner := 0, history := false, enabled := true, every := 2, gate := 0, resume := 1, gateTarget := 1
    regions := [(0, 248)], points := 0, rel := 2, now := false, lastNumber := 0, committed := none, lastResult := 0
    since := 0, copy := none }
def twinAt (t : TwinSrc) (us : Nat) (k : Link) : Chip :=
  let ch := on [(.gal, 0)] (linkAt k)
  { ch with us := us, fab := { ch.fab with twins := [(0, t)] } }
/-- An OPEN that waits to be acknowledged on link 0. -/
def openSent : Flit := { flit0 with ftype := 5, lane := true, payload := 1 :: List.replicate 247 0 }
/-- Does the shard of `twin0` leave whole? -/
def shardLeaves (ch : Chip) : Bool :=
  (sendStream ch twin0.links twin0.partner { ctlNone with copy := 1, shardBytes := shardBytes twin0.regions false }
    (shardAreas ch 0 twin0.regions false)).2

/-- A gate released for the next point and not, at a point that copies, one that does not, and one asked for now; a point
of a job that copies, of one not enabled, and with the engine DISABLED; a due copy with its link down and UP, with a
poisoned word and without, and one that was sent; an OPEN that waits 10 ms and one that does not. -/
theorem witness_TwinCopySource :
    (∀ p ∈ [0, 1, 2], ∀ ch, ch = twinAt { twin0 with points := p } 0 upLink →
      live ch = true ∧ twinOf ch 0 = some { twin0 with points := p } ∧ colRuns ch = true ∧
      decide (p + 1 ≤ twin0.rel) = decide (p < 2) ∧ decide ((p + 1) % twin0.every = 0) = decide (p = 1)) ∧
    (twin0.enabled = true ∧ twin0.copy = none ∧ twin0.now = false ∧ ({ twin0 with now := true }).now = true ∧
      ({ twin0 with enabled := false }).enabled = false ∧ colRuns (engineOff (group0 none)) = false) ∧
    (∀ sent : Bool, ∀ k ∈ [linkReset, upLink], ∀ ch, ch = twinAt { twin0 with copy := some ⟨1, 0, sent, 0⟩ } 0 k →
      goesH (st ch) .die (twinCopyWork ⟨0, []⟩) = true ∧ twinOf ch 0 = some { twin0 with copy := some ⟨1, 0, sent, 0⟩ } ∧
      colMoves ch = true ∧ jobCollBusy ch 0 = false ∧
      (twin0.links.any fun l => !linkUp ch l) = decide (k = linkReset)) ∧
    (jobCollBusy (groupAt (group0 (some begun)) 0) 0 = true) ∧
    (∀ ch, ch = twinAt { twin0 with copy := some ⟨1, 0, false, 0⟩ } 0 upLink →
      shardLeaves ch = true ∧ shardLeaves { ch with poi := [32] } = false ∧
      goesH (st { ch with poi := [32] }) .die (twinCopyWork ⟨0, []⟩) = true) ∧
    (∀ us ∈ [9999, 10000], ∀ ch, ch = twinAt { twin0 with copy := some ⟨1, 0, true, 0⟩ } us
        { upLink with sent := [⟨openSent, 0, 0⟩] } →
      decide (0 + 10000 ≤ ch.us) = decide (us = 10000) ∧
      (twin0.links.any fun l => ((linkOf ch l).sent ++ (linkOf ch l).wait).any fun x =>
        x.f.ftype == 5 && x.f.lane && x.f.jfid == (jobOf ch 0).jfid && x.f.payload.headD 0 == 1) = true) := by
  and_intros
  all_goals first
    | decide +kernel
    | (intro p m ch h; subst h; revert p; decide +kernel)
    | (intro sent k m ch h; subst h
       simp only [List.mem_cons, List.not_mem_nil, or_false] at m
       rcases m with rfl | rfl <;> cases sent <;> decide +kernel)
    | (intro ch h; subst h; decide +kernel)

def in0 (b : Nat) (j : Option JobId) : TwinIn :=
  { src := 0, jfid := 0, job := j, slot := 0, number := 1, step := 0, bytes := b, history := false, streams := 1
    lengths := [], links := [(0, 0)], got := [], closed := [], lastUs := 0 }
/-- A restore of job 0 from position 0. -/
def rest0 : TwinRest := ⟨[0], 0, 0, 0, [], true, 0, 0, 0, false⟩
/-- The package at 100 ms with the streams `x` arriving. -/
def partnerAt (t : TwinSrc) (x : List TwinIn) : Chip :=
  let ch := twinAt t 100000 { upLink with partner := some hand0 }
  { ch with fab := { ch.fab with ins := x } }
/-- A hold area whose one slot is valid, of copy 1 and of no region. -/
def holdUp : Chip :=
  let ch := partnerAt twin0 []
  { ch with mem := [(4, 1)], fab := { ch.fab with holds := [⟨0, 0, true, 0, 4096⟩] } }

/-- A control flit of a kind, of copy 1, for position `d`. -/
def ctlF (kind : Nat) (d : BitVec 6) : Flit :=
  withWpar { flit0 with ftype := 5, lane := true, dst := d, payload := ctlBytes kind { ctlNone with copy := 1, streams := 1 } }
theorem twinCtl {s : State} {l : LinkId} {f : Flit} {kind : Nat}
    (h : (live s.chip && linkUp s.chip l.val && (f.wpar == wparOf f) && (f.seq.toNat == (linkOf s.chip l.val).rxSeq) &&
      carries (accepted s l f) l.val f.jfid && (f.ftype == 5) && f.lane && (ctlKind f == kind) &&
      (f.dst == (accepted s l f).nwl.pos) && !f.poison && colMoves (accepted s l f)) = true) : TwinControl s l f kind := by
  simp only [Bool.and_eq_true, beq_iff_eq, Bool.not_eq_true'] at h
  obtain ⟨⟨⟨⟨⟨⟨⟨⟨⟨⟨a, b⟩, c⟩, d⟩, e⟩, g⟩, i⟩, j⟩, k⟩, m⟩, n⟩ := h
  exact ⟨⟨a, b, c, d, e⟩, g, i, j, k, m, n⟩
/-- The chip after such a flit for this package. -/
def ctlIn (kind : Nat) (ch : Chip) : Chip := accepted (st ch) 0 (ctlF kind 0)
/-- What each kind does as one work. -/
def ctlWork (kind : Nat) (d : BitVec 6) : Chip → Chip :=
  if kind = 1 then openTwinWork 0 (ctlF 1 d) else if kind = 2 then closeTwinWork ⟨0, []⟩ (ctlF 2 d)
  else pullTwinWork ⟨0, []⟩ (ctlF 5 d)
/-- A piece for position `d`. -/
def piece (d : BitVec 6) : Flit := withWpar { flit0 with ftype := 5, dst := d }
/-- A COMMIT whose words are poisoned. -/
def badCtl : Flit := withWpar { ctlF 2 0 with poison := true }

/-- Control flits of every kind that come in, for this package and for another, clean and poisoned. -/
theorem witness_TwinControl :
    (∀ k ∈ [1, 2, 3, 4, 5], TwinControl (st (partnerAt twin0 [])) 0 (ctlF k 0) k) ∧
    (∀ k ∈ [1, 2, 5], ∀ d ∈ [(0 : BitVec 6), 1], goesH (st (partnerAt twin0 [])) .die (ctlWork k d) = true) ∧
    (∀ k ∈ [1, 2, 3, 4, 5], InSequence (st (partnerAt twin0 [])) 0 (ctlF k 1) ∧ (ctlF k 1).ftype = 5 ∧
      (ctlF k 1).lane = true ∧ ctlKind (ctlF k 1) = k ∧ (ctlF k 1).dst ≠ (accepted (st (partnerAt twin0 [])) 0 (ctlF k 1)).nwl.pos) ∧
    (InSequence (st (partnerAt twin0 [])) 0 badCtl ∧ badCtl.poison = true ∧ ctlKind badCtl = 2 ∧
      goesH (st (partnerAt twin0 [])) .die (closeTwinWork ⟨0, []⟩ badCtl) = true) := by
  and_intros
  · intro k m
    simp only [List.mem_cons, List.not_mem_nil, or_false] at m
    rcases m with rfl | rfl | rfl | rfl | rfl <;> exact twinCtl (by decide +kernel)
  · decide +kernel
  · intro k m
    simp only [List.mem_cons, List.not_mem_nil, or_false] at m
    rcases m with rfl | rfl | rfl | rfl | rfl <;> exact ⟨inSeq (by decide +kernel), by decide +kernel⟩
  · exact inSeq (by decide +kernel)
  all_goals decide +kernel

/-- No copy arrives; one that closes with a piece missing, one that closes whole, of a copy and of a restore, one of
another number; a sent copy that is committed; no copy, with a restore and without; a hold area that is empty, and one
whose slot has the lengths asked for and others; a piece for another position, of no stream, of a link that carries none,
and one that is written; 99.999 and 100 ms without a flit, of a restore, and of a copy whose link is down and UP. -/
theorem witness_TwinCopyPartner :
    (∀ b ∈ [0, 1], ∀ j ∈ [none, some 0], ∀ n ∈ [1, 2], ∀ x, x = { in0 b j with number := n } → ∀ ch, ch = partnerAt twin0 [x] →
      ∀ a, a = ctlIn 2 ch → TwinControl (st ch) 0 (ctlF 2 0) 2 ∧ goesH (st ch) .die (ctlWork 2 0) = true ∧
      inOf a 0 0 = some x ∧ decide (x.number = (ctlOf (ctlF 2 0)).copy) = decide (n = 1) ∧
      inComplete { x with closed := sadd [] (ctlOf (ctlF 2 0)).stream, lastUs := a.us } = decide (b = 0)) ∧
    (∀ a, a = ctlIn 4 (partnerAt twin0 []) → inOf a 0 0 = none ∧ copyFor a (ctlOf (ctlF 4 0)) = none ∧ restFor a 0 0 = none ∧
      (linkOf a 0).partner = some hand0 ∧ (holdOf a 0 0).bind (fun h => bestSlot a h) = none) ∧
    (∀ a, a = ctlIn 4 { partnerAt twin0 [] with fab := { (partnerAt twin0 []).fab with rests := [(0, rest0)] } } →
      copyFor a (ctlOf (ctlF 4 0)) = none ∧ restFor a 0 0 = some (0, rest0)) ∧
    (∀ a, a = ctlIn 4 (partnerAt twin0 [{ in0 0 none with number := 2 }]) → copyFor a (ctlOf (ctlF 4 0)) = none ∧
      inOf a 0 0 = some { in0 0 none with number := 2 } ∧ (2 : Nat) ≠ (ctlOf (ctlF 4 0)).copy) ∧
    (copyFor (ctlIn 3 (partnerAt { twin0 with copy := some ⟨1, 0, true, 0⟩ } [])) (ctlOf (ctlF 3 0)) = some 0) ∧
    (∀ a, a = ctlIn 5 holdUp → goesH (st holdUp) .die (ctlWork 5 0) = true ∧
      (holdOf a 0 0).bind (fun h => bestSlot a h) = some 0 ∧
      (List.range 16).any (fun i => (slotLengths a 0).getD i 0 != (ctlOf (ctlF 5 0)).lengths.getD i 0) = false ∧
      (List.range 16).any (fun i => (slotLengths a 0).getD i 0 != ([1] : List Nat).getD i 0) = true) ∧
    (∀ x ∈ [in0 300 none, { in0 300 none with links := [] }], ∀ s, s = st (partnerAt twin0 [x]) →
      ∀ d ∈ [(0 : BitVec 6), 1], ∀ b, b = accepted s 0 (piece d) →
      InSequence s 0 (piece d) ∧ goesH s .die (twinDataWork ⟨0, []⟩ (piece d)) = true ∧ (piece d).ftype = 5 ∧
      (piece d).lane = false ∧ decide ((piece d).dst = b.nwl.pos) = decide (d = 0) ∧ colMoves b = true ∧
      inOf b 0 0 = some x ∧ inOf b 1 0 = none ∧
      x.links.find? (fun p => p.1 == 0) = if x.links = [] then none else some (0, 0)) ∧
    (∀ u ∈ [0, 1], ∀ j ∈ [none, some 0], ∀ k ∈ [linkReset, upLink],
      ∀ ch, ch = { partnerAt twin0 [{ in0 0 j with lastUs := u }] with fab := { (linkAt k).fab with
        ins := [{ in0 0 j with lastUs := u }] } } →
      live ch = true ∧ inOf ch 0 0 = some { in0 0 j with lastUs := u } ∧ decide (u + 100000 ≤ ch.us) = decide (u = 0) ∧
      inOf ch 1 0 = none ∧ linkUp ch ((({ in0 0 j with lastUs := u } : TwinIn).links.map Prod.fst).headD 0) = decide (k = upLink)) := by
  and_intros
  · intro b m j n i p x g ch h a e; subst e; subst h; subst g
    simp only [List.mem_cons, List.not_mem_nil, or_false] at m n p
    rcases m with rfl | rfl <;> rcases n with rfl | rfl <;> rcases p with rfl | rfl <;>
      exact ⟨twinCtl (by decide +kernel), by decide +kernel⟩
  · intro a e; subst e; decide +kernel
  · intro a e; subst e; decide +kernel
  · intro a e; subst e; decide +kernel
  · decide +kernel
  · intro a e; subst e; decide +kernel
  · intro x m s h d n b e; subst e; subst h
    simp only [List.mem_cons, List.not_mem_nil, or_false] at m n
    rcases m with rfl | rfl <;> rcases n with rfl | rfl <;> exact ⟨inSeq (by decide +kernel), by decide +kernel⟩
  · intro u m j n k q ch h; subst h
    simp only [List.mem_cons, List.not_mem_nil, or_false] at m n q
    rcases m with rfl | rfl <;> rcases n with rfl | rfl <;> rcases q with rfl | rfl <;> decide +kernel
/-! ### The host's link, Bindweed and the mailboxes -/

/-- The host's link is up, the PCI blocks and mailbox ring 0 ENABLED. -/
def hostUp : Chip := blkSet { on ([(.pci, 0), (.mbx, 0)] ++ (List.range 8).map fun t => (.gal, t)) up with
  pci := { up.pci with width := 1, mem := true }, stks := [(0, { stackReset with inService := true })] } .pci 0 true .enabled
def bar4 (w : Option (List Byte)) : BarReq := { bar0 with bar := 4, len := 4, write := w }

/-- A request with its ECRC good and bad, where the check is enabled and not; a field read and written before and after
BOOT, of a function that is there and of one that is not; a read behind a posted write of its function that is held, and one
with no write ahead; a read of HBM that waits and one that is served; the phases and the enable that refuse; a request of
configuration in FAILED with cause 3 and with another. -/
theorem witness_HostSide :
    live hostUp = true ∧ 0 < hostUp.pci.width ∧ islandRuns hostUp 19 = true ∧ ({ bar0 with ecrcBad := true }).ecrcBad = true ∧
    bar0.ecrcBad = false ∧ bar0.fn.val = 0 ∧ (bar4 none).bar = 4 ∧ orderedBehind bar0 = true ∧
    writeHeld hostUp 0 = false ∧
    writeHeld { hostUp with land := { hostUp.land with
      held := [⟨⟨.pf, 0, 0, some [], .normal, false, []⟩, false, some false⟩] } } 0 = true ∧
    ({ hostUp.pci with ecrcCheck := true }).ecrcCheck = true ∧ hostUp.pci.ecrcCheck = false ∧
    (cfgStatus hostUp 0 = .ok ∧ cfgStatus hostUp 1 = .unsupported ∧ cfgStatus { hostUp with phase := 0 } 0 = .retry) ∧
    (fnOpen hostUp 0 = true ∧ fnOpen { hostUp with pci := { hostUp.pci with mem := false } } 0 = false ∧
      (bar4 none).offset + (bar4 none).len ≤ hbmEnd) ∧
    (∀ ch ∈ [hostUp, { hostUp with blks := [] }], ∀ ts, ts = touched (hostData (bar4 none)) ch →
      memHeld ch .die ts = ch.blks.isEmpty ∧ ts.any (touchLost ch .die) = false) ∧
    (∀ n ∈ [0, 1, 4, 5], live { hostUp with phase := n } = true ∧ islandRuns { hostUp with phase := n } 19 = true) ∧
    (failedCause hostUp ≠ 3 ∧ failedCause (regSet hostUp .pwrBootStat 0 0x03000000) = 3) ∧
    ((1 : Fin 6).val ≠ 0 ∧ (6 : Fin 7).val ≠ 0 ∧ up.pci.width = 0 ∧ islandRuns { up with islRun := 0 } 19 = false) := by
  and_intros
  all_goals first | decide +kernel | (intro ch h ts e; subst e; revert ch; decide +kernel)

/-- An entry that moves one F32 element from a mapping at 0 to the host window: kind 1, formats 1, n = 1 (R357). -/
def rawEnt (kind need : Nat) : Nat := kind + 0x01010000 + need * 2 ^ 32 + 0x800000000000 * 2 ^ 128 + 2 ^ 192
def queue0 (l : List BwEnt) : BwQ :=
  { push := 0, progress := 1, lead := 0, qda := 0x1000, wbase := 0x800000000000, wlen := 0x1000, next := 1, rel := 1, pushed := 1
    ents := l, closing := false }
def bwAt (q : BwQ) : Chip :=
  updJob { wrMem { hostUp with objs := [(0, 1)] } 0x1040 (leBytes (rawEnt 1 0) 64) false with
    pci := { hostUp.pci with bw := [(0, q)] } } 0 fun j =>
    { j with maps := [⟨0, 0x100000, false⟩, ⟨0x800000000000, 0x1000, true⟩] }

/-- A queue whose next push is released and not, closing, its block DISABLED; a next entry that is valid, is zero, holds
poison, and one behind a DISABLED stop; a PREFETCH that may start and none, with four in flight; an entry in flight and one that is not; an entry that the
host failed, whose bytes carry poison, and a whole one. -/
theorem witness_OffloadQueue :
    (∀ ch, ch = bwAt (queue0 []) → live ch = true ∧ bwRuns ch = true ∧ bwRuns up = false ∧ bwOf ch 0 = some (queue0 []) ∧
      (queue0 []).closing = false ∧ (queue0 []).next ≤ (queue0 []).rel ∧
      ({ queue0 [] with rel := 0 }).rel < ({ queue0 [] with rel := 0 }).next ∧
      bwAddr (queue0 []) 1 = 0x1040 ∧ anyPoi ch 0x1040 64 = false ∧
      bwValid ch 0 (queue0 []) (rdNat ch 0x1040 64) = true ∧ bwValid ch 0 (queue0 []) 0 = false ∧
      anyPoi (markPoi ch 0x1040 4) 0x1040 64 = true ∧ bwFlying (queue0 []) < 4) ∧
    nextPrefetch (bwAt (queue0 [])) (queue0 [⟨1, rawEnt 2 0, false, 0, false⟩]) = some ⟨1, rawEnt 2 0, false, 0, false⟩ ∧
    nextPrefetch (bwAt (queue0 [])) (queue0 [⟨1, rawEnt 2 1, false, 0, false⟩]) = none ∧
    4 ≤ bwFlying (queue0 ((List.range 4).map fun k => ⟨k, rawEnt 1 0, true, 0, false⟩)) ∧
    ((queue0 [⟨1, rawEnt 1 0, false, 0, false⟩]).ents.find? fun e => e.k == 1 && e.started) = none ∧
    ((queue0 [⟨1, rawEnt 1 0, true, 0, false⟩]).ents.find? fun e => e.k == 1 && e.started) =
      some ⟨1, rawEnt 1 0, true, 0, false⟩ ∧
    bwConvert (rawEnt 1 0) = false ∧ bwKind (rawEnt 1 0) = 1 ∧ bwKind (rawEnt 2 0) = 2 ∧ hostOpen (bwAt (queue0 [])) = true ∧
    hostOpen up = false ∧ bwSrcPoi (bwAt (queue0 [])) (rawEnt 1 0) = false ∧
    bwSrcPoi (markPoi (bwAt (queue0 [])) 0 4) (rawEnt 1 0) = true ∧
    (∃ t, GoesOn (st (bwAt (queue0 []))) .die [] (bindweedPushWork ⟨0, []⟩) t ∧
      (bwOf t.chip 0 = some (queue0 []) ∧ bwRuns t.chip = true ∧ anyPoi t.chip 0x1040 64 = false ∧
        bwValid t.chip 0 (queue0 []) (rdNat t.chip 0x1040 64) = true)) ∧
    memHeld { bwAt (queue0 []) with blks := [] } .die (touched (landRange · (some 0) .normal 0x1040 64 false)
      { bwAt (queue0 []) with blks := [] }) = true ∧
    (∃ t, GoesOn (st (bwAt (queue0 [⟨1, rawEnt 1 0, true, 0, false⟩]))) .die []
      (bindweedEntryDoneWork 0 1 ⟨false, [], 1, [], []⟩) t ∧
      bwOf t.chip 0 = some (queue0 [⟨1, rawEnt 1 0, true, 0, false⟩])) := by
  and_intros
  · intro ch h; subst h; decide +kernel
  all_goals first
    | decide +kernel
    | exact ⟨_, goes_of (by decide +kernel), by decide +kernel⟩

theorem onBus {s : State} {r : Reg} {u : Nat}
    (h : (live s.chip && islandRuns s.chip 20 && islandRuns s.chip (blkIsle (regInfo r).blk u)) = true) : OnBus s r u := by
  simp only [Bool.and_eq_true] at h
  exact ⟨h.1.1, h.1.2, h.2⟩

def rawCmd (op job : Nat) (payload : List (Nat × Nat)) : Nat :=
  op + 48 * 2 ^ 16 + job * 2 ^ 48 + (payload.map fun p => p.2 * 256 ^ (16 + p.1)).foldl (· + ·) 0
/-- Stream 0 of function 0 runs the command `raw`. -/
def runs (ch : Chip) (raw : Nat) (done : Bool) : State :=
  st (updStream ch 0 fun x => { x with busy := true, cmd := some ⟨raw, 0, 0, done, []⟩ })
def pf : Stream := ⟨0, false⟩
def ringPf : Stream := ⟨0, true⟩

/-- A doorbell in both states; indices at the ring's size and below it; a ring that is DISABLED and one that is not;
enable and disable; the bus without its clock; a grant of each kind and none; a full completion ring; a HALT_JOB at its
bound and before, a command that goes on in the background, one with no bound and one not committed; the first, the second
and a further failed compare. -/
theorem witness_MailboxFront :
    OnBus (st hostUp) .mbxDoorbell 0 ∧ OnBus (st hostUp) .mbxRingTail 0 ∧ OnBus (st up) .mbxRingCfg 0 ∧
    (streamOf (runs hostUp 1 false).chip 0).busy = true ∧ (streamOf hostUp 0).busy = false ∧ fwReady hostUp = true ∧
    (ringSize hostUp 0 ≤ (BitVec.ofNat 32 (ringSize hostUp 0)).toNat % 4096 ∧
      (BitVec.ofNat 32 (ringSize hostUp 0 - 1)).toNat % 4096 < ringSize hostUp 0) ∧
    blkGet up .mbx 0 = .disabled ∧ blkGet hostUp .mbx 0 ≠ .disabled ∧ (1 : Word).getLsbD 0 = true ∧
    (0 : Word).getLsbD 0 = false ∧
    (live { up with islRun := 0 } = true ∧ islandRuns { up with islRun := 0 } 20 = false) ∧
    granted hostUp = none ∧
    granted (updStream hostUp 0 fun x => { x with busy := true }) = some (streamIx pf) ∧
    (granted (regSet hostUp .mbxRingTail 0 1) = some (streamIx ringPf) ∧ ringFull (regSet hostUp .mbxRingTail 0 1) 0 = false) ∧
    (∀ ch, ch = regSet (regSet hostUp .mbxRingTail 0 1) .mbxCplTail 0 (BitVec.ofNat 32 (ringSize hostUp 0 - 1)) →
      ringWaits ch 0 = true ∧ ringFull ch 0 = true) ∧
    (waitBound (cmdOp (rawCmd 0x32 0 [])) = some 1000000 ∧ (0 : Nat) + 1000000 ≤ 1000000 ∧ cmdOp (rawCmd 0x32 0 []) ≠ 0x40) ∧
    (waitBound (cmdOp (rawCmd 0x40 0 [])) ≠ none ∧ waitBound (cmdOp (rawCmd 1 0xFF [])) = none ∧
      (streamOf hostUp (streamIx pf)).cmd = none ∧
      ((streamOf (runs hostUp 1 false).chip (streamIx pf)).cmd.map Cmd.committed) = some false ∧
      ((streamOf (runs hostUp 1 true).chip (streamIx pf)).cmd.map Cmd.committed) = some true) ∧
    (0 < up.phase ∧ islandRuns up 20 = true ∧ up.sys.camp.failed = 0 ∧ ({ up.sys.camp with failed := 1 }).failed = 1 ∧
      2 ≤ ({ up.sys.camp with failed := 2 }).failed) := by
  and_intros
  all_goals first
    | exact onBus (by decide +kernel)
    | decide +kernel
    | (intro ch h; subst h; decide +kernel)

/-- A command for each check of R385: no opcode, a length of 49, BOOT, functions and jobs that may not name it, job 1 that
does not exist; then byte 7, and a field that is out of range. A command with one of its job ahead of it, one that a check
refuses, one of another row. -/
theorem witness_CommandChecks :
    cmdInfo (cmdOp (rawCmd 2 0 [])) = none ∧ cmdInfo (cmdOp (rawCmd 0x31 0 [])) = some (.job, false) ∧
    cmdInfo (cmdOp (rawCmd 0x10 0 [])) = some (.job, true) ∧ cmdInfo (cmdOp (rawCmd 1 0xFF [])) = some (.dev, false) ∧
    48 < cmdLen (rawCmd 0x31 0 [] + 2 ^ 16) ∧ cmdLen (rawCmd 0x31 0 []) ≤ 48 ∧ Chip.reset.phase ≠ 4 ∧ up.phase = 4 ∧
    cmdOp (rawCmd 0x31 0 []) ≠ 1 ∧ 2 / 2 ≠ 0 ∧ cmdJob (rawCmd 0x31 1 []) ≠ 2 / 2 - 1 ∧ cmdJob (rawCmd 1 0 []) ≠ 0xFF ∧
    cmdJob (rawCmd 0x31 1 []) < 16 ∧ cmdOp (rawCmd 0x31 1 []) ≠ 0x10 ∧ jobExists up 1 = false ∧
    headCheck up (0 / 2) (rawCmd 0x31 0 []) = none ∧
    (headCheck up (0 / 2) (rawCmd 0x31 0 [] + 2 ^ 56) = none ∧ eb (rawCmd 0x31 0 [] + 2 ^ 56) 7 7 ≠ 0) ∧
    (headCheck up (0 / 2) (rawCmd 0x31 0 [] + 2 ^ 120) = none ∧ eb (rawCmd 0x31 0 [] + 2 ^ 120) 15 15 ≠ 0 ∧
      ∀ x ∈ List.range 15, 7 ≤ x → eb (rawCmd 0x31 0 [] + 2 ^ 120) x x = 0) ∧
    (∀ s, s = runs hostUp (rawCmd 0x31 0 [(0, 2)]) false → ∀ c : Cmd, c = ⟨rawCmd 0x31 0 [(0, 2)], 0, 0, false, []⟩ →
      live s.chip = true ∧ cmdIn s.chip (streamIx pf) 0x31 anyRow = some c ∧ cmdIn s.chip (streamIx pf) 0x30 anyRow = none ∧
      c.committed = false ∧ blocked s.chip (streamIx pf) c = false ∧
      (refuse s.chip (streamIx pf) c [] []).isSome = true ∧
      (let ch := updStream s.chip 1 fun x => { x with busy := true, cmd := some ⟨rawCmd 0x32 0 [], 0, 0, false, []⟩ }
       blocked ch (streamIx pf) { c with order := 1 } = true)) := by
  and_intros
  all_goals first | decide +kernel | (intro s h c e; subst e; subst h; decide +kernel)
/-! ### Commands of the mailboxes -/

def cmd (raw : Nat) (done : Bool) : Cmd := ⟨raw, 0, 0, done, []⟩

theorem taking_of {s : State} {k : Stream} {op : Nat} {mine : Nat → Bool} {chk : Nat → List (Nat × Nat) × List Nat} {c : Cmd}
    (h : (live s.chip && (cmdIn s.chip (streamIx k) op mine == some c) && !c.committed && !blocked s.chip (streamIx k) c &&
      (refuse s.chip (streamIx k) c (chk c.raw).1 (chk c.raw).2).isNone) = true) : Taking s k op mine chk c := by
  simp only [Bool.and_eq_true, Bool.not_eq_true', beq_iff_eq, Option.isNone_iff_eq_none] at h
  exact ⟨h.1.1.1.1, h.1.1.1.2, h.1.1.2, h.1.2, h.2⟩

theorem waiting_of {s : State} {k : Stream} {op : Nat} {mine : Nat → Bool} {c : Cmd}
    (h : (live s.chip && (cmdIn s.chip (streamIx k) op mine == some c) && c.committed) = true) : Waiting s k op mine c := by
  simp only [Bool.and_eq_true, beq_iff_eq] at h
  exact ⟨h.1.1, h.1.2, h.2⟩

/-- Job 0 is IDLE and maps the first MiB and a page of the host; stacks 0 and 1 serve; cluster 1 is of job 1. -/
def idle : Chip := { hostUp with
  stks := [(0, { stackReset with inService := true }), (1, { stackReset with inService := true })]
  clus := [(0, 0), (1, 1)]
  jobs := [(0, { jobReset with state := .idle, maps := [⟨0, 0x100000, false⟩, ⟨0x800000000000, 0x1000, true⟩] })] }
/-- The same with job 0 RUNNING on core 0. -/
def busy : Chip := setCore (updJob idle 0 fun j => { j with state := .running }) 0 ready

/-- Stream 33 has the command `raw` in the background. -/
def behindIt (ch : Chip) (raw : Nat) : Chip := updStream ch 33 fun x => { x with bg := [cmd raw true] }
/-- A programming of one array of core 0 whose masters lie at 0, and a refresh of one array of it that is queued. -/
def program0 : Nat := rawCmd 0x40 0 [(3, 1), (5, 1)]
def refresh0 : Cmd := ⟨rawCmd 0x42 0 [(3, 1)], 0, 0, true, [0]⟩
def refreshing : Chip := setBank (updStream idle 33 fun x => { x with bg := [refresh0] }) 0 { bankReset with refreshQ := [0] }
def tested : Chip := updTcore idle 0 fun x => { x with under := some .now }
/-- A dirty line in the way of cluster 0 that lies in the pseudo-channel under repair. -/
def lateWay : Chip := { idle with
  land := { idle.land with lines := [(0, ⟨0, true, false, 0, none, []⟩)] }
  stks := [(0, { stackReset with inService := true, repair := some 0 })] }
/-- An offload queue of job 0 with an entry in flight. -/
def flying : Chip := { idle with pci := { idle.pci with bw := [(0, queue0 [⟨1, rawEnt 1 0, true, 0, false⟩])] } }

/-- A record of a cut has yet to be written to a dump of job 0. -/
def late : Chip := { idle with obs := { idle.obs with cutBusy := true, recs := [(some 0, 0x200000, [])] } }

theorem witness_JobCommands :
    (∀ ch ∈ [idle, { idle with phase := 5 }], ∀ r, r = rawCmd 0x01 0xFF [] →
      Taking (runs ch r false) pf 0x01 anyRow (fun raw => ([(0, 0)], badIf (4 < pb raw 0 0) 0)) (cmd r false)) ∧
    (∀ r, r = rawCmd 0x10 1 [(1, 0xFF)] →
      Taking (runs idle r false) pf 0x10 anyRow
        (fun raw => ([(0, 3)], badIf (1 < pb raw 0 0) 0 ++ badIf (!towerOk (pb raw 1 1)) 1)) (cmd r false)) ∧
    (placeHbm { idle with stks := [] } false 0xFF mib = none ∧ (placeHbm idle false 0xFF mib).isSome = true) ∧
    (∀ a ∈ [0, 1], ∀ m ∈ [1, 2], ∀ r, r = rawCmd 0x12 0 [(0, a), (16, m)] →
      Taking (runs idle r false) pf 0x12 (actRow a 2) assignChk (cmd r false) ∧
      ((maskClusters r).all fun cl => owner (runs idle r false).chip cl == some (0 : JobId)) = decide (m = 1) ∧
      ((maskClusters r).all fun cl => owner (runs idle r false).chip cl == none || owner (runs idle r false).chip cl == some (0 : JobId))
        = decide (m = 1)) ∧
    (∀ r, r = rawCmd 0x12 0 [(0, 1), (16, 1)] →
      maskClusters r = [0] ∧ [tested, lateWay, behindIt idle program0, refreshing].map (fun ch =>
        ((runs ch r false).chip |> fun c => ((coresOfCluster 0).any fun g => (tcoreOf c g).under.isSome, wayWaits c 0,
          (coresOfCluster 0).any (coreBusy c)))) = [(true, false, false), (false, true, false), (false, false, true),
          (false, false, true)] ∧ Waiting (runs idle r true) pf 0x12 (actRow 1 2) (cmd r true)) ∧
    (∀ ch ∈ [behindIt idle program0, refreshing, flying], ∀ r, r = rawCmd 0x11 0 [] →
      Taking (runs ch r false) pf 0x11 anyRow (fun _ => ([], [])) (cmd r false) ∧
      (coresOfJob (runs ch r false).chip 0).any (coreBusy (runs ch r false).chip) = ch.pci.bw.isEmpty ∧
      jobQuiet (haltJob (runs ch r false).chip 0) 0 = true ∧
      (bwOf (destroyUnits (haltJob (runs ch r false).chip 0) 0) 0).isSome = !ch.pci.bw.isEmpty) ∧
    (∀ r, r = rawCmd 0x11 0 [] →
      Taking (runs busy r false) pf 0x11 anyRow (fun _ => ([], [])) (cmd r false) ∧
      jobQuiet (haltJob (runs busy r false).chip 0) 0 = false ∧
      Waiting (runs idle r true) pf 0x11 anyRow (cmd r true) ∧ jobQuiet (runs idle r true).chip 0 = true ∧
      bwOf (destroyUnits (runs idle r true).chip 0) 0 = none ∧ dumpBusy (destroyUnits (runs idle r true).chip 0) 0 = false ∧
      dumpBusy (destroyUnits (runs late r true).chip 0) 0 = true) ∧
    (∀ b ∈ [0, 1], ∀ r, r = rawCmd 0x32 0 [(0, b)] →
      Taking (runs busy r false) pf 0x32 anyRow (fun raw => ([(0, 0)], badIf (1 < pb raw 0 0) 0)) (cmd r false) ∧
      pbit r 0 0 0 = b ∧ jobIdleNow (haltJob (runs busy r false).chip 0) 0 = false ∧
      Waiting (runs idle r true) pf 0x32 anyRow (cmd r true) ∧ jobIdleNow (runs idle r true).chip (cmdJob r) = true) ∧
    (live up = true ∧ (jobOf up 0).state = .running ∧
      ((coresOfJob up 0).all fun g => (coreOf up g).run != .running && (coreOf up g).run != .waiting) = true) := by
  and_intros
  · intro ch m r h; subst h
    refine taking_of ?_; revert ch; decide +kernel
  · intro r h; subst h; exact taking_of (by decide +kernel)
  · decide +kernel
  · decide +kernel
  · intro a ha m hm r h; subst h
    refine ⟨taking_of ?_, ?_⟩ <;> (revert a m; decide +kernel)
  · intro r h; subst h
    refine ⟨?_, ?_, waiting_of ?_⟩ <;> decide +kernel
  · intro ch m r h; subst h
    refine ⟨taking_of ?_, ?_⟩ <;> (revert ch; decide +kernel)
  · intro r h; subst h
    refine ⟨taking_of ?_, ?_, waiting_of ?_, ?_⟩ <;> decide +kernel
  · intro b hb r h; subst h
    refine ⟨taking_of ?_, ?_, ?_, waiting_of ?_, ?_⟩ <;> (revert b; decide +kernel)
  all_goals decide +kernel

/-- An image of one NOP word for word 0, at 0x1000 of the job's mapping (R237). -/
def image0 : List Byte := leBytes 0x314E414F 4 ++ leBytes 0x0100 2 ++ leBytes 1 2 ++ leBytes 0 8 ++ leBytes 88 8 ++
  List.replicate 40 0 ++ leBytes 1 4 ++ leBytes 0 4 ++ leBytes 8 4 ++ leBytes 80 4 ++ leBytes 0x0100000000000000 8
def withImage : Chip := wrMem idle 0x1000 image0 false
def fencedIdle : Chip := updTcore idle 0 fun x => { x with fenced := true }
/-- A page of the host whose first 80 bytes the host holds as the image, and a header in HBM that no byte of memory backs. -/
def imageHost : HostIn := ⟨(List.range image0.length).zip image0 |>.map fun p => (0x800000000000 + p.1, p.2), false, false, []⟩

theorem witness_MemoryCommands :
    (∀ p ∈ [(1, 0x1000, 0x800000000000), (0, 0x100000, 0)], ∀ r, r = rawCmd 0x20 0 [(0, p.1), (1, 0xFF), (8, p.2.1), (16, p.2.2)] →
      Taking (runs idle r false) pf 0x20 anyRow memMapChk (cmd r false) ∧ pb r 0 0 = p.1 ∧
      (jobOf (runs idle r false).chip 0).maps.length < 128) ∧
    128 ≤ (jobOf (updJob idle 0 fun j => { j with maps := List.replicate 128 ⟨0, 0x100000, false⟩ }) 0).maps.length ∧
    (placeHbm idle false 0xFF 0x100000).isSome = true ∧
    (∀ r, r = rawCmd 0x21 0 [] → ∀ d ∈ [0, 1], ∀ ch, ch = updJob idle 0 (fun j => { j with stat := d }) →
      Taking (runs ch r false) pf 0x21 anyRow (fun _ => ([(0, 5)], [])) (cmd r false) ∧
      (jobOf (runs ch r false).chip (cmdJob r)).maps.find? (fun m => m.da == pb r 5 0) = some ⟨0, 0x100000, false⟩ ∧
      decide (pb r 5 0 = (jobOf (runs ch r false).chip (cmdJob r)).stat) = decide (d = 0)) ∧
    (∀ r, r = rawCmd 0x22 0 [(0, 15), (2, 1), (4, 1), (6, 0x7FFF), (8, 1)] → Taking (runs idle r false) pf 0x22 anyRow
      (fun raw => ([(0, 0), (2, 8)], badIf (15 < pb raw 0 0) 0 ++ badIf (0x7FFF < pb raw 7 6) 6 ++ badIf (1 < pb raw 8 8) 8))
      (cmd r false)) ∧
    (rangeBusy idle 0 0x100000 = false ∧ rangeBusy (behindIt idle program0) 0 0x100000 = true) ∧
    (∀ p ∈ [(imageHost, true), ({ imageHost with ep := true }, false)], (fetchHost idle p.1 [(0x800000000000, 88)]).2 = !p.2 ∧
      (p.2 = true → imageRefusal (fetchHost idle p.1 [(0x800000000000, 88)]).1 0 0x800000000000 = none)) ∧
    (inMaps idle 0 0x800000000000 88 = true ∧ inMaps idle 0 0x200000 64 = false ∧ fwReadWaits idle 0x1000 88 = false ∧
      fwReadWaits lateWay 0 88 = true ∧ ([0].any fun g => (tcoreOf tested g).under.isSome) = true) ∧
    (∀ r, r = rawCmd 0x30 0 [(2, 1), (8, 0x1000)] → Waiting (runs idle r true) pf 0x30 anyRow (cmd r true)) ∧
    (∀ ch ∈ [idle, withImage, fencedIdle], ∀ p ∈ [(0, 0), (0, 1), (1, 0)], ∀ r,
      r = rawCmd 0x30 0 [(1, p.1), (2, 1), (3, p.2), (8, 0x1000)] →
      Taking (runs ch r false) pf 0x30 anyRow
        progLoadChk (cmd r false) ∧ 16 * pb r 0 0 + pb r 1 1 = p.1 ∧ pbit r 3 0 0 = p.2) ∧
    (owner idle 0 = some 0 ∧ owner idle 1 ≠ some 0 ∧ ([0].any (coreFenced idle)) = false ∧
      ([0].any (coreFenced fencedIdle)) = true ∧ (imageRefusal idle 0 0x1000).isSome = true ∧
      imageRefusal withImage 0 0x1000 = none) := by
  and_intros
  · intro p hp r h; subst h
    refine ⟨taking_of ?_, ?_⟩ <;> (revert p; decide +kernel)
  · decide +kernel
  · decide +kernel
  · intro r h d hd ch e; subst h; subst e
    refine ⟨taking_of ?_, ?_⟩ <;> (revert d; decide +kernel)
  · intro r h; subst h; exact taking_of (by decide +kernel)
  iterate 8 focus decide +kernel
  · intro r h; subst h; exact waiting_of (by decide +kernel)
  · intro ch hc p hp r h; subst h
    refine ⟨taking_of ?_, ?_⟩
    · revert p ch; decide +kernel
    · clear hc ch; revert p; decide +kernel
  all_goals decide +kernel

/-- A LAUNCH with no image, with an image, and with one on a fenced core. -/
theorem witness_LaunchStartsImages :
    (∀ r, r = rawCmd 0x31 0 [] + 2 ^ 128 → pb r 0 0 ≠ 0 ∧ headCheck idle (streamIx pf / 2) r = none) ∧
    (∀ r, r = rawCmd 0x31 0 [] → ∀ x ∈ [none, some (Image.mk 0 0 [])], ∀ f ∈ [false, true],
      ∀ ch, ch = updTcore (setCore idle 0 { coreReset with image := x }) 0 (fun t => { t with fenced := f }) →
      Taking (runs ch r false) pf 0x31 anyRow (fun _ => ([], [])) (cmd r false) ∧
      ∀ gs, gs = (coresOfJob ch 0).filter (fun g => (coreOf ch g).image.isSome) →
        gs.any (coreFenced ch) = (f && x.isSome) ∧ decide (gs = []) = x.isNone) := by
  refine ⟨?_, ?_⟩
  · intro r h; subst h; decide +kernel
  · intro r h x hx f hf ch e; subst h; subst e
    refine ⟨taking_of ?_, ?_⟩
    · revert x f; decide +kernel
    · intro gs g; subst g; revert x f; decide +kernel
/-- `idle` with the blocks of core 0 ENABLED and array 0 loaded in a traced tower. -/
def arrays : Chip := setArr (updTower (on [(.prg, 0), (.cal, 0)] idle) 0 fun t => { t with traced := true }) 0 0 loaded0

/-- Firmware's work on memory waits for nothing where no stack is under repair and no partition is limited. -/
theorem firmware_not_held {ch : Chip} (h1 : ∀ k, (stackOf ch k).repair = none) (h2 : ∀ k j, rateOpen (partRate ch k j) = true)
    (ts : List Touch) : memHeld ch .firmware ts = false := by
  have a : shutOf ch .firmware ts = [] := by
    have e : ts.flatMap (shutFor ch .firmware) = [] := by
      rw [List.flatMap_eq_nil_iff]; intro x _; unfold shutFor; split <;> rfl
    rw [shutOf, e]; rfl
  have b : ts.any (repairMet ch) = false := by
    rw [List.any_eq_false]; intro x _
    unfold repairMet
    split
    · rw [h1]; simp
    · simp
  have c : shortOf ch ts = [] := by
    rw [shortOf, List.filter_eq_nil_iff]; intro x _
    simp [bucketShort, h2]
  simp [memHeld, a, b, c]

theorem arrays_stack (k : Nat) : (stackOf arrays k).repair = none ∧ (stackOf arrays k).rates = [] := by
  have e : arrays.stks = [(0, { stackReset with inService := true }), (1, { stackReset with inService := true })] := by
    decide +kernel
  unfold stackOf tget
  rw [e]
  rcases k with _ | _ | k
  · exact ⟨rfl, rfl⟩
  · exact ⟨rfl, rfl⟩
  · exact ⟨rfl, rfl⟩

/-- An ARRAY_PROGRAM goes on at once, and one does not. -/
theorem witness_ArrayCommands_now : ∀ r, r = rawCmd 0x40 0 [(3, 1), (4, 3), (5, 1)] →
    programNow arrays r host0 [] = true ∧ programNow idle r host0 [] = false := by
  intro r h
  have a : programReady arrays r = true := by subst h; decide +kernel
  have b : programReady idle r = false := by subst h; decide +kernel
  refine ⟨?_, by simp [programNow, b]⟩
  rw [programNow, a, firmware_not_held (fun k => (arrays_stack k).1)
    (fun k j => by rw [partRate, (arrays_stack k).2]; simp [tget, rateOpen])]
  rfl

/-- An ARRAY_PROGRAM of core 0 goes on in the background of function 1. -/
def programming (ch : Chip) : Chip := updStream ch 2 fun x => { x with bg := [cmd (rawCmd 0x40 0 [(3, 1), (4, 1), (5, 1)]) true] }

/-- ARRAY_PROGRAM refused, with arrays that are ready and that are not, waited for and not, again and in the background;
a policy of the job and of one core, its own and another's, at 7 and 8; a refresh on another job's core, a fenced core, a
running core, an array that is not loaded, waited for and not, still queued and over; a calibration of a tower with its
reference faulty and good, waited for and not, over and not; a policy; the quality of arrays and lanes for the PF and a
VF. -/
theorem witness_ArrayCommands :
    (∀ w ∈ [0, 2], ∀ ch ∈ [arrays, idle, { arrays with clus := [] }], ∀ r,
      r = rawCmd 0x40 0 [(3, 1), (4, 1 + w), (5, 1), (24, 0)] →
      Taking (runs ch r false) pf 0x40 anyRow arrayProgramChk (cmd r false) ∧ pbit r 4 1 1 = w / 2) ∧
    (∀ r, r = rawCmd 0x40 0 [(3, 1), (4, 3), (5, 1)] →
      programRefusal (runs arrays r false).chip (cmd r false) = none ∧ programReady (runs arrays r false).chip r = true ∧
      programRefusal (runs idle r false).chip (cmd r false) = none ∧ programReady (runs idle r false).chip r = false ∧
      (programRefusal (runs { arrays with clus := [] } r false).chip (cmd r false)).isSome = true) ∧
    (∀ ch ∈ [arrays, idle], ∀ r, r = rawCmd 0x40 0 [(3, 1), (4, 3), (5, 1)] →
      Waiting (runs ch r true) pf 0x40 anyRow (cmd r true) ∧
      (let c := updStream ch 0 fun x => { x with bg := [cmd r true] }
       live c = true ∧ cmdIn c 0 0x40 anyRow = none ∧
        (streamOf c 0).bg.find? (fun d => cmdOp d.raw == 0x40) = some (cmd r true)) ∧
      (streamOf ch 0).bg.find? (fun d => cmdOp d.raw == 0x40) = none ∧ cmdIn ch 0 0x40 anyRow = none) ∧
    (∀ u ∈ [0, 1], ∀ n ∈ [7, 8], ∀ r, r = rawCmd 0x41 0 [(0, u), (3, n)] →
      Taking (runs idle r false) pf 0x41 anyRow policyChk (cmd r false) ∧ pb r 0 0 = u ∧ pb r 3 3 = n) ∧
    (coreJob idle 0 = some 0 ∧ coreJob idle 8 ≠ some 0) ∧
    (∀ w ∈ [0, 1], ∀ ch ∈ [arrays, { arrays with clus := [] }, updTcore arrays 0 fun t => { t with fenced := true },
        programming arrays, idle], ∀ r, r = rawCmd 0x42 0 [(3, 1), (4, w)] →
      Taking (runs ch r false) pf 0x42 anyRow refreshChk (cmd r false) ∧ pbit r 4 0 0 = w ∧ arCore r = 0) ∧
    (coreJob arrays 0 = some 0 ∧ coreJob { arrays with clus := [] } 0 ≠ some 0 ∧ coreFenced arrays 0 = false ∧
      coreFenced (updTcore arrays 0 fun t => { t with fenced := true }) 0 = true ∧ coreBusy arrays 0 = false ∧
      coreBusy (programming arrays) 0 = true ∧ coreFenced (programming arrays) 0 = false ∧
      ((arArrays arrays (rawCmd 0x42 0 [(3, 1)])).any fun p => !posLoaded arrays 0 p.1) = false ∧
      ((arArrays idle (rawCmd 0x42 0 [(3, 1)])).any fun p => !posLoaded idle 0 p.1) = true) ∧
    (∀ r, r = rawCmd 0x42 0 [(3, 1), (4, 1)] → ∀ q ∈ [[], [0]], ∀ ch, ch = updBank arrays 0 (fun b => { b with refreshQ := q }) →
      Waiting (st (updStream ch 0 fun x => { x with busy := true, cmd := some ⟨r, 0, 0, true, [0]⟩ })) pf 0x42 anyRow
        ⟨r, 0, 0, true, [0]⟩ ∧ decide (0 ∈ (bankOf ch (arCore r)).refreshQ) = decide (q ≠ [])) ∧
    (∀ w ∈ [0, 1], ∀ f ∈ [false, true], ∀ r, r = rawCmd 0x50 0xFF [(4, w)] →
      ∀ ch, ch = updTower idle 0 (fun t => { t with fault := f }) →
      Taking (runs ch r false) pf 0x50 anyRow calRunChk (cmd r false) ∧ pbit r 4 0 0 = w ∧
      Waiting (runs ch r true) pf 0x50 anyRow (cmd r true) ∧
      ((calTowers r).any fun t => (towerOf (runs ch r true).chip t).fault) = f ∧
      ((calTowers r).any fun t => (towerOf (runs ch r false).chip t).fault) = f) ∧
    (∀ r, r = rawCmd 0x50 0xFF [(4, 1)] → ∀ d ∈ [[], [0]], ∀ ch, ch = updField idle 0 (fun f => { f with due := d }) →
      calOver ch r [0] = decide (d = [])) ∧
    (∀ r, r = rawCmd 0x51 0xFF [(0, 255), (1, 1), (2, 7)] → Taking (runs idle r false) pf 0x51 anyRow
      (fun raw => ([(0, 3)], badIf (1 < pb raw 1 1) 1)) (cmd r false)) ∧
    (∀ b ∈ [0, 1], ∀ r, r = rawCmd 0x52 0xFF [(0, b), (1, 7 * (1 - b) + 15 * b), (4, 1), (8, 0x2000)] →
      Taking (runs idle r false) pf 0x52 anyRow calQualityChk (cmd r false) ∧ pb r 0 0 = b) ∧
    (∀ bs, bs = (List.range 8).flatMap (laneQuality idle 15) → bs ≠ [] ∧ fnReach idle 0 0x2000 bs.length true = true) ∧
    (∀ b ∈ [0, 1], ∀ r, r = rawCmd 0x52 0 [(0, b), (4, 1), (8, 0x2000)] →
      Taking (st (updStream idle 2 fun x => { x with cmd := some (cmd r false) })) ⟨1, false⟩ 0x52 anyRow calQualityChk
        (cmd r false) ∧ (⟨1, false⟩ : Stream).fn.val ≠ 0 ∧ pb r 0 0 = b ∧
      coreJob idle (coreAt (pb r 1 1) (pb r 2 2)) = some (jobId ((⟨1, false⟩ : Stream).fn.val - 1))) := by
  and_intros
  · intro w hw ch hc r h; subst h
    refine ⟨taking_of ?_, ?_⟩
    · revert w ch; decide +kernel
    · clear hc ch; revert w; decide +kernel
  · intro r h; subst h; decide +kernel
  · intro ch hc r h; subst h
    refine ⟨waiting_of ?_, ?_⟩ <;> (revert ch; decide +kernel)
  · intro u hu n hn r h; subst h
    refine ⟨taking_of ?_, ?_⟩ <;> (revert u n; decide +kernel)
  · decide +kernel
  · decide +kernel
  · intro w hw ch hc r h; subst h
    refine ⟨taking_of ?_, ?_⟩
    · revert w ch; decide +kernel
    · clear hc ch; revert w; decide +kernel
  on_goal 10 =>
    intro r h q hq ch e; subst h; subst e
    refine ⟨waiting_of ?_, ?_⟩ <;> (revert q; decide +kernel)
  on_goal 10 =>
    intro w hw f hf r h ch e; subst h; subst e
    refine ⟨taking_of ?_, ?_, waiting_of ?_, ?_⟩ <;> (revert w f; decide +kernel)
  on_goal 10 => intro r h d hd ch e; subst h; subst e; revert d; decide +kernel
  on_goal 10 => intro r h; subst h; exact taking_of (by decide +kernel)
  on_goal 10 =>
    intro b hb r h; subst h
    refine ⟨taking_of ?_, ?_⟩ <;> (revert b; decide +kernel)
  on_goal 10 => intro bs e; subst e; decide +kernel
  on_goal 10 =>
    intro b hb r h; subst h
    refine ⟨taking_of ?_, ?_⟩ <;> (revert b; decide +kernel)
  all_goals decide +kernel

/-- Link 0 in state `k` on an IDLE job 0 that maps two pages and more. -/
def fabIdle (k : Link) : Chip :=
  let ch := on [(.fab, 0), (.col, 0)] idle
  { ch with fab := { ch.fab with links := [(0, k)] } }

/-- A port that is quiet and one that is not; routes with and without an entry; each training action on a link at rest, UP
and in training, waited for and over or not; a group made and refused, and destroyed: of no number, of another job, of the
job's own; a policy. -/
theorem witness_FabricCommands :
    (∀ n ∈ [0, 1, 3], ∀ ch, ch = fabIdle { linkReset with st := n } →
      (∀ r, r = rawCmd 0x60 0xFF [(2, 1), (12, 64), (14, 480), (16, 480)] →
        Taking (runs ch r false) pf 0x60 (actRow 0 2) portCfgChk (cmd r false) ∧
        ((span (2 * pb r 1 1) 2).any fun l => (linkOf ch l).st != 0) = decide (n ≠ 0)) ∧
      (∀ a ∈ [0, 1, 2], ∀ w ∈ [0, 1], ∀ r, r = rawCmd 0x61 0xFF [(1, a), (2, w)] →
        Taking (runs ch r false) pf 0x61 (trainRow a) trainChk (cmd r false) ∧ pbit r 2 0 0 = w ∧
        Waiting (runs ch r true) pf 0x61 (trainRow a) (cmd r true) ∧ trainOver ch r = decide (n ≠ 1) ∧
        ((portLinks ch (pb r 0 0)).any fun l => (linkOf ch l).st != 0 && (linkOf ch l).st != 4) = decide (n ≠ 0) ∧
        ((portLinks ch (pb r 0 0)).any fun l => (linkOf ch l).st == 1 || (linkOf ch l).st == 2) = decide (n = 1))) ∧
    (∀ v ∈ [0, 3], ∀ r, r = rawCmd 0x60 0xFF [(0, 1), (1, 63), (2, 31), (3, v)] → Taking (runs idle r false) pf 0x60 (actRow 1 2)
      (fun raw => ([(0, 3)], badIf (63 < pb raw 1 1) 1 ++ badIf (31 < pb raw 2 2) 2 ++ badIf (3 < pb raw 3 3) 3)) (cmd r false)) ∧
    (∀ k ∈ [upLink, linkReset], ∀ r, r = rawCmd 0x62 0 [(4, 2), (6, 1), (20, 1), (24, 0x2000), (32, 0x4000), (40, 1)] →
      Taking (runs (fabIdle k) r false) pf 0x62 (groupRow 0) groupChk (cmd r false) ∧
      (groupRefusal (runs (fabIdle k) r false).chip 0 (cmd r false)).isNone = decide (k = upLink)) ∧
    (∀ r, r = rawCmd 0x62 0 [(1, 1)] → ∀ gs ∈ [[], [(0, group0 none)], [(0, { group0 none with job := 1 })]],
      ∀ ch, ch = { idle with fab := { idle.fab with groups := gs } } →
      Taking (runs ch r false) pf 0x62 (groupRow 1) groupChk (cmd r false) ∧
      groupOf ch (pb r 0 0) = gs.head?.map Prod.snd) ∧
    (∀ r, r = rawCmd 0x63 0 [(0, 2), (4, 1000000), (8, 60000)] →
      Taking (runs idle r false) pf 0x63 anyRow stragglerChk (cmd r false)) := by
  and_intros
  · intro n hn ch e; subst e
    refine ⟨fun r h => ?_, fun a ha w hw r h => ?_⟩ <;> subst h
    · refine ⟨taking_of ?_, ?_⟩ <;> (revert n; decide +kernel)
    · refine ⟨taking_of ?_, ?_, waiting_of ?_, ?_⟩ <;> (revert n a w; decide +kernel)
  · intro v hv r h; subst h
    refine taking_of ?_; revert v; decide +kernel
  · intro k hk r h; subst h
    refine ⟨taking_of ?_, ?_⟩ <;> (revert k; decide +kernel)
  · intro r h gs hg ch e; subst h; subst e
    refine ⟨taking_of ?_, ?_⟩ <;> (revert gs; decide +kernel)
  · intro r h; subst h
    exact taking_of (by decide +kernel)

/-- Link 0 is UP to position 5, job 0 may have a SOURCE and a restore. -/
def twinIdle (l : Tab TwinSrc) (rs : Tab TwinRest) : Chip :=
  let ch := fabIdle { upLink with partner := some { hand0 with pos := 5 } }
  { ch with fab := { ch.fab with twins := l, rests := rs } }
def restIn (run : Bool) : TwinRest :=
  { links := [0], partner := 5, orig := 0, jfid := 0, regions := [], running := run, result := 0, number := 0, step := 0
    history := false }

/-- A source of a job with one and without, of objects that are another's, of the own position, of a link that is not to
the partner, of a bad table; a hold area of the own position, beyond the memory, taken, and free; their removal, present and not; a query and a
copy of a job with a source and without, that copies and not, waited for and over or not; a restore while one runs, with a
good and a bad table, waited for, running and over. -/
theorem witness_TwinCommands :
    (∀ l ∈ [[], [(0, twin0)]], ∀ x ∈ [5, 0, 6], ∀ a ∈ [0x2000, 0x200000], ∀ o ∈ [0, 1024],
      ∀ r, r = rawCmd 0x70 0 [(1, 1), (6, x), (8, 1), (12, o), (16, 1), (24, a)] →
      ∀ ch, ch = twinIdle l [] → Taking (runs ch r false) pf 0x70 (actRow 0 4) sourceChk (cmd r false) ∧
      (twinOf ch 0).isSome = decide (l ≠ []) ∧
      decide (owner ch (objCluster (objOfNat (pb r 13 12))) = some 0) = decide (o = 0) ∧
      owner ch (objCluster (objOfNat (pb r 15 14))) = some 0 ∧
      decide (pb r 6 6 ≠ ch.nwl.pos.toNat) = decide (x ≠ 0) ∧
      ((List.range (pb r 1 1)).find? fun i => !twinLinkOk ch (jobOf ch 0).jfid (pb r 6 6)
        (pb r (2 + i) (2 + i))) = (if x = 5 then none else some 0) ∧
      (tableRefusal ch 0 (pb r 29 24) 24).isNone = decide (a = 0x2000)) ∧
    (∀ n ∈ [0, 5], ∀ a ∈ [0x200000, 0x1000, 0xC000000000],
      ∀ r, r = rawCmd 0x70 0xFF [(0, 1), (1, n), (4, 1), (8, a), (16, 4344)] →
      Taking (runs idle r false) pf 0x70 (actRow 1 4) holdChk (cmd r false) ∧ holdOf idle n 0 = none ∧
      decide (pb r 1 1 = idle.nwl.pos.toNat) = decide (n = 0) ∧
      decide (hbmEnd < pb r 13 8 + pb r 23 16) = decide (a = 0xC000000000) ∧ ((taken idle).any fun x =>
        decide (pb r 13 8 < x.1 + x.2 ∧ x.1 < pb r 13 8 + pb r 23 16)) = decide (a = 0x1000)) ∧
    (∀ l ∈ [[], [(0, twin0)]], ∀ p ∈ [2, 3], ∀ r, r = rawCmd 0x70 0 [(0, p)] →
      Taking (runs (twinIdle l []) r false) pf 0x70 (actRow p 4)
        (if p = 2 then removeChk else fun _ => ([(0, 0)], [])) (cmd r false) ∧
      pb r 1 1 = 0 ∧ (twinOf (twinIdle l []) (cmdJob r)).isSome = decide (l ≠ [])) ∧
    (∀ hs ∈ [[], [⟨5, 0, true, 0x200000, 4344⟩]], ∀ r, r = rawCmd 0x70 0xFF [(0, 2), (1, 1), (2, 5)] →
      ∀ ch, ch = { idle with fab := { idle.fab with holds := hs } } →
      Taking (runs ch r false) pf 0x70 (actRow 2 4) removeChk (cmd r false) ∧ pb r 1 1 ≠ 0 ∧
      (ch.fab.holds.any fun h => h.src == pb r 2 2) = decide (hs ≠ [])) ∧
    (∀ l ∈ [[], [(0, twin0)], [(0, { twin0 with copy := some ⟨1, 0, true, 0⟩ })]], ∀ w ∈ [0, 1],
      ∀ r, r = rawCmd 0x71 0 [(0, w)] →
      Taking (runs (twinIdle l []) r false) pf 0x71 anyRow (fun raw => ([(0, 0)], badIf (1 < pb raw 0 0) 0)) (cmd r false) ∧
      (twinOf (twinIdle l []) (cmdJob r)) = l.head?.map Prod.snd ∧ pbit r 0 0 0 = w ∧
      Waiting (runs (twinIdle l []) r true) pf 0x71 anyRow (cmd r true) ∧
      (copyOver (runs (twinIdle l []) r true).chip (cmdJob r)).isNone = decide (l.any fun p => p.2.copy.isSome)) ∧
    (∀ a ∈ [0x2000, 0x200000], ∀ w ∈ [0, 1], ∀ rs ∈ [[], [(0, restIn true)], [(0, restIn false)]],
      ∀ r, r = rawCmd 0x72 0 [(1, 1), (6, 5), (16, a), (22, w)] →
      Taking (runs (twinIdle [] rs) r false) pf 0x72 anyRow restoreChk (cmd r false) ∧
      (tableRefusal (twinIdle [] rs) 0 (pb r 21 16) 16).isNone = decide (a = 0x2000) ∧ pbit r 22 0 0 = w ∧
      restOf (twinIdle [] rs) 0 = rs.head?.map Prod.snd ∧
      Waiting (runs (twinIdle [] rs) r true) pf 0x72 anyRow (cmd r true)) := by
  and_intros
  · intro l hl x hx a ha o ho r h ch e; subst h; subst e
    refine ⟨taking_of ?_, ?_⟩ <;> (revert l x a o; decide +kernel)
  · intro n hn a ha r h; subst h
    refine ⟨taking_of ?_, ?_⟩ <;> (revert n a; decide +kernel)
  · intro l hl p hp r h; subst h
    refine ⟨taking_of ?_, ?_⟩ <;> (revert l p; decide +kernel)
  · intro hs hh r h ch e; subst h; subst e
    refine ⟨taking_of ?_, ?_⟩ <;> (revert hs; decide +kernel)
  · intro l hl w hw r h; subst h
    refine ⟨taking_of ?_, ?_, ?_, waiting_of ?_, ?_⟩ <;> (revert l w; decide +kernel)
  · intro a ha w hw rs hr r h; subst h
    refine ⟨taking_of ?_, ?_, ?_, ?_, waiting_of ?_⟩ <;> (revert a w rs; decide +kernel)
/-- Bytes of host memory at the start of the outbound window. -/
def hostAt (bs : List Byte) : HostIn := ⟨bs.zipIdx.map fun p => (0x800000000000 + p.2, p.1), false, false, []⟩
/-- The header of a test pack of one item (R441). -/
def pack0 : HostIn := hostAt (leBytes 0x4B505354 4 ++ leBytes 0x0100 2 ++ [0xA2, 0] ++ leBytes 1 4 ++ leBytes 0 4 ++
  leBytes 1 4 ++ leBytes 1 4 ++ leBytes 0 4)
def vf1 : Stream := ⟨1, false⟩
/-- The mailbox of job 0's function runs `raw`. -/
def runsVf (ch : Chip) (raw : Nat) : State := st (updStream ch 2 fun x => { x with busy := true, cmd := some (cmd raw false) })

/-- `ch` with core 0, its engine 0, its array 0, or tower 0 fenced. -/
def outOf (ch : Chip) (u : Nat) : Chip :=
  match u with
  | 0 => updTcore ch 0 fun x => { x with fenced := true }
  | 1 => updAcc ch 0 fun x => { x with fencedEng := 1 }
  | 2 => updArr ch 0 0 fun x => { x with fenced := true }
  | _ => updTower ch 0 fun x => { x with fenced := true }

/-- A pack within the host window and below it, one that the host fails, a good and a bad one; each action of the
schedule, its enable set, clear, and set before; cores fenced and not, at a test point and not, under a TEST_NOW that began and not, and its window's ends; fences and notifications,
none and one; the readmission of a core, an engine, an array and a tower, each out and in service, with its core at a test
point and not, and with the tower's clocks back and not. -/
theorem witness_TestCommands :
    (∀ a ∈ [0x800000000000, 0x2000], ∀ r, r = rawCmd 0x80 0xFF [(0, a), (8, 29872)] →
      Taking (runs idle r false) pf 0x80 anyRow (fun raw => ([(0, 5), (8, 11)], badIf (0x200000 < pb raw 11 8) 8)) (cmd r false) ∧
      decide (outBase ≤ pb r 5 0) = decide (a ≠ 0x2000) ∧ pb r 5 0 + pb r 11 8 ≤ 2 * outBase) ∧
    (∀ h ∈ [pack0, host0], hostBad idle h = false ∧ hostBad idle { h with err := true } = true ∧
      packOk (hostRead idle 0 h [(0x800000000000, 29872)]) 0x800000000000 29872 (minVerOf NonVol.fresh 2) = decide (h = pack0)) ∧
    (∀ a ∈ [0, 1, 2], ∀ e ∈ [0, 1], ∀ r, r = rawCmd 0x81 0xFF [(0, a), (8, if a = 0 then e else 0)] →
      Taking (runs idle r false) pf 0x81 (actRow a 3) scheduleChk (cmd r false) ∧ (a = 0 → pbit r 8 0 0 = e) ∧
      schedCore r = 0 ∧ Waiting (runs idle r true) pf 0x81 (actRow a 3) (cmd r true)) ∧
    ((regGet (regSet idle .tslCtrl 0 0) .tslCtrl 0).getLsbD 1 = false ∧ (regGet idle .tslCtrl 0).getLsbD 1 = true) ∧
    (coreFenced fencedIdle 0 = true ∧ coreFenced idle 0 = false ∧ atTestPoint idle 0 = true ∧ workDone idle 0 = true ∧
      atTestPoint (updTile busy 0 0 fun x => { x with st := 2 }) 0 = false ∧
      coreFenced (updTile busy 0 0 fun x => { x with st := 2 }) 0 = false) ∧
    (∀ r, r = rawCmd 0x81 0xFF [(0, 1)] → ∀ ch ∈ [idle, tested], ∀ m ∈ [[], [1]],
      Waiting (st (updStream ch 0 fun x => { x with busy := true, cmd := some ⟨r, 0, 0, true, m⟩ })) pf 0x81 (actRow 1 3)
        ⟨r, 0, 0, true, m⟩ ∧ (tcoreOf ch (schedCore r)).under = ch.tcores.head?.map fun _ => WindowKind.now) ∧
    (ctlRuns idle = true ∧ ctlRuns { idle with islRun := 0 } = false ∧
      (∀ p ∈ [(TestObs.pass, some true), (.core, some false), (.begins, none)], (runWindow idle 0 .now true p.1).2 = p.2 ∧
        (p.2 = none → (tcoreOf (runWindow idle 0 .now true p.1).1 0).under = some .now)) ∧
      (runWindow idle 0 .now false .pass).2 = none ∧
      (tcoreOf (runWindow idle 0 .now false .pass).1 0).under = none) ∧
    (∀ r, r = rawCmd 0x82 0 [(16, 0x2000), (24, 1)] →
      Taking (runsVf fencedIdle r) vf1 0x82 (actRow 0 2) fenceQueryChk (cmd r false) ∧
      ∀ l, l = ((fencesOf (runsVf fencedIdle r).chip vf1.fn.val).drop (pb r 15 8)).take (pb r 27 24) → l.flatten ≠ [] ∧
        fnReach (runsVf fencedIdle r).chip vf1.fn.val (pb r 21 16) l.flatten.length true = true) ∧
    (∀ ns ∈ [[], [(⟨0, 1, 0, 0, 0, 0, 0, 0⟩ : Note)]], ∀ r, r = rawCmd 0x82 0xFF [(0, 1), (24, 1)] →
      ∀ ch, ch = updJob idle 0 (fun j => { j with notes := ns }) →
      Taking (runs ch r false) pf 0x82 (actRow 1 2) fenceQueryChk (cmd r false) ∧
      (((notesOf (runs ch r false).chip 0).filter fun n => decide (pb r 15 8 ≤ n.seq)).take (pb r 27 24)).length = ns.length) ∧
    (∀ u ∈ [0, 1, 2, 3], ∀ ch ∈ [idle, outOf idle u], ∀ r, r = rawCmd 0x83 0xFF [(0, u)] →
      Taking (runs ch r false) pf 0x83 anyRow readmitChk (cmd r false) ∧
      Waiting (runs ch r true) pf 0x83 anyRow (cmd r true) ∧ pb r 0 0 = u ∧
      (towerOf ch (pb r 1 1)).fenced = (decide (u = 3) && (towerOf ch 0).fenced) ∧
      coreAt (pb r 1 1) (pb r 2 2) = 0 ∧ pb r 3 3 = 0) ∧
    ((tcoreOf (outOf idle 0) 0).fenced = true ∧ (tcoreOf idle 0).fenced = false ∧
      (accOf (outOf idle 1) 0).fencedEng.getLsbD 0 = true ∧ (accOf idle 0).fencedEng.getLsbD 0 = false ∧
      (arrOf (outOf idle 2) 0 0).fenced = true ∧ (arrOf idle 0 0).fenced = false ∧
      (towerOf (outOf idle 3) 0).fenced = true) ∧
    (readmitReady idle 0 = true ∧ readmitReady (updTile busy 0 0 fun x => { x with st := 2 }) 0 = false ∧
      contentPasses [] 0 = true ∧ contentPasses [(0, .core)] 0 = false ∧ clocksBack idle 0 [] = true ∧
      clocksBack { idle with islRun := 0x1FFFFFE } 0 [] = false) := by
  and_intros
  · intro a m r e; subst e
    refine ⟨taking_of ?_, ?_⟩ <;> (revert a; decide +kernel)
  · decide +kernel
  · intro a m x n r e; subst e
    refine ⟨taking_of ?_, ?_, ?_, waiting_of ?_⟩ <;> (revert a x; decide +kernel)
  on_goal 9 =>
    intro r e ch hc m hm; subst e
    refine ⟨waiting_of ?_, ?_⟩
    · revert ch m; decide +kernel
    · clear hm m; revert ch; decide +kernel
  on_goal 14 =>
    intro r e; subst e
    refine ⟨taking_of (by decide +kernel), ?_⟩
    intro l f; rw [f]; decide +kernel
  on_goal 14 =>
    intro ns m r e ch f; subst e; subst f
    refine ⟨taking_of ?_, ?_⟩ <;> (revert ns; decide +kernel)
  on_goal 14 =>
    intro u m ch n r e; subst e
    refine ⟨taking_of ?_, waiting_of ?_, ?_⟩ <;> (revert ch; revert u; decide +kernel)
  all_goals decide +kernel

/-- Job 0 has a dump region; Sorrel and Yarrow run and one snapshot is armed. -/
def dump0 : JobDump := ⟨0x200000, 6656, 1, 2, 0, false⟩
def dumping : Chip := updJob idle 0 fun j => { j with dump := some dump0 }
/-- A record of a cut has yet to be written to it. -/
def cutting : Chip := { dumping with obs := { dumping.obs with cutBusy := true, recs := [(some 0, 0x200000, [])] } }
def arm0 : Arm := ⟨false, 0, true, 0, 0, 0x800000000000, 0x200000⟩
def armed : Chip := { on [(.obs, 0)] idle with obs := { idle.obs with arm := some arm0 } }
/-- Converter 0 is ENABLED, and a conversion goes on. -/
def converting : Chip := updConv (on [(.snst, 0)] idle) 0 fun x => { x with now := some ⟨false, 0, 16⟩, settled := 7 }

/-- A dump region of the job and none, granted, revoked and placed, with memory for it and without, and ended, during a cut
and not; a snapshot armed to the
host and where none may lie, disarmed, and triggered: with none armed, with the observer off, with one taken, with none;
each SENSOR_CFG action, refused and not, its clock lost and running, changing WD fields and not, its converter DISABLED,
stopping and stopped; a buffer removed, of the host, and of the memory, with room and without. -/
theorem witness_CounterCommands :
    (∀ a ∈ [0, 1], ∀ ch ∈ [idle, dumping], ∀ r, r = rawCmd 0x90 0 [(0, a)] →
      Taking (runs ch r false) pf 0x90 (actRow a 2) accessChk (cmd r false) ∧
      (jobOf (runs ch r false).chip (cmdJob r)).dump.isSome = (jobOf ch 0).dump.isSome) ∧
    ((jobOf idle 0).dump = none ∧ (jobOf dumping 0).dump = some dump0) ∧
    (∀ ch ∈ [idle, dumping, { idle with stks := [] }], ∀ r, r = rawCmd 0x91 0 [(1, 1), (4, 2)] →
      Taking (runs ch r false) pf 0x91 (actRow 0 2)
      (fun raw => ([(0, 1), (4, 5)], badIf (1 < pb raw 0 0) 0 ++
        badIf (decide (pb raw 1 1 = 0 ∨ 128 < pb raw 1 1)) 1 ++ badIf (pb raw 5 4 < 2) 4)) (cmd r false) ∧
      (jobOf ch (cmdJob r)).dump.isSome = (jobOf ch 0).dump.isSome ∧
      (placeHbm ch false 0xFF (dumpSlot (pb r 1 1) * pb r 5 4)).isSome = decide (ch.stks ≠ [])) ∧
    (∀ ch ∈ [dumping, cutting], ∀ r, r = rawCmd 0x91 0 [(0, 1)] →
      Taking (runs ch r false) pf 0x91 (actRow 1 2) (fun _ => ([(0, 0)], [])) (cmd r false) ∧
      Waiting (runs ch r true) pf 0x91 (actRow 1 2) (cmd r true) ∧
      dumpBusy (runs ch r false).chip (cmdJob r) = ch.obs.cutBusy) ∧
    (∀ d ∈ [0x2000, 0x800000000000], ∀ r, r = rawCmd 0x92 0xFF [(16, d), (24, 0x200000)] →
      Taking (runs idle r false) pf 0x92 (actRow 0 3) armChk (cmd r false) ∧
      snapDest (runs idle r false).chip (pb r 21 16) (pb r 31 24) = decide (d ≠ 0x2000)) ∧
    (∀ a ∈ [1, 2], ∀ ch ∈ [idle, armed, { armed with blks := [] }], ∀ r, r = rawCmd 0x92 0xFF [(0, a)] →
      Taking (runs ch r false) pf 0x92 (actRow a 3) (fun _ => ([(0, 0)], [])) (cmd r false)) ∧
    (idle.obs.arm = none ∧ armed.obs.arm = some arm0 ∧ obsRuns armed = true ∧ obsRuns { armed with blks := [] } = false ∧
      armed.obs.snap = none ∧ (takeSnap armed 5 0 0x800000000000).obs.snap.isSome = true) ∧
    (islandRuns idle 21 = true ∧ islandRuns { idle with islRun := 0 } 21 = false ∧ snBlk 0 = (.snst, 0) ∧
      blkGet idle .snst 0 = .disabled ∧ blkGet converting .snst 0 = .enabled ∧
      stopReady (blkSet converting .snst 0 false .stopping) .snst 0 false = false ∧
      stopReady (blkSet (on [(.snst, 0)] idle) .snst 0 false .stopping) .snst 0 false = true) ∧
    (∀ w : Bool, ∀ ch ∈ [idle, converting, on [(.snst, 0)] idle],
      (∀ r, r = rawCmd 0xA0 0xFF [(0, 3), (2, 16383)] → ∀ s, s = runs ch r w →
        (w = false → Taking s pf 0xA0 (actRow 3 4) (fun raw => ([(0, 5)],
          scBad raw ++ badIf (16383 < pb raw 3 2) 2 ++ badIf (decide (pb raw 3 2 ≤ pb raw 5 4)) 4)) (cmd r false)) ∧
        (w = true → Waiting s pf 0xA0 (actRow 3 4) (cmd r true))) ∧
      (∀ r, r = rawCmd 0xA0 0xFF [(8, 10)] → ∀ s, s = runs ch r w →
        (w = false → Taking s pf 0xA0 (actRow 0 4) converterChk (cmd r false)) ∧
        (w = true → Waiting s pf 0xA0 (actRow 0 4) (cmd r true))) ∧
      (∀ r, r = rawCmd 0xA0 0xFF [(0, 1), (3, 1), (4, 1), (8, 16)] → ∀ s, s = runs ch r w →
        (w = false → Taking s pf 0xA0 (actRow 1 4) sequenceChk (cmd r false)) ∧
        (w = true → Waiting s pf 0xA0 (actRow 1 4) (cmd r true))) ∧
      (∀ n ∈ [0, 65536], ∀ h ∈ [0, 1], ∀ r, r = rawCmd 0xA0 0xFF [(0, 2), (2, h), (8, if h = 1 ∧ n ≠ 0 then 0x800000000000 else 0), (16, n)] →
        ∀ s, s = runs ch r w → (w = false → Taking s pf 0xA0 (actRow 2 4) bufferChk (cmd r false)) ∧
        (w = true → Waiting s pf 0xA0 (actRow 2 4) (cmd r true)) ∧ pb r 19 16 = n ∧ pb r 2 2 = h)) ∧
    (∀ r, r = rawCmd 0xA0 0xFF [(0, 1), (3, 1), (4, 1), (8, 16)] → ((sqWords r).any fun p =>
        fwEntry (scConv r) (sqInj r) p.1 && snEntry idle (scConv r) (sqInj r) p.1 != p.2) = false ∧
      ((sqWords r).any fun p => snEntry idle (scConv r) (sqInj r) p.1 != p.2) = true) ∧
    ((placeHbm idle false 0xFF 65536).isSome = true ∧ placeHbm { idle with stks := [] } false 0xFF 65536 = none) := by
  and_intros
  · intro a m ch n r e; subst e
    refine ⟨taking_of ?_, ?_⟩ <;> (revert a; revert ch; decide +kernel)
  on_goal 3 =>
    intro ch m r e; subst e
    refine ⟨taking_of ?_, ?_⟩ <;> (revert ch; decide +kernel)
  on_goal 3 =>
    intro ch m r e; subst e
    refine ⟨taking_of ?_, waiting_of ?_, ?_⟩ <;> (revert ch; decide +kernel)
  on_goal 3 =>
    intro d m r e; subst e
    refine ⟨taking_of ?_, ?_⟩ <;> (revert d; decide +kernel)
  on_goal 3 =>
    intro a ha ch hc r e; subst e
    refine taking_of ?_; revert a ch; decide +kernel
  all_goals first
    | decide +kernel
    | skip
  · intro w ch hc
    refine ⟨fun r e s f => ?_, fun r e s f => ?_, fun r e s f => ?_, fun n hn h hh r e s f => ?_⟩ <;> subst e <;> subst f
    · refine ⟨fun hw => taking_of ?_, fun hw => waiting_of ?_⟩ <;> subst hw <;> (revert ch; decide +kernel)
    · refine ⟨fun hw => taking_of ?_, fun hw => waiting_of ?_⟩ <;> subst hw <;> (revert ch; decide +kernel)
    · refine ⟨fun hw => taking_of ?_, fun hw => waiting_of ?_⟩ <;> subst hw <;> (revert ch; decide +kernel)
    · refine ⟨fun hw => taking_of ?_, fun hw => waiting_of ?_, ?_⟩
      · subst hw; revert ch n h; decide +kernel
      · subst hw; revert ch n h; decide +kernel
      · clear hc ch w; revert n h; decide +kernel
  · intro r e; subst e; decide +kernel
/-- Headers of a firmware and of a configuration image without a body (R410). -/
def fw0 : HostIn := hostAt (leBytes 0 4 ++ leBytes 2 4 ++ leBytes 0 8)
def cfg0 : HostIn := hostAt (leBytes 0 4 ++ leBytes 1 4 ++ leBytes 0 8)
/-- The head of an enrolment record for slot 0 of a device whose identity reads 0, its PUF having failed (R491, R492). -/
def owner0 : HostIn := hostAt (leBytes 0x524E574F 4 ++ leBytes 0 4 ++ leBytes 0 8)
def noPuf : Chip := { idle with sys := { idle.sys with sec := { idle.sys.sec with pufFail := true } } }

theorem fit_length (bs : List Byte) (n : Nat) : (fitBytes bs n).length = n := by
  simp only [fitBytes, List.length_append, List.length_take, List.length_replicate]; omega

theorem report_length (k : List Byte) : (reportHead idle NonVol.fresh 0 0 ++ fitBytes k 29792).length = 30304 := by
  rw [List.length_append, fit_length, show (reportHead idle NonVol.fresh 0 0).length = 512 by decide +kernel]

/-- Every soft spare of bank 0 of pseudo-channel 0 of stack 0 is used, however many the device has (log 7). -/
def spent : NonVol := { NonVol.fresh with soft := List.replicate (Config.hbmSpares 0 0 0 0) (0, 0, 0, 0) }
theorem spent_none : sparesLeft spent 0 0 0 0 = 0 := by
  simp [sparesLeft, appliedBank, repairList, spent]

/-- Good and bad objects of each kind, in the host window and below it, with the island running and not, the host failing
and not; a PUF that failed; a report and a repair list that fit a buffer; a repair of a stack that repairs another, with a
spare and with none, its end, one behind a command of its order, one that a check refuses, none; a queue that may be
enabled and one that is; the lowest and the highest voltage code. -/
theorem witness_SystemCommands :
    (∀ a ∈ [0, 1, 2], ∀ b ∈ [0x800000000000, 0x2000], ∀ ch ∈ [idle, { idle with islRun := 0x1BFFFFF }],
      ∀ r, r = rawCmd 0xB1 0xFF [(0, a), (8, b), (16, 29872)] →
      Taking (runs ch r false) pf 0xB1 (actRow a 4) updateChk (cmd r false) ∧
      pb r 13 8 = b ∧ pb r 19 16 = 29872 ∧ decide (outBase ≤ pb r 13 8) = decide (b ≠ 0x2000) ∧
      pb r 13 8 + pb r 19 16 ≤ 2 * outBase) ∧
    (islandRuns idle 22 = true ∧ islandRuns { idle with islRun := 0x1BFFFFF } 22 = false ∧
      hostBad idle { host0 with err := true } = true) ∧
    (∀ r, r = rawCmd 0xB1 0xFF [(0, 0), (8, 0x800000000000), (16, 29872)] → ∀ h ∈ [fw0, host0],
      hostBad (runs idle r false).chip h = false ∧
      imageFits (hostRead (runs idle r false).chip 0 h [(0x800000000000, 29872)]) NonVol.fresh verdict0 0x800000000000 29872 2
        = decide (h = fw0)) ∧
    (∀ p ∈ [(verdict0, true), ({ verdict0 with vendorOk := false }, false), ({ verdict0 with ownerOk := false }, true)],
      imageFits (hostRead idle 0 cfg0 [(0x800000000000, 29872)]) NonVol.fresh p.1 0x800000000000 29872 1 = p.2) ∧
    recordOk (hostRead noPuf 0 owner0 [(0x800000000000, 29872)]) NonVol.fresh 0x800000000000 29872 = true ∧
    (∀ r, r = rawCmd 0xB1 0xFF [(0, 3)] →
      Taking (runs idle r false) pf 0xB1 (actRow 3 4) (fun _ => ([(0, 0)], [])) (cmd r false)) ∧
    (∀ b ∈ [false, true], ∀ r, r = rawCmd 0xB0 0xFF [(32, 0x2000)] →
      ∀ ch, ch = { idle with sys := { idle.sys with sec := { idle.sys.sec with pufFail := b } } } →
      Taking (runs ch r false) pf 0xB0 anyRow attestChk (cmd r false) ∧ ch.sys.sec.pufFail = b ∧ pbit r 40 0 0 = 0) ∧
    fnReach idle 0 0x2000 30304 true = true ∧
    (∀ r, r = rawCmd 0xC0 0xFF [(8, 0x2000)] → Taking (runs idle r false) pf 0xC0 anyRow
      (fun raw => ([(0, 0), (8, 15)], badIf (15 < pb raw 0 0) 0)) (cmd r false) ∧
      ∀ bs, bs = (List.range 64).flatMap (pcRecord NonVol.fresh 0) ++ (stackOf idle 0).cands.flatMap candRecord →
        bs.length = 512 ∧ fnReach idle 0 (pb r 15 8) 512 true = true) ∧
    (∀ b ∈ [0, 1], ∀ ch ∈ [idle, { idle with stks := [(0, { stackReset with repair := some 0 })] }],
      ∀ r, r = rawCmd 0xC1 0xFF [(6, b)] → Taking (runs ch r false) pf 0xC1 anyRow applyChk (cmd r false) ∧
      Waiting (runs ch r true) pf 0xC1 anyRow (cmd r true) ∧ pbit r 6 0 0 = b) ∧
    ((stackOf idle 0).repair = none ∧ (stackOf { idle with stks := [(0, { stackReset with repair := some 0 })] } 0).repair =
      some 0 ∧ sparesLeft spent 0 0 0 0 = 0 ∧ sparesLeft NonVol.fresh 0 0 0 0 = Config.hbmSpares 0 0 0 0) ∧
    (∀ r, r = rawCmd 0xC1 0xFF [(0, 16)] → ∀ ch, ch = (runs idle r false).chip →
      live ch = true ∧ cmdIn ch (streamIx pf) 0xC1 anyRow = some (cmd r false) ∧
      blocked ch (streamIx pf) (cmd r false) = false ∧ cmdIn idle (streamIx pf) 0xC1 anyRow = none ∧
      (refuse ch (streamIx pf) (cmd r false) (applyChk r).1 (applyChk r).2).isSome = true) ∧
    (∀ q ∈ [[], [((0 : Nat), queue0 [])]], ∀ r, r = rawCmd 0xD0 0 [(4, 1), (8, 0), (16, 0x800000000000), (24, 0x1000)] →
      ∀ ch, ch = { idle with pci := { idle.pci with bw := q } } →
      Taking (runs ch r false) pf 0xD0 (actRow 0 2) offloadChk (cmd r false) ∧
      (offloadRefusal ch 0 r).isNone = decide (q = [])) ∧
    (∀ r, r = rawCmd 0xD0 0 [(0, 1)] → Taking (runs idle r false) pf 0xD0 (actRow 1 2) (fun _ => ([(0, 0), (2, 6), (8, 13), (16, 21), (24, 31)], [])) (cmd r false)) ∧
    (∀ r, r = rawCmd 0xE0 0xFF [(0, 0), (2, 18), (9, 42)] → Taking (runs idle r false) pf 0xE0 anyRow capChk (cmd r false)) := by
  and_intros
  · intro a m b n ch o r e; subst e
    refine ⟨taking_of ?_, ?_⟩
    · revert ch; revert a b; decide +kernel
    · clear o ch; revert a b; decide +kernel
  · decide +kernel
  · decide +kernel
  · decide +kernel
  · intro r e h m; subst e
    revert h; decide +kernel
  · decide +kernel
  · decide +kernel
  · intro r e; subst e; exact taking_of (by decide +kernel)
  · intro b m r e ch f; subst e; subst f
    refine ⟨taking_of ?_, ?_⟩ <;> (revert b; decide +kernel)
  · decide +kernel
  · intro r e; subst e
    refine ⟨taking_of (by decide +kernel), ?_⟩
    intro bs f; rw [f]; decide +kernel
  · intro b m ch o r e; subst e
    refine ⟨taking_of ?_, waiting_of ?_, ?_⟩
    · revert ch; revert b; decide +kernel
    · revert ch; revert b; decide +kernel
    · clear o ch; revert b; decide +kernel
  on_goal 3 => exact spent_none
  on_goal 3 => rfl
  on_goal 3 => intro r e ch f; subst f; subst e; decide +kernel
  on_goal 3 =>
    intro q m r e ch f; subst e; subst f
    refine ⟨taking_of ?_, ?_⟩ <;> (revert q; decide +kernel)
  on_goal 3 => intro r e; subst e; exact taking_of (by decide +kernel)
  on_goal 3 => intro r e; subst e; exact taking_of (by decide +kernel)
  all_goals decide +kernel
/-! ### Observation, converters, power, clocks and registers -/

/-- A due cut, one that a running cut shuts out, none due, none while the observer is off; records written; a trigger with
and without a snapshot in progress, one that is not armed, not the lowest; a snapshot written; a monitor's window, over
and not, its source on and off; freezing on the bus and with its clock lost. -/
theorem witness_Observation :
    live armed = true ∧ obsRuns armed = true ∧ periodOver { armed with us := 1000000 } = true ∧ armed.obs.cutBusy = false ∧
    periodOver armed = false ∧ obsRuns { armed with blks := [] } = false ∧ idle.obs.arm = none ∧
    ({ armed.obs with cutBusy := true }).cutBusy = true ∧ islandRuns { armed with islRun := 0 } 24 = false ∧
    lowTrig [(1, 7), (2, 0)] ≠ 2 ∧ ([] : List (Nat × Nat)).contains (1, 7) = false ∧
    islandRuns armed 24 = true ∧ armed.obs.arm = some arm0 ∧
    ([(1, 7)].contains ((0 : Fin 4).val + 1, 7) = true ∧ lowTrig [(1, 7)] = (0 : Fin 4).val + 1) ∧
    armed.obs.snap = none ∧ (some (0x800000000000, ([] : List Byte))).isSome = true ∧
    (∀ ch, ch = regSet { armed with us := 100000 } .obstHmSrc 0 0x80000039 → (monSrc ch 0).getLsbD 31 = true ∧
      (monSrc ch 0).getLsbD 30 = false ∧ 0 + monWinUs ch 0 ≤ ch.us ∧ (monCounter 0 (monSrc ch 0)).isSome = true ∧
      (monSrc armed 0).getLsbD 31 = false ∧ ({ ch with us := 0 }).us < 0 + monWinUs ch 0) ∧
    OnBus (st armed) .obsFreeze 0 ∧ OnBus (st armed) .obsCntLo 0 ∧
    (regGet (regSet armed .obsFreeze 0 1) .obsFreeze 0).getLsbD 0 = true := by
  and_intros
  all_goals first
    | exact onBus (by decide +kernel)
    | decide +kernel
    | (intro ch h; subst h; decide +kernel)

/-- Both kinds of trigger, of a tower's converter that follows and that does not, and of the package's; a converter that is
off, one whose sequence runs; an urgent trigger with an entry for its source and without, one while another runs, one
while another waits; conversions of the first channel without an alarm, settled and with no lead open, and none. -/
theorem witness_Converters :
    live converting = true ∧ fld (snCfg converting 0) 1 0 ≠ 2 ∧ fld (snCfg (regSet converting .snstCfg 0 2) 0) 1 0 = 2 ∧
    snOn idle 0 = false ∧ snOn converting 0 = true ∧ (convOf converting 0).src = 0 ∧ (1 : BitVec 4) ≠ 0 ∧
    ((snSeq (regSet converting .snstInj 0 0x80800010) 0 true 1).head?).isSome = true ∧
    (snSeq converting 0 true 1).head? = none ∧ (convOf converting 0).reg = none ∧
    ({ convOf converting 0 with reg := some ⟨false, 0, 16⟩ }).reg.isSome = true ∧
    ({ convOf converting 0 with src := 1 }).src ≠ 0 ∧ (convOf converting 0).held = 0 ∧
    ({ convOf converting 0 with held := 1 }).held ≠ 0 ∧ snMoves { converting with islRun := 0 } 0 = false ∧
    (snCfg converting 0).getLsbD 3 = false ∧ (snCfg (regSet converting .snstCfg 0 8) 0).getLsbD 3 = true ∧
    snOn (on [(.sns, 0)] idle) 8 = true ∧ snOn idle 8 = false ∧
    (convOf idle 0).now = none ∧ (convOf converting 0).now = some ⟨false, 0, 16⟩ ∧ snMoves converting 0 = true ∧
    (∀ w, w = snEntry converting 0 false 0 →
      (!((convOf converting 0).settled.getLsbD (fld w 28 27))) = false ∧ snOpen w 16 8192 = false) := by
  and_intros
  all_goals first
    | (intro w h; subst h; decide +kernel)
    | decide +kernel

def powerUp (p : PTower) : Chip := updPoint { on [(.pwr, 0)] up with us := 1000 } 0 fun _ => p
def point0 : PTower :=
  { f := 20, goal := 20, mv := 0, mvOld := 0, ramp := false, held := false, cooling := true, since := 0, capped := false }

/-- The manager running and not; a board figure, fresh, stale and none; each place of F and its goal, settled, in a ramp
and held; a cooled tower below its ceiling and at it, that may rise and not, a hold that is not over. -/
theorem witness_PowerManager :
    (∀ ch, ch = updPwr (powerUp point0) (fun p => { p with boardAt := some 0 }) →
      live ch = true ∧ powerRuns ch = true ∧ ch.sys.pwr.boardAt = some 0 ∧ ch.us ≤ 0 + 10000 ∧ islandRuns ch 20 = true ∧
      islandRuns ch 21 = true ∧ pointOf ch 0 = point0 ∧ point0.since + 1000 ≤ ch.us) ∧
    (({ point0 with f := 19 }).f < point0.goal ∧ ({ point0 with f := 19, ramp := true }).ramp = true ∧
      point0.goal + 1 < ({ point0 with f := 22 }).f ∧ point0.held = false ∧ point0.cooling = true) ∧
    ceilingOf (regSet (powerUp point0) .pwrTPoint 0 (20 * 256)) 0 ≤ point0.goal ∧
    point0.goal < ceilingOf (regSet (powerUp point0) .pwrTPoint 0 (21 * 256)) 0 ∧ mayRise (powerUp point0) = true ∧
    powerRuns up = false ∧ islandRuns { up with islRun := 0 } 20 = false ∧ up.sys.pwr.boardAt = none ∧
    0 + 10000 < ({ powerUp point0 with us := 10001 }).us ∧ point0.f = point0.goal ∧ point0.ramp = false ∧
    ({ point0 with f := 20, goal := 20, held := true }).held = true ∧ ({ point0 with cooling := false }).cooling = false ∧
    ({ powerUp point0 with us := 999 }).us < point0.since + 1000 := by
  and_intros
  · intro ch h; subst h; decide +kernel
  all_goals decide +kernel

/-- Every island in turn, running and lost; a register of a stopped island, of a running one, and none. -/
theorem witness_ClocksAndBus :
    live up = true ∧ (∀ i : IslandId, islandRuns up i.val = true ∧ islandRuns { up with islRun := 0 } i.val = false) ∧
    (∀ a, a = regAddr .seqCfg 0 0 → ((busTarget a).map fun t => busReaches { up with islRun := 0x1FFFFFE } t a) = some false ∧
      (busTarget a).map (fun t => busReaches up t a) = some true) ∧ busTarget 0x10 = none := by
  refine ⟨by decide, by decide +kernel, ?_, by decide⟩
  intro a h; subst h; decide +kernel

/-- Addresses of no register, of a register reached and not, of a reserved place; of a block and of none; the three states
of a block, one ready to stop and not; fields of DISABLED blocks while ENABLED; a refresh of a loaded array and of one that
is not; each starting bit with its block ENABLED and not, and held once before. -/
theorem witness_RegisterWrites :
    live up = true ∧ busTarget 0x10 = none ∧ blkAt 0x10 = none ∧
    (∀ a, a = regAddr .seqCfg 0 0 + 0xF0 → (busTarget a).map (fun t => (t.at?.isNone, busReaches up t a)) = some (true, true)) ∧
    ((arrOf arrays 0 0).role = 0 ∧ (arrOf arrays 0 0).fenced = false ∧ (arrOf arrays 0 0).loaded = true ∧
      (arrOf up 0 0).loaded = false ∧ regFld arrays .prgSel 0 7 0 = 0) ∧
    (enabled up .cal 0 = false ∧ enabled (on [(.cal, 0)] up) .cal 0 = true ∧ enabled up .syn 0 = false ∧
      synOpHeld up 0 false = false ∧ synOpHeld { up with ports := [⟨8, 0, .signal 1, true, none⟩] } 0 false = true) ∧
    (∀ a, a = regAddr .seqCfg 0 0 → ((busTarget a).bind fun t => t.at?.map fun x => (x.reg == .seqCfg, t.mirror, busReaches up t a,
      busReaches { up with islRun := 0 } t a)) = some (true, false, true, false)) ∧
    (∀ a, a = regAddr .seqCtrl 0 0 → blkAt a = some (.seq, 0)) ∧
    (islandRuns up 20 = true ∧ islandRuns up (blkIsle .seq 0) = true ∧ blkGet up .seq 0 = .disabled ∧
      blkGet (on [(.seq, 0)] up) .seq 0 = .enabled ∧ blkGet (blkSet up .seq 0 false .stopping) .seq 0 = .stopping ∧
      stopReady up .seq 0 false = true ∧ stopReady (setCore up 0 (withQ mmaQueued)) .seq 0 false = false) ∧
    (blkAt (regAddr .nwlCtrl 0 0) = some (.nwl, 0) ∧ blkAt (regAddr .fabCtrl 0 0) = some (.fab, 0) ∧
      blkGet (on [(.nwl, 0), (.fab, 0)] up) .nwl 0 = .enabled ∧ blkGet (on [(.nwl, 0), (.fab, 0)] up) .fab 0 = .enabled) ∧
    ((bankOf (setBank arrays 0 (move0 true)) 0).moves.any (fun m => m.old == 0) = true ∧
      (bankOf arrays 0).refresh.any (fun r => r.phys == 0) = false ∧ (bankOf arrays 0).moves.any (fun m => m.old == 0) = false) ∧
    ((regInfo .seqCfg).wd ≠ 0 ∧ blkGet (on [(.seq, 0)] up) (regInfo .seqCfg).blk 0 ≠ .disabled ∧ (regInfo .seqCfg).rw = 0) ∧
    OnBus (st up) .prgCtrl 0 ∧ OnBus (st up) .calFReq 0 ∧ OnBus (st up) .calCtrl 0 ∧ OnBus (st up) .synOp 0 ∧
    enabled (on [(.syn, 0)] up) .syn 0 = true := by
  and_intros
  all_goals first
    | exact onBus (by decide +kernel)
    | decide +kernel
    | (intro a h; subst h; decide +kernel)

/-- The registers of the reads, reached in READY with every island running; with CK_CTL lost none is. -/
theorem witness_EventReads : live up = true ∧ islandRuns { up with islRun := 0 } 20 = false ∧
    ∀ r ∈ [Reg.prgEvent, .arcEvent, .engEvent, .engAccEvent, .wchEvent, .vecEvent, .vecTileHold, .seqEvent, .dmaEvent,
      .tslCRef, .calEvent, .lndEvent, .galEvent, .galReplayCnt, .synEvent, .hbmEvent, .hbmEccCnt, .fabEvent, .fabReplayCnt,
      .fabFecCnt, .mbxEvent, .nwlEvent, .colEvent, .pciEvent, .pwrIslLost, .pwrBusEvent, .pwrBusMaxstall, .pwrResetCause,
      .tslEvent, .obsEvent, .pwrEvent, .snstEvent, .snsEvent, .obstHmStat, .obspHmStat, .hbmPartWait], OnBus (st up) r 0 := by
  refine ⟨by decide, by decide, fun r m => onBus ?_⟩
  revert r; decide +kernel

/-- The reset inputs before and after power comes up, a reset that can be released and one that cannot, and each phase. -/
theorem witness_BringUpAndPins :
    (({ Chip.reset.sys.pins with powered := false }).powered = false ∧ Chip.reset.sys.pins.powered = true) ∧
    (({ Chip.reset.sys.pins with held := true }).held = true ∧ Chip.reset.sys.pins.relAt ≤ (0 : Nat) ∧ (0 : Nat) < 2000) ∧
    (live Chip.reset = true ∧ Chip.reset.phase = 0 ∧ islandRuns Chip.reset 20 = true ∧ (1 : Fin 6).val ≠ 0) ∧
    (∀ n ∈ [1, 2, 3], live { up with phase := n } = true ∧ fwReady { up with phase := n } = true) ∧
    refsAwaited { up with phase := 2, us := 10000 } = true ∧ refsAwaited { up with phase := 2, us := 9000 } = false ∧
    portsDone { up with phase := 3 } = true ∧
    portsDone { linkAt { linkReset with st := 1 } with phase := 3, sys := { up.sys with ports := [port0] } } = false := by
  decide +kernel

/-! ### The whole machine -/

theorem witness_StepRunsTheFront : ({ State.reset with pending := [.ready] }).pending = .ready :: [] ∧
    State.reset.pending = [] := by decide

theorem witness_DeadDeviceKeepsStill :
    live { up with sys := { up.sys with pins := { up.sys.pins with trip := true } } } = false ∧
    live { up with sys := { up.sys with pins := { up.sys.pins with held := true } } } = false ∧
    live { up with sys := { up.sys with pins := { up.sys.pins with powered := false } } } = false := by decide

theorem witness_LockRegionOnlyGrows : Safety.LockOk State.reset.nv ∧ ∃ t, step State.reset = .next t :=
  ⟨by constructor <;> decide, _, rfl⟩

/-! ### Worked examples of the spec -/

/-- Numbering and the scratchpad window of core 734; the object of the second example (R6 to R15). -/
theorem test_numbering : objCluster (⟨46892, by decide⟩ : ObjId) = 91 ∧ objCluster (⟨18954, by decide⟩ : ObjId) = 37 ∧
    scratchBase 734 = 0x100517800000 := by decide +kernel

/-- PRG_EVENT and PRG_EVENT_PEEK of core 734 (the example of 17_registers_islands.md). -/
theorem test_register_address : regAddr .prgEvent 734 0 = 0x20005095E020 ∧
    (busTarget 0x20005095E020).map (fun t => (t.mirror, t.at?.map fun x => (x.reg, x.unit))) = some (false, some (.prgEvent, 734)) ∧
    (busTarget 0x2000509DE020).map (fun t => (t.mirror, t.at?.map fun x => (x.reg, x.unit))) = some (true, some (.prgEvent, 734)) := by decide +kernel

/-- Stack, pseudo-channel, bank and row of the example of 12_memory.md in both modes. -/
theorem test_hbm_layout : stackLine Chip.reset 0x007923456700 = (11, 0x91A2B3) ∧ lineGeo 0x91A2B3 = (41, 34, 582) ∧
    stackLine { Chip.reset with globalLayers := [0] } 0x007923456700 = (4, 0x1523456) := by decide +kernel

/-- Counter 3 of core 734 (the example of 21_observation.md). -/
theorem test_counter_number : cntCore 734 3 = 73091 := by decide

/-- The weight of 02_array_storage.md: v = 437 and, after the move, 439. -/
theorem test_weight_target : weightTarget 0x3D5AB3AB 0x10 = (437, false) ∧ weightTarget 0x3D5B402D 0x10 = (439, false) ∧
    rhe16 437 = 27 := by decide +kernel

/-- The column of 03_array_reads.md: +87 at g = 4 under scales 0x48 and 0x10 adds 2.71875. -/
theorem test_column_value : toF32 (forwardVal { arrReset 0 0 with scales := [(0, 0x10)] }
    ⟨0, 0, 0, false, 0, 0, 4, 4, 0, 0, 0x48, [], none, [], 0, 0, 0, 0, false, false, false, none⟩ 0 (87 * 16)) = 0x402E0000 := by
  decide +kernel

/-- The blocks of 07_formats.md: scale codes 0x76 and 0x6A and their element codes. -/
theorem test_block_codes :
    (sf8Smallest (ofF32 0x40A00000) (eMax .be2m1) 0 = some 0x76 ∧
      [0x40A00000, 0xBFA66666, 0x3CA3D70A, 0x4039999A].map (fun w => blockCode .be2m1 false (ofF32 w) 0x76) = [7, 0xB, 0, 5]) ∧
    (sf8Smallest (ofF32 0x40000000) (eMax .bint4) 0 = some 0x6A ∧
      [0x3F400000, 0x40000000, 0xBF000000, 0xBF666666].map (fun w => blockCode .bint4 false (ofF32 w) 0x6A) = [2, 6, 0xE, 0xD]) := by
  decide +kernel

/-- The 171 small updates of 08_training_numerics.md. -/
theorem test_mupd_small_updates :
    let p := (List.range 171).foldl (fun p _ => let r := mupdEl (BitVec.ofNat 32 p.1) p.2 0x30400000; (r.w, r.tail)) (0x3F800000, 0)
    p = (0x3F800001, 128) := by
  decide +kernel

/-- The GRAD replay of 06_accumulation.md: one step to tag 8, 1.25 × 2^120 committed, the other elements shifted. -/
theorem test_grad_replay :
    let x : Tile := { tileEmpty with st := 2, grad := true, els := [(0, 0x03800001), (39, 0x7F400000), (85, 0x03C00000)] }
    let r := replay 4 x 39 false (ofF32 0x7F000000) 0
    (addConv x 39 false (ofF32 0x7F000000)).saturated = true ∧ (r.steps, r.how, r.tile.tag) = (1, .fits, 1) ∧
      r.tile.els = [(0, 0x00200000), (39, 0x7BA00000), (85, 0x00300000)] ∧
      (addConv r.tile 39 false (ofF32 0xFE800000)).code = 0x7B800000 := by
  decide +kernel

/-! ### Edges -/

/-- The chip after a step. -/
def after (r : Host.Outcome State Fault Refusal) : Option Chip := match r with | .next t => some t.chip | _ => none

/-- ADD wraps at 64 bits and writes a source that is its destination (R217). -/
theorem test_add_wraps :
    (after (execAdd 0 (atWord { ready with s := wrReg ready 1 0xFFFFFFFFFFFFFFFF |>.s } 0x1000410200000001))).map
      (fun ch => (rdReg (coreOf ch 0) 1, (coreOf ch 0).pc)) = some (0, 1) := by decide +kernel

/-- A SIGNAL past 2^32 wraps the object and sets SYN_EVENT.wrap (R287). -/
theorem test_signal_wraps :
    (after (execSignal 0 0 1 (st { on [(.syn, 0)] up with objs := [(0, 0xFFFFFFFF)] }))).map
      (fun ch => (objGet ch 0, ch.regs != up.regs)) = some (0, true) := by decide +kernel

end Sys2Proof.Tests
end

section
/-! Proofs about the register bus (17_registers_islands.md): what an access that crosses to a register's island leaves
alone, what a command that is one access answers, and the statements EventReads and RegisterWrites. -/

namespace Sys2Proof.RegisterBus
open Sys2Proof Sys2Proof.Machine Sys2Proof.Claims Sys2Proof.Laws

/-! ### Addresses of tower registers (R379) -/

/-- Where the package blocks begin: every tower block lies below. -/
def packageBase : Nat := 0x200080000000

theorem blkBase_tower_lt {b : Blk} {u : Nat} (ht : (blkInfo b).tower = true) (hu : u < 8 * (blkInfo b).count) :
    blkBase b u + 0x1000000 < packageBase := by
  cases b <;> simp [blkInfo, blkBase, packageBase] at ht hu ⊢ <;> omega

theorem regAddr_tower_lt {r : Reg} {u : Nat} (ht : (blkInfo (regInfo r).blk).tower = true)
    (hu : u < 8 * (blkInfo (regInfo r).blk).count) (ho : (regInfo r).off < 0x1000000) :
    regAddr r u 0 < packageBase := by
  have hb := blkBase_tower_lt ht hu
  simp only [regAddr]
  omega

theorem packageBase_le_pwrBusMaxstall : packageBase ≤ regAddr .pwrBusMaxstall 0 0 := by decide
theorem packageBase_le_pwrBusEvent : packageBase ≤ regAddr .pwrBusEvent 0 0 := by decide

theorem regAddr_prgSel_lt (c : CoreId) : regAddr .prgSel c.val 0 < packageBase :=
  regAddr_tower_lt rfl c.isLt (by decide)
theorem regAddr_calFSel_lt (c : CoreId) : regAddr .calFSel c.val 0 < packageBase :=
  regAddr_tower_lt rfl c.isLt (by decide)
theorem regAddr_synSel_lt (t : TowerId) : regAddr .synSel t.val 0 < packageBase :=
  regAddr_tower_lt rfl t.isLt (by decide)
theorem regAddr_synArg_lt (t : TowerId) : regAddr .synArg t.val 0 < packageBase :=
  regAddr_tower_lt rfl t.isLt (by decide)
theorem regAddr_hbmPartSel_lt (k : StackId) : regAddr .hbmPartSel k.val 0 < packageBase :=
  regAddr_tower_lt rfl k.isLt (by decide)

/-! ### What a crossing leaves alone (R368, R380; log 17) -/

theorem regGet_regPut_other (ch : Chip) {r q : Reg} {u x hi lo v k y : Nat} (h : regAddr q x y ≠ regAddr r u k) :
    regGet (regPut ch r u hi lo v k) q x y = regGet ch q x y :=
  regGet_regSet_other ch _ h

/-- A crossing draws a free value and writes registers. -/
theorem crossing_shape (ch : Chip) (isle : Nat) :
    ∃ n rs, crossing ch isle = { ch with free := n, regs := rs } := by
  unfold crossing
  split
  · exact ⟨ch.free, ch.regs, rfl⟩
  · exact ⟨_, _, rfl⟩

theorem okBus_shape (s : State) (r : Reg) (u : Nat) :
    ∃ n rs, okBus s r u = { s.chip with free := n, regs := rs, resp := ⟨.ok, [], false⟩ } := by
  obtain ⟨n, rs, h⟩ := crossing_shape s.chip (blkIsle (regInfo r).blk u)
  exact ⟨n, rs, by rw [okBus, h]⟩

/-- The two registers it writes are of the package's power block: those of the towers read as before. -/
theorem regGet_crossing_tower (ch : Chip) (isle : Nat) {r : Reg} {u : Nat} (h : regAddr r u 0 < packageBase) :
    regGet (crossing ch isle) r u = regGet ch r u := by
  have hm := packageBase_le_pwrBusMaxstall
  have he := packageBase_le_pwrBusEvent
  unfold crossing
  split
  · rfl
  · rw [regGet_regPut_other _ (by omega), regGet_regPut_other _ (by omega)]
    rfl

section
variable (s : State) (r : Reg) (u : Nat)

theorem regGet_okBus_tower {q : Reg} {x : Nat} (h : regAddr q x 0 < packageBase) :
    regGet (okBus s r u) q x = regGet s.chip q x :=
  regGet_crossing_tower s.chip _ h

theorem regFld_okBus_tower {q : Reg} {x hi lo : Nat} (h : regAddr q x 0 < packageBase) :
    regFld (okBus s r u) q x hi lo = regFld s.chip q x hi lo :=
  congrArg (fld · hi lo) (regGet_okBus_tower s r u h)

@[simp] theorem okBus_ports : (okBus s r u).ports = s.chip.ports := by
  obtain ⟨_, _, h⟩ := okBus_shape s r u; rw [h]
@[simp] theorem arrOf_okBus (g a : Nat) : arrOf (okBus s r u) g a = arrOf s.chip g a := by
  obtain ⟨_, _, h⟩ := okBus_shape s r u; rw [h]; rfl
@[simp] theorem bankOf_okBus (g : Nat) : bankOf (okBus s r u) g = bankOf s.chip g := by
  obtain ⟨_, _, h⟩ := okBus_shape s r u; rw [h]; rfl
@[simp] theorem physOf_okBus (g l : Nat) : physOf (okBus s r u) g l = physOf s.chip g l := by
  simp [physOf]
@[simp] theorem enabled_okBus (b : Blk) (x : Nat) : enabled (okBus s r u) b x = enabled s.chip b x := by
  obtain ⟨_, _, h⟩ := okBus_shape s r u; rw [h]; rfl
@[simp] theorem islandRuns_okBus (i : Nat) : islandRuns (okBus s r u) i = islandRuns s.chip i := by
  obtain ⟨_, _, h⟩ := okBus_shape s r u; rw [h]; rfl
@[simp] theorem synOpHeld_okBus (t : Nat) (b : Bool) : synOpHeld (okBus s r u) t b = synOpHeld s.chip t b := by
  simp [synOpHeld]
@[simp] theorem synObj_okBus (t : TowerId) : synObj (okBus s r u) t.val = synObj s.chip t.val := by
  simp [synObj, regFld_okBus_tower s r u (regAddr_synSel_lt t)]

end

/-! ### Commands that are one access (R371) -/

section
variable {s : State} {r : Reg} {u : Nat}

/-- An access whose islands run acts on the chip that it has crossed. -/
theorem onReg_of_onBus (h : OnBus s r u) (f : Chip → Chip) : onReg s r u f = .next (after s (f (okBus s r u))) := by
  obtain ⟨hl, hb, ht⟩ := h
  rw [onReg, onChip_live hl]
  simp [hb, ht, okBus]

/-- A command that is one access to an island that stands still, or by a bus that does, is a bus error. -/
theorem access_of_stopped {i : Instr} (hi : ∃ f, exec i s = onReg s r u f) (hl : live s.chip = true)
    (h : islandRuns s.chip 20 = false ∨ islandRuns s.chip (blkIsle (regInfo r).blk u) = false) :
    exec i s = .next (after s (busError s.chip)) := by
  obtain ⟨f, hf⟩ := hi
  rw [hf, onReg, onChip_live hl]
  rcases h with h | h <;> simp [h]

end

/-! ### Reads (R8, R372) -/

/-- Of the registers read by a command, only these two have an effect besides clearing their RC fields. -/
theorem regReadEffect_clears (ch : Chip) {r : Reg} (u k : Nat) (h1 : r ≠ .obsCntLo) (h2 : r ≠ .hbmPartWait) :
    regReadEffect ch r u k = { ch with
      regs := if (regInfo r).rc = 0 then ch.regs
        else tput ch.regs (regAddr r u k) (regGet ch r u k &&& ~~~(regInfo r).rc) } := by
  unfold regReadEffect
  split
  · contradiction
  · contradiction
  · split <;> rfl

/-- The command `i` is the bus read of unit `u` of register `r`, and the read does nothing but clear RC fields. -/
structure ReadsEvent (s : State) (i : Instr) (r : Reg) (u : Nat) : Prop where
  read : exec i s = readCmd s r u
  noLatch : r ≠ .obsCntLo
  noCount : r ≠ .hbmPartWait

theorem readsEvent_sns (s : State) (v : ConvId) : ReadsEvent s (.snsEventRead v)
    (if v.val < 8 then .snstEvent else .snsEvent) (if v.val < 8 then v.val else 0) := by
  by_cases h : v.val < 8
  · simp only [h, if_true]; exact ⟨if_pos h, nofun, nofun⟩
  · simp only [h, if_false]; exact ⟨if_neg h, nofun, nofun⟩

theorem readsEvent_obsHm (s : State) (m : Fin 272) : ReadsEvent s (.obsHmStatRead m)
    (if m.val < 256 then .obstHmStat else .obspHmStat) (if m.val < 256 then m.val else m.val - 256) := by
  by_cases h : m.val < 256
  · simp only [h, if_true]; exact ⟨if_pos h, nofun, nofun⟩
  · simp only [h, if_false]; exact ⟨if_neg h, nofun, nofun⟩

section
variable {s : State} {i : Instr} {r : Reg} {u : Nat}

theorem ReadsEvent.of_onBus (h : ReadsEvent s i r u) (hb : OnBus s r u) :
    exec i s = .next (after s { okBus s r u with
      resp := ⟨.ok, leBytes (regView (okBus s r u) r u 0).toNat 4, false⟩
      regs := if (regInfo r).rc = 0 then (okBus s r u).regs
        else tput (okBus s r u).regs (regAddr r u 0) (regGet (okBus s r u) r u 0 &&& ~~~(regInfo r).rc) }) := by
  rw [h.read, readCmd, onReg_of_onBus hb, readReg, regReadEffect_clears _ u 0 h.noLatch h.noCount]
  rfl

theorem ReadsEvent.of_stopped (h : ReadsEvent s i r u) (hl : live s.chip = true)
    (hs : islandRuns s.chip 20 = false ∨ islandRuns s.chip (blkIsle (regInfo r).blk u) = false) :
    exec i s = .next (after s (busError s.chip)) :=
  access_of_stopped ⟨_, h.read⟩ hl hs

end

/-- The read of a partition's wait count takes the partition that HBM_PART_SEL selected before it (R276, R284). -/
theorem hbmPartWaitRead_of_onBus {s : State} {k : StackId} (h : OnBus s .hbmPartWait k.val) :
    exec (.hbmPartWaitRead k) s = .next (after s (updStack { okBus s .hbmPartWait k.val with
      resp := ⟨.ok, leBytes (regView (okBus s .hbmPartWait k.val) .hbmPartWait k.val 0).toNat 4, false⟩ } k.val fun x =>
      { x with waits := tput x.waits (regFld s.chip .hbmPartSel k.val 3 0) 0 })) := by
  rw [exec_hbmPartWaitRead, execHbmPartWaitRead, readCmd, onReg_of_onBus h,
    ← regFld_okBus_tower s .hbmPartWait k.val (regAddr_hbmPartSel_lt k)]
  rfl

/-- Settles O54: every row is a bus read that clears RC fields alone, and the selector of the wait count is no register
that the bus writes. -/
theorem eventReads : Obligations.EventReads := by
  unfold Obligations.EventReads
  refine ⟨fun s c t k p f v m i r u hrow => ?_, fun s k => ⟨hbmPartWaitRead_of_onBus, fun hl hs => ?_⟩⟩
  · have reads : ReadsEvent s i r u :=
      (List.forall_iff_forall_mem (p := fun x : Instr × Reg × Nat => ReadsEvent s x.1 x.2.1 x.2.2)).mp (by
        simp only [List.Forall, readsEvent_sns, readsEvent_obsHm, and_true]
        and_intros
        all_goals exact ⟨rfl, nofun, nofun⟩) _ hrow
    exact ⟨fun hb o ho => ho ▸ reads.of_onBus hb, reads.of_stopped⟩
  · exact access_of_stopped (r := .hbmPartWait) ⟨(readReg · .hbmPartWait k.val 0), rfl⟩ hl hs

/-! ### Writes by address (R8, R16, R371, R374) -/

section
variable {s : State} {a : Nat} {t : BusTarget}

theorem busWrite_of_unmapped (ch : Chip) (fw : Bool) (v : Word) (h : busTarget a = none) :
    busWrite ch fw a v = { ch with resp := ⟨.unsupported, [], false⟩ } := by
  simp [busWrite, h]

theorem busWrite_of_stopped (ch : Chip) (fw : Bool) (v : Word) (h : busTarget a = some t)
    (hr : busReaches ch t a = false) : busWrite ch fw a v = busError ch := by
  simp [busWrite, h, hr]

/-- A reserved place or a mirror is reached and takes nothing. -/
theorem busWrite_of_no_register (s : State) (fw : Bool) (v : Word) (h : busTarget a = some t)
    (hr : busReaches s.chip t a = true) (hn : t.at? = none ∨ t.mirror = true) :
    busWrite s.chip fw a v = okAt s t a := by
  cases hat : t.at? with
  | none => simp [busWrite, okAt, h, hr, hat]
  | some x => simp [busWrite, okAt, h, hr, hat, hn.resolve_left (by simp [hat])]

theorem busWrite_of_register (s : State) (fw : Bool) (v : Word) {x : RegAt} (h : busTarget a = some t)
    (hr : busReaches s.chip t a = true) (hx : t.at? = some x) (hm : t.mirror = false) :
    busWrite s.chip fw a v = writeReg (okAt s t a) fw x.reg x.unit x.elem v := by
  simp [busWrite, okAt, h, hr, hx, hm]

theorem registerWrite_eq (hl : live s.chip = true) (a : Nat) (v : Word) :
    exec (.registerWrite a v) s = .next (after s (busWrite s.chip false a v)) := by
  rw [exec_registerWrite, execRegisterWrite, onChip_live hl]

end

/-! ### Enables and disables (R375, R376) -/

section
variable {s : State} {a : Nat} {b : Blk} {u : Nat} (hl : live s.chip = true) (sec : Bool)
include hl

/-- At an address that is no block's CTRL register the three commands have nothing to act on (log 3). -/
theorem block_of_no_ctrl (h : blkAt a = none) :
    exec (.blockEnable a sec) s = .next s ∧ exec (.blockDisable a sec) s = .next s ∧
      exec (.blockStopped a sec) s = .next s := by
  simp [execBlockEnable, execBlockDisable, execBlockStopped, onChip_live hl, h, after]

theorem block_of_stopped (h : blkAt a = some (b, u))
    (hs : islandRuns s.chip 20 = false ∨ islandRuns s.chip (blkIsle b u) = false) :
    exec (.blockEnable a sec) s = .next (after s (busError s.chip)) ∧
      exec (.blockDisable a sec) s = .next (after s (busError s.chip)) := by
  rcases hs with hs | hs <;> simp [execBlockEnable, execBlockDisable, onChip_live hl, h, hs]

theorem blockEnable_eq (h : blkAt a = some (b, u)) (hb : islandRuns s.chip 20 = true)
    (ht : islandRuns s.chip (blkIsle b u) = true) :
    exec (.blockEnable a sec) s = .next (after s (enableBlk s.chip b u sec)) := by
  simp [execBlockEnable, onChip_live hl, h, hb, ht]

theorem blockDisable_eq (h : blkAt a = some (b, u)) (hb : islandRuns s.chip 20 = true)
    (ht : islandRuns s.chip (blkIsle b u) = true) :
    exec (.blockDisable a sec) s = .next (after s (disableBlk s.chip b u sec)) := by
  simp [execBlockDisable, onChip_live hl, h, hb, ht]

theorem blockStopped_eq (h : blkAt a = some (b, u)) :
    exec (.blockStopped a sec) s = .next (after s (stopBlk s.chip b u sec)) := by
  simp [execBlockStopped, onChip_live hl, h]

end

section
variable (ch : Chip) (b : Blk) (u : Nat) (sec : Bool)

theorem enableBlk_of_disabled (h : blkGet ch b u sec = .disabled) :
    enableBlk ch b u sec = enableStart (blkSet ch b u sec .enabled) b u := by simp [enableBlk, h]
theorem enableBlk_of_enabled (h : blkGet ch b u sec = .enabled) : enableBlk ch b u sec = ch := by simp [enableBlk, h]
theorem enableBlk_of_stopping (h : blkGet ch b u sec = .stopping) :
    enableBlk ch b u sec = raiseOpt ch (earlyEv b) u := by simp [enableBlk, h]

theorem disableBlk_of_not_enabled (h : blkGet ch b u sec ≠ .enabled) : disableBlk ch b u sec = ch := by
  cases hb : blkGet ch b u sec with
  | enabled => exact absurd hb h
  | disabled => simp [disableBlk, hb]
  | stopping => simp [disableBlk, hb]

theorem disableBlk_of_enabled (h : blkGet ch b u sec = .enabled) (hn : b ≠ .nwl) (hf : b ≠ .fab) :
    disableBlk ch b u sec = blkSet ch b u sec .stopping := by
  unfold disableBlk
  rw [h]
  dsimp only
  split
  · contradiction
  · contradiction
  · rfl

theorem disableBlk_nwl (h : blkGet ch .nwl u sec = .enabled) :
    disableBlk ch .nwl u sec = updNwl (blkSet ch .nwl u sec .stopping) fun x => { x with trigPull := false } := by
  simp [disableBlk, h]

theorem disableBlk_fab (h : blkGet ch .fab u sec = .enabled) :
    disableBlk ch .fab u sec = { blkSet ch .fab u sec .stopping with
      fab := { ch.fab with stopAt := tput ch.fab.stopAt u ch.us } } := by
  simp [disableBlk, h]

theorem stopBlk_of_not_ready (h : blkGet ch b u sec ≠ .stopping ∨ islandRuns ch (blkIsle b u) = false ∨
    stopReady ch b u sec = false) : stopBlk ch b u sec = ch := by
  refine if_neg fun ⟨h1, h2, h3⟩ => ?_
  simp [h1, h2, h3] at h

theorem stopBlk_of_ready (h : blkGet ch b u sec = .stopping) (hi : islandRuns ch (blkIsle b u) = true)
    (hr : stopReady ch b u sec = true) : stopBlk ch b u sec = blkSet (stopEnd ch b u) b u sec .disabled :=
  if_pos ⟨h, hi, hr⟩

end

/-! ### Plain writes (R8, R374) -/

/-- The bits of register r that a write may change: its RW fields, and its WD fields while the block is DISABLED. -/
def writable (ch : Chip) (r : Reg) (u : Nat) : Word :=
  (regInfo r).rw ||| if blkGet ch (regInfo r).blk u = .disabled then (regInfo r).wd else 0

/-- The chip once a write of r has set `cfg_ignored` where it must. -/
def cfgChecked (ch : Chip) (r : Reg) (u : Nat) : Chip :=
  if (regInfo r).wd ≠ 0 ∧ blkGet ch (regInfo r).blk u ≠ .disabled then raiseOpt ch (cfgEv (regInfo r).blk) u else ch

theorem plainWrite_eq (ch : Chip) (r : Reg) (u k : Nat) (v : Word) :
    plainWrite ch r u k v = if writable ch r u = 0 then cfgChecked ch r u else
      raiseOpt (regSet (cfgChecked ch r u) r u ((regGet ch r u k &&& ~~~(writable ch r u)) |||
        ((clampReg r (v &&& writable ch r u)).1 &&& writable ch r u)) k) (clampReg r (v &&& writable ch r u)).2
        (if r = .prgPolicy ∨ r = .calPolicy then u else 0) := by
  unfold plainWrite writable cfgChecked
  simp only [beq_iff_eq]
  congr 2
  split
  · simp
  · simp
  · next h1 h2 => exact (if_neg (not_or.mpr ⟨h1, h2⟩)).symm

/-! ### Bits that start something (R63, R105, R304) -/

section
variable {s : State} {c : CoreId}

theorem refreshNow_eq (h : OnBus s .prgCtrl c.val) :
    exec (.refreshNow c) s = .next (after s (refreshNow (okBus s .prgCtrl c.val) c.val)) := by
  rw [exec_refreshNow, execRefreshNow, onReg_of_onBus h]

/-- An array that is no loaded, unfenced array in service is not refreshed. -/
theorem refreshNow_okBus_reject (r : Reg) (u : Nat) {a : Nat} {x : Arr} (ha : a = regFld s.chip .prgSel c.val 7 0)
    (hx : x = arrOf s.chip c.val a) (h : x.role ≠ 0 ∨ x.fenced = true ∨ x.loaded = false) :
    refreshNow (okBus s r u) c.val =
      regPut (raise (okBus s r u) .prgRefreshReject c.val) .prgCtrl c.val 1 1 0 := by
  subst ha hx
  simp [refreshNow, regFld_okBus_tower s r u (regAddr_prgSel_lt c), h]

theorem refreshNow_okBus_of_loaded (r : Reg) (u : Nat) {a : Nat} {x : Arr} (ha : a = regFld s.chip .prgSel c.val 7 0)
    (hx : x = arrOf s.chip c.val a) (h1 : x.role = 0) (h2 : x.fenced = false) (h3 : x.loaded = true) :
    refreshNow (okBus s r u) c.val =
      if (bankOf s.chip c.val).refresh.any (fun r => r.phys == a) = true ∨
          (bankOf s.chip c.val).moves.any (fun m => m.old == a) = true
      then regPut (okBus s r u) .prgCtrl c.val 1 1 0
      else regPut (updBank (queueRefresh (okBus s r u) c.val a) c.val fun b => { b with nowFor := some a })
        .prgCtrl c.val 1 1 1 := by
  subst ha hx
  simp only [refreshNow, regFld_okBus_tower s r u (regAddr_prgSel_lt c), arrOf_okBus, bankOf_okBus]
  rw [if_neg (by simp [h1, h2, h3])]

theorem runArray_eq (h : OnBus s .calFReq c.val) :
    exec (.runArray c) s = .next (after s (queueCal (okBus s .calFReq c.val) c.val
      (physOf s.chip c.val (regFld s.chip .calFSel c.val 6 0)))) := by
  rw [exec_runArray, execRunArray, onReg_of_onBus h, runArray, physOf_okBus,
    regFld_okBus_tower s _ _ (regAddr_calFSel_lt c)]

theorem runField_eq (h : OnBus s .calFReq c.val) :
    exec (.runField c) s = .next (after s (queueField (okBus s .calFReq c.val) c.val)) := by
  rw [exec_runField, execRunField, onReg_of_onBus h, runField]

variable {t : TowerId}

/-- The island of a tower's CAL block is its array clock, so a re-trace that is asked for there may start. -/
theorem traceNow_eq (h : OnBus s .calCtrl t.val) :
    exec (.traceNow t) s = .next (after s (if enabled s.chip .cal t.val = true
      then regPut (startTrace (okBus s .calCtrl t.val) t.val) .calCtrl t.val 2 2 0
      else regPut (okBus s .calCtrl t.val) .calCtrl t.val 2 2 1)) := by
  have hi : islandRuns s.chip (8 + t.val) = true := by simpa [blkIsle, blkInfo, regInfo] using h.target
  rw [exec_traceNow, execTraceNow, onReg_of_onBus h]
  simp [traceNow, hi]

/-- An operation of SYN_OP is done while the block is ENABLED; else it is held, once (log 41). -/
theorem synOpDo_okBus (r : Reg) (u : Nat) (t : TowerId) (op : ObjOp) :
    synOpDo (okBus s r u) t.val op =
      if enabled s.chip .syn t.val = true then objApply (okBus s r u) 8 (synObj s.chip t.val) op
      else if synOpHeld s.chip t.val (op == .reset) = true then okBus s r u
      else { okBus s r u with ports := s.chip.ports ++ [⟨8, synObj s.chip t.val, op, true, none⟩] } := by
  simp [synOpDo]

theorem synOp_eq {i : Instr} {op : ObjOp} (h : OnBus s .synOp t.val)
    (hi : (i, op) ∈ [(Instr.synOpReset t, ObjOp.reset), (.synOpSignal t, .signal (regGet s.chip .synArg t.val))]) :
    exec i s = .next (after s (synOpDo (okBus s .synOp t.val) t.val op)) := by
  simp only [List.mem_cons, Prod.mk.injEq, List.not_mem_nil, or_false] at hi
  rcases hi with ⟨rfl, rfl⟩ | ⟨rfl, rfl⟩
  · rw [exec_synOpReset, execSynOpReset, onReg_of_onBus h, synOpReset]
  · rw [exec_synOpSignal, execSynOpSignal, onReg_of_onBus h, synOpSignal,
      regGet_okBus_tower s _ _ (regAddr_synArg_lt t)]

end

/-- Settles O53: a write by address is one case of the bus, an enable or a disable one case of the block's state, and
what the bits look up is no register that the bus writes. -/
theorem registerWrites : Obligations.RegisterWrites := by
  unfold Obligations.RegisterWrites
  intro s hl
  refine ⟨fun a v h => ?_, fun a v t h => ⟨fun hr => ?_, fun hr => ⟨fun hn => ?_, fun x hx hm => ?_⟩⟩,
    fun a sec => block_of_no_ctrl hl sec, fun a sec b u h => ?block, ?ignored, ?plain, fun c => ?coreBits,
    fun t => ?towerBits, fun i r u c t hi hs => ?stopped⟩
  · rw [registerWrite_eq hl, busWrite_of_unmapped _ _ _ h]
  · rw [registerWrite_eq hl, busWrite_of_stopped _ _ _ h hr]
  · rw [registerWrite_eq hl, busWrite_of_no_register s _ _ h hr hn]
  · rw [registerWrite_eq hl, busWrite_of_register s _ _ h hr hx hm]
  case block =>
    refine ⟨block_of_stopped hl sec h, fun hb ht => ?_, fun hn => ?_, fun h1 h2 h3 => ?_⟩
    · rw [blockEnable_eq hl sec h hb ht, blockDisable_eq hl sec h hb ht]
      refine ⟨fun hd => ?_, fun he => ⟨?_, ?_⟩, fun hp => ?_⟩
      · rw [disableBlk_of_not_enabled _ _ _ _ (by simp [hd]), enableBlk_of_disabled _ _ _ _ hd]
        exact ⟨rfl, rfl⟩
      · rw [enableBlk_of_enabled _ _ _ _ he]
        rfl
      · rintro _ rfl
        refine ⟨fun hn hf => ?_, ?_, ?_⟩
        · rw [disableBlk_of_enabled _ _ _ _ he hn hf]
        · rintro rfl
          rw [disableBlk_nwl _ _ _ he]
          rfl
        · rintro rfl
          rw [disableBlk_fab _ _ _ he]
          rfl
      · rw [disableBlk_of_not_enabled _ _ _ _ (by simp [hp]), enableBlk_of_stopping _ _ _ _ hp]
        exact ⟨rfl, rfl⟩
    · rw [blockStopped_eq hl sec h, stopBlk_of_not_ready _ _ _ _ hn]
      rfl
    · rw [blockStopped_eq hl sec h, stopBlk_of_ready _ _ _ _ h1 h2 h3]
  case ignored =>
    intro r u k v hwd hen hrw
    rw [plainWrite_eq, if_pos (by simp [writable, hen, hrw]), cfgChecked, if_pos ⟨hwd, hen⟩]
  case plain =>
    intro r u k v m w e ch hm hm0 hch hc
    have hw : writable s.chip r u = m := hm.symm
    have hk : cfgChecked s.chip r u = ch := hch.symm
    rw [plainWrite_eq, hw, hk, if_neg hm0, hc]
  case coreBits =>
    refine ⟨fun h a x ha hx => ⟨fun hbad => ?_, fun h1 h2 h3 going hg => ⟨fun hgo => ?_, fun hno => ?_⟩⟩,
      fun h => ⟨runArray_eq h, runField_eq h⟩⟩
    · rw [refreshNow_eq h, refreshNow_okBus_reject _ _ ha hx hbad]
    · rw [refreshNow_eq h, refreshNow_okBus_of_loaded _ _ ha hx h1 h2 h3, if_pos (hg.mp hgo)]
    · rw [refreshNow_eq h, refreshNow_okBus_of_loaded _ _ ha hx h1 h2 h3, if_neg (mt hg.mpr hno)]
  case towerBits =>
    refine ⟨fun h => ⟨fun he => ?_, fun he => ?_⟩, fun h i op hi => ⟨fun he => ?_, fun he hh => ?_, fun he hh => ?_⟩⟩
    · rw [traceNow_eq h, if_pos he]
    · rw [traceNow_eq h, if_neg (by simp [he])]
    · rw [synOp_eq h hi, synOpDo_okBus, if_pos he]
    · rw [synOp_eq h hi, synOpDo_okBus, if_neg (by simp [he]), if_pos hh]
    · rw [synOp_eq h hi, synOpDo_okBus, if_neg (by simp [he]), if_neg (by simp [hh])]
  case stopped =>
    simp only [List.mem_cons, Prod.mk.injEq, List.not_mem_nil, or_false] at hi
    rcases hi with ⟨rfl, rfl, rfl⟩ | ⟨rfl, rfl, rfl⟩ | ⟨rfl, rfl, rfl⟩ | ⟨rfl, rfl, rfl⟩ | ⟨rfl, rfl, rfl⟩ |
      ⟨rfl, rfl, rfl⟩
    · exact access_of_stopped ⟨(refreshNow · c.val), rfl⟩ hl hs
    · exact access_of_stopped ⟨(runArray · c.val), rfl⟩ hl hs
    · exact access_of_stopped ⟨(runField · c.val), rfl⟩ hl hs
    · exact access_of_stopped ⟨(traceNow · t.val), rfl⟩ hl hs
    · exact access_of_stopped ⟨(synOpReset · t.val), rfl⟩ hl hs
    · exact access_of_stopped ⟨(synOpSignal · t.val), rfl⟩ hl hs

end Sys2Proof.RegisterBus
end

section
/-! Proofs about lost clocks (01_six_levels.md R28, 17_registers_islands.md R366, R371, 20_faults.md R431): which
consequences the loss of an island has, and the bus error of an access to one that stands still: the statement
ClocksAndBus. -/

namespace Sys2Proof.LostClocks
open Sys2Proof Sys2Proof.Machine Sys2Proof.Claims Sys2Proof.Laws

/-! ### Islands that are lost (R28, R431) -/

section
variable (ch : Chip) (t : Nat) (arr : Bool)

theorem loseTower_of_running (h : islandRuns ch (if arr then 8 + t else t) = true) :
    loseTower ch t arr = fenceTowerJobs (loseIsland (if arr then abandonRuns ch t else ch)
      (if arr then 8 + t else t)) t := if_pos h

theorem loseTower_of_stopped (h : islandRuns ch (if arr then 8 + t else t) = false) : loseTower ch t arr = ch :=
  if_neg (by simp [h])

/-- Only three of the islands outside the towers have a consequence of their own in the table of R431. -/
theorem loseOther_of_plain {i : Nat} (h18 : i ≠ 18) (h19 : i ≠ 19) (h23 : i ≠ 23) :
    loseOther ch i = loseIsland ch i := by
  unfold loseOther
  split
  · contradiction
  · contradiction
  · contradiction
  · rfl

end

section
variable {s : State} (hl : live s.chip = true)
include hl

theorem clockLossTower_eq (t : TowerId) (arr : Bool) :
    exec (.clockLossTower t arr) s = .next (after s (loseTower s.chip t.val arr)) := by
  rw [exec_clockLossTower, execClockLossTower, onChip_live hl]

/-- Islands 0 to 15 are the towers' core and array clocks (R363, R366). -/
theorem clockLossIsland_of_tower {i : IslandId} (h : i.val < 16) :
    exec (.clockLossIsland i) s = .next (after s (loseTower s.chip (i.val % 8) (decide (8 ≤ i.val)))) := by
  rw [exec_clockLossIsland, execClockLossIsland, onChip_live hl, if_pos h]

theorem clockLossIsland_of_running {i : IslandId} (h : 16 ≤ i.val) (hr : islandRuns s.chip i.val = true) :
    exec (.clockLossIsland i) s = .next (after s (loseOther s.chip i.val)) := by
  rw [exec_clockLossIsland, execClockLossIsland, onChip_live hl, if_neg (by omega), if_pos hr]

theorem clockLossIsland_of_stopped {i : IslandId} (h : 16 ≤ i.val) (hr : islandRuns s.chip i.val = false) :
    exec (.clockLossIsland i) s = .next s := by
  rw [exec_clockLossIsland, execClockLossIsland, onChip_live hl, if_neg (by omega), if_neg (by simp [hr])]
  rfl

end

/-! ### The bus error (R371) -/

/-- An event sets its bit and leaves the other bits of its register (R365). -/
theorem regGet_raise (ch : Chip) (e : Ev) (u : Nat) :
    regGet (raise ch e u) (evInfo e).1 u = regGet ch (evInfo e).1 u ||| BitVec.ofNat 32 (2 ^ (evInfo e).2) := by
  have counts_only (c : Chip) (hc : c.regs =
      (regSet ch (evInfo e).1 u (regGet ch (evInfo e).1 u ||| BitVec.ofNat 32 (2 ^ (evInfo e).2))).regs) :
      regGet c (evInfo e).1 u = regGet ch (evInfo e).1 u ||| BitVec.ofNat 32 (2 ^ (evInfo e).2) := by
    rw [regGet, hc]
    exact regGet_regSet_same ch ..
  unfold raise
  split
  · exact counts_only _ (countCore_regs ..)
  · exact counts_only _ (count_regs ..)
  · exact counts_only _ rfl

@[simp] theorem busError_mem (ch : Chip) : (busError ch).mem = ch.mem := raise_mem ..
@[simp] theorem busError_resp (ch : Chip) : (busError ch).resp = ⟨.busError, [0xFF, 0xFF, 0xFF, 0xFF], false⟩ :=
  raise_resp ..

theorem regGet_busError (ch : Chip) :
    regGet (busError ch) .pwrBusEvent 0 = regGet ch .pwrBusEvent 0 ||| 1 :=
  regGet_raise _ .pwrBusLostTarget 0

section
variable {s : State} (hl : live s.chip = true) {a : Nat} (w : Bool)
include hl

/-- The time-out does not occur at an address of no register, nor where the islands run (log 3). -/
theorem registerBusTimeout_of_reached (h : ∀ t, busTarget a = some t → busReaches s.chip t a = true) :
    exec (.registerBusTimeout a w) s = .next s := by
  rw [exec_registerBusTimeout, execRegisterBusTimeout, onChip_live hl]
  cases ht : busTarget a with
  | none => rfl
  | some t => simp only [h t ht, if_true]; rfl

theorem registerBusTimeout_of_stopped {t : BusTarget} (ht : busTarget a = some t)
    (hr : busReaches s.chip t a = false) :
    exec (.registerBusTimeout a w) s = .next (after s (busError s.chip)) := by
  simp [execRegisterBusTimeout, onChip_live hl, ht, hr]

end

/-- Settles O52: a loss is the island's row of the table where the island runs and nothing where it stands still, and
a time-out is the bus error. -/
theorem clocksAndBus : Obligations.ClocksAndBus := by
  unfold Obligations.ClocksAndBus
  intro s hl
  refine ⟨fun t arr => ⟨fun hr => ?_, fun hr => ?_⟩, fun i t hi ht => ?_, fun i hi => ?others,
    fun a w h => registerBusTimeout_of_reached hl w h, fun a w t ht hr => ?timeout⟩
  · rw [clockLossTower_eq hl, loseTower_of_running _ _ _ hr]
  · rw [clockLossTower_eq hl, loseTower_of_stopped _ _ _ hr]
    rfl
  · rw [clockLossIsland_of_tower hl hi, clockLossTower_eq hl, ht]
  case others =>
    refine ⟨fun hr h18 h19 h23 => ?_, fun hr h => ?_, fun hr h => ?_, fun hr h => ?_,
      clockLossIsland_of_stopped hl hi⟩
    · rw [clockLossIsland_of_running hl hi hr, loseOther_of_plain _ h18 h19 h23]
    · rw [clockLossIsland_of_running hl hi hr, h, loseOther]
    · rw [clockLossIsland_of_running hl hi hr, h, loseOther]
    · rw [clockLossIsland_of_running hl hi hr, h, loseOther]
  case timeout =>
    refine ⟨_, registerBusTimeout_of_stopped hl w ht hr, busError_resp _, ?_, busError_mem _⟩
    rw [regGet_busError, BitVec.or_assoc, BitVec.or_comm 1, ← BitVec.or_assoc, BitVec.or_self]

end Sys2Proof.LostClocks
end

section
/-! Proofs about LD and ST of device memory (10_oanoine_control.md R218, 01_six_levels.md R29): the load and the store
that an issued word does, that those of space 2 are works on memory (R277, R281, R285), and the statement LoadStoreHbm. -/

namespace Sys2Proof.DeviceMemory
open Sys2Proof Sys2Proof.Machine Sys2Proof.Claims Sys2Proof.Laws

/-! ### The fault of an access (R29, R218) -/

section
variable {ch : Chip} {g loc n : Nat} {w : Dword} {write : Bool}

theorem accessFault_of_misaligned (ha : loc % n ≠ 0) : accessFault ch g w loc n write = some 4 := if_pos ha

variable (h2 : wb w 39 38 = 2) {j : JobId} (hj : coreJob ch g = some j) (ha : loc % n = 0)
include h2 hj ha

theorem accessFault_of_unreached (hr : reaches ch j loc (loc + n - 1) write = false) :
    accessFault ch g w loc n write = some 3 := by
  simp [accessFault, ha, h2, hj, hr]

theorem accessFault_of_reached (hr : reaches ch j loc (loc + n - 1) write = true) :
    accessFault ch g w loc n write = none := by
  simp [accessFault, ha, h2, hj, hr]

end

/-- A location of space 2 is a device address. -/
theorem accessAddr_device {w : Dword} (h2 : wb w 39 38 = 2) (g loc : Nat) : accessAddr g w loc = loc := by
  simp [accessAddr, h2]

/-! ### The access through the home slices (R218, R270) -/

theorem coreJob_congr {a b : Chip} (h : a.clus = b.clus) (g : Nat) : coreJob a g = coreJob b g := by
  rw [coreJob, coreJob, owner, owner, h]

/-- The stops that poison crosses count events; no cluster changes hands. -/
@[simp] theorem coreJob_forwardPoison (ch : Chip) (src : Nat) (runs : List (Nat × Nat)) (g : Nat) :
    coreJob (forwardPoison ch src runs) g = coreJob ch g :=
  coreJob_congr (foldl_keeps Chip.clus _ (fun c r => by simp) _ _) g

theorem scalarTouch_hbm (ch : Chip) (g n : Nat) {a : Nat} (write : Bool) (ha : a < hbmEnd) :
    scalarTouch ch g a n write =
      countCore (landRange ch (coreJob ch g) .normal a n write) g (if write then 78 else 77) n := if_pos ha

theorem scalarTouch_beyond (ch : Chip) (g n : Nat) {a : Nat} (write : Bool) (ha : hbmEnd ≤ a) :
    scalarTouch ch g a n write = landRange ch (coreJob ch g) .normal a n write := if_neg (by omega)

/-! ### Loads and stores that issue (R218) -/

/-- The chip once a load of n bytes at a device address has what the host sends for it. -/
def withHost (ch : Chip) (g : Nat) (h : HostIn) (a n : Nat) : Chip :=
  if outBase ≤ a then hostRead ch (jobFn (coreJob ch g)) h [(a, n)] else ch

/-- What a load of n bytes at a device address finds is no value: a poisoned word, or a completion that failed. -/
def loadFails (ch : Chip) (h : HostIn) (a n : Nat) : Bool := anyPoi ch a n || (decide (outBase ≤ a) && hostBad ch h)

theorem loadFails_eq_false {ch : Chip} {h : HostIn} {a n : Nat} :
    loadFails ch h a n = false ↔ anyPoi ch a n = false ∧ (outBase ≤ a → hostBad ch h = false) := by
  simp [loadFails]

theorem loadFails_eq_true {ch : Chip} {h : HostIn} {a n : Nat} :
    loadFails ch h a n = true ↔ anyPoi ch a n = true ∨ outBase ≤ a ∧ hostBad ch h = true := by
  simp [loadFails]

/-- The chip once a load of n bytes at a device address has passed the home slices. -/
def loadTouched (ch : Chip) (g a n : Nat) : Chip := scalarTouch (forwardPoison ch (g / 128) [(a, n)]) g a n false

/-- The chip once a store of the bytes at a device address has left them: an outbound write without a way to the host
is lost. -/
def stored (ch : Chip) (g a n : Nat) (bs : List Byte) : Chip :=
  let sent := if outBase ≤ a then hostWrite ch (jobFn (coreJob ch g)) [(a, n)] else ch
  if outBase ≤ a ∧ ¬ hostOpen ch then sent else wrMem sent a bs false

section
variable {s : State} {c : CoreId} {h : HostIn} {w : Dword} {a n : Nat}

theorem faulted_of_issuing {op : Op} (hi : Issuing s c op w) (code : Nat) :
    faulted s c code = after s (faultWord (issued s c) c.val code w) := by
  rw [faulted, theCore, hi.word]

variable (hn : n = 2 ^ wb w 37 36) (ha : a = accessLoc (theCore s c) w)
include hn ha

theorem loadWord_of_fault (hi : Issuing s c .ld w) {code : Nat}
    (hf : accessFault (issued s c) c.val w a n false = some code) :
    onChip s (loadWord c.val h) = .next (faulted s c code) := by
  subst hn ha
  rw [faulted_of_issuing hi]
  refine (issue_of_issuing hi _).trans ?_
  simp only [hf]

theorem storeWord_of_fault (hi : Issuing s c .st w) {code : Nat}
    (hf : accessFault (issued s c) c.val w a n true = some code) :
    onChip s (storeWord c.val) = .next (faulted s c code) := by
  subst hn ha
  rw [faulted_of_issuing hi]
  refine (issue_of_issuing hi _).trans ?_
  simp only [hf]

variable (h2 : wb w 39 38 = 2)
include h2

theorem loadWord_device (hi : Issuing s c .ld w) (hf : accessFault (issued s c) c.val w a n false = none) {x : Chip}
    (hx : withHost (issued s c) c.val h a n = x) :
    onChip s (loadWord c.val h) = .next (after s
      (if loadFails x h a n = true then faultWord (loadTouched x c.val a n) c.val 9 w
       else updCore (loadTouched x c.val a n) c.val fun k =>
        advance (wrReg k (wb w 51 46) (BitVec.ofNat 64 (rdNat x a n))))) := by
  subst hn ha hx
  refine (issue_of_issuing hi _).trans ?_
  simp only [hf, accessAddr_device h2, h2, withHost, loadFails, loadTouched, if_true, true_and, decide_eq_true_eq]
  rfl

theorem storeWord_device (hi : Issuing s c .st w) (hf : accessFault (issued s c) c.val w a n true = none) :
    onChip s (storeWord c.val) = .next (after s (updCore
      (stored (scalarTouch (issued s c) c.val a n true) c.val a n
        (leBytes (rdReg (theCore s c) (wb w 51 46)).toNat n)) c.val advance)) := by
  subst hn ha
  refine (issue_of_issuing hi _).trans ?_
  simp only [hf, accessAddr_device h2, h2, stored, if_true, true_and, decide_eq_true_eq]
  rfl

end

/-! ### What a store leaves (R354, R360) -/

section
variable {ch : Chip} {g a n : Nat} {bs : List Byte}

theorem stored_below_outBase (ha : a < outBase) : stored ch g a n bs = wrMem ch a bs false := by
  simp [stored, Nat.not_le.mpr ha]

theorem stored_host (ha : outBase ≤ a) (ho : hostOpen ch = true) :
    stored ch g a n bs = wrMem (hostWrite ch (jobFn (coreJob ch g)) [(a, n)]) a bs false := by
  simp [stored, ha, ho]

theorem stored_lost (ha : outBase ≤ a) (ho : hostOpen ch = false) :
    stored ch g a n bs = hostWrite ch (jobFn (coreJob ch g)) [(a, n)] := by
  simp [stored, ha, ho]

end

theorem hbmEnd_le_outBase : hbmEnd ≤ outBase := by decide

/-! ### LD and ST of space 2 as works on memory (R277, R281, R285; logs 43 and 45) -/

/-- What a command does depends on what it makes of the chip it finds. -/
theorem onChip_congr {s : State} {f f' : Chip → Chip} (h : f s.chip = f' s.chip) : onChip s f = onChip s f' := by
  rw [onChip, onChip, h]

theorem scalarWork_device {ch : Chip} {g : Nat} (h2 : wb (fetchWord ch g (coreOf ch g).pc) 39 38 = 2) (b : Bursts)
    (f : Chip → Chip) : scalarWork ch g b f = memWork (.core (g / 128)) b f ch := if_pos h2

section
variable {s : State} {c : CoreId} (h2 : wb (fetchWord s.chip c.val (theCore s c).pc) 39 38 = 2)
include h2

theorem ld_is_memWork (h : HostIn) :
    exec (.ld c h) s = onChip s (memWork (.core (c.val / 128)) h.bursts (loadWord c.val h)) := by
  rw [exec_ld, execLd]
  exact onChip_congr (scalarWork_device h2 ..)

theorem st_is_memWork {r : CoreRun} (hc : c = r.core) :
    exec (.st r) s = onChip s (memWork (.core (c.val / 128)) r.bursts (storeWord c.val)) := by
  subst hc
  rw [exec_st, execSt]
  exact onChip_congr (scalarWork_device h2 ..)

end

/-- Settles O5: both are one work on memory, which waits as a whole (logs 43 and 45); where it goes on, the word issues
there, and the access faults, or reaches a device address, with what the host answers an operand (log 8). -/
theorem loadStoreHbm : Obligations.LoadStoreHbm := by
  unfold Obligations.LoadStoreHbm
  intro s t r c h w n a hc hn h2 hw ha
  have hs : wb (fetchWord s.chip c.val (theCore s c).pc) 39 38 = 2 := hw ▸ h2
  have ld := ld_is_memWork hs h
  have st := st_is_memWork hs hc
  refine ⟨waitsOrLoses_of_memWork ld, waitsOrLoses_of_memWork st, fun hgo hi => ?load, fun hgo hi => ?store⟩
  case load =>
    rw [ld, memWork_on_ready hgo hi.live]
    have fault {code : Nat} (hf : accessFault (issued t c) c.val w a n false = some code) :=
      loadWord_of_fault (h := h) hn ha hi hf
    refine ⟨fun hm => fault (accessFault_of_misaligned hm), fun j hj hm => ⟨fun hr =>
      fault (accessFault_of_unreached h2 hj hm hr), fun hr x y hx hy => ?_⟩⟩
    have hx' : withHost (issued t c) c.val h a n = x := by rw [hx, withHost, hj, jobFn]
    have hy' : loadTouched x c.val a n = if a < hbmEnd then countCore y c.val 77 n else y := by
      rw [hy, loadTouched, scalarTouch, coreJob_forwardPoison]
      rfl
    rw [loadWord_device hn ha h2 hi (accessFault_of_reached h2 hj hm hr) hx', hy']
    refine ⟨fun hp hb => ?_, fun hbad => ?_⟩
    · rw [if_neg (by simp [loadFails_eq_false.mpr ⟨hp, hb⟩])]
    · rw [if_pos (loadFails_eq_true.mpr hbad)]
  case store =>
    rw [st, memWork_on_ready hgo hi.live]
    have fault {code : Nat} (hf : accessFault (issued t c) c.val w a n true = some code) :=
      storeWord_of_fault hn ha hi hf
    refine ⟨fun hm => fault (accessFault_of_misaligned hm), fun j hj hm => ⟨fun hr =>
      fault (accessFault_of_unreached h2 hj hm hr), fun hr x hx => ?_⟩⟩
    have hle := hbmEnd_le_outBase
    have beyond (hb : hbmEnd ≤ a) : scalarTouch (issued t c) c.val a n true = x := by
      rw [hx, scalarTouch_beyond _ _ _ _ hb, hj]
    rw [storeWord_device hn ha h2 hi (accessFault_of_reached h2 hj hm hr)]
    refine ⟨fun hb => ?_, fun hb ho => ?_, fun ho hopen => ?_, fun ho hshut => ?_⟩
    · rw [scalarTouch_hbm _ _ _ _ hb, hj, ← hx, stored_below_outBase (by omega)]
      rfl
    · rw [beyond hb, stored_below_outBase ho]
    · rw [beyond (by omega), stored_host ho hopen]
    · rw [beyond (by omega), stored_lost ho hshut]

end Sys2Proof.DeviceMemory
end

section
/-! Proofs about work on memory that goes on: what a command that is one such work answers, on the state in which it
works (R277, R285; logs 43 and 45). -/

namespace Sys2Proof.GoingOn
open Sys2Proof Sys2Proof.Machine Sys2Proof.Claims Sys2Proof.Laws

@[simp] theorem after_own_chip (s : State) : after s s.chip = s := rfl

variable {s t : State} {i : Instr} {via : Via} {b : Bursts} {f : Chip → Chip}
variable (hi : exec i s = onChip s (memWork via b f)) (hgo : GoesOn s via b f t)
include hi hgo

theorem work_of_goesOn : exec i s = .next (after t (f t.chip)) := by
  rw [hi, memWork_of_goesOn hgo, hgo.state]
  rfl

theorem work_of_goesOn_eq {ch : Chip} (h : f t.chip = ch) : exec i s = .next (after t ch) :=
  h ▸ work_of_goesOn hi hgo

/-- A work that finds nothing to do keeps the state in which it works. -/
theorem work_of_goesOn_idle (h : f t.chip = t.chip) : exec i s = .next t :=
  work_of_goesOn_eq hi hgo h

end Sys2Proof.GoingOn
end

section
/-! Proofs about the array programmer (02_array_storage.md R45 to R63, 01_six_levels.md R19): what its works do in each
case (batches, moves to spares, refreshes), and the statement ProgrammerWork. -/

namespace Sys2Proof.Programmer
open Sys2Proof Sys2Proof.Machine Sys2Proof.Claims Sys2Proof.Laws Sys2Proof.GoingOn

/-! ### Batches (R46 to R56) -/

section
variable {ch : Chip} {g n : Nat} {rounds : List (List Nat)}

theorem runBatch_of_none (h : currentBatch ch g = none) : runBatch ch g n rounds = ch := by
  simp [runBatch, h]

variable {ch0 : Chip} {b : Batch} (hb : currentBatch ch g = some (ch0, b))
include hb

/-- A read comes before a batch of its array, unless the batch is atomic and has begun (R55). -/
theorem runBatch_of_read (hr : noReads ch g b.phys = false) (ha : b.atomic = false ∨ b.rnd = 0) :
    runBatch ch g n rounds = ch := by
  have hwait : ¬ noReads ch g b.phys ∧ ¬ (b.atomic ∧ b.rnd ≠ 0) := by
    rcases ha with ha | ha <;> simp [hr, ha]
  simp only [runBatch, hb, if_pos hwait]

/-- A batch whose turn it is runs its rounds; the bursts it used count, and in its pre-read what has drifted. -/
theorem runBatch_of_turn (hr : noReads ch g b.phys = true ∨ b.atomic = true ∧ b.rnd ≠ 0) {u : Batch} {x : Chip}
    (hu : u = batchRun (arrOf ch0 g b.phys) n b rounds)
    (hx : x = countCore (if b.rnd = 0 then countDrift ch0 g (batchRound (arrOf ch0 g b.phys) b (rounds.headD []))
      else ch0) g 92 ((u.rnd + 3) / 4 - (b.rnd + 3) / 4)) :
    runBatch ch g n rounds = if batchOver u then endBatch x g u
      else updBank (updArr x g b.phys fun y => batchLevels y u) g fun k => { k with batch := some u } := by
  subst hu hx
  have hturn : ¬ (¬ noReads ch g b.phys ∧ ¬ (b.atomic ∧ b.rnd ≠ 0)) := by
    rintro ⟨h1, h2⟩
    exact hr.elim h1 h2
  simp only [runBatch, hb, if_neg hturn]

end

/-! ### Moves to spares (R19, R51, R514) -/

section
variable {r : CoreRun} {l : LogId} {obs : List CellObs} {ch : Chip} {m : Move}

section
variable (hm : ((bankOf ch r.core.val).moves.find? fun m => m.logical == l.val && !m.fenced) = some m)
include hm

theorem spareSwitchWork_of_not_ready (h : moveReady ch r.core.val m = false) :
    spareSwitchWork r l obs ch = ch := by
  simp [spareSwitchWork, hm, h]

variable (hr : moveReady ch r.core.val m = true) {x : Chip} (hx : x = moveEntry ch r.core.val m)
include hr hx

/-- The position of an array that has been left unloaded switches without a load (log 119). -/
theorem spareSwitchWork_of_unloaded (h : (arrOf ch r.core.val m.old).loaded = false) :
    spareSwitchWork r l obs ch = finishMove x r.core.val m := by
  subst hx
  simp [spareSwitchWork, hm, hr, h]

variable (hl : (arrOf ch r.core.val m.old).loaded = true)
include hl

theorem spareSwitchWork_of_loadable (h : loadable x (arrOf x r.core.val m.new) true = true) :
    spareSwitchWork r l obs ch = finishMove (loadArray x r.core.val m.new true obs) r.core.val m := by
  subst hx
  simp [spareSwitchWork, hm, hr, hl, h]

/-- A weight without a clean source ends the move: the old array keeps its position, degraded (R514). -/
theorem spareSwitchWork_of_no_source (h : loadable x (arrOf x r.core.val m.new) true = false) :
    spareSwitchWork r l obs ch = updBank (raise (updArr ch r.core.val m.old fun y => { y with degraded := true })
      .prgMasterPoison r.core.val) r.core.val fun k => { k with moves := k.moves.filter (· != m) } := by
  subst hx
  simp [spareSwitchWork, hm, hr, hl, h]

end

variable (hm : ((bankOf ch r.core.val).moves.find? fun m => m.logical == l.val && m.fenced) = some m)
include hm

theorem fencedSpareLoadWork_of_not_ready (h : moveReady ch r.core.val m = false) :
    fencedSpareLoadWork r l obs ch = ch := by
  simp [fencedSpareLoadWork, hm, h]

theorem fencedSpareLoadWork_of_ready (h : moveReady ch r.core.val m = true) {x : Chip}
    (hx : x = moveEntry ch r.core.val m) :
    fencedSpareLoadWork r l obs ch = finishMove
      (if (arrOf ch r.core.val m.old).loaded then loadArray x r.core.val m.new true obs else x) r.core.val m := by
  subst hx
  simp [fencedSpareLoadWork, hm, h]

end

/-! ### Refreshes (R61, R62) -/

section
variable {s : State} (hl : live s.chip = true) {c : CoreId} {a : PhysId}
include hl

theorem refreshTimer_of_due (h0 : 0 < refreshHours s.chip c.val a.val)
    (h : (arrOf s.chip c.val a.val).loadAt + refreshHours s.chip c.val a.val * 3600000000 ≤ s.chip.us) :
    exec (.refreshTimer c a) s = .next (after s (queueRefresh s.chip c.val a.val)) := by
  rw [exec_refreshTimer, execRefreshTimer, onChip_live hl, if_pos ⟨by omega, h⟩]

theorem refreshTimer_of_not_due (h : refreshHours s.chip c.val a.val = 0 ∨
    s.chip.us < (arrOf s.chip c.val a.val).loadAt + refreshHours s.chip c.val a.val * 3600000000) :
    exec (.refreshTimer c a) s = .next s := by
  rw [exec_refreshTimer, execRefreshTimer, onChip_live hl, if_neg (by omega)]
  rfl

end

section
variable {r : CoreRun} {a : PhysId} {rounds : List (List Nat)} {ch : Chip}

theorem arrayRefreshRunWork_of_not_ready (h : progReady ch r.core.val = false) :
    arrayRefreshRunWork r a rounds ch = ch := by
  simp [arrayRefreshRunWork, h]

variable (hr : progReady ch r.core.val = true)
include hr

theorem arrayRefreshRunWork_of_under_way {f : Refr} (hf : (bankOf ch r.core.val).refresh = some f)
    (ha : f.phys = a.val) :
    arrayRefreshRunWork r a rounds ch = runBatch (refreshStep ch r.core.val f) r.core.val 4 rounds := by
  simp [arrayRefreshRunWork, hr, hf, ha]

theorem arrayRefreshRunWork_of_queued (hn : (bankOf ch r.core.val).refresh = none)
    (hq : (bankOf ch r.core.val).refreshQ.contains a.val = true) (hb : (bankOf ch r.core.val).batch = none) :
    arrayRefreshRunWork r a rounds ch = startRefresh ch r.core.val a.val := by
  simp only [arrayRefreshRunWork, hr, hn, hq, hb]
  rfl

end

/-- Settles O21: each of the programmer's commands but two is one work on memory (logs 43 and 45), which does what the
case of its array, its move or its refresh says (logs 34, 59, 60 and 119). -/
theorem programmerWork : Obligations.ProgrammerWork := by
  unfold Obligations.ProgrammerWork
  intro s t r c rounds obs hc hl
  subst hc
  refine ⟨fun n i hrow => ?batch, fun l m ch => ?move, fun a => ⟨fun h0 h => refreshTimer_of_due hl h0 h,
    fun h => refreshTimer_of_not_due hl h⟩, fun a => ?refresh, fun h2 h4 => ?wear⟩
  case batch =>
    have hi : exec i s = onChip s (memWork (.core (r.core.val / 128)) r.bursts
        fun ch => runBatch ch r.core.val n rounds) := by
      rcases hrow with ⟨rfl, rfl⟩ | ⟨rfl, rfl⟩ <;> rfl
    refine ⟨waitsOrLoses_of_memWork hi, fun hgo => ⟨fun hb => work_of_goesOn_idle hi hgo (runBatch_of_none hb),
      fun ch0 b hb => ⟨fun hr ha => work_of_goesOn_idle hi hgo (runBatch_of_read hb hr ha), ?_⟩⟩⟩
    intro hr u ch hu hch
    have turn := runBatch_of_turn hb hr hu hch
    exact ⟨fun ho => work_of_goesOn_eq hi hgo (turn.trans (if_pos ho)),
      fun ho => work_of_goesOn_eq hi hgo (turn.trans (if_neg (by simp [ho])))⟩
  case move =>
    have hs : exec (.spareSwitch r l obs) s = onChip s (memWork (.core (r.core.val / 128)) r.bursts
      (spareSwitchWork r l obs)) := rfl
    have hf : exec (.fencedSpareLoad r l obs) s = onChip s (memWork (.core (r.core.val / 128)) r.bursts
      (fencedSpareLoadWork r l obs)) := rfl
    refine ⟨waitsOrLoses_of_memWork hs, waitsOrLoses_of_memWork hf, fun hgo hch hm => ?_, fun hgo hch hm => ?_⟩
    · exact ⟨fun hn => work_of_goesOn_idle hs hgo (spareSwitchWork_of_not_ready hm hn),
        fun hr hu => work_of_goesOn_eq hs hgo (spareSwitchWork_of_unloaded hm hr hch hu),
        fun hr hd hok => work_of_goesOn_eq hs hgo (spareSwitchWork_of_loadable hm hr hch hd hok),
        fun hr hd hbad => work_of_goesOn_eq hs hgo (spareSwitchWork_of_no_source hm hr hch hd hbad)⟩
    · exact ⟨fun hn => work_of_goesOn_idle hf hgo (fencedSpareLoadWork_of_not_ready hm hn),
        fun hr => work_of_goesOn_eq hf hgo (fencedSpareLoadWork_of_ready hm hr hch)⟩
  case refresh =>
    have hi : exec (.arrayRefreshRun r a rounds) s = onChip s (memWork (.core (r.core.val / 128)) r.bursts
      (arrayRefreshRunWork r a rounds)) := rfl
    refine ⟨waitsOrLoses_of_memWork hi, fun hgo =>
      ⟨fun hn => ?_, fun hr => ⟨fun f hf ha => ?_, fun hn hq hb => ?_⟩⟩⟩
    · exact work_of_goesOn_idle hi hgo (arrayRefreshRunWork_of_not_ready hn)
    · exact work_of_goesOn_eq hi hgo (arrayRefreshRunWork_of_under_way hr hf ha)
    · exact work_of_goesOn_eq hi hgo (arrayRefreshRunWork_of_queued hr hn hq hb)
  case wear =>
    rw [exec_wearLogWrite, execWearLogWrite, if_pos ⟨hl, h2, h4⟩]

end Sys2Proof.Programmer
end

section
/-! Proofs about MMA, ARD, ART and APG, and about the resolution of reads (02_array_storage.md R54, 03_array_reads.md
R79 to R83, 05_engines.md R107, 11_tensor_descriptors.md R254): what each work does in each of its cases, and the
statement MatrixAndArrayWork. -/

namespace Sys2Proof.ArrayWork
open Sys2Proof Sys2Proof.Machine Sys2Proof.Claims Sys2Proof.Laws Sys2Proof.GoingOn

/-! ### Issue of array reads (R19, R82, R254) -/

section
variable {s : State} {r : CoreRun} {op : Op} {i : QInstr}

section
variable (h : Started s r.core .array op i)
include h

/-- An ARD or ART whose position waits for a spare waits too. -/
theorem runRead_of_waits (hw : posWaits s.chip r.core.val (arLogical i) = true) : runRead r op s.chip = s.chip := by
  simp only [runRead, h.first]
  exact if_pos (.inr (.inr hw))

variable (hw : posWaits s.chip r.core.val (arLogical i) = false)
include hw

theorem read_not_held : ¬ (decodeWord i.word ≠ some op ∨ ¬ islandRuns s.chip (r.core.val / 128) ∨
    posWaits s.chip r.core.val (arLogical i)) := by
  simp [h.code, h.clock, hw]

theorem runRead_of_unloaded (hn : readsNothing op i = false) (hl : posLoaded s.chip r.core.val (arLogical i) = false) :
    runRead r op s.chip = queueFault s.chip r.core.val 6 i := by
  simp only [runRead, h.first, if_neg (read_not_held h hw)]
  exact if_pos (by simp [hn, hl])

theorem runRead_of_loaded (hl : readsNothing op i = true ∨ posLoaded s.chip r.core.val (arLogical i) = true) :
    runRead r op s.chip = coreRun r .array op
      (fun ch i => (readEffect ch r.core.val op i, { i with conf := 0 })) s.chip := by
  simp only [runRead, h.first, if_neg (read_not_held h hw)]
  exact if_neg (by rcases hl with hl | hl <;> simp [hl])

end

/-- ARD and ART are one meaning. -/
theorem exec_read {x : Instr} (hx : (op, x) ∈ [(Op.ard, Instr.ard r), (.art, .art r)]) :
    exec x s = onChip s (runRead r op) := by
  simp only [List.mem_cons, Prod.mk.injEq, List.not_mem_nil, or_false] at hx
  rcases hx with ⟨rfl, rfl⟩ | ⟨rfl, rfl⟩ <;> rfl

end

/-! ### APG LOAD (R19, R54, R254) -/

section
variable {s : State} {r : CoreRun} {i : QInstr} {obs : List CellObs} (h : Started s r.core .programmer .apgLoad i)
include h

theorem apgLoad_of_not_ready (hr : loadReady s.chip r.core.val (apgLogical i) = false) :
    exec (.apgLoad r obs) s = .next s := by
  rw [exec_apgLoad, execApgLoad, onChip_live h.live]
  simp [h.first, hr]

variable (hr : loadReady s.chip r.core.val (apgLogical i) = true)
include hr

theorem apgLoad_of_unserved (hs : serves s.chip r.core.val (apgLogical i) = false) :
    exec (.apgLoad r obs) s = .next (after s (queueFault s.chip r.core.val 6 i)) := by
  rw [exec_apgLoad, execApgLoad, onChip_live h.live]
  simp [h.first, h.code, hr, hs]

variable (hs : serves s.chip r.core.val (apgLogical i) = true)
include hs

theorem apgLoad_of_full (hq : 16384 ≤ transfers (bankOf s.chip r.core.val)) :
    exec (.apgLoad r obs) s = .next (after s (raise s.chip .prgQueueFull r.core.val)) := by
  rw [exec_apgLoad, execApgLoad, onChip_live h.live]
  simp [h.first, h.code, hr, hs, hq]

theorem apgLoad_of_room (hq : transfers (bankOf s.chip r.core.val) < 16384) :
    exec (.apgLoad r obs) s = onChip s (coreRun r .programmer .apgLoad fun ch i =>
      (loadPosition ch r.core.val (apgLogical i) (apgMaster i).base.toNat (apgImageDa i.fP)
        (if apgAuto i.fP then autoScales ch (apgMaster i).base.toNat else i.aux) i.auxPoi obs, i)) := by
  rw [exec_apgLoad, execApgLoad, onChip_live h.live, onChip_live h.live]
  simp [h.first, h.code, hr, hs, Nat.not_le.mpr hq]

end

/-! ### APG TRANSFER (R19, R52, R54) -/

section
variable {t : State} {r : CoreRun} {i : QInstr}

theorem apgTransferWork_of_not_ready {ch : Chip} (hr : progReady ch r.core.val = false) :
    apgTransferWork r ch = ch := by
  simp [apgTransferWork, hr]

variable (h : Started t r.core .programmer .apgTransfer i) (hr : progReady t.chip r.core.val = true)
include h hr

theorem apgTransferWork_of_waits (hw : posWaits t.chip r.core.val (apgLogical i) = true) :
    apgTransferWork r t.chip = t.chip := by
  simp [apgTransferWork, hr, h.first, hw]

variable (hw : posWaits t.chip r.core.val (apgLogical i) = false)
include hw

theorem apgTransferWork_of_unloaded (hn : 0 ∉ (apgMaster i).ext)
    (hl : posLoaded t.chip r.core.val (apgLogical i) = false) :
    apgTransferWork r t.chip = queueFault t.chip r.core.val 6 i := by
  simp [apgTransferWork, hr, h.first, h.code, hw, hn, hl]

/-- The scan starts with the fetch of the tile's image records, and goes on from the weight it had reached. -/
theorem apgTransferWork_of_loaded (hl : 0 ∈ (apgMaster i).ext ∨ posLoaded t.chip r.core.val (apgLogical i) = true)
    {x : Chip} {y : Chip × Nat} (hx : x = if i.conf = 0 then
        (List.range ((apgMaster i).ext.getD 1 0)).foldl (fun y n => landRange y (coreJob y r.core.val) .normal
          (imgAddr (arrOf t.chip r.core.val (physOf t.chip r.core.val (apgLogical i)))
            (apgRow0 i.fP + n) (apgCol0 i.fP))
          (4 * (apgMaster i).ext.getD 0 0) false) t.chip
      else t.chip)
    (hy : y = scanFrom r.core.val i x i.conf (prodN (apgMaster i).ext - i.conf)) :
    apgTransferWork r t.chip = updInstr y.1 r.core.val i.seq fun j =>
      if y.2 < prodN (apgMaster i).ext then { j with conf := y.2 } else { j with conf := 0, phase := .ran } := by
  subst hx hy
  have hready : ¬ ¬ progReady t.chip r.core.val := by simp [hr]
  have hgoes : ¬ (decodeWord i.word ≠ some .apgTransfer ∨ posWaits t.chip r.core.val (apgLogical i)) := by
    simp [h.code, hw]
  have hhas : ¬ (¬ (apgMaster i).ext.contains 0 ∧ ¬ posLoaded t.chip r.core.val (apgLogical i)) := by
    rcases hl with hl | hl <;> simp [hl]
  simp only [apgTransferWork, h.first, if_neg hready, if_neg hgoes, if_neg hhas]

end

/-! ### Resolution (R55, R79 to R83, R146) -/

/-- Read `rd` is the oldest of its array, and the clocks and the accumulator memory let it resolve. -/
structure Resolving (ch : Chip) (c : CoreId) (sel : ReadSel) (rd : Rd) : Prop where
  core : islandRuns ch (c.val / 128) = true
  arrays : islandRuns ch (8 + c.val / 128) = true
  engine : blkGet ch .eng c.val ≠ .disabled
  oldest : ((bankOf ch c.val).reads.find? fun r => r.phys == sel.phys.val) = some rd

/-- A read that is DOUBTFUL waits for Banister with its results (R81, R82). -/
def doubtful (ch : Chip) (g : Nat) (rd : Rd) (ys : List Int × List Int) : Chip :=
  updBank ch g fun k => { k with reads := k.reads.map fun r => if r = rd then { r with doubt := some ys } else r }

/-- How a forward read ends once its slots `rs` gave `a`: delivered, or DOUBTFUL; with too few slots it waits on. -/
def endForward (ch : Chip) (g : Nat) (rd : Rd) (rs : List SlotRes) : Option Resolved → Chip
  | some a =>
    let y := raiseIf ((rs.take a.n).any SlotRes.sat) (recordConf ch g rd a) .arcColSat g
    if 16 ≤ a.conf then doubtful y g rd (a.y, []) else deliver y g rd a.y false
  | none => ch

/-- How a transposed read ends once the slots of its two significances gave `a` and `b`. -/
def endTransposed (ch : Chip) (g : Nat) (rd : Rd) (ra rb : List SlotRes) : Option Resolved → Option Resolved → Chip
  | some a, some b =>
    let y := raiseIf ((ra.take a.n).any SlotRes.sat || (rb.take b.n).any SlotRes.sat)
      (recordConf (recordConf ch g rd a) g rd b) .arcTSat g
    if 16 ≤ a.conf ∨ 16 ≤ b.conf then doubtful y g rd (a.y, b.y) else deliver y g rd (mergeTrans rd a.y b.y) false
  | _, _ => ch

/-- What the slots of a forward read give. -/
def forwardResult (ch : Chip) (g : Nat) (x : Arr) (rd : Rd) (rs : List SlotRes) : Option Resolved :=
  resolve rd.mode 256 (regFld ch .arcCheckCfg g 7 0) (2 ^ regFld ch .arcCfg g 2 0) false (forwardExp x rd) rs

/-- What the slots of one significance of a transposed read give. -/
def transResult (ch : Chip) (g : Nat) (x : Arr) (rd : Rd) (major : Bool) (rs : List SlotRes) : Option Resolved :=
  resolve 0 1024 (regFld ch .arcCheckCfg g 23 8) (2 ^ regFld ch .arcCfg g 2 0) true (transExp x rd major) rs

section
variable {ch y : Chip} {g : Nat} {rd : Rd} {rs : List SlotRes} {a : Resolved}
  (hy : y = raiseIf ((rs.take a.n).any SlotRes.sat) (recordConf ch g rd a) .arcColSat g)
include hy

theorem endForward_of_confident (h : a.conf < 16) : endForward ch g rd rs (some a) = deliver y g rd a.y false :=
  hy ▸ if_neg (Nat.not_le.mpr h)

theorem endForward_of_doubtful (h : 16 ≤ a.conf) : endForward ch g rd rs (some a) = doubtful y g rd (a.y, []) :=
  hy ▸ if_pos h

end

section
variable {ch y : Chip} {g : Nat} {rd : Rd} {ra rb : List SlotRes} {a b : Resolved}

theorem endTransposed_of_few {p q : Option Resolved} (h : p = none ∨ q = none) :
    endTransposed ch g rd ra rb p q = ch := by
  rcases h with rfl | rfl
  · rfl
  · cases p <;> rfl

variable (hy : y = raiseIf ((ra.take a.n).any SlotRes.sat || (rb.take b.n).any SlotRes.sat)
  (recordConf (recordConf ch g rd a) g rd b) .arcTSat g)
include hy

theorem endTransposed_of_confident (ha : a.conf < 16) (hb : b.conf < 16) :
    endTransposed ch g rd ra rb (some a) (some b) = deliver y g rd (mergeTrans rd a.y b.y) false :=
  hy ▸ if_neg (not_or.mpr ⟨Nat.not_le.mpr ha, Nat.not_le.mpr hb⟩)

theorem endTransposed_of_doubtful (h : 16 ≤ a.conf ∨ 16 ≤ b.conf) :
    endTransposed ch g rd ra rb (some a) (some b) = doubtful y g rd (a.y, b.y) :=
  hy ▸ if_pos h

end

section
variable {s : State} {c : CoreId} {sel : ReadSel} {obs : List ReadObs} {rd : Rd} {x : Arr} {ch : Chip}
  (h : Resolving s.chip c sel rd)
include h

theorem Resolving.not_stopped : ¬ (¬ islandRuns s.chip (c.val / 128) ∨ ¬ islandRuns s.chip (8 + c.val / 128) ∨
    blkGet s.chip .eng c.val = .disabled) := by
  simp [h.core, h.arrays, h.engine]

/-- The oldest read of an array waits behind its own doubt and an atomic batch (R55, R82); else its slots end it. -/
theorem readResolve_eq (hx : x = arrOf s.chip c.val rd.phys)
    (hch : ch = raiseIf (splits s c rd false) s.chip .prgSplitBatch c.val) :
    readResolve c.val sel obs s.chip = if rd.doubt.isSome ∨ splits s c rd true then s.chip
      else if rd.trans then
        let ra := obs.map fun o => transSlot x rd true o.first o.spill
        let rb := obs.map fun o => transSlot x rd false o.minor o.minorSpill
        endTransposed ch c.val rd ra rb (transResult ch c.val x rd true ra) (transResult ch c.val x rd false rb)
      else
        let rs := obs.map (forwardSlot x rd)
        endForward ch c.val rd rs (forwardResult ch c.val x rd rs) := by
  subst hx hch
  unfold readResolve splits
  rw [if_neg h.not_stopped]
  simp only [h.oldest]
  cases (bankOf s.chip c.val).batch <;> rfl

theorem readResolve_of_held (hw : rd.doubt.isSome = true ∨ splits s c rd true = true) :
    readResolve c.val sel obs s.chip = s.chip :=
  (readResolve_eq h rfl rfl).trans (if_pos hw)

variable (hx : x = arrOf s.chip c.val rd.phys) (hch : ch = raiseIf (splits s c rd false) s.chip .prgSplitBatch c.val)
  (hd : rd.doubt = none) (hs : splits s c rd true = false)
include hx hch hd hs

theorem readResolve_forward (ht : rd.trans = false) {rs : List SlotRes} (hrs : rs = obs.map (forwardSlot x rd)) :
    readResolve c.val sel obs s.chip = endForward ch c.val rd rs (forwardResult ch c.val x rd rs) := by
  rw [readResolve_eq h hx hch, if_neg (by simp [hd, hs]), if_neg (by simp [ht]), hrs]

theorem readResolve_transposed (ht : rd.trans = true) {ra rb : List SlotRes}
    (hra : ra = obs.map fun o => transSlot x rd true o.first o.spill)
    (hrb : rb = obs.map fun o => transSlot x rd false o.minor o.minorSpill) :
    readResolve c.val sel obs s.chip =
      endTransposed ch c.val rd ra rb (transResult ch c.val x rd true ra) (transResult ch c.val x rd false rb) := by
  rw [readResolve_eq h hx hch, if_neg (by simp [hd, hs]), if_pos ht, hra, hrb]

end

/-- Settles O15: the works of the engine, array and programmer queues do what their cases say (logs 50, 55, 57, 119, 131
and 145), and wait or go on as works on memory do (logs 43 and 45); a resolution is one case of its read on the chip
that met the parity failures of the delivery. -/
theorem matrixAndArrayWork : Obligations.MatrixAndArrayWork := by
  unfold Obligations.MatrixAndArrayWork
  refine ⟨fun s t r c i obs hc => ?queues, fun s t c sel obs rd x u ch i done hi => ?resolve⟩
  case queues =>
    subst hc
    have ht : exec (.apgTransfer r) s = onChip s (memWork (.core (r.core.val / 128)) r.bursts
      (apgTransferWork r)) := rfl
    refine ⟨fun f hf hw => ?mma, fun op x hx h => ?read, fun h => ?load, waitsOrLoses_of_memWork ht,
      fun hgo => ?transfer⟩
    case mma =>
      subst hf
      exact coreRun_of_works hw
    case read =>
      rw [exec_read hx, onChip_live h.live]
      refine ⟨fun hw => ?_, fun hw hn hl => ?_, fun hw hl f hf hrun => ?_⟩
      · rw [runRead_of_waits h hw, after_own_chip]
      · rw [runRead_of_unloaded h hw hn hl]
      · rw [runRead_of_loaded h hw hl, ← hf, ← onChip_live h.live]
        exact coreRun_of_works hrun
    case load =>
      refine ⟨apgLoad_of_not_ready h, fun hr => ⟨apgLoad_of_unserved h hr, apgLoad_of_full h hr, ?_⟩⟩
      intro hs hq f hf hw
      rw [apgLoad_of_room h hr hs hq, ← hf]
      exact coreRun_of_works hw
    case transfer =>
      refine ⟨fun hn => work_of_goesOn_idle ht hgo (apgTransferWork_of_not_ready hn), fun h hr =>
        ⟨fun hw => ?_, fun hw hn hl => ?_, fun hw hl x y hx hy => ?_⟩⟩
      · exact work_of_goesOn_idle ht hgo (apgTransferWork_of_waits h hr hw)
      · exact work_of_goesOn_eq ht hgo (apgTransferWork_of_unloaded h hr hw hn hl)
      · exact work_of_goesOn_eq ht hgo (apgTransferWork_of_loaded h hr hw hl hx hy)
  case resolve =>
    subst hi
    have hi : exec (.readResolve c sel obs) s = onChip s (memWork (.core (c.val / 128)) sel.bursts
      (readFailing c.val sel (readResolve c.val sel obs))) := rfl
    refine ⟨waitsOrLoses_of_memWork hi, fun hgo hu hdone hcore harr heng hold hx hch => ?_⟩
    have h : Resolving (after t u).chip c sel rd := ⟨hcore, harr, heng, hold⟩
    have ends {y : Chip} (hy : readResolve c.val sel obs u = y) : exec (.readResolve c sel obs) s = .next (done y) := by
      rw [work_of_goesOn hi hgo, readFailing, ← hu, hy, hdone]
    refine ⟨fun hw => ends (readResolve_of_held h hw), fun hd hs ht r hr => ?forward,
      fun hd hs ht ra rb p q hra hrb hp hq => ?transposed⟩
    case forward =>
      have key : readResolve c.val sel obs u = endForward ch c.val rd _ r :=
        (readResolve_forward h hx hch hd hs ht rfl).trans (congrArg _ hr.symm)
      refine ⟨fun hn => ends (key.trans (congrArg _ hn)), fun a y ha hy => ?_⟩
      rw [ha] at key
      exact ⟨fun hc => ends (key.trans (endForward_of_confident hy hc)),
        fun hc => ends (key.trans (endForward_of_doubtful hy hc))⟩
    case transposed =>
      have key : readResolve c.val sel obs u = endTransposed ch c.val rd ra rb p q :=
        (readResolve_transposed h hx hch hd hs ht hra hrb).trans (congrArg₂ _ hp.symm hq.symm)
      refine ⟨fun hn => ends (key.trans (endTransposed_of_few hn)), fun a b y ha hb hy => ?_⟩
      rw [ha, hb] at key
      exact ⟨fun hca hcb => ends (key.trans (endTransposed_of_confident hy hca hcb)),
        fun hc => ends (key.trans (endTransposed_of_doubtful hy hc))⟩

end Sys2Proof.ArrayWork
end

section
/-! Proofs about the array and calibration commands (18_mailboxes_elbinik.md R403, R404; 04_calibration.md R104): what
each answers, or how it waits, once its checks pass, and the statement ArrayCommands. -/

namespace Sys2Proof.ArrayCommands
open Sys2Proof Sys2Proof.Machine Sys2Proof.Claims Sys2Proof.Laws

variable {s : State} {k : Stream} {c : Cmd}

/-! ### What the runners of commands answer (R388, R392, R397) -/

section
variable {n : Nat} {mine : Nat → Bool} {chk : Nat → List (Nat × Nat) × List Nat} {start go : Chip → Cmd → Did}
variable {ch : Chip} {r : Rsp} {memo : List Nat}

theorem runCmd_of_start_reply (ht : Taking s k n mine chk c) (h : start s.chip c = reply ch r) :
    runCmd s k n mine chk start go = .next (answered s k c ch r) := by
  rw [runCmd_of_taking ht, h, settle_reply, answered]

theorem runCmd_of_start_stay (ht : Taking s k n mine chk c) (h : start s.chip c = stay ch memo) :
    runCmd s k n mine chk start go = .next (waits s k c ch memo) := by
  rw [runCmd_of_taking ht, h, settle_stay, waits]

theorem runCmd_of_go_reply (hw : Waiting s k n mine c) (h : go s.chip c = reply ch r) :
    runCmd s k n mine chk start go = .next (answered s k c ch r) := by
  rw [runCmd_of_waiting hw, h, settle_reply, answered]

theorem runCmd_of_go_stay (hw : Waiting s k n mine c) (h : go s.chip c = stay ch memo) :
    runCmd s k n mine chk start go = .next (waits s k c ch memo) := by
  rw [runCmd_of_waiting hw, h, settle_stay, waits]

theorem runNow_eq {f : Chip → Cmd → Chip × Rsp} (ht : Taking s k n mine chk c) (h : f s.chip c = (ch, r)) :
    runNow s k n mine chk f = .next (answered s k c ch r) := by
  rw [runNow_of_taking ht, h]

/-- A command whose work goes on in the background is answered, and then remembered among the stream's works (R392). -/
theorem settle_background (x : Nat) :
    settle x c ⟨ch, some r, memo, true⟩ =
      updStream (respond ch x c r) x fun y => { y with bg := y.bg ++ [{ c with committed := true, memo := memo }] } := by
  simp [settle]

end

/-! ### ARRAY_PROGRAM (R86, R403) -/

section
variable {h : HostIn} {o : List (Nat × CellObs)} {ch : Chip}

theorem programGo_of_background (hw : pbit c.raw 4 1 1 = 0) :
    programGo h o ch c = ⟨ch, some (rspData 0 16 []), [], true⟩ := by
  rw [programGo, if_pos hw]

theorem programGo_of_now (hw : pbit c.raw 4 1 1 ≠ 0) (hn : programNow ch c.raw h o = true) :
    programGo h o ch c = reply (programAll ch c.raw h o).1 (programAll ch c.raw h o).2 := by
  rw [programGo, if_neg hw, if_pos hn]

theorem programGo_of_held (hw : pbit c.raw 4 1 1 ≠ 0) (hn : programNow ch c.raw h o = false) :
    programGo h o ch c = stay ch [] := by
  rw [programGo, if_neg hw, if_neg (ne_true_of_eq_false hn)]

theorem programBg_of_none {x : Nat} (hb : (streamOf ch x).bg.find? (fun d => cmdOp d.raw == 0x40) = none) :
    programBg ch x h o = ch := by
  simp [programBg, hb]

section
variable {x : Nat} (hb : (streamOf ch x).bg.find? (fun d => cmdOp d.raw == 0x40) = some c)
include hb

theorem programBg_of_held (hn : programNow ch c.raw h o = false) : programBg ch x h o = ch := by
  simp [programBg, hb, hn]

theorem programBg_of_now (hn : programNow ch c.raw h o = true) : programBg ch x h o =
    (programAll (updStream ch x fun y => { y with bg := y.bg.erase c }) c.raw h o).1 := by
  simp [programBg, hb, hn]

end

/-- What an ARRAY_PROGRAM does as it takes effect: it is refused, or loads when it can. -/
def programStart (h : HostIn) (o : List (Nat × CellObs)) (ch : Chip) (c : Cmd) : Did :=
  match programRefusal (hostIn ch h) c with
  | some r => reply ch r
  | none => programGo h o ch c

theorem programStart_of_refusal {r : Rsp} (hr : programRefusal (hostIn ch h) c = some r) :
    programStart h o ch c = reply ch r := by
  simp [programStart, hr]

theorem programStart_of_none (hr : programRefusal (hostIn ch h) c = none) :
    programStart h o ch c = programGo h o ch c := by
  simp [programStart, hr]

/-- Where the stream has the command, the row runs it as every command is run; else the row is the work that goes on in
the background. -/
theorem arrayProgram_of_command (hc : cmdIn s.chip (streamIx k) 0x40 anyRow = some c) :
    exec (.arrayProgram ⟨k, h⟩ o) s =
      runCmd s k 0x40 anyRow arrayProgramChk (programStart h o) (programGo h o) := by
  rw [exec_arrayProgram, execArrayProgram, runCmd]
  simp only [onChip, hc]
  rfl

theorem arrayProgram_of_no_command (hl : live s.chip = true) (hc : cmdIn s.chip (streamIx k) 0x40 anyRow = none) :
    exec (.arrayProgram ⟨k, h⟩ o) s = .next (after s (programBg s.chip (streamIx k) h o)) := by
  rw [exec_arrayProgram, execArrayProgram, onChip_live hl]
  simp only [hc]

theorem arrayProgram_of_refusal {r : Rsp} (ht : Taking s k 0x40 anyRow arrayProgramChk c)
    (hr : programRefusal (hostIn s.chip h) c = some r) :
    exec (.arrayProgram ⟨k, h⟩ o) s = .next (answered s k c s.chip r) := by
  rw [arrayProgram_of_command ht.cmd]
  exact runCmd_of_start_reply ht (programStart_of_refusal hr)

/-- A command that is not refused, and one that waits, load when they can. -/
theorem arrayProgram_goes (hg : Taking s k 0x40 anyRow arrayProgramChk c ∧ programRefusal (hostIn s.chip h) c = none ∨
      Waiting s k 0x40 anyRow c) :
    exec (.arrayProgram ⟨k, h⟩ o) s = .next (after s (settle (streamIx k) c (programGo h o s.chip c))) := by
  rcases hg with ⟨ht, hr⟩ | hw
  · rw [arrayProgram_of_command ht.cmd, runCmd_of_taking ht, programStart_of_none hr]
  · rw [arrayProgram_of_command hw.cmd, runCmd_of_waiting hw]

end

/-! ### ARRAY_TRANSFER_POLICY (R404) -/

section
variable (ht : Taking s k 0x41 anyRow policyChk c)
include ht

theorem transferPolicy_of_foreign (h1 : pb c.raw 0 0 = 1)
    (hj : coreJob s.chip (coreAt (pb c.raw 1 1) (pb c.raw 2 2)) ≠ some (jobId (cmdJob c.raw))) :
    exec (.arrayTransferPolicy k) s = .next (answered s k c s.chip (rspOf 0x13)) := by
  rw [exec_arrayTransferPolicy, execArrayTransferPolicy]
  exact runNow_eq ht (if_pos ⟨h1, hj⟩)

/-- A policy of one core of the job, or of all its cores, is written with its threshold clamped to 8. -/
theorem transferPolicy_of_own
    (hj : ¬(pb c.raw 0 0 = 1 ∧ coreJob s.chip (coreAt (pb c.raw 1 1) (pb c.raw 2 2)) ≠ some (jobId (cmdJob c.raw)))) :
    exec (.arrayTransferPolicy k) s = .next (answered s k c
      ((if pb c.raw 0 0 = 1 then [coreAt (pb c.raw 1 1) (pb c.raw 2 2)]
        else coresOfJob s.chip (jobId (cmdJob c.raw))).foldl (fun x g => fwReg x .prgPolicy g fun x =>
          regSet x .prgPolicy g (pack [(0, max 8 (pb c.raw 3 3)), (8, pb c.raw 4 4)])) s.chip)
      (rspOf (if pb c.raw 3 3 < 8 then 2 else 0))) := by
  rw [exec_arrayTransferPolicy, execArrayTransferPolicy]
  exact runNow_eq ht (if_neg hj)

end

/-! ### ARRAY_REFRESH (R404) -/

section
variable (ht : Taking s k 0x42 anyRow refreshChk c)
include ht

theorem refresh_of_foreign (hj : coreJob s.chip (arCore c.raw) ≠ some (jobId (cmdJob c.raw))) :
    exec (.arrayRefresh k.fn k.ring) s = .next (answered s k c s.chip (rspOf 0x13)) := by
  rw [exec_arrayRefresh, execArrayRefresh]
  exact runCmd_of_start_reply ht (if_pos hj)

variable (hj : coreJob s.chip (arCore c.raw) = some (jobId (cmdJob c.raw)))
include hj

theorem refresh_of_fenced (hf : coreFenced s.chip (arCore c.raw) = true) :
    exec (.arrayRefresh k.fn k.ring) s = .next (answered s k c s.chip (rspOf 0x18)) := by
  rw [exec_arrayRefresh, execArrayRefresh]
  exact runCmd_of_start_reply ht (by simp [hj, hf])

variable (hf : coreFenced s.chip (arCore c.raw) = false)
include hf

theorem refresh_of_busy (hb : coreBusy s.chip (arCore c.raw) = true) :
    exec (.arrayRefresh k.fn k.ring) s = .next (answered s k c s.chip (rspOf 0x14)) := by
  rw [exec_arrayRefresh, execArrayRefresh]
  exact runCmd_of_start_reply ht (by simp [hj, hf, hb])

variable (hb : coreBusy s.chip (arCore c.raw) = false)
include hb

theorem refresh_of_unloaded
    (hl : ((arArrays s.chip c.raw).any fun p => !posLoaded s.chip (arCore c.raw) p.1) = true) :
    exec (.arrayRefresh k.fn k.ring) s = .next (answered s k c s.chip (rspBad 2)) := by
  rw [exec_arrayRefresh, execArrayRefresh]
  exact runCmd_of_start_reply ht (by
    simp only [hj, hf, hb, hl, ne_eq, not_true_eq_false, Bool.false_eq_true, ↓reduceIte])

variable (hl : ((arArrays s.chip c.raw).any fun p => !posLoaded s.chip (arCore c.raw) p.1) = false)
include hl

/-- With `wait` the command remembers the arrays whose refreshes it has queued. -/
theorem refresh_of_wait (hw : pbit c.raw 4 0 0 = 1) :
    exec (.arrayRefresh k.fn k.ring) s = .next (waits s k c
      ((arArrays s.chip c.raw).foldl (fun x p => queueRefresh x (arCore c.raw) p.2) s.chip)
      ((arArrays s.chip c.raw).map Prod.snd)) := by
  rw [exec_arrayRefresh, execArrayRefresh]
  exact runCmd_of_start_stay ht (by simp [hj, hf, hb, hl, hw])

/-- Without `wait` the command is answered, and remembered until its refreshes are over; the works of the stream that are
over are forgotten. -/
theorem refresh_of_background (hw : pbit c.raw 4 0 0 ≠ 1) {ch : Chip}
    (hch : ch = (arArrays s.chip c.raw).foldl (fun x p => queueRefresh x (arCore c.raw) p.2) s.chip) :
    exec (.arrayRefresh k.fn k.ring) s = .next (after s (updStream
      (respond (updStream ch (streamIx k) fun x => { x with
        bg := x.bg.filter fun d => !(cmdOp d.raw == 0x42 && refreshLeft ch d == []) }) (streamIx k) c (rspData 0 8 []))
      (streamIx k) fun x => { x with bg := x.bg ++ [{ c with
        committed := true, memo := (arArrays s.chip c.raw).map Prod.snd }] })) := by
  rw [exec_arrayRefresh, execArrayRefresh, runCmd_of_taking ht, ← settle_background]
  simp [hj, hf, hb, hl, hw, hch]

end

section
variable (hw : Waiting s k 0x42 anyRow c)
include hw

theorem refresh_of_left (hm : ∃ a ∈ c.memo, a ∈ (bankOf s.chip (arCore c.raw)).refreshQ) :
    exec (.arrayRefresh k.fn k.ring) s = .next (waits s k c s.chip c.memo) := by
  rw [exec_arrayRefresh, execArrayRefresh]
  exact runCmd_of_go_stay hw (if_pos (by simpa using hm))

theorem refresh_of_over (hm : ∀ a ∈ c.memo, a ∉ (bankOf s.chip (arCore c.raw)).refreshQ) :
    exec (.arrayRefresh k.fn k.ring) s =
      .next (answered s k c s.chip (refreshRsp s.chip 0 (arCore c.raw) c.memo)) := by
  rw [exec_arrayRefresh, execArrayRefresh]
  exact runCmd_of_go_reply hw (if_neg (by simpa using hm))

end

/-! ### CAL_RUN (R104) -/

section
variable (ht : Taking s k 0x50 anyRow calRunChk c)
include ht

theorem calRun_of_fault (hf : calFault s.chip c.raw = true) :
    exec (.calRun k) s = .next (answered s k c s.chip (rspOf 0x1A)) := by
  rw [exec_calRun, execCalRun]
  exact runCmd_of_start_reply ht (if_pos hf)

variable (hf : calFault s.chip c.raw = false)
include hf

theorem calRun_of_wait (hw : pbit c.raw 4 0 0 = 1) :
    exec (.calRun k) s = .next (waits s k c (calStart s.chip c.raw)
      ((calArrays s.chip c.raw).map (calMark s.chip))) := by
  rw [exec_calRun, execCalRun]
  exact runCmd_of_start_stay ht (by simp [hf, hw])

theorem calRun_of_no_wait (hw : pbit c.raw 4 0 0 ≠ 1) :
    exec (.calRun k) s = .next (answered s k c (calStart s.chip c.raw) (rspData 0 6 [])) := by
  rw [exec_calRun, execCalRun]
  exact runCmd_of_start_reply ht (by simp [hf, hw])

end

section
variable (hw : Waiting s k 0x50 anyRow c)
include hw

theorem calRun_again_of_fault (hf : calFault s.chip c.raw = true) :
    exec (.calRun k) s = .next (answered s k c s.chip (rspOf 0x1A)) := by
  rw [exec_calRun, execCalRun]
  exact runCmd_of_go_reply hw (if_pos hf)

variable (hf : calFault s.chip c.raw = false)
include hf

theorem calRun_of_over (ho : calOver s.chip c.raw c.memo = true) :
    exec (.calRun k) s = .next (answered s k c s.chip (calRsp s.chip c.raw 0 c.memo)) := by
  rw [exec_calRun, execCalRun]
  exact runCmd_of_go_reply hw (by simp [hf, ho])

theorem calRun_of_not_over (ho : calOver s.chip c.raw c.memo = false) :
    exec (.calRun k) s = .next (waits s k c s.chip c.memo) := by
  rw [exec_calRun, execCalRun]
  exact runCmd_of_go_stay hw (by simp [hf, ho])

end

/-! ### CAL_POLICY and CAL_QUALITY (R104) -/

theorem calPolicy_of_taking (ht : Taking s k 0x51 anyRow (fun raw => ([(0, 3)], badIf (1 < pb raw 1 1) 1)) c) :
    exec (.calPolicy k) s =
      .next (answered s k c (((List.range 8).filter fun t => (pb c.raw 0 0).testBit t).foldl (fun x t =>
        fwReg x .calPolicy t fun x =>
          regPut (regPut x .calPolicy t 7 0 (clampN 8 160 (pb c.raw 3 2))) .calCtrl t 1 1 (pb c.raw 1 1)) s.chip)
        (rspOf (if clampN 8 160 (pb c.raw 3 2) = pb c.raw 3 2 then 0 else 2))) := by
  rw [exec_calPolicy, execCalPolicy]
  exact runNow_eq ht rfl

section
variable {ch : Chip} {f a : Nat} {bs : List Byte} {r : Rsp}

theorem toBuffer_of_beyond (hr : fnReach ch f a bs.length true = false) : toBuffer ch f a bs r = (ch, rspOf 0x1C) := by
  simp [toBuffer, hr]

theorem toBuffer_of_reach (hr : fnReach ch f a bs.length true = true) :
    toBuffer ch f a bs r = (if bs = [] then ch else fwWrite ch 0 a bs, r) := by
  rw [toBuffer, if_neg (by simp [hr])]
  split <;> rfl

end

/-- A command that is one write to a buffer of its function. -/
theorem buffered_of_toBuffer {i : Instr} {a : Nat} {bs : List Byte} {r : Rsp}
    (hi : exec i s = .next (answered s k c (toBuffer s.chip k.fn.val a bs r).1 (toBuffer s.chip k.fn.val a bs r).2)) :
    buffered s k c i a bs r := by
  refine ⟨fun hr => ?_, fun hr => ?_⟩
  · rw [hi, toBuffer_of_beyond hr]
  · rw [hi, toBuffer_of_reach hr]

/-- The records that a CAL_QUALITY reports: of the lanes of a port, or of positions of a core. -/
def qualityRecords (ch : Chip) (raw : Nat) : List Byte :=
  if pb raw 0 0 = 1 then (List.range 8).flatMap (laneQuality ch (pb raw 1 1))
  else (posRange (pb raw 3 3) (pb raw 4 4)).flatMap (arrayQuality ch (coreAt (pb raw 1 1) (pb raw 2 2)))

section
variable (ht : Taking s k 0x52 anyRow calQualityChk c)
include ht

theorem calQuality_of_foreign (hf : k.fn.val ≠ 0) (hj : pb c.raw 0 0 = 1 ∨
      coreJob s.chip (coreAt (pb c.raw 1 1) (pb c.raw 2 2)) ≠ some (jobId (k.fn.val - 1))) :
    exec (.calQuality k) s = .next (answered s k c s.chip (rspOf 0x13)) := by
  rw [exec_calQuality, execCalQuality]
  exact runNow_eq ht (if_pos ⟨hf, hj⟩)

theorem calQuality_of_own (hj : k.fn.val = 0 ∨ pb c.raw 0 0 ≠ 1 ∧
      coreJob s.chip (coreAt (pb c.raw 1 1) (pb c.raw 2 2)) = some (jobId (k.fn.val - 1))) :
    buffered s k c (.calQuality k) (pb c.raw 15 8) (qualityRecords s.chip c.raw) rspOk := by
  refine buffered_of_toBuffer ?_
  rw [exec_calQuality, execCalQuality]
  exact runNow_eq ht (if_neg (by tauto))

end

/-! ### The statement -/

/-- Settles O43: each command refuses, is answered, waits or goes on in the background as the case of its meaning says
(logs 61, 91, 92, 128 and 129). -/
theorem arrayCommands : Obligations.ArrayCommands := by
  unfold Obligations.ArrayCommands
  rintro s k c j h o i rfl rfl
  refine ⟨fun r => arrayProgram_of_refusal, fun hg => ?program, fun hl hc => ?background, ?policy, ?refresh,
    fun hw => ⟨refresh_of_left hw, refresh_of_over hw⟩,
    fun ht => ⟨calRun_of_fault ht, calRun_of_wait ht, calRun_of_no_wait ht⟩,
    fun hw => ⟨calRun_again_of_fault hw, fun hf => ⟨calRun_of_over hw hf, calRun_of_not_over hw hf⟩⟩,
    calPolicy_of_taking, ?quality⟩
  case program =>
    have he := arrayProgram_goes (o := o) hg
    refine ⟨fun hw => ?_, fun hw hn => ?_, fun hw hn => ?_⟩
    · rw [he, programGo_of_background hw, settle_background]
    · rw [he, programGo_of_now hw hn, settle_reply, answered]
    · rw [he, programGo_of_held hw hn, settle_stay, waits]
  case background =>
    have he := arrayProgram_of_no_command (h := h) (o := o) hl hc
    refine ⟨fun hb => ?_, fun d hb => ⟨fun hn => ?_, fun hn => ?_⟩⟩
    · rw [he, programBg_of_none hb, GoingOn.after_own_chip]
    · rw [he, programBg_of_held hb hn, GoingOn.after_own_chip]
    · rw [he, programBg_of_now hb hn]
  case policy =>
    rintro ht g w rfl rfl
    refine ⟨transferPolicy_of_foreign ht, fun h1 hj => ?_, fun h1 => ?_⟩
    · rw [transferPolicy_of_own ht fun hn => hn.2 hj, if_pos h1]
      rfl
    · rw [transferPolicy_of_own ht fun hn => h1 hn.1, if_neg h1]
  case refresh =>
    rintro ht g rfl
    refine ⟨refresh_of_foreign ht, fun hj => ⟨refresh_of_fenced ht hj, refresh_of_busy ht hj, fun hf hb =>
      ⟨refresh_of_unloaded ht hj hf hb, ?_⟩⟩⟩
    rintro hl ch rfl
    exact ⟨refresh_of_wait ht hj hf hb hl, fun hw => refresh_of_background ht hj hf hb hl hw rfl⟩
  case quality =>
    rintro ht g rfl
    refine ⟨calQuality_of_foreign ht, fun hj bs hlane harr => ?_⟩
    have hbs : bs = qualityRecords s.chip c.raw := by
      unfold qualityRecords
      split
      · exact hlane ‹_›
      · exact harr ‹_›
    exact hbs ▸ calQuality_of_own ht hj

end Sys2Proof.ArrayCommands
end

section
/-! Proofs about calibration at run time (04_calibration.md R90 to R99, 19_bring_up.md R422, 22_cowslip_sensors.md R473):
what a look at a field's temperature, a column group, a trace, its retry and the starvation of a field do in each case,
and the statement CalibrationWork. -/

namespace Sys2Proof.Calibration
open Sys2Proof Sys2Proof.Machine Sys2Proof.Claims Sys2Proof.Laws Sys2Proof.GoingOn

/-! ### A field's temperature is looked at (R96, R422) -/

/-- The look keeps the temperature that it finds. -/
def looked (ch : Chip) (g : Nat) : Chip := updField ch g fun f => { f with tNow := fieldTemp ch g }

/-- The field has moved by more than its tower allows, and the tower calibrates by itself (R91, R96). -/
def retriggers (ch : Chip) (g : Nat) : Bool :=
  calAuto ch (g / 128) && moved (fieldTemp ch g) (fieldOf ch g).tLast (dtCal ch (g / 128))

/-- A look that does not begin the run of CALIBRATION: a field that moved is queued, or its run followed by another. -/
def laterLook (ch : Chip) (g : Nat) : Chip :=
  if retriggers ch g = false then looked ch g
  else if (fieldOf ch g).running = false then queueField (looked ch g) g
  else if (fieldOf ch g).again = true then looked ch g
  else countCore (raise (updField (looked ch g) g fun f => { f with again := true }) .calTempRetrigger (g / 128)) g 89 1

section
variable {s : State} {c : CoreId} {r : TowerId} {n : Fin 128}
variable (hl : live s.chip = true) (hg : c.val = 128 * r.val + n.val)
include hl hg

/-- The branches of a look, with the tower and the core of the command as one field. -/
theorem fieldDue_eq : exec (.fieldDue r n) s = .next (after s (
    if islandRuns s.chip 21 = false then s.chip
    else if s.chip.phase = 2 ∧ (fieldOf s.chip c.val).running = false then
      updField (looked s.chip c.val) c.val fun f => { f with running := true, tLast := fieldTemp s.chip c.val }
    else laterLook s.chip c.val)) := by
  have ht : c.val / 128 = r.val := by omega
  simp [execFieldDue, onChip_live hl, looked, laterLook, retriggers, ht, ← hg, imp_iff_not_or]

theorem fieldDue_of_stopped (hr : islandRuns s.chip 21 = false) : exec (.fieldDue r n) s = .next s := by
  rw [fieldDue_eq hl hg, if_pos hr, after_own_chip]

variable (hr : islandRuns s.chip 21 = true)
include hr

theorem fieldDue_of_first_look (hp : s.chip.phase = 2) (hf : (fieldOf s.chip c.val).running = false) :
    exec (.fieldDue r n) s = .next (after s (updField (looked s.chip c.val) c.val fun f =>
      { f with running := true, tLast := fieldTemp s.chip c.val })) := by
  rw [fieldDue_eq hl hg, if_neg (by simp [hr]), if_pos ⟨hp, hf⟩]

variable (hp : s.chip.phase ≠ 2 ∨ (fieldOf s.chip c.val).running = true)
include hp

theorem fieldDue_of_later_look : exec (.fieldDue r n) s = .next (after s (laterLook s.chip c.val)) := by
  have hlater : ¬ (s.chip.phase = 2 ∧ (fieldOf s.chip c.val).running = false) := by
    rintro ⟨h2, hf⟩
    simp [h2, hf] at hp
  rw [fieldDue_eq hl hg, if_neg (by simp [hr]), if_neg hlater]

theorem fieldDue_of_unmoved (hm : retriggers s.chip c.val = false) :
    exec (.fieldDue r n) s = .next (after s (looked s.chip c.val)) := by
  rw [fieldDue_of_later_look hl hg hr hp, laterLook, if_pos hm]

variable (hm : retriggers s.chip c.val = true)
include hm

theorem fieldDue_of_moved_idle (hf : (fieldOf s.chip c.val).running = false) :
    exec (.fieldDue r n) s = .next (after s (queueField (looked s.chip c.val) c.val)) := by
  rw [fieldDue_of_later_look hl hg hr hp, laterLook, if_neg (by simp [hm]), if_pos hf]

variable (hf : (fieldOf s.chip c.val).running = true)
include hf

/-- A further run that is queued already is not queued again. -/
theorem fieldDue_of_moved_again (ha : (fieldOf s.chip c.val).again = true) :
    exec (.fieldDue r n) s = .next (after s (looked s.chip c.val)) := by
  rw [fieldDue_of_later_look hl hg hr hp, laterLook, if_neg (by simp [hm]), if_neg (by simp [hf]), if_pos ha]

theorem fieldDue_of_moved_running (ha : (fieldOf s.chip c.val).again = false) :
    exec (.fieldDue r n) s = .next (after s (countCore (raise (updField (looked s.chip c.val) c.val fun f =>
      { f with again := true }) .calTempRetrigger (c.val / 128)) c.val 89 1)) := by
  rw [fieldDue_of_later_look hl hg hr hp, laterLook, if_neg (by simp [hm]), if_neg (by simp [hf]), if_neg (by simp [ha])]

end

/-! ### Column groups (R93 to R95, R98, R422) -/

/-- The field's controller may run a group: the device is READY, and its tower neither traces nor stands still. -/
structure MayCalibrate (ch : Chip) (g : Nat) : Prop where
  ready : ch.phase = 4
  block : enabled ch .cal (g / 128) = true
  traced : (towerOf ch (g / 128)).busy = false
  clock : islandRuns ch (8 + g / 128) = true
  tower : (towerOf ch (g / 128)).fenced = false

/-- What the next group of array a finds, on its staged trims. -/
def groupFinds (ch : Chip) (g a : Nat) (obs : CalObs) : Trims × Bool × Bool :=
  runGroup (arrOf ch g a).staged (arrOf ch g a).cal obs

/-- The group has run: its codes are staged and it counts; the first one of a run sets the field's T_last (R96). -/
def groupRan (ch : Chip) (g a : Nat) (obs : CalObs) : Chip :=
  countCore (updArr (updField ch g fun f =>
    { f with cur := a, running := true, tNow := fieldTemp ch g, tLast := if f.running then f.tLast else fieldTemp ch g })
    g a fun y => { y with staged := (groupFinds ch g a obs).1, cal := y.cal + 1 }) g 88 1

/-- A row offset at an end code is reported, and no more (R95). -/
def groupJudged (ch : Chip) (g a : Nat) (obs : CalObs) : Chip :=
  if (groupFinds ch g a obs).2.2 then
    raise (updStat (groupRan ch g a obs) g a fun y => { y with trimLimit := true }) .calTrimLimit (g / 128)
  else groupRan ch g a obs

section
variable {s : State} {c : CoreId} {obs : CalObs} (hl : live s.chip = true)
include hl

theorem calGroup_of_not_ready (hp : s.chip.phase ≠ 4) : exec (.calGroup c obs) s = .next s := by
  rw [exec_calGroup, execCalGroup, onChip_live hl]
  simp [hp]

variable (hc : MayCalibrate s.chip c.val)
include hc

theorem calGroup_of_none_due (hn : nextCal s.chip c.val = none) : exec (.calGroup c obs) s = .next s := by
  obtain ⟨hp, hb, ht, hr, hf⟩ := hc
  rw [exec_calGroup, execCalGroup, onChip_live hl]
  simp [hp, hb, ht, hr, hf, hn]

variable {a : Nat} (ha : nextCal s.chip c.val = some a)
include ha

/-- The ways on from a group: the array is given up, its run ends, or it waits for its next group. -/
theorem calGroup_of_due : exec (.calGroup c obs) s = .next (after s (
    if (groupFinds s.chip c.val a obs).2.1 then trimLimited (groupJudged s.chip c.val a obs) c.val a
    else if 9 ≤ (arrOf s.chip c.val a).cal then endRun (groupJudged s.chip c.val a obs) c.val a obs
    else groupJudged s.chip c.val a obs)) := by
  obtain ⟨hp, hb, ht, hr, hf⟩ := hc
  rw [exec_calGroup, execCalGroup, onChip_live hl]
  simp only [hp, hb, ht, hr, hf, ha]
  rfl

theorem calGroup_of_column_limit (he : (groupFinds s.chip c.val a obs).2.1 = true) :
    exec (.calGroup c obs) s = .next (after s (trimLimited (groupJudged s.chip c.val a obs) c.val a)) := by
  rw [calGroup_of_due hl hc ha, if_pos he]

variable (he : (groupFinds s.chip c.val a obs).2.1 = false)
include he

theorem calGroup_of_earlier_group (h9 : (arrOf s.chip c.val a).cal < 9) :
    exec (.calGroup c obs) s = .next (after s (groupJudged s.chip c.val a obs)) := by
  rw [calGroup_of_due hl hc ha, if_neg (by simp [he]), if_neg (by omega)]

theorem calGroup_of_last_group (h9 : 9 ≤ (arrOf s.chip c.val a).cal) :
    exec (.calGroup c obs) s = .next (after s (endRun (groupJudged s.chip c.val a obs) c.val a obs)) := by
  rw [calGroup_of_due hl hc ha, if_neg (by simp [he]), if_pos h9]

end

/-! ### Traces and their retries (R90, R91, R473) -/

section
variable {s : State} {t : TowerId} {obs : TraceObs} (hl : live s.chip = true)
include hl

theorem retrace_of_wanted (hr : islandRuns s.chip (8 + t.val) = true)
    (hw : (towerOf s.chip t.val).busy = true ∨ traceDue s.chip t.val = true) :
    exec (.retrace t obs) s = .next (after s (retrace s.chip t.val obs)) := by
  rw [exec_retrace, execRetrace, onChip_live hl, if_pos ⟨hr, hw⟩]

theorem retrace_of_not_wanted (hb : (towerOf s.chip t.val).busy = false) (hd : traceDue s.chip t.val = false) :
    exec (.retrace t obs) s = .next s := by
  rw [exec_retrace, execRetrace, onChip_live hl, if_neg (by simp [hb, hd]), after_own_chip]

/-- Only a tower that passed its full trace retries: one that failed it stays without arrays (R91). -/
theorem traceRetry_of_fault (hf : (towerOf s.chip t.val).fault = true) (ht : (towerOf s.chip t.val).traced = true)
    (hu : (towerOf s.chip t.val).traceAt + 100000 ≤ s.chip.us) (hr : islandRuns s.chip (8 + t.val) = true)
    (hb : enabled s.chip .cal t.val = true) :
    exec (.traceRetry t obs) s = .next (after s (retrace s.chip t.val obs)) := by
  rw [exec_traceRetry, execTraceRetry, onChip_live hl]
  exact congrArg (Host.Outcome.next <| after s ·) (if_pos ⟨hf, ht, hu, hr, hb⟩)

theorem traceRetry_of_early
    (h : (towerOf s.chip t.val).fault = false ∨ s.chip.us < (towerOf s.chip t.val).traceAt + 100000) :
    exec (.traceRetry t obs) s = .next s := by
  rw [exec_traceRetry, execTraceRetry, onChip_live hl]
  refine congrArg (Host.Outcome.next <| after s ·) (if_neg ?_)
  rintro ⟨hf, -, hu, -⟩
  rcases h with h | h
  · simp [h] at hf
  · omega

end

/-! ### Starvation (R98) -/

section
variable {s : State} {c : CoreId} (hl : live s.chip = true)
include hl

theorem calStarved_of_waited (hd : (fieldOf s.chip c.val).due ≠ [])
    (hu : (fieldOf s.chip c.val).dueAt + 1000000 < s.chip.us) (hn : (fieldOf s.chip c.val).starved = false) :
    exec (.calStarved c) s = .next (after s (raise (updField s.chip c.val fun f => { f with starved := true })
      .calStarved (c.val / 128))) := by
  rw [exec_calStarved, execCalStarved, onChip_live hl]
  exact congrArg (Host.Outcome.next <| after s ·) (if_pos ⟨hd, hu, by simp [hn]⟩)

theorem calStarved_of_not_waited (h : (fieldOf s.chip c.val).due = [] ∨
    s.chip.us ≤ (fieldOf s.chip c.val).dueAt + 1000000 ∨ (fieldOf s.chip c.val).starved = true) :
    exec (.calStarved c) s = .next s := by
  rw [exec_calStarved, execCalStarved, onChip_live hl]
  refine congrArg (Host.Outcome.next <| after s ·) (if_neg ?_)
  rintro ⟨hd, hu, hn⟩
  rcases h with h | h | h
  · exact hd h
  · omega
  · exact hn h

end

/-! ### The statement -/

/-- Settles O22: each event of calibration does what its case says, or leaves the state as it is (logs 126, 139, 148 and
149). -/
theorem calibrationWork : Obligations.CalibrationWork := by
  unfold Obligations.CalibrationWork
  intro s c t hl
  refine ⟨?look, fun obs => calGroup_of_not_ready hl, ?group,
    fun obs => ⟨retrace_of_wanted hl, retrace_of_not_wanted hl⟩,
    fun obs => ⟨traceRetry_of_fault hl, traceRetry_of_early hl⟩,
    calStarved_of_waited hl, calStarved_of_not_waited hl⟩
  case look =>
    rintro temp ch rfl rfl r n hg m rfl
    exact ⟨fieldDue_of_stopped hl hg, fieldDue_of_first_look hl hg, fun hr hp =>
      ⟨fieldDue_of_unmoved hl hg hr hp, fieldDue_of_moved_idle hl hg hr hp,
        fieldDue_of_moved_again hl hg hr hp, fieldDue_of_moved_running hl hg hr hp⟩⟩
  case group =>
    intro obs hp hb ht hr hf
    have hc : MayCalibrate s.chip c.val := ⟨hp, hb, ht, hr, hf⟩
    refine ⟨calGroup_of_none_due hl hc, ?_⟩
    rintro a r ch ch1 ha rfl rfl rfl
    exact ⟨calGroup_of_column_limit hl hc ha, calGroup_of_earlier_group hl hc ha, calGroup_of_last_group hl hc ha⟩

end Sys2Proof.Calibration
end

section
/-! Proofs about the DMA (05_engines.md R122, R123, 11_tensor_descriptors.md R260, R261): when a started move is held back
by descriptor entries that are still to be fetched and when it is work on memory, and the statement DmaWork. -/

namespace Sys2Proof.DmaMoves
open Sys2Proof Sys2Proof.Machine Sys2Proof.Claims Sys2Proof.Laws

/-- The four DMA instructions are one meaning. -/
theorem exec_dma {s : State} {c : CoreId} {h : HostIn} {op : Op} {x : Instr}
    (hx : op = .dmaCopy ∧ x = .dmaCopy c h ∨ op = .dmaTranspose ∧ x = .dmaTranspose c h ∨
      op = .dmaConvert ∧ x = .dmaConvert c h ∨ op = .dmaTransposeConvert ∧ x = .dmaTransposeConvert c h) :
    exec x s = dmaRun c op h s := by
  rcases hx with ⟨rfl, rfl⟩ | ⟨rfl, rfl⟩ | ⟨rfl, rfl⟩ | ⟨rfl, rfl⟩
  · rw [exec_dmaCopy, execDmaCopy]
  · rw [exec_dmaTranspose, execDmaTranspose]
  · rw [exec_dmaConvert, execDmaConvert]
  · rw [exec_dmaTransposeConvert, execDmaTransposeConvert]

section
variable {s : State} {c : CoreId} {op : Op} {i : QInstr} {h : HostIn} (hi : Started s c .dma op i)
include hi

/-- A write over entries that earlier instructions name and have not fetched waits (R261). -/
theorem dmaRun_of_held (hd : dmaHeld s.chip c.val i = true) :
    dmaRun c op h s = .next (after s (raise s.chip .dmaDescHold c.val)) := by
  rw [dmaRun, onChip_live hi.live]
  simp [hi.first, hi.code, hd]

/-- A move that no entry holds is one run of its queue's instruction. -/
theorem dmaRun_of_not_held (hd : dmaHeld s.chip c.val i = false) :
    dmaRun c op h s = onChip s (coreRun ⟨c, [], [], h.bursts⟩ .dma op fun ch i => (dmaEffect ch c.val op i h, i)) := by
  rw [dmaRun, onChip_live hi.live, onChip_live hi.live]
  simp [hi.first, hi.code, hd]

end

/-- Settles O18: a move that no entry holds is one work on memory, which waits or goes on as every work does (logs 43
and 45). -/
theorem dmaWork : Obligations.DmaWork := by
  unfold Obligations.DmaWork
  intro s t r c h i op x f hr hx hf hi
  subst hr hf
  refine ⟨fun hd => (exec_dma hx).trans (dmaRun_of_held hi hd), fun hd => ?_⟩
  have run := (exec_dma hx).trans (dmaRun_of_not_held (h := h) hi hd)
  exact ⟨waitsOrLoses_of_memWork run, fun hw => run.trans (coreRun_of_works hw)⟩

end Sys2Proof.DmaMoves
end

section
/-! Proofs about the vector queue (06_accumulation.md R130, R145; 08_training_numerics.md R170;
11_tensor_descriptors.md R255 to R259): each instruction of it that computes is one work on memory with its effect, and
the statement VectorWork. -/

namespace Sys2Proof.VectorQueue
open Sys2Proof Sys2Proof.Machine Sys2Proof.Claims Sys2Proof.Laws

variable {s : State} {r : CoreRun} {op : Op} {x : Instr}

/-- An instruction that is one run of its queue waits or loses accesses as work on memory does, and runs its effect once
it goes on. -/
theorem runs_of_coreRun {t : State} {q : Queue} {i : QInstr} {f : Chip → QInstr → Chip × QInstr}
    (hx : exec x s = onChip s (coreRun r q op f)) :
    waitsOrLoses s x (.core (r.core.val / 128)) r.bursts (coreStep r q op f) ∧
    (Works s r q op f i t → exec x s = .next (worked t r f i)) :=
  ⟨waitsOrLoses_of_memWork hx, fun hw => hx.trans (coreRun_of_works hw)⟩

/-- The elementwise operations, conversions, special functions, scaling and column sums are one meaning (R256). -/
theorem exec_vop (hx : (op, x) ∈ [(Op.vopAdd, Instr.vopAdd r), (.vopSub, .vopSub r), (.vopMul, .vopMul r),
      (.vopFma, .vopFma r), (.vopMax, .vopMax r), (.vopMin, .vopMin r), (.cvt, .cvt r), (.sfu, .sfu r),
      (.scale, .scale r), (.colsum, .colsum r)]) :
    exec x s = onChip s (coreRun r .vector op fun ch i => (vopEffect ch r.core.val op i, i)) := by
  simp only [List.mem_cons, Prod.mk.injEq, List.not_mem_nil, or_false] at hx
  rcases hx with ⟨rfl, rfl⟩ | ⟨rfl, rfl⟩ | ⟨rfl, rfl⟩ | ⟨rfl, rfl⟩ | ⟨rfl, rfl⟩ | ⟨rfl, rfl⟩ | ⟨rfl, rfl⟩ |
    ⟨rfl, rfl⟩ | ⟨rfl, rfl⟩ | ⟨rfl, rfl⟩ <;> rfl

/-- The two preloads are one meaning (R130, R255). -/
theorem exec_preload (hx : (op, x) ∈ [(Op.preloadBias, Instr.preloadBias r), (.preloadResid, .preloadResid r)]) :
    exec x s = onChip s (coreRun r .vector op fun ch i => (preloadEffect ch r.core.val op i, i)) := by
  simp only [List.mem_cons, Prod.mk.injEq, List.not_mem_nil, or_false] at hx
  rcases hx with ⟨rfl, rfl⟩ | ⟨rfl, rfl⟩ <;> rfl

/-- The two second reductions are one meaning (R259). -/
theorem exec_vred (hx : (op, x) ∈ [(Op.softmaxBwd, Instr.softmaxBwd r), (.normBwd, .normBwd r)]) :
    exec x s = onChip s (coreRun r .vector op fun ch i => (vredEffect ch r.core.val op i, i)) := by
  simp only [List.mem_cons, Prod.mk.injEq, List.not_mem_nil, or_false] at hx
  rcases hx with ⟨rfl, rfl⟩ | ⟨rfl, rfl⟩ <;> rfl

/-- Settles O16: each of these instructions is one run of the vector queue, which waits or goes on as work on memory
does (logs 43 and 45). -/
theorem vectorWork : Obligations.VectorWork := by
  unfold Obligations.VectorWork
  rintro s t r i op x f (⟨hx, rfl⟩ | ⟨hx, rfl⟩ | ⟨hx, rfl⟩ | ⟨rfl, rfl, rfl⟩ | ⟨rfl, rfl, rfl⟩)
  · exact runs_of_coreRun (exec_vop hx)
  · exact runs_of_coreRun (exec_preload hx)
  · exact runs_of_coreRun (exec_vred hx)
  · exact runs_of_coreRun ((exec_mupd r s).trans (by rw [execMupd]))
  · exact runs_of_coreRun ((exec_drn r s).trans (by rw [execDrn]))

end Sys2Proof.VectorQueue
end

section
/-! Proofs about Banister (20_faults.md R438 to R440), the contributions to a tile (06_accumulation.md R131, R135, R140
to R146) and the scrubs of tiles and memories (R145, 20_faults.md R425, R430): what each does in each of its cases, and
the statement RefereeTilesAndScrubs. -/

namespace Sys2Proof.RefereeTiles
open Sys2Proof Sys2Proof.Machine Sys2Proof.Claims Sys2Proof.Laws Sys2Proof.GoingOn

/-! ### Banister's decision (R438 to R440) -/

/-- Read `rd` is the oldest of its array and DOUBTFUL with the results `d`, and Banister may decide it. -/
structure Doubted (ch : Chip) (c : CoreId) (sel : ReadSel) (rd : Rd) (d : List Int × List Int) : Prop where
  core : islandRuns ch (c.val / 128) = true
  engine : blkGet ch .eng c.val ≠ .disabled
  oldest : ((bankOf ch c.val).reads.find? fun r => r.phys == sel.phys.val) = some rd
  doubt : rd.doubt = some d

section
variable {u : Chip} {c : CoreId} {sel : ReadSel} {rd : Rd} {d : List Int × List Int} {x : Arr} {own ref : List Int}
  (h : Doubted u c sel rd d) (hx : x = arrOf u c.val rd.phys)
  (hown : own = if rd.trans then mergeTrans rd d.1 d.2 else d.1)
include h hx hown

section
variable {p : Chip} (hm : masterMapped u x = false ∨ refereePoisoned u x rd = true)
  (hp : p = countCore (raise (deliver u c.val rd own true) .tslRefereePoison 0) c.val 86 1)
include hm hp

/-- With no master the analogue result goes out poisoned, and the job of the core hears of it (R439). -/
theorem banisterReferee_of_no_master : banisterReferee c.val sel u =
    match coreJob p c.val with
    | some j => notify p j.val 13 0 c.val 0 rd.logical 0
    | none => p := by
  have hno : ¬ masterMapped u x = true ∨ refereePoisoned u x rd = true := by simpa using hm
  subst hx hown hp
  simp only [banisterReferee, h.core, h.engine, h.oldest, h.doubt]
  exact (if_neg (by simp)).trans (if_pos hno)

theorem banisterReferee_of_no_master_no_job (hj : coreJob p c.val = none) : banisterReferee c.val sel u = p := by
  rw [banisterReferee_of_no_master h hx hown hm hp, hj]

theorem banisterReferee_of_no_master_job {j : JobId} (hj : coreJob p c.val = some j) :
    banisterReferee c.val sel u = notify p j.val 13 0 c.val 0 rd.logical 0 := by
  rw [banisterReferee_of_no_master h hx hown hm hp, hj]

end

variable {ch : Chip} {fits : Bool} (href : ref = referee u x rd)
  (hch : ch = lanePreempt (refereeFetch u c.val x rd) c.val)
  (hfits : fits = (List.range own.length).all fun k =>
    agrees rd (regFld u .tslRefCfg 0 15 0) (own.getD k 0) (ref.getD k 0))
  (hm : masterMapped u x = true) (hp : refereePoisoned u x rd = false)
include href hch hfits hm hp

/-- With a clean master the recomputed results decide (R438, R440). -/
theorem banisterReferee_of_master : banisterReferee c.val sel u =
    if fits then
      strike (queueCal (updStat (countCore (regSat (raise (deliver ch c.val rd own false) .tslRefereeCheck 0)
        .tslCRef c.val 31 16 1) c.val 84 1) c.val rd.phys fun y => { y with suspect := true }) c.val rd.phys)
        c.val rd.phys true
    else strike (countCore (regSat (raise (deliver ch c.val rd (ref.map (refClass rd)) false) .tslRefereeArray 0)
      .tslCRef c.val 15 0 1) c.val 85 1) c.val rd.phys false := by
  have hclean : ¬ (¬ masterMapped u x = true ∨ refereePoisoned u x rd = true) := by simp [hm, hp]
  subst hx hown href hch hfits
  simp only [banisterReferee, h.core, h.engine, h.oldest, h.doubt]
  exact (if_neg (by simp)).trans (if_neg hclean)

end

/-! ### Contributions to a tile (R131, R135, R140 to R145) -/

/-- How a GRAD overflow ends once the replays of the tile `t` left the chip `n`: the sum fits, a read on the way fails
parity, or the tag would pass 24 and the job of the core hears of the tensor `tid` (R142, R143, R145). -/
def endReplay (n : Chip) (g t tid : Nat) : ReplayEnd → Chip
  | .fits => raise n .engAccGradReplay g
  | .parity => parityFind n g t
  | .exhausted =>
    match coreJob (raise n .engAccGradPoison g) g with
    | some j => notify (raise n .engAccGradPoison g) j.val 3 0 g tid t 0
    | none => raise n .engAccGradPoison g

section
variable {n m : Chip} {g t tid : Nat} (hm : m = raise n .engAccGradPoison g)
include hm

theorem endReplay_exhausted_no_job (hj : coreJob m g = none) : endReplay n g t tid .exhausted = m := by
  subst hm
  simp only [endReplay, hj]

theorem endReplay_exhausted_job {j : JobId} (hj : coreJob m g = some j) :
    endReplay n g t tid .exhausted = notify m j.val 3 0 g tid t 0 := by
  subst hm
  simp only [endReplay, hj]

end

section
variable {ch0 ch x : Chip} {g t ix q tid : Nat} {grad h : Bool} {y : Tile}
  (hch : ch = tileRead ch0 g t) (hy : y = { latchTile (tileOf ch g t) grad with lastq := q })
include hch hy

section
variable {v : Option Val} (hp : (tileOf ch g t).poison = true)
include hp

/-- A poisoned tile discards what is clean, and what is poisoned where it is ACTIVE already (log 153). -/
theorem tileAdd_of_discarded (hv : v ≠ none ∨ (tileOf ch g t).st = 2) :
    tileAdd ch0 g t ix grad h q tid v = updTile ch g t fun z => { z with lastq := q } := by
  have hkeep : ¬ (v.isNone = true ∧ (tileOf ch g t).st ≠ 2) := by
    rintro ⟨hn, hs⟩
    exact hv.elim (· (Option.isNone_iff_eq_none.1 hn)) hs
  subst hch hy
  simp only [tileAdd, if_pos hp, if_neg hkeep]

/-- A poisoned contribution makes a poisoned tile ACTIVE (log 153). -/
theorem tileAdd_of_activated (hv : v = none) (hs : (tileOf ch g t).st ≠ 2) :
    tileAdd ch0 g t ix grad h q tid v = updTile ch g t fun _ => y := by
  have hact : v.isNone = true ∧ (tileOf ch g t).st ≠ 2 := ⟨hv ▸ rfl, hs⟩
  subst hch hy
  simp only [tileAdd, if_pos hp, if_pos hact]

end

variable (hx : x = raiseIf ((tileOf ch g t).st == 2 && (tileOf ch g t).grad != grad) ch .engAccClassMix g)
  (hp : (tileOf ch g t).poison = false)
include hx hp

/-- A poisoned contribution poisons a clean tile (R126). -/
theorem tileAdd_of_poisoned :
    tileAdd ch0 g t ix grad h q tid none = updTile x g t fun _ => { y with poison := true } := by
  subst hch hy hx
  simp only [tileAdd, hp, Bool.false_eq_true, if_false]

variable {w : Val} {r : Machine.Conv} {z : Tile} (hr : addConv y ix h w = r)
  (hz : z = { y with els := tput y.els ix (BitVec.ofNat 32 r.code) })
include hr hz

/-- What a clean tile does with a value turns on whether the sum overflows F32, and then on the tile's class. -/
theorem tileAdd_of_value {p : Replayed} {n : Chip} (hrep : p = replay 4 y ix h w 0)
    (hn : n = updTile x g t fun _ => p.tile) :
    tileAdd ch0 g t ix grad h q tid (some w) =
      if ¬ r.saturated then updTile x g t fun _ => z
      else if ¬ y.grad then raise (updTile x g t fun _ => z) .engAccActOverflow g
      else endReplay n g t tid p.how := by
  have hclean : ¬ (tileOf ch g t).poison = true := by simp [hp]
  subst hch hy hx hr hz hrep hn
  simp only [tileAdd, if_neg hclean]
  cases (replay 4 { latchTile (tileOf (tileRead ch0 g t) g t) grad with lastq := q } ix h w 0).how <;> rfl

/-- A sum that does not overflow F32 is stored, rounded once (R131). -/
theorem tileAdd_of_no_overflow (hs : r.saturated = false) :
    tileAdd ch0 g t ix grad h q tid (some w) = updTile x g t fun _ => z :=
  (tileAdd_of_value hch hy hx hp hr hz rfl rfl).trans (if_pos (by simp [hs]))

variable (hs : r.saturated = true)
include hs

/-- An ACT tile keeps the overflow and reports it (R141). -/
theorem tileAdd_of_act_overflow (hg : y.grad = false) :
    tileAdd ch0 g t ix grad h q tid (some w) = raise (updTile x g t fun _ => z) .engAccActOverflow g :=
  (tileAdd_of_value hch hy hx hp hr hz rfl rfl).trans
    ((if_neg (not_not_intro hs)).trans (if_pos (by simp [hg])))

/-- An overflow of a GRAD tile ends as its replays do (R142, R143, R145). -/
theorem tileAdd_of_grad_overflow (hg : y.grad = true) {p : Replayed} {n : Chip} (hrep : p = replay 4 y ix h w 0)
    (hn : n = updTile x g t fun _ => p.tile) :
    tileAdd ch0 g t ix grad h q tid (some w) = endReplay n g t tid p.how :=
  (tileAdd_of_value hch hy hx hp hr hz hrep hn).trans
    ((if_neg (not_not_intro hs)).trans (if_neg (not_not_intro hg)))

end

/-- A contribution enters its tile while the core's clock runs and its engine block is not DISABLED (R131, R146). -/
theorem tileContribution_eq {s : State} {c : CoreId} {t : Fin 256} {i j : Fin 16} {grad : Bool} {v : TileTerm}
    (hl : live s.chip = true) (hr : islandRuns s.chip (c.val / 128) = true)
    (he : blkGet s.chip .eng c.val ≠ .disabled) :
    exec (.tileContribution c t i j grad v) s = .next (after s (
      tileAdd (if v.parity then parityFind s.chip c.val t.val else s.chip) c.val t.val (i.val * 16 + j.val) grad false
        (tileOf s.chip c.val t.val).lastq v.tid.val (contribVal v.value))) := by
  rw [exec_tileContribution, execTileContribution, onChip_live hl, if_pos ⟨hr, he⟩]

/-! ### Scrubs (R145, R425, R430) -/

section
variable {s : State} {c : CoreId} (hl : live s.chip = true)
include hl

theorem tileScrub_of_fault {t : Fin 256} {i j : Fin 16} (ht : (tileOf s.chip c.val t.val).st ≠ 0) :
    exec (.tileScrub c t i j true) s = .next (after s (fenceCore
      (raise (raise (updTile s.chip c.val t.val fun x => { x with poison := true }) .engAccScrubFound c.val)
        .engAccParityPoison c.val) c.val 2)) := by
  rw [exec_tileScrub, execTileScrub, onChip_live hl, if_pos ⟨rfl, ht⟩]

theorem tileScrub_of_nothing {t : Fin 256} {i j : Fin 16} {bad : Bool}
    (hn : bad = false ∨ (tileOf s.chip c.val t.val).st = 0) : exec (.tileScrub c t i j bad) s = .next s := by
  have hno : ¬ (bad = true ∧ (tileOf s.chip c.val t.val).st ≠ 0) := by rcases hn with hn | hn <;> simp [hn]
  rw [exec_tileScrub, execTileScrub, onChip_live hl, if_neg hno, after_own_chip]

variable {m : ScrubMem} {w : Nat}

theorem memoryScrub_of_word {a : Nat} (ha : scrubAddr c.val m w = some a) (bad : Bool) :
    exec (.memoryScrub c m w bad) s =
      .next (after s (if bad then fenceCore (markPoi s.chip a 4) c.val 2 else s.chip)) := by
  rw [exec_memoryScrub, execMemoryScrub, onChip_live hl, ha]

theorem memoryScrub_past_end (ha : scrubAddr c.val m w = none) (bad : Bool) :
    exec (.memoryScrub c m w bad) s = .next s := by
  rw [exec_memoryScrub, execMemoryScrub, onChip_live hl, ha, after_own_chip]

end

/-- Settles O20: Banister decides the oldest DOUBTFUL read of an array (log 55) on the chip that met the parity failures
of the delivery (log 152), and waits or goes on as work on memory does (logs 43 and 45); a contribution does what the
state of its tile says (logs 131 and 153), and so does a scrub. -/
theorem refereeTilesAndScrubs : Obligations.RefereeTilesAndScrubs := by
  unfold Obligations.RefereeTilesAndScrubs
  refine ⟨fun s t c sel rd d u done => ?referee, fun s c t i j v hl => ⟨fun hr he => ?contribution,
    fun bad => ⟨?fault, tileScrub_of_nothing hl⟩, fun m w => ⟨fun a ha => ?word, fun bad ha => ?past⟩⟩⟩
  case referee =>
    have hi : exec (.banisterReferee c sel) s = onChip s (memWork (.core (c.val / 128)) sel.bursts
      (readFailing c.val sel (banisterReferee c.val sel))) := rfl
    refine ⟨waitsOrLoses_of_memWork hi, ?_⟩
    intro hgo hu hdone hcore heng hold hd x own ref ch fits hx hown href hch hfits
    have h : Doubted u c sel rd d := ⟨hcore, heng, hold, hd⟩
    have ends {y : Chip} (hy : banisterReferee c.val sel u = y) : exec (.banisterReferee c sel) s = .next (done y) := by
      rw [work_of_goesOn hi hgo, readFailing, ← hu, hy, hdone]
    refine ⟨fun hm p hp => ⟨fun hj => ends (banisterReferee_of_no_master_no_job h hx hown hm hp hj),
      fun b hj => ends (banisterReferee_of_no_master_job h hx hown hm hp hj)⟩, fun hm hp hf => ?disagrees,
      fun hm hp hf => ?agrees⟩
    case disagrees =>
      exact ends ((banisterReferee_of_master h hx hown href hch hfits hm hp).trans (if_neg (by simp [hf])))
    case agrees =>
      exact ends ((banisterReferee_of_master h hx hown href hch hfits hm hp).trans (if_pos hf))
  case contribution =>
    rintro grad parity tid ch y x k q rfl rfl hch hy hx
    have adds {z : Chip} (hz : tileAdd (if parity then parityFind s.chip c.val t.val else s.chip) c.val t.val
        (i.val * 16 + j.val) grad false (tileOf s.chip c.val t.val).lastq tid.val (contribVal v) = z) :
        exec (.tileContribution c t i j grad ⟨tid, v, parity⟩) s = .next (after s z) := by
      rw [tileContribution_eq hl hr he, hz]
    refine ⟨fun hp hv => adds (tileAdd_of_discarded hch hy hp hv),
      fun hp hv hs => adds (tileAdd_of_activated hch hy hp hv hs), fun hp hv => ?poisoned,
      fun w r z hp hv hadd hz => ?sum⟩
    case poisoned =>
      exact adds (hv ▸ tileAdd_of_poisoned hch hy hx hp)
    case sum =>
      rw [hv] at adds
      refine ⟨fun hs => adds (tileAdd_of_no_overflow hch hy hx hp hadd hz hs),
        fun hs hg => adds (tileAdd_of_act_overflow hch hy hx hp hadd hz hs hg), fun hs hg p n hrep hn => ?_⟩
      have key := tileAdd_of_grad_overflow (tid := tid.val) hch hy hx hp hadd hz hs hg hrep hn
      refine ⟨fun hw => adds (key.trans (by rw [hw, endReplay])), fun hw => adds (key.trans (by rw [hw, endReplay])),
        fun hw m hm => ?_⟩
      rw [hw] at key
      exact ⟨fun hj => adds (key.trans (endReplay_exhausted_no_job hm hj)),
        fun b hj => adds (key.trans (endReplay_exhausted_job hm hj))⟩
  case fault =>
    rintro rfl ht
    exact tileScrub_of_fault hl ht
  case word =>
    exact ⟨memoryScrub_of_word hl ha true, memoryScrub_of_word hl ha false⟩
  case past =>
    exact memoryScrub_past_end hl ha bad

end Sys2Proof.RefereeTiles
end

section
/-! Proofs about the watcher operations of the vector queue (08_training_numerics.md R175, R177 to R188): when WFLUSH
waits for dirty entries and when it is work on memory like the other operations, and the statement WatcherWork. -/

namespace Sys2Proof.Watcher
open Sys2Proof Sys2Proof.Machine Sys2Proof.Claims Sys2Proof.Laws

section
variable {s : State} {r : CoreRun}

/-- A WFLUSH waits while WCH stops and the core's cache holds dirty entries (R188). -/
theorem wflush_of_dirty (hl : live s.chip = true) (hstop : blkGet s.chip .wch r.core.val = .stopping)
    (hdirty : (accOf s.chip r.core.val).cache.any entDirty = true) : exec (.wflush r) s = .next s := by
  rw [exec_wflush, execWflush, onChip_live hl, if_pos ⟨hstop, hdirty⟩]
  rfl

/-- A WFLUSH that no dirty entry holds is one run of the vector queue, which flushes the cache of an ENABLED WCH and
reads `armed` (R175, R186). -/
theorem wflush_of_not_held (h : blkGet s.chip .wch r.core.val ≠ .stopping ∨
      (accOf s.chip r.core.val).cache.any entDirty = false) :
    exec (.wflush r) s = onChip s (coreRun r .vector .wflush fun ch i =>
      (readArmed (if enabled ch .wch r.core.val then flushCache ch r.core.val else ch) r.core.val, i)) := by
  have hgo : ¬ (blkGet s.chip .wch r.core.val = .stopping ∧ (accOf s.chip r.core.val).cache.any entDirty = true) := by
    rintro ⟨hstop, hdirty⟩
    rcases h with h | h
    · exact h hstop
    · exact absurd hdirty (by simp [h])
  rw [exec_wflush, execWflush]
  exact DeviceMemory.onChip_congr (if_neg hgo)

end

/-- Settles O17: a WFLUSH that no dirty entry holds, a WSTEP, a WCHECK, a WPROBE and a SCALEGEN are each one run of the
vector queue, which waits or goes on as work on memory does (logs 43 and 45). -/
theorem watcherWork : Obligations.WatcherWork := by
  unfold Obligations.WatcherWork
  rintro s t r i op x f (⟨rfl, rfl, rfl⟩ | ⟨rfl, rfl, rfl⟩ | ⟨rfl, rfl, rfl⟩ | ⟨rfl, rfl, rfl⟩ | ⟨rfl, rfl, rfl⟩)
  · exact ⟨fun hl _ => wflush_of_dirty hl, fun h => VectorQueue.runs_of_coreRun (wflush_of_not_held (h rfl))⟩
  all_goals refine ⟨(fun _ hop => nomatch hop), fun _ => VectorQueue.runs_of_coreRun ?_⟩
  · rw [exec_wstep, execWstep]
  · rw [exec_wcheck, execWcheck]
  · rw [exec_wprobe, execWprobe]
  · rw [exec_scalegen, execScalegen]

end Sys2Proof.Watcher
end

section
/-! Proofs about the scalar instructions of a core (10_oanoine_control.md R212, R213, R217, R221, R222): what a register
reads after a write, what an issued word of the ALU, NOP, DSET, MFS and MTS does, and the statements RegisterFile,
AluResults and ScalarMoves. -/

namespace Sys2Proof.ScalarCore
open Sys2Proof Sys2Proof.Machine Sys2Proof.Claims Sys2Proof.Laws

/-! ### The register file (R212, R213) -/

section
variable {k : Core} {r q : Nat} {v : Dword}

@[simp] theorem rdReg_zero : rdReg k 0 = 0 := rfl

@[simp] theorem rdReg_pred_zero : rdReg k 0x30 = 1 := rfl

/-- A write to s0 or p0 is discarded. -/
theorem wrReg_constant (h : r = 0 ∨ r = 0x30) : wrReg k r v = k := if_pos h

theorem wrReg_scalar (h0 : r ≠ 0) (h : r < 0x20) : wrReg k r v = { k with s := tput k.s r v } := by
  rw [wrReg, if_neg (by omega), if_pos h]

theorem wrReg_address (hlo : 0x20 ≤ r) (hhi : r < 0x30) :
    wrReg k r v = { k with a := tput k.a (r - 0x20) (v.setWidth 48) } := by
  rw [wrReg, if_neg (by omega), if_neg (by omega), if_pos hhi]

theorem wrReg_predicate (h : 0x30 < r) : wrReg k r v =
    { k with p := if v.getLsbD 0 then k.p ||| BitVec.ofNat 8 (2 ^ (r - 0x30))
                  else k.p &&& ~~~BitVec.ofNat 8 (2 ^ (r - 0x30)) } := by
  rw [wrReg, if_neg (by omega), if_neg (by omega), if_neg (by omega)]

theorem rdReg_scalar (h0 : q ≠ 0) (h : q < 0x20) : rdReg k q = tget k.s 0 q := by
  rw [rdReg, if_neg h0, if_pos h]

theorem rdReg_address (hlo : 0x20 ≤ q) (hhi : q < 0x30) : rdReg k q = (tget k.a 0 (q - 0x20)).setWidth 64 := by
  rw [rdReg, if_neg (by omega), if_neg (by omega), if_pos hhi]

theorem rdReg_predicate (h : 0x30 < q) : rdReg k q = if k.p.getLsbD (q - 0x30) then 1 else 0 := by
  rw [rdReg, if_neg (by omega), if_neg (by omega), if_neg (by omega), if_neg (by omega)]

/-- An address register keeps bits 47:0 of what is written. -/
theorem setWidth_address (v : Dword) : (v.setWidth 48).setWidth 64 = v &&& 0xFFFFFFFFFFFF := by
  apply BitVec.eq_of_toNat_eq
  have hmask : v.toNat &&& 0xFFFFFFFFFFFF = v.toNat % 2 ^ 48 := Nat.and_two_pow_sub_one_eq_mod v.toNat 48
  rw [BitVec.toNat_and, BitVec.toNat_setWidth, BitVec.toNat_setWidth]
  exact (Nat.mod_eq_of_lt (by omega)).trans hmask.symm

theorem getLsbD_two_pow {i j : Nat} (hi : i < 8) : (BitVec.ofNat 8 (2 ^ j)).getLsbD i = decide (j = i) := by
  rw [BitVec.getLsbD_ofNat, Nat.testBit_two_pow, decide_eq_true hi, Bool.true_and]

/-- A predicate keeps bit 0 of what is written. -/
theorem predicate_bit_zero (v : Dword) : (if v.getLsbD 0 then (1 : Dword) else 0) = v &&& 1 := by
  refine Eq.trans ?_ (BitVec.and_one_eq_setWidth_ofBool_getLsbD).symm
  cases v.getLsbD 0 <;> rfl

/-- The bits of the predicate file after a write of one of them. -/
theorem getLsbD_wrReg_predicate (h : 0x30 < r) {i : Nat} (hi : i < 8) :
    (wrReg k r v).p.getLsbD i = if r - 0x30 = i then v.getLsbD 0 else k.p.getLsbD i := by
  rw [wrReg_predicate h]
  have hbit := getLsbD_two_pow (j := r - 0x30) hi
  generalize BitVec.ofNat 8 (2 ^ (r - 0x30)) = m at hbit ⊢
  by_cases hr : r - 0x30 = i <;> cases v.getLsbD 0 <;> simp [hr, hi, hbit, -BitVec.getLsbD_eq_getElem]

theorem rdReg_wrReg_same_scalar (h0 : r ≠ 0) (h : r < 0x20) : rdReg (wrReg k r v) r = v := by
  rw [rdReg_scalar h0 h, wrReg_scalar h0 h, tget_tput_same]

theorem rdReg_wrReg_same_address (hlo : 0x20 ≤ r) (hhi : r < 0x30) :
    rdReg (wrReg k r v) r = v &&& 0xFFFFFFFFFFFF := by
  rw [rdReg_address hlo hhi, wrReg_address hlo hhi, tget_tput_same, setWidth_address]

theorem rdReg_wrReg_same_predicate (hlo : 0x30 < r) (hhi : r < 0x38) : rdReg (wrReg k r v) r = v &&& 1 := by
  rw [rdReg_predicate hlo, getLsbD_wrReg_predicate hlo (by omega), if_pos rfl, predicate_bit_zero]

/-- A write changes no register but its own: the files are apart, and within a file so are the keys or bits. -/
theorem rdReg_wrReg_other (hr : r < 0x38) (hq : q < 0x38) (h : q ≠ r) : rdReg (wrReg k r v) q = rdReg k q := by
  by_cases hr0 : r = 0 ∨ r = 0x30
  · rw [wrReg_constant hr0]
  by_cases hq0 : q = 0 ∨ q = 0x30
  · rcases hq0 with rfl | rfl <;> rfl
  rcases (by omega : q < 0x20 ∨ 0x20 ≤ q ∧ q < 0x30 ∨ 0x30 < q) with hqs | ⟨hlo, hhi⟩ | hqp
  · rw [rdReg_scalar (by omega) hqs, rdReg_scalar (by omega) hqs]
    rcases (by omega : r < 0x20 ∨ 0x20 ≤ r ∧ r < 0x30 ∨ 0x30 < r) with hrs | ⟨hrlo, hrhi⟩ | hrp
    · rw [wrReg_scalar (by omega) hrs, tget_tput_other _ _ _ h]
    · rw [wrReg_address hrlo hrhi]
    · rw [wrReg_predicate hrp]
  · rw [rdReg_address hlo hhi, rdReg_address hlo hhi]
    rcases (by omega : r < 0x20 ∨ 0x20 ≤ r ∧ r < 0x30 ∨ 0x30 < r) with hrs | ⟨hrlo, hrhi⟩ | hrp
    · rw [wrReg_scalar (by omega) hrs]
    · rw [wrReg_address hrlo hrhi, tget_tput_other _ _ _ (by omega)]
    · rw [wrReg_predicate hrp]
  · rw [rdReg_predicate hqp, rdReg_predicate hqp]
    rcases (by omega : r < 0x20 ∨ 0x20 ≤ r ∧ r < 0x30 ∨ 0x30 < r) with hrs | ⟨hrlo, hrhi⟩ | hrp
    · rw [wrReg_scalar (by omega) hrs]
    · rw [wrReg_address hrlo hrhi]
    · rw [getLsbD_wrReg_predicate hrp (by omega), if_neg (show ¬ r - 0x30 = q - 0x30 by omega)]

end

/-- Settles O2: the two constants, another register, and the three files (the table of R212). -/
theorem registerFile : Obligations.RegisterFile := by
  unfold Obligations.RegisterFile
  intro k r q v hr hq
  by_cases hzero : q = 0
  · rw [if_pos hzero, hzero, rdReg_zero]
  rw [if_neg hzero]
  by_cases hone : q = 0x30
  · rw [if_pos hone, hone, rdReg_pred_zero]
  rw [if_neg hone]
  by_cases hne : q ≠ r
  · rw [if_pos hne, rdReg_wrReg_other hr hq hne]
  obtain rfl : q = r := not_not.mp hne
  rw [if_neg hne]
  by_cases hs : q < 0x20
  · rw [if_pos hs, rdReg_wrReg_same_scalar hzero hs]
  rw [if_neg hs]
  by_cases ha : q < 0x30
  · rw [if_pos ha, rdReg_wrReg_same_address (by omega) ha]
  · rw [if_neg ha, rdReg_wrReg_same_predicate (by omega) hq]

/-! ### The ALU (R217) -/

section
variable {w : Dword} {op o : Op} (h : op ≠ o)
include h

/-- A word of format S, C or Q is the instruction its opcode names, or none (R215, R216, R228). -/
theorem fmtS_ne (regs : List Nat) : fmtS w regs op ≠ some o := by
  simp [fmtS, h]

theorem fmtC_ne (regs : List Nat) : fmtC w regs op ≠ some o := by
  simp [fmtC, h]

theorem fmtQ_ne (b c p x sd pd : Bool) (n : Nat) : fmtQ w b c p x sd pd n op ≠ some o := by
  simp [fmtQ, h]

end

/-- Only a word with `imm_sel` 1 is an INS32 (R217). -/
theorem imm_sel_of_ins32 {w : Dword} (h : decodeWord w = some .ins32) : wb w 33 33 = 1 := by
  by_contra hsel
  unfold decodeWord at h
  dsimp only at h
  rw [if_neg hsel] at h
  repeat' split at h
  all_goals simp [fmtS_ne, fmtC_ne, fmtQ_ne] at h

/-- An ALU word writes f(srcA, b) to its destination. -/
theorem aluStep_of_issuing {s : State} {c : CoreId} {op : Op} {w : Dword} (h : Issuing s c op w)
    (f : Dword → Dword → Dword) : aluStep c op f s = .next (wrote s c w (f (srcA s c w) (srcB s c w))) :=
  issue_of_issuing h _

theorem slt_eq_toInt_lt (x y : Dword) : x.slt y = decide (x.toInt < y.toInt) := rfl

theorem bool64_decide (p : Prop) [Decidable p] : bool64 (decide p) = if p then 1 else 0 := by
  by_cases h : p <;> simp [bool64, h]

/-- INS32 puts the low half of b over the low half of srcA. -/
theorem append_low_halves (a b : Dword) : b.extractLsb' 0 32 ++ a.extractLsb' 0 32 =
    BitVec.ofNat 64 (b.toNat % 2 ^ 32 * 2 ^ 32 + a.toNat % 2 ^ 32) := by
  apply BitVec.eq_of_toNat_eq
  have ha : a.toNat % 2 ^ 32 < 2 ^ 32 := Nat.mod_lt _ (by decide)
  have hb : b.toNat % 2 ^ 32 < 2 ^ 32 := Nat.mod_lt _ (by decide)
  rw [BitVec.toNat_append, BitVec.extractLsb'_toNat, BitVec.extractLsb'_toNat, Nat.shiftRight_zero, Nat.shiftRight_zero,
    ← Nat.shiftLeft_add_eq_or_of_lt ha, Nat.shiftLeft_eq, BitVec.toNat_ofNat]
  omega

/-- Settles O1: each word is one `aluStep` with its function; the decoder gives `imm_sel` of INS32. -/
theorem aluResults : Obligations.AluResults := by
  unfold Obligations.AluResults
  intro s c w
  refine ⟨⟨fun h => ?reg, fun h => ?imm, imm_sel_of_ins32⟩, fun h => aluStep_of_issuing h (· + ·),
    fun h => aluStep_of_issuing h (· - ·), fun h => aluStep_of_issuing h (· * ·),
    fun h => aluStep_of_issuing h (· &&& ·), fun h => aluStep_of_issuing h (· ||| ·),
    fun h => aluStep_of_issuing h (· ^^^ ·),
    fun h => aluStep_of_issuing h (fun a b => a <<< (b.toNat % 64)),
    fun h => aluStep_of_issuing h (fun a b => a >>> (b.toNat % 64)),
    fun h => aluStep_of_issuing h (fun a b => a.sshiftRight (b.toNat % 64)),
    fun h => ?min, fun h => ?max, fun h => ?cmpeq, fun h => ?cmplt, fun h => ?cmpltu, fun h => ?ins32⟩
  case reg => rw [srcB, opB, if_neg (by omega)]
  case imm => rw [srcB, opB, if_pos h, immS]
  case min =>
    rw [exec_minI, execMin, aluStep_of_issuing h]
    simp only [slt_eq_toInt_lt, decide_eq_true_eq]
  case max =>
    rw [exec_maxI, execMax, aluStep_of_issuing h]
    simp only [slt_eq_toInt_lt, decide_eq_true_eq]
  case cmpeq =>
    rw [exec_cmpeq, execCmpeq, aluStep_of_issuing h, beq_eq_decide, bool64_decide]
  case cmplt =>
    rw [exec_cmplt, execCmplt, aluStep_of_issuing h, slt_eq_toInt_lt, bool64_decide]
  case cmpltu =>
    rw [exec_cmpltu, execCmpltu, aluStep_of_issuing h, BitVec.ult, bool64_decide]
  case ins32 =>
    rw [exec_ins32, execIns32, aluStep_of_issuing h, append_low_halves]

/-! ### NOP, DSET, MFS and MTS (R221, R222) -/

section
variable {s : State} {c : CoreId} {w : Dword}

@[simp] theorem issued_coreJob (g : Nat) : coreJob (issued s c) g = coreJob s.chip g :=
  DeviceMemory.coreJob_congr (issued_clus s c) g

/-- A command that touches the chip alone, on a device that runs. -/
theorem exec_of_live (hl : live s.chip = true) {i : Instr} {f : Chip → Chip} {ch : Chip} (hi : exec i s = onChip s f)
    (hf : f s.chip = ch) : exec i s = .next (after s ch) := by
  rw [hi, onChip_live hl, hf]

/-- A word that issues and whose effect is `ch`. -/
theorem exec_of_issuing {op : Op} (h : Issuing s c op w) {i : Instr} {f : Chip → Core → Dword → Chip} {ch : Chip}
    (hi : exec i s = onChip s fun ch => issue ch c.val op f) (hf : f (issued s c) (theCore s c) w = ch) :
    exec i s = .next (after s ch) := by
  rw [hi, issue_of_issuing h, hf]

/-- A word that issues and faults. -/
theorem exec_faulted {op : Op} (h : Issuing s c op w) {i : Instr} {f : Chip → Core → Dword → Chip} {code : Nat}
    (hi : exec i s = onChip s fun ch => issue ch c.val op f)
    (hf : f (issued s c) (theCore s c) w = faultWord (issued s c) c.val code w) :
    exec i s = .next (faulted s c code) := by
  rw [exec_of_issuing h hi hf, DeviceMemory.faulted_of_issuing h]

/-- MFS writes the special register that its selector names. -/
theorem mfs_of_special (h : Issuing s c .mfs w) {v : Dword} (hv : readSpecial (issued s c) c.val (wb w 7 0) = some v) :
    exec (.mfs c) s = .next (wrote s c w v) :=
  exec_of_issuing h rfl (by simp only [hv])

theorem mfs_of_no_special (h : Issuing s c .mfs w) (hv : readSpecial (issued s c) c.val (wb w 7 0) = none) :
    exec (.mfs c) s = .next (faulted s c 2) :=
  exec_faulted h rfl (by simp only [hv])

end

section
variable {ch : Chip} {g sel : Nat}

/-- Selectors 9 to 15 are the token counters 1 to 7. -/
theorem readSpecial_token (hlo : 9 ≤ sel) (hhi : sel ≤ 15) :
    readSpecial ch g sel = some ((tget (coreOf ch g).tc 0 (sel - 8)).setWidth 64) := by
  rw [readSpecial, if_neg (by omega), if_neg (by omega), if_neg (by omega), if_neg (by omega), if_pos ⟨hlo, hhi⟩]

theorem readSpecial_unlisted (hlo : 3 < sel) (h : sel < 9 ∨ 15 < sel) : readSpecial ch g sel = none := by
  rw [readSpecial, if_neg (by omega), if_neg (by omega), if_neg (by omega), if_neg (by omega), if_neg (by omega)]

end

/-- Settles O3: DSET on its index, MFS and MTS on their selector. -/
theorem scalarMoves : Obligations.ScalarMoves := by
  unfold Obligations.ScalarMoves
  intro s c w
  refine ⟨fun h => issue_of_issuing h _, fun h => ?dset, fun h => ?mfs,
    fun h => ⟨fun hlo hhi => ?mts, fun hsel => ?bad⟩⟩
  case dset =>
    have hix : (srcA s c w + immS w).setWidth 10 = BitVec.ofNat 10 (srcA s c w + immS w).toNat := rfl
    split
    next hlt => exact exec_of_issuing h rfl ((if_pos hlt).trans (by rw [← hix]; rfl))
    next hge => exact exec_faulted h rfl (if_neg hge)
  case mfs =>
    refine ⟨fun hsel => ?_, fun j hsel hj => ?_, fun hsel => ?_, fun hsel => ?_, fun hlo hhi => ?_, fun hlo hout => ?_⟩
    · exact mfs_of_special h (by rw [hsel]; rfl)
    · exact mfs_of_special h (by simp [hsel, readSpecial, hj])
    · exact mfs_of_special h (by simp [hsel, readSpecial, islCycles, theCore])
    · exact mfs_of_special h (by simp [hsel, readSpecial, theCore])
    · exact mfs_of_special h (by rw [readSpecial_token hlo hhi, issued_coreOf]; rfl)
    · exact mfs_of_no_special h (readSpecial_unlisted hlo hout)
  case mts => exact exec_of_issuing h rfl (if_pos ⟨hlo, hhi⟩)
  case bad => exact exec_faulted h rfl (if_neg (by omega))

end Sys2Proof.ScalarCore
end

section
/-! Proofs about faults and false guards of a core (10_oanoine_control.md R214, R236, R239): what a fault at the PC
leaves of its core and of the fault registers, what a word with a false guard does, and the statements PreciseFault and
GuardFalse. -/

namespace Sys2Proof.CoreControl
open Sys2Proof Sys2Proof.Machine Sys2Proof.Claims Sys2Proof.Laws Sys2Proof.ScalarCore

/-! ### Halts of cores (R24) -/

/-- A core that a halt reaches. -/
def haltedCore (k : Core) : Core :=
  if k.run = .running ∨ k.run = .waiting then { k with halting := true, run := .running, syw := none, fence := none }
  else k

theorem haltCore_eq (ch : Chip) (g : Nat) : haltCore ch g = updCore ch g haltedCore := rfl

/-- A second halt changes nothing. -/
@[simp] theorem haltedCore_haltedCore (k : Core) : haltedCore (haltedCore k) = haltedCore k := by
  unfold haltedCore
  split <;> rfl

theorem coreOf_haltCore_other (ch : Chip) {g x : Nat} (h : x ≠ g) : coreOf (haltCore ch g) x = coreOf ch x :=
  coreOf_updCore_other ch _ h

theorem coreOf_halts (l : List Nat) (ch : Chip) (g : Nat) :
    coreOf (l.foldl haltCore ch) g = if g ∈ l then haltedCore (coreOf ch g) else coreOf ch g := by
  induction l generalizing ch with
  | nil => rfl
  | cons x l ih =>
    rw [List.foldl_cons, ih]
    by_cases hx : g = x
    · subst hx
      simp [haltCore_eq]
    · simp [coreOf_haltCore_other ch hx, hx]

theorem coreOf_congr {a b : Chip} (h : a.cores = b.cores) (g : Nat) : coreOf a g = coreOf b g := by
  rw [coreOf, coreOf, h]

@[simp] theorem coreOf_count (ch : Chip) (k n g : Nat) : coreOf (count ch k n) g = coreOf ch g :=
  coreOf_congr (count_cores ..) g
@[simp] theorem coreOf_countCore (ch : Chip) (x i n g : Nat) : coreOf (countCore ch x i n) g = coreOf ch g :=
  coreOf_congr (countCore_cores ..) g
@[simp] theorem coreOf_raise (ch : Chip) (e : Ev) (u g : Nat) : coreOf (raise ch e u) g = coreOf ch g :=
  coreOf_congr (raise_cores ..) g
@[simp] theorem coreOf_raiseIf (b : Bool) (ch : Chip) (e : Ev) (u g : Nat) :
    coreOf (raiseIf b ch e u) g = coreOf ch g :=
  coreOf_congr (raiseIf_cores ..) g
@[simp] theorem coreOf_notify (ch : Chip) (j r d x i t : Nat) (m : Dword) (g : Nat) :
    coreOf (notify ch j r d x i t m) g = coreOf ch g :=
  coreOf_congr (notify_cores ..) g
@[simp] theorem coreOf_faultMark (ch : Chip) (x g : Nat) : coreOf (faultMark ch x) g = coreOf ch g :=
  coreOf_congr (faultMark_cores ..) g

/-- Consumed poison halts its own core with its cluster (R24, R434). -/
theorem coreOf_haltCluster (ch : Chip) (g : Nat) : coreOf (haltCluster ch g) g = haltedCore (coreOf ch g) := by
  have hmem : g ∈ coresOfCluster (g / 8) := by
    rw [coresOfCluster, mem_span]
    omega
  have hhalts := coreOf_halts (coresOfCluster (g / 8)) ch g
  rw [if_pos hmem] at hhalts
  unfold haltCluster
  dsimp only
  split <;> simpa using hhalts

/-! ### Registers that a fault leaves alone (R365, R379) -/

theorem regGet_congr {a b : Chip} (h : a.regs = b.regs) (r : Reg) (u k : Nat) : regGet a r u k = regGet b r u k := by
  rw [regGet, regGet, h]

/-- An event writes its own register alone. -/
theorem regGet_raise_other (ch : Chip) (e : Ev) {q : Reg} {u x y : Nat}
    (h : regAddr q x y ≠ regAddr (evInfo e).1 u 0) : regGet (raise ch e u) q x y = regGet ch q x y := by
  have hset := regGet_regSet_other ch (regGet ch (evInfo e).1 u ||| BitVec.ofNat 32 (2 ^ (evInfo e).2)) h
  unfold raise
  split
  · exact (regGet_congr (countCore_regs ..) ..).trans hset
  · exact (regGet_congr (count_regs ..) ..).trans hset
  · exact hset

theorem regGet_raiseIf_other (b : Bool) (ch : Chip) (e : Ev) {q : Reg} {u x y : Nat}
    (h : regAddr q x y ≠ regAddr (evInfo e).1 u 0) : regGet (raiseIf b ch e u) q x y = regGet ch q x y := by
  unfold raiseIf
  split
  · exact regGet_raise_other ch e h
  · rfl

section
variable {q : Reg} {x : Nat} (hq : regAddr q x 0 < RegisterBus.packageBase)
include hq

/-- A notification writes no register of a tower. -/
theorem regGet_notify_tower (ch : Chip) (j r d g i t : Nat) (m : Dword) :
    regGet (notify ch j r d g i t m) q x = regGet ch q x := by
  have hne : regAddr q x 0 ≠ regAddr (evInfo .tslNotifyLost).1 0 0 := by
    have hlost : RegisterBus.packageBase ≤ regAddr (evInfo .tslNotifyLost).1 0 0 := by decide
    omega
  unfold notify
  split
  · rfl
  · rw [regGet, msix_regs, msix_regs, count_regs]
    exact regGet_raiseIf_other _ _ _ hne

theorem regGet_haltCluster_tower (ch : Chip) (g : Nat) : regGet (haltCluster ch g) q x = regGet ch q x := by
  have hregs : (count ((coresOfCluster (g / 8)).foldl haltCore ch) (cntCluster (g / 8) 8) 1).regs = ch.regs :=
    (count_regs ..).trans (foldl_keeps Chip.regs _ (fun c y => haltCore_regs c y) _ ch)
  unfold haltCluster
  dsimp only
  split
  · exact (regGet_notify_tower hq ..).trans (regGet_congr hregs ..)
  · exact regGet_congr hregs ..

end

/-! ### A fault at the PC (R236) -/

/-- The chip once a fault of core g has set the fault registers. -/
def faultRecorded (ch : Chip) (g code pc : Nat) (w : Dword) : Chip :=
  regSet (regSet (regSet (regSet ch .seqFaultCode g (BitVec.ofNat 32 code)) .seqFaultPc g (BitVec.ofNat 32 pc))
    .seqFaultWordLo g (w.extractLsb' 0 32)) .seqFaultWordHi g (w.extractLsb' 32 32)

/-- A core at its first fault, of the instruction with the issue number `seq`; `halting` tells that its cluster halts
and the core still waits for its queues. -/
def faultedCore (k : Core) (seq : Nat) (halting : Bool) : Core :=
  { k with run := if queuesDone k then .faulted else .running, halting := halting, syw := none, fence := none,
           faultSeq := some seq }

/-- The chip once the core has stopped and the fault's events are out. -/
def faultMarked (ch : Chip) (g code pc : Nat) (w : Dword) (seq : Nat) : Chip :=
  let ch1 := raiseIf (code == 6) (setCore (faultRecorded ch g code pc w) g (faultedCore (coreOf ch g) seq false))
    .arcUnavailable g
  if code = 9 ∨ queuesDone (coreOf ch g) then faultMark ch1 g else ch1

section
variable {ch : Chip} {g code pc seq : Nat} {w : Dword}

/-- The first fault of a core: consumed poison halts its cluster, and any other tells the job (R236, R434). -/
theorem faultCore_of_first (h : (coreOf ch g).faultSeq = none) : faultCore ch g code pc w seq =
    if code = 9 then haltCluster (faultMarked ch g code pc w seq) g
    else (coreJob ch g).elim (faultMarked ch g code pc w seq) fun j =>
      notify (faultMarked ch g code pc w seq) j.val 1 code g 0 0 0 := by
  unfold faultCore
  simp only [h, if_true, Option.isSome_none, raiseIf, Bool.false_eq_true, if_false]
  cases coreJob ch g <;> rfl

theorem coreOf_faultMarked : coreOf (faultMarked ch g code pc w seq) g = faultedCore (coreOf ch g) seq false := by
  unfold faultMarked
  dsimp only
  split <;> simp

/-- The core at its first fault: only its run state, its waits and its fault change. -/
theorem coreOf_faultCore (h : (coreOf ch g).faultSeq = none) : coreOf (faultCore ch g code pc w seq) g =
    faultedCore (coreOf ch g) seq (decide (code = 9) && !queuesDone (coreOf ch g)) := by
  rw [faultCore_of_first h]
  split
  next h9 =>
    rw [coreOf_haltCluster, coreOf_faultMarked]
    cases hq : queuesDone (coreOf ch g) <;> simp [haltedCore, faultedCore, hq, h9]
  next h9 =>
    cases coreJob ch g <;> simp [coreOf_faultMarked, faultedCore, h9]

/-- The register holds nothing that the events and notices of a fault write. -/
theorem regGet_faultCore {q : Reg} (h : (coreOf ch g).faultSeq = none) (hq : regAddr q g 0 < RegisterBus.packageBase)
    (harc : regAddr q g 0 ≠ regAddr .arcEvent g 0) :
    regGet (faultCore ch g code pc w seq) q g = regGet (faultRecorded ch g code pc w) q g := by
  have hmarked : regGet (faultMarked ch g code pc w seq) q g = regGet (faultRecorded ch g code pc w) q g := by
    have hraise := regGet_raiseIf_other (code == 6)
      (setCore (faultRecorded ch g code pc w) g (faultedCore (coreOf ch g) seq false)) .arcUnavailable (y := 0) harc
    unfold faultMarked
    dsimp only
    split
    · exact (regGet_congr (faultMark_regs ..) ..).trans hraise
    · exact hraise
  rw [faultCore_of_first h]
  split
  · rw [regGet_haltCluster_tower hq, hmarked]
  · cases coreJob ch g
    · exact hmarked
    · exact (regGet_notify_tower hq ..).trans hmarked

end

section
variable (c : CoreId)

/-- The fault registers of a core lie apart from each other, from its ARC block and from the package's blocks. -/
theorem regAddr_seq {q : Reg} (hb : (regInfo q).blk = .seq) :
    regAddr q c.val 0 = 0x200000000000 + c.val / 128 * 0x10000000 + c.val % 128 * 0x100 + (regInfo q).off := by
  simp [regAddr, hb, blkBase, blkInfo]

theorem regAddr_arcEvent : regAddr .arcEvent c.val 0 =
    0x200000800000 + c.val / 128 * 0x10000000 + c.val % 128 * 0x1000 + (regInfo .arcEvent).off := by
  simp [regAddr, regInfo, blkBase, blkInfo]
  omega

variable {ch : Chip} {code pc seq : Nat} {w : Dword} (h : (coreOf ch c.val).faultSeq = none)
include h

theorem regGet_faultCore_seq {q : Reg} (hb : (regInfo q).blk = .seq) (ho : (regInfo q).off < 0x100) :
    regGet (faultCore ch c.val code pc w seq) q c.val = regGet (faultRecorded ch c.val code pc w) q c.val := by
  have hc := c.isLt
  have haddr := regAddr_seq c hb
  have harc := regAddr_arcEvent c
  refine regGet_faultCore h ?_ (by omega)
  rw [haddr, RegisterBus.packageBase]
  omega

end

/-- The fault registers hold what the fault recorded (R239). -/
theorem regGet_faultRecorded (ch : Chip) (c : CoreId) (code pc : Nat) (w : Dword) :
    regGet (faultRecorded ch c.val code pc w) .seqFaultCode c.val = BitVec.ofNat 32 code ∧
    regGet (faultRecorded ch c.val code pc w) .seqFaultPc c.val = BitVec.ofNat 32 pc ∧
    regGet (faultRecorded ch c.val code pc w) .seqFaultWordLo c.val = w.extractLsb' 0 32 ∧
    regGet (faultRecorded ch c.val code pc w) .seqFaultWordHi c.val = w.extractLsb' 32 32 := by
  have apart {q r : Reg} (hq : (regInfo q).blk = .seq) (hr : (regInfo r).blk = .seq)
      (ho : (regInfo q).off ≠ (regInfo r).off) : regAddr q c.val 0 ≠ regAddr r c.val 0 := by
    rw [regAddr_seq c hq, regAddr_seq c hr]
    omega
  unfold faultRecorded
  refine ⟨?_, ?_, ?_, regGet_regSet_same ..⟩
  · rw [regGet_regSet_other _ _ (apart rfl rfl (by decide)), regGet_regSet_other _ _ (apart rfl rfl (by decide)),
      regGet_regSet_other _ _ (apart rfl rfl (by decide)), regGet_regSet_same]
  · rw [regGet_regSet_other _ _ (apart rfl rfl (by decide)), regGet_regSet_other _ _ (apart rfl rfl (by decide)),
      regGet_regSet_same]
  · rw [regGet_regSet_other _ _ (apart rfl rfl (by decide)), regGet_regSet_same]

/-- Settles O9: the core keeps all but its run state, its waits and its fault (log 18), a fault changes no memory, and
nothing after the record writes the fault registers. -/
theorem preciseFault : Obligations.PreciseFault := by
  unfold Obligations.PreciseFault
  intro s c code w _ h
  have hcore := coreOf_faultCore (code := code) (pc := (theCore s c).pc) (w := w) (seq := (theCore s c).seq) h
  obtain ⟨hcode, hpc, hlo, hhi⟩ := regGet_faultRecorded s.chip c code (theCore s c).pc w
  have hreg {q : Reg} (hb : (regInfo q).blk = .seq) (ho : (regInfo q).off < 0x100) :=
    regGet_faultCore_seq c (code := code) (pc := (theCore s c).pc) (w := w) (seq := (theCore s c).seq) h hb ho
  refine ⟨faultCore s.chip c.val code (theCore s c).pc w (theCore s c).seq, rfl, by simp [canIssue, hcore, faultedCore],
    fun hq => ?done, fun hq => ?notDone, ?_, ?_, ?_, ?_, ?_, ?_, ?_, ?_, ?_, faultCore_mem .., faultCore_poi ..,
    faultCore_objs .., (hreg rfl (by decide)).trans hcode, (hreg rfl (by decide)).trans hpc,
    (hreg rfl (by decide)).trans hlo, (hreg rfl (by decide)).trans hhi⟩
  case done => rw [hcore]; exact if_pos hq
  case notDone => rw [hcore]; exact if_neg (by rw [theCore] at hq; simp [hq])
  all_goals rw [hcore]; rfl

/-! ### A false guard (R214) -/

/-- The word `w` at the PC of core `c`, an `op`, issues with a guard that is false. -/
structure Guarded (s : State) (c : CoreId) (op : Op) (w : Dword) : Prop where
  live : live s.chip = true
  can : canIssue s.chip c.val = true
  clean : anyPoi s.chip (imemBase c.val + 8 * (theCore s c).pc) 8 = false
  word : fetchWord s.chip c.val (theCore s c).pc = w
  code : decodeWord w = some op
  reads : (regUse op w).1.any (pendingReg (theCore s c)) = false
  writes : (regUse op w).2.any (pendingReg (theCore s c)) = false
  guard : guardOk (theCore s c) w = false

section
variable {s : State} {c : CoreId} {op : Op} {w : Dword} (h : Guarded s c op w)
include h

theorem onChip_issue_of_guarded (f : Chip → Core → Dword → Chip) :
    onChip s (fun ch => issue ch c.val op f) = .next (after s (updCore (issued s c) c.val advance)) :=
  issue_of_guard_false h.live h.can h.clean h.word h.code h.reads h.writes h.guard f

theorem issue_of_guarded (f : Chip → Core → Dword → Chip) :
    issue s.chip c.val op f = updCore (issued s c) c.val advance := by
  have hnext := onChip_issue_of_guarded h f
  rw [onChip_live h.live] at hnext
  injection hnext with hstate
  exact congrArg State.chip hstate

/-- It touches no memory: looked at before it is done, it leaves the log of accesses empty. -/
theorem touched_of_guarded (f : Chip → Core → Dword → Chip) : touched (fun ch => issue ch c.val op f) s.chip = [] := by
  have hlooked : Guarded (after s { s.chip with land := { s.chip.land with log := some [] } }) c op w :=
    ⟨h.live, h.can, h.clean, h.word, h.code, h.reads, h.writes, h.guard⟩
  have hissue := issue_of_guarded hlooked f
  rw [after_chip] at hissue
  rw [touched, hissue]
  simp

/-- An LD or ST whose guard is false is no work on memory, whatever space it names. -/
theorem scalarWork_of_guarded (b : Bursts) (f : Chip → Core → Dword → Chip) :
    onChip s (fun ch => scalarWork ch c.val b fun ch => issue ch c.val op f) =
      .next (after s (updCore (issued s c) c.val advance)) := by
  rw [onChip_live h.live, scalarWork, memWork_untouched (touched_of_guarded h f), ite_self, issue_of_guarded h f]

end

/-- Settles O8: 31 of the words are an issue with their effect; LD and ST are one too, done as work on memory. -/
theorem guardFalse : Obligations.GuardFalse := by
  unfold Obligations.GuardFalse
  intro s r c op w h hc hlive hcan hclean hword hcode hreads hwrites hguard i hi
  have hg : Guarded s c op w := ⟨hlive, hcan, hclean, hword, hcode, hreads, hwrites, hguard⟩
  refine ⟨?_, issued_mem .., issued_objs ..⟩
  subst hc
  simp only [List.mem_cons, Prod.mk.injEq, List.not_mem_nil, or_false] at hi
  rcases hi with hi | hi | hi | hi | hi | hi | hi | hi | hi | hi | hi | hi | hi | hi | hi | hi | hi | hi | hi | hi |
    hi | hi | hi | hi | hi | hi | hi | hi | hi | hi | hi | hi | hi
  all_goals obtain ⟨rfl, rfl⟩ := hi
  on_goal 17 => exact scalarWork_of_guarded hg _ _
  on_goal 17 => exact scalarWork_of_guarded hg _ _
  all_goals exact onChip_issue_of_guarded hg _

end Sys2Proof.CoreControl
end

section
/-! Proofs about control flow and the halt of a core (10_oanoine_control.md R216, R223, R224, R236, R239; logs 18, 47,
48 and 160): where BR, LOOP, CALL and RET go, when a core is HALTED or FAULTED, and the statements ControlFlow and
Halting. -/

namespace Sys2Proof.ControlFlow
open Sys2Proof Sys2Proof.Machine Sys2Proof.Claims Sys2Proof.Laws Sys2Proof.ScalarCore

/-! ### Loops that end at a word (R224) -/

section
variable {p : Nat} {l : LoopEnt} {r : List LoopEnt}

theorem endLoops_elsewhere (h : l.last ≠ p) : endLoops p (l :: r) = l :: r := if_neg h

theorem endLoops_counts_down (h : l.last = p) (hc : 1 < l.count) :
    endLoops p (l :: r) = { l with count := l.count - 1 } :: r :=
  (if_pos h).trans (if_neg (Nat.not_le.mpr hc))

theorem endLoops_pops (h : l.last = p) (hc : l.count ≤ 1) : endLoops p (l :: r) = endLoops p r :=
  (if_pos h).trans (if_pos hc)

end

/-! ### Targets (R223) -/

section
variable {t : Int}

theorem pcTarget_inside (hlo : 0 ≤ t) (hhi : t < 16384) : pcTarget t = some t.toNat := if_pos ⟨hlo, hhi⟩

theorem pcTarget_outside (h : t < 0 ∨ 16384 ≤ t) : pcTarget t = none := if_neg (by omega)

end

section
variable {s : State} {c : CoreId} {w : Dword} {ls : List LoopEnt}
  (hls : ls = endLoops (theCore s c).pc (theCore s c).loops)

section
variable {t : Int} (h : Issuing s c .br w)
  (ht : t = if wb w 45 45 = 1 then ((theCore s c).pc : Int) + sx 32 (wb w 31 0)
    else (((rdReg (theCore s c) (wb w 51 46)).toNat % 16384 : Nat) : Int))
include h ht

theorem br_outside (hout : t < 0 ∨ 16384 ≤ t) : exec (.br c) s = .next (faulted s c 3) :=
  exec_faulted h rfl (by simp only [immC, ← ht, pcTarget_outside hout])

include hls in
/-- A branch pops the loops that its target leaves, once its own word has ended the loops there (log 160). -/
theorem br_inside (hlo : 0 ≤ t) (hhi : t < 16384) :
    exec (.br c) s = .next (cored s c { theCore s c with pc := t.toNat, loops := popLoops ls t.toNat }) :=
  exec_of_issuing h rfl (by simp only [immC, ← ht, pcTarget_inside hlo hhi, ← hls])

end

section
variable {n : Nat} (h : Issuing s c .loop w)
  (hn : n = if wb w 45 45 = 1 then wb w 31 16 else (rdReg (theCore s c) (wb w 51 46)).toNat % 2 ^ 32)
include h

/-- An empty body and a fifth nested loop are the stack fault, whatever the count (log 48). -/
theorem loop_misused (hbad : wb w 15 0 = 0 ∨ 4 ≤ (theCore s c).loops.length) :
    exec (.loop c) s = .next (faulted s c 8) :=
  exec_faulted h rfl (if_pos hbad)

variable (hbody : 0 < wb w 15 0) (hroom : (theCore s c).loops.length < 4)
include hbody hroom hn

omit h hn in
theorem not_loop_misused : ¬ (wb w 15 0 = 0 ∨ 4 ≤ (theCore s c).loops.length) := by
  omega

include hls in
theorem loop_enters (hpos : 0 < n) : exec (.loop c) s = .next (cored s c { theCore s c with
    pc := ((theCore s c).pc + 1) % 16384
    loops := ⟨(theCore s c).pc + 1, (theCore s c).pc + wb w 15 0, n⟩ :: ls }) :=
  exec_of_issuing h rfl (by
    simp only [if_neg (not_loop_misused hbody hroom), ← hn, if_neg (Nat.pos_iff_ne_zero.mp hpos), ← hls])

variable (hzero : n = 0)
include hzero

include hls in
/-- A loop without passes is skipped. -/
theorem loop_skips (hin : (theCore s c).pc + 1 + wb w 15 0 < 16384) :
    exec (.loop c) s = .next (cored s c { theCore s c with pc := (theCore s c).pc + 1 + wb w 15 0, loops := ls }) :=
  exec_of_issuing h rfl (by
    have ht : pcTarget ((theCore s c).pc + 1 + wb w 15 0) = some ((theCore s c).pc + 1 + wb w 15 0) :=
      (pcTarget_inside (by omega) (by omega)).trans (congrArg some (by omega))
    simp only [if_neg (not_loop_misused hbody hroom), ← hn, if_pos hzero, ht, ← hls])

theorem loop_skips_outside (hout : 16384 ≤ (theCore s c).pc + 1 + wb w 15 0) :
    exec (.loop c) s = .next (faulted s c 3) :=
  exec_faulted h rfl (by
    have ht : pcTarget ((theCore s c).pc + 1 + wb w 15 0) = none := pcTarget_outside (by omega)
    simp only [if_neg (not_loop_misused hbody hroom), ← hn, if_pos hzero, ht])

end

section
variable {t : Int} (h : Issuing s c .call w) (ht : t = ((theCore s c).pc : Int) + sx 32 (wb w 31 0))
include h

theorem call_full (hfull : 16 ≤ (theCore s c).rets.length) : exec (.call c) s = .next (faulted s c 8) :=
  exec_faulted h rfl (if_pos hfull)

variable (hroom : (theCore s c).rets.length < 16)
include ht hroom

include hls in
theorem call_inside (hlo : 0 ≤ t) (hhi : t < 16384) : exec (.call c) s = .next (cored s c { theCore s c with
    pc := t.toNat, rets := ((theCore s c).pc + 1) % 16384 :: (theCore s c).rets, loops := ls }) :=
  exec_of_issuing h rfl (by
    simp only [if_neg (Nat.not_le.mpr hroom), immC, ← ht, pcTarget_inside hlo hhi, ← hls])

theorem call_outside (hout : t < 0 ∨ 16384 ≤ t) : exec (.call c) s = .next (faulted s c 3) :=
  exec_faulted h rfl (by simp only [if_neg (Nat.not_le.mpr hroom), immC, ← ht, pcTarget_outside hout])

end

section
variable (h : Issuing s c .ret w)
include h

theorem ret_empty (he : (theCore s c).rets = []) : exec (.ret c) s = .next (faulted s c 8) :=
  exec_faulted h rfl (by simp only [he])

include hls in
theorem ret_returns {t : Nat} {r : List Nat} (hr : (theCore s c).rets = t :: r) :
    exec (.ret c) s = .next (cored s c { theCore s c with pc := t, rets := r, loops := ls }) :=
  exec_of_issuing h rfl (by simp only [hr, ← hls])

end

end

/-- Settles O6: the loops that end at the word, and each control word in its cases (logs 47, 48 and 160). -/
theorem controlFlow : Obligations.ControlFlow := by
  unfold Obligations.ControlFlow
  refine ⟨fun p l r => ⟨rfl, endLoops_elsewhere, endLoops_counts_down, endLoops_pops⟩, fun s c w ls hls =>
    ⟨fun h t ht => ⟨br_inside hls h ht, br_outside h ht⟩, fun h n hn => ⟨loop_misused h, fun hbody hroom =>
      loop_enters hls h hn hbody hroom, fun hbody hroom => loop_skips hls h hn hbody hroom, fun hbody hroom =>
      loop_skips_outside h hn hbody hroom⟩, fun h t ht => ⟨call_full h, call_inside hls h ht, call_outside h ht⟩,
      fun h => ⟨ret_empty h, fun t r => ret_returns hls h⟩⟩⟩

/-! ### The end of a halt, and words that are no instruction (R216, R223, R236) -/

section
variable {s : State} {c : CoreId} (hl : live s.chip = true)
include hl

/-- A core without a fault that stopped issuing is HALTED once its queues are done. -/
theorem coreHalted_of_halting (hf : (theCore s c).faultSeq = none) (hrun : (theCore s c).run = .running)
    (hh : (theCore s c).halting = true) (hq : queuesDone (theCore s c) = true) : exec (.coreHalted c) s =
      .next (after s (setCore s.chip c.val { theCore s c with run := .halted, halting := false })) := by
  have hfault : ¬ (theCore s c).faultSeq.isSome = true := by simp [hf]
  exact exec_of_live hl (exec_coreHalted c s) ((if_neg hfault).trans (if_pos ⟨hrun, hh, hq⟩))

/-- A core with a fault is FAULTED instead. -/
theorem coreHalted_of_fault (hf : (theCore s c).faultSeq.isSome = true) (hrun : (theCore s c).run = .running)
    (hq : queuesDone (theCore s c) = true) : exec (.coreHalted c) s = .next (after s (faultMark
      (setCore s.chip c.val { theCore s c with run := .faulted, halting := false }) c.val)) := by
  exact exec_of_live hl (exec_coreHalted c s) ((if_pos hf).trans (if_pos ⟨hf, .inl hrun, hq⟩))

/-- A clean word that decodes to nothing is the illegal-instruction fault, before its guard is looked at. -/
theorem illegalInstruction_of_undecoded (hcan : canIssue s.chip c.val = true)
    (hclean : anyPoi s.chip (imemBase c.val + 8 * (theCore s c).pc) 8 = false)
    (hd : decodeWord (fetchWord s.chip c.val (theCore s c).pc) = none) :
    exec (.illegalInstruction c) s = .next (after s (faultAtPc s.chip c.val 1)) := by
  exact exec_of_live hl (exec_illegalInstruction c s)
    ((if_neg (by simp [hcan])).trans ((if_neg (by rw [theCore] at hclean; simp [hclean])).trans (if_pos hd)))

end

/-- Settles O7: HALT as it issues, the two ends of a halt (logs 18 and 43), and a word that is no instruction; the PC
after HALT is the next word (log 47). -/
theorem halting : Obligations.Halting := by
  unfold Obligations.Halting
  exact fun s c w => ⟨fun h => issue_of_issuing h _, coreHalted_of_halting, coreHalted_of_fault,
    illegalInstruction_of_undecoded⟩

end Sys2Proof.ControlFlow
end

section
/-! Proofs about LD and ST of a core's own memories (10_oanoine_control.md R218 to R220): when such an access faults,
what a load finds and a store leaves, and the statement LoadStoreLocal. -/

namespace Sys2Proof.LocalMemory
open Sys2Proof Sys2Proof.Machine Sys2Proof.Claims Sys2Proof.Laws Sys2Proof.ScalarCore Sys2Proof.DeviceMemory

/-- Address `a` is location `l` of the scratchpad or the descriptor memory of core `g`, as the space of `w` says. -/
def localAt (g : Nat) (w : Dword) (l a : Nat) : Prop :=
  wb w 39 38 = 0 ∧ a = scratchBase g + l ∨ wb w 39 38 = 1 ∧ a = descBase g + l

section
variable {ch : Chip} {g l n : Nat} {w : Dword} {write : Bool} (ha : l % n = 0)
include ha

theorem accessFault_scratchpad (h0 : wb w 39 38 = 0) :
    accessFault ch g w l n write = if l < (if write then 0x300000 else 0x400000) then none else some 3 := by
  rw [accessFault, if_neg (not_not_intro ha), h0]
  rfl

theorem accessFault_descriptors (h1 : wb w 39 38 = 1) :
    accessFault ch g w l n write = if l < 0x10000 then none else some 3 := by
  rw [accessFault, if_neg (not_not_intro ha), h1]
  rfl

end

section
variable {g l a : Nat} {w : Dword} (h : localAt g w l a)
include h

theorem not_device_of_local : wb w 39 38 ≠ 2 := by
  rcases h with ⟨h0, _⟩ | ⟨h1, _⟩ <;> omega

theorem accessAddr_of_local : accessAddr g w l = a := by
  rcases h with ⟨h0, rfl⟩ | ⟨h1, rfl⟩
  · simp [accessAddr, h0]
  · simp [accessAddr, h1]

end

/-- An access that is not of space 2 is done at once. -/
theorem scalarWork_local {ch : Chip} {g : Nat} (h : wb (fetchWord ch g (coreOf ch g).pc) 39 38 ≠ 2) (b : Bursts)
    (f : Chip → Chip) : scalarWork ch g b f = f ch := if_neg h

section
variable {s : State} {c : CoreId} {w : Dword} (hlocal : wb w 39 38 ≠ 2)
include hlocal

theorem ld_is_loadWord (h : Issuing s c .ld w) (x : HostIn) : exec (.ld c x) s = onChip s (loadWord c.val x) := by
  rw [exec_ld, execLd]
  exact onChip_congr (scalarWork_local (by rw [h.word]; exact hlocal) ..)

theorem st_is_storeWord {r : CoreRun} (hc : c = r.core) (h : Issuing s c .st w) :
    exec (.st r) s = onChip s (storeWord c.val) := by
  subst hc
  rw [exec_st, execSt]
  exact onChip_congr (scalarWork_local (by rw [h.word]; exact hlocal) ..)

end

section
variable {s : State} {c : CoreId} {w : Dword} {n l a : Nat} (hn : n = 2 ^ wb w 37 36)
  (hl : l = accessLoc (theCore s c) w) (ha : localAt c.val w l a)
include hn hl ha

section
variable {x : HostIn} (h : Issuing s c .ld w) (hf : accessFault (issued s c) c.val w l n false = none)
include h hf

/-- A load of clean bytes writes them, zero-extended; a poisoned one faults (R219). -/
theorem ld_local : exec (.ld c x) s = .next (after s (if anyPoi s.chip a n then faultWord (issued s c) c.val 9 w
    else updCore (issued s c) c.val fun k =>
      advance (wrReg k (wb w 51 46) (BitVec.ofNat 64 (rdNat s.chip a n))))) := by
  have h2 := not_device_of_local ha
  subst hn hl
  refine exec_of_issuing h (ld_is_loadWord h2 h x) ?_
  simp only [hf, accessAddr_of_local ha, h2, false_and, decide_false, Bool.false_and, Bool.or_false, if_false,
    issued_anyPoi, issued_rdNat, Bool.false_eq_true]

theorem ld_local_clean (hp : anyPoi s.chip a n = false) :
    exec (.ld c x) s = .next (wrote s c w (BitVec.ofNat 64 (rdNat s.chip a n))) := by
  rw [ld_local hn hl ha h hf, if_neg (by simp [hp]), updCore, issued_coreOf]
  rfl

theorem ld_local_poisoned (hp : anyPoi s.chip a n = true) : exec (.ld c x) s = .next (faulted s c 9) := by
  rw [ld_local hn hl ha h hf, if_pos hp, faulted_of_issuing h]

end

section
variable {r : CoreRun} (hc : c = r.core) (h : Issuing s c .st w)
  (hf : accessFault (issued s c) c.val w l n true = none)
include hc h hf

/-- A store leaves its bytes and nothing else. -/
theorem st_local (hfree : wb w 39 38 = 1 → entryNamed (issued s c) c.val (l / 64) = false) :
    exec (.st r) s = .next (after s (updCore
      (wrMem (issued s c) a (leBytes (rdReg (theCore s c) (wb w 51 46)).toNat n) false) c.val advance)) := by
  have h2 := not_device_of_local ha
  have hgo : ¬ (wb w 39 38 = 1 ∧ entryNamed (issued s c) c.val (l / 64) = true) := by
    rintro ⟨h1, hnamed⟩
    simp [hfree h1] at hnamed
  subst hn hl
  refine exec_of_issuing h (st_is_storeWord h2 hc h) ?_
  simp only [hf, if_neg hgo, accessAddr_of_local ha, h2, false_and, decide_false, if_false, Bool.false_eq_true]

/-- A store to an entry that an issued instruction has yet to fetch is held (R220). -/
theorem st_local_held (h1 : wb w 39 38 = 1) (hnamed : entryNamed (issued s c) c.val (l / 64) = true) :
    exec (.st r) s = .next (after s (raise (setCore (issued s c) c.val { advance (theCore s c) with
      held := some ⟨l, leBytes (rdReg (theCore s c) (wb w 51 46)).toNat n⟩ }) .seqDescHold c.val)) := by
  have h2 := not_device_of_local ha
  subst hn hl
  refine exec_of_issuing h (st_is_storeWord h2 hc h) ?_
  simp only [hf, if_pos (And.intro h1 hnamed)]
  rw [updCore, issued_coreOf]
  rfl

end

end

/-- Settles O4: a local access is done at once; it faults, is held, or moves its bytes. -/
theorem loadStoreLocal : Obligations.LoadStoreLocal := by
  unfold Obligations.LoadStoreLocal
  intro s r c h w n l a hc hn hl ha
  have h2 := not_device_of_local ha
  exact ⟨ld_local_clean hn hl ha, ld_local_poisoned hn hl ha, st_local hn hl ha hc, st_local_held hn hl ha hc,
    fun hi f hf => (ld_is_loadWord h2 hi h).trans (loadWord_of_fault hn hl hi hf),
    fun hi f hf => (st_is_storeWord h2 hc hi).trans (storeWord_of_fault hn hl hi hf),
    fun hm _ _ => accessFault_of_misaligned hm, fun hm h0 _ _ => accessFault_scratchpad hm h0,
    fun hm h1 _ _ => accessFault_descriptors hm h1⟩

end Sys2Proof.LocalMemory
end

section
/-! Proofs about SYW, SYS and FENCE (10_oanoine_control.md R220, R225 to R227; 13_sync_newel.md R287, R288, R293, R304):
what a wait registers and when issue resumes, what a SYS sends or defers, when a fence and a held store end, and the
statements SyncWaits, SysOperations and FencesAndDeferred. -/

namespace Sys2Proof.CoreSync
open Sys2Proof Sys2Proof.Machine Sys2Proof.Claims Sys2Proof.Laws Sys2Proof.ScalarCore Sys2Proof.CoreControl

section
variable {s : State} {c : CoreId}

@[simp] theorem issued_enabled (b : Blk) (u : Nat) : enabled (issued s c) b u = enabled s.chip b u := by
  rw [enabled, enabled, blkGet, blkGet, issued_blks]

@[simp] theorem issued_objPoisoned (o : ObjId) : objPoisoned (issued s c) o = objPoisoned s.chip o := by
  simp [objPoisoned]

@[simp] theorem count_objPoisoned (ch : Chip) (k n : Nat) (o : ObjId) :
    objPoisoned (count ch k n) o = objPoisoned ch o := by
  simp [objPoisoned]

end

/-- An update of a core whose value is known is one write. -/
theorem updCore_eq_of_coreOf {ch : Chip} {g : Nat} {k : Core} (h : coreOf ch g = k) (f : Core → Core) :
    updCore ch g f = setCore ch g (f k) := by
  rw [updCore, h]

/-! ### SYW (R225, R287, R288) -/

/-- A token wait holds by the sign of the difference (R225). -/
theorem tokenHolds_eq (k : Core) (tc : Nat) (v : Word) :
    tokenHolds k tc v = decide (0 ≤ (tget k.tc 0 tc - v).toInt) := by
  rw [tokenHolds, BitVec.msb_eq_toInt, ← decide_not]
  exact decide_eq_decide.mpr Int.not_lt

section
variable {ch : Chip} {g : Nat} {o : ObjId} {k : Core} {x : SywWait}

/-- A wait reaches its object: it counts where it is new, and is registered. -/
theorem waitRegister_eq (hk : coreOf ch g = k) (hx : k.syw = some x) {z : Chip}
    (hz : z = setCore (if x.reg then ch else count ch (cntCluster (objCluster o) 4) 1) g
      { k with syw := some { x with reg := true } }) :
    waitRegister ch g o = if objPoisoned ch o then faultWaits z o else evalWaits z o := by
  subst hz
  have hcore (y : Chip) (hy : coreOf y g = k) :
      updCore y g (fun k => { k with syw := k.syw.map fun w => { w with reg := true } }) =
        setCore y g { k with syw := some { x with reg := true } } := by
    rw [updCore_eq_of_coreOf hy, hx]
    rfl
  unfold waitRegister
  rw [hk, hx]
  dsimp only
  cases x.reg
  · simp only [Bool.not_false, if_true, Bool.false_eq_true, if_false, hcore _ ((coreOf_count ..).trans hk),
      objPoisoned_setCore, count_objPoisoned]
  · simp only [Bool.not_true, if_true, Bool.false_eq_true, if_false, hcore _ hk, objPoisoned_setCore]

end

section
variable {s : State} {c : CoreId} {w : Dword} {eq : Bool} {i : Instr}

/-- SYW GE and EQ are one meaning. -/
theorem exec_sywObject (hi : eq = false ∧ Issuing s c .sywGe w ∧ i = .sywGe c ∨
      eq = true ∧ Issuing s c .sywEq w ∧ i = .sywEq c) :
    exec i s = .next (after s (sywObject (issued s c) c.val (theCore s c) w eq)) ∧
      fetchWord s.chip c.val (theCore s c).pc = w := by
  rcases hi with ⟨rfl, h, rfl⟩ | ⟨rfl, h, rfl⟩ <;> exact ⟨issue_of_issuing h _, h.word⟩

/-- An object outside the job's clusters is the protection fault (R25). -/
theorem sywObject_of_unowned (h : objOwned (issued s c) c.val (objectId (theCore s c) w) = none) :
    sywObject (issued s c) c.val (theCore s c) w eq = faultWord (issued s c) c.val 5 w := by
  simp only [sywObject, h]

variable {o : ObjId} (h : objOwned (issued s c) c.val (objectId (theCore s c) w) = some o)
include h

theorem sywObject_of_poisoned (he : enabled s.chip .syn (objTower o) = true) (hp : objPoisoned s.chip o = true) :
    sywObject (issued s c) c.val (theCore s c) w eq = faultWord (issued s c) c.val 9 w := by
  simp [sywObject, h, he, hp]

variable {v : Word} {x : SywWait} {k : Core} (hv : v = (srcA s c w).setWidth 32)
  (hx : x = ⟨0, some o, eq, v, false, false, tget s.chip.isl 0 (c.val / 128), (theCore s c).pc, w⟩)
  (hk : k = { advance (theCore s c) with run := .waiting, syw := some x })
include hv hx hk

omit h in
theorem sywStart_object : sywStart (issued s c) c.val
    ⟨0, some o, eq, (rdReg (theCore s c) (wb w 45 40)).setWidth 32, false, false, islCycles (issued s c) (c.val / 128),
      (theCore s c).pc, w⟩ = setCore (issued s c) c.val k := by
  rw [sywStart, updCore_eq_of_coreOf (issued_coreOf ..), hk, hx, hv, islCycles, issued_isl]
  rfl

/-- A block that is not ENABLED holds the wait, which is not registered (R304). -/
theorem sywObject_of_held (he : enabled s.chip .syn (objTower o) = false) :
    sywObject (issued s c) c.val (theCore s c) w eq = setCore (issued s c) c.val k := by
  simp [sywObject, h, he, sywStart_object hv hx hk]

theorem sywObject_of_registered (he : enabled s.chip .syn (objTower o) = true) (hp : objPoisoned s.chip o = false) :
    sywObject (issued s c) c.val (theCore s c) w eq =
      evalWaits (setCore (count (setCore (issued s c) c.val k) (cntCluster (objCluster o) 4) 1) c.val
        { k with syw := some { x with reg := true } }) o := by
  have hnew : x.reg = false := by rw [hx]
  have hreg := waitRegister_eq (o := o) (coreOf_setCore_same (issued s c) c.val k) (x := x) (by rw [hk]) rfl
  simp only [hnew, Bool.false_eq_true, if_false, objPoisoned_setCore, issued_objPoisoned, hp] at hreg
  simp [sywObject, h, he, hp, sywStart_object hv hx hk, hreg]

end

section
variable {s : State} {c : CoreId} (hl : live s.chip = true) {x : SywWait} (hx : (theCore s c).syw = some x)
include hl hx

/-- Issue resumes once the condition held (R225). -/
theorem sywResume_of_met (hmet : x.seen = true ∨ x.obj = none ∧ tokenHolds (theCore s c) x.token x.v = true)
    (hrun : (theCore s c).run = .waiting) (halive : coreAlive s.chip c.val = true)
    (hunder : (tcoreOf s.chip c.val).under = none) :
    exec (.sywResume c) s =
      .next (after s (setCore s.chip c.val { theCore s c with run := .running, syw := none })) := by
  refine exec_of_live hl (exec_sywResume c s) ?_
  rw [theCore] at *
  simp only [hx]
  refine if_pos ⟨?_, hrun, halive, hunder⟩
  rcases hmet with hseen | ⟨hobj, htoken⟩
  · cases x.obj <;> simp [hseen]
  · simp [hobj, htoken]

theorem longWait_of_late (hlim : 0 < (regGet s.chip .seqCfg c.val).toNat)
    (hlate : x.since + (regGet s.chip .seqCfg c.val).toNat < tget s.chip.isl 0 (c.val / 128)) :
    exec (.longWait c) s = .next (after s (raise s.chip .seqLongWait c.val)) := by
  refine exec_of_live hl (exec_longWait c s) ?_
  rw [theCore] at hx
  simp only [hx]
  exact if_pos ⟨Nat.pos_iff_ne_zero.mp hlim, hlate⟩

variable {o : ObjId} (ho : x.obj = some o)
include ho

theorem waitRegister_of_disabled (he : enabled s.chip .syn (objTower o) = false) :
    exec (.waitRegister c) s = .next s := by
  refine exec_of_live hl (exec_waitRegister c s) ?_
  rw [theCore] at hx
  simp [hx, ho, he]

variable {y : Chip} (hy : y = setCore (if x.reg then s.chip else count s.chip (cntCluster (objCluster o) 4) 1) c.val
  { theCore s c with syw := some { x with reg := true } }) (he : enabled s.chip .syn (objTower o) = true)
include hy he

theorem waitRegister_of_enabled : exec (.waitRegister c) s =
    .next (after s (if objPoisoned s.chip o then faultWaits y o else evalWaits y o)) := by
  refine exec_of_live hl (exec_waitRegister c s) ?_
  rw [← waitRegister_eq rfl hx hy]
  rw [theCore] at hx
  simp only [hx, ho]
  exact if_pos he

end

/-- Settles O10: SYW in the cases of its object, and a registered wait as it goes on. -/
theorem syncWaits : Obligations.SyncWaits := by
  unfold Obligations.SyncWaits
  intro s c w v hv
  refine ⟨fun h => ?token, fun eq i hi => ?object, fun hl x hx => ⟨sywResume_of_met hl hx, longWait_of_late hl hx,
    fun o y ho hy => ⟨fun he hp => ?_, fun he hp => ?_, waitRegister_of_disabled hl hx ho⟩⟩⟩
  case token =>
    refine exec_of_issuing h rfl ?_
    rw [sywStart, updCore_eq_of_coreOf (issued_coreOf ..), tokenHolds_eq, islCycles, issued_isl, hv]
    rfl
  case object =>
    obtain ⟨hexec, hword⟩ := exec_sywObject hi
    have faults {code : Nat}
        (hf : sywObject (issued s c) c.val (theCore s c) w eq = faultWord (issued s c) c.val code w) :
        exec i s = .next (faulted s c code) := by
      rw [hexec, hf, faulted, hword]
    refine ⟨fun h => faults (sywObject_of_unowned h), fun o x k h hx hk => ⟨fun he hp =>
      faults (sywObject_of_poisoned h he hp), fun he hp => ?_, fun he => ?_⟩⟩
    · rw [hexec, sywObject_of_registered h hv hx hk he hp]
    · rw [hexec, sywObject_of_held h hv hx hk he, cored]
  · rw [waitRegister_of_enabled hl hx ho hy he, if_neg (by simp [hp])]
  · rw [waitRegister_of_enabled hl hx ho hy he, if_pos hp]

/-! ### SYS (R25, R226, R293) -/

/-- What a SYS of the mode does at its object. -/
def sysOp (mode : Nat) (n : Word) : ObjOp :=
  match mode with
  | 0 => .signal n
  | 1 => .reset
  | _ => .arrive

/-- The object that a core reaches is the one its operand names. -/
theorem toNat_of_objOwned {ch : Chip} {g : Nat} {id : Int} {o : ObjId} (h : objOwned ch g id = some o) :
    id.toNat = o.val := by
  unfold objOwned at h
  split at h
  · dsimp only at h
    split at h
    · split at h
      · exact congrArg Fin.val (Option.some.inj h)
      · exact nomatch h
    · exact nomatch h
  · exact nomatch h

/-- A local SYS reaches its object through the core's port (R290). -/
theorem sysSend_local {ch : Chip} {g : Nat} {d : Deferred} {o : ObjId} (hr : d.remote = false) (ho : d.obj = o.val)
    (send : Chip → Nat → Nat → Word → Chip) :
    sysSend ch g d send = objDeliver (countCore ch g 79 1) (corePort g o) o (sysOp d.mode d.n) := by
  have hin : d.obj < 65536 := ho ▸ o.isLt
  have hobj : (⟨d.obj, hin⟩ : ObjId) = o := Fin.ext ho
  unfold sysSend
  simp only [hr, Bool.false_eq_true, if_false, dif_pos hin, hobj]
  rfl

section
variable {s : State} {c : CoreId} {w : Dword} {mode : Nat} {op : ObjOp} {i : Instr}

/-- The three SYS instructions are one meaning. -/
theorem exec_sys (hi : mode = 0 ∧ Issuing s c .sysSignal w ∧ i = .sysSignal c ∧
        op = .signal ((rdReg (theCore s c) (wb w 43 38)).setWidth 32) ∨
      mode = 1 ∧ Issuing s c .sysReset w ∧ i = .sysReset c ∧ op = .reset ∨
      mode = 2 ∧ Issuing s c .sysArrive w ∧ i = .sysArrive c ∧ op = .arrive) :
    exec i s = .next (after s (sysIssue (issued s c) c.val (theCore s c) w mode fun x => remoteSend x c.val)) ∧
      fetchWord s.chip c.val (theCore s c).pc = w ∧
      op = sysOp mode ((rdReg (theCore s c) (wb w 43 38)).setWidth 32) := by
  rcases hi with ⟨rfl, h, rfl, rfl⟩ | ⟨rfl, h, rfl, rfl⟩ | ⟨rfl, h, rfl, rfl⟩ <;>
    exact ⟨issue_of_issuing h _, h.word, rfl⟩

variable {send : Chip → Nat → Nat → Word → Chip}

theorem sysIssue_of_remote_operation (hr : wb w 9 9 = 1) (hm : mode ≠ 0) :
    sysIssue (issued s c) c.val (theCore s c) w mode send = faultWord (issued s c) c.val 2 w :=
  if_pos ⟨hr, hm⟩

theorem sysIssue_of_unowned (hr : wb w 9 9 = 0) (h : objOwned (issued s c) c.val
      (((rdReg (theCore s c) (wb w 37 32)).toNat : Int) + sx 16 (wb w 31 16)) = none) :
    sysIssue (issued s c) c.val (theCore s c) w mode send = faultWord (issued s c) c.val 5 w :=
  (if_neg (by omega)).trans (if_pos ⟨by omega, by rw [h]; rfl⟩)

variable {d : Deferred}

/-- The PC moves, and loops are counted down; nothing else of the core changes. -/
theorem loopBack_shape (k : Core) (pc : Nat) (ls : List LoopEnt) :
    ∃ l p, loopBack k pc ls = { k with loops := l, pc := p } := by
  induction ls with
  | nil => exact ⟨_, _, rfl⟩
  | cons x r ih =>
    unfold loopBack
    split
    · split
      · exact ih
      · exact ⟨_, _, rfl⟩
    · exact ⟨_, _, rfl⟩

@[simp] theorem advance_defer (k : Core) : (advance k).defer = k.defer := by
  obtain ⟨l, p, h⟩ := loopBack_shape k k.pc k.loops
  rw [advance, h]

/-- The operation `d` of core `c` is sent where nothing holds it back, else kept behind the earlier ones (R226). -/
def sentOrKept (s : State) (c : CoreId) (d : Deferred) (send : Chip → Nat → Nat → Word → Chip) : Chip :=
  if d.seqs = [] ∧ ¬ ((theCore s c).defer.any fun e => sendsAfter e d) = true then
    sysSend (setCore (issued s c) c.val (advance (theCore s c))) c.val d send
  else setCore (issued s c) c.val { advance (theCore s c) with defer := (theCore s c).defer ++ [d] }

theorem sysIssue_of_owned (hr : wb w 9 9 = 0) {o : ObjId} (ho : objOwned (issued s c) c.val
      (((rdReg (theCore s c) (wb w 37 32)).toNat : Int) + sx 16 (wb w 31 16)) = some o)
    (hd : d = ⟨pendingSeqs (theCore s c) (wb w 48 44), mode, o.val, (rdReg (theCore s c) (wb w 43 38)).setWidth 32,
      false, s.chip.nwl.pos.toNat⟩) :
    sysIssue (issued s c) c.val (theCore s c) w mode send = sentOrKept s c d send := by
  have hremote : ¬ wb w 9 9 = 1 := by omega
  subst hd
  unfold sysIssue sentOrKept
  simp only [hremote, ho, toNat_of_objOwned ho, false_and, if_false, Option.isNone_some, Bool.false_eq_true, and_false,
    decide_false, issued_nwl, updCore_eq_of_coreOf (issued_coreOf s c c.val)]
  rfl

theorem sysIssue_of_remote (hr : wb w 9 9 = 1) (hm : mode = 0)
    (hd : d = ⟨pendingSeqs (theCore s c) (wb w 48 44), 0,
      ((rdReg (theCore s c) (wb w 37 32)).toNat + sx 16 (wb w 31 16) : Int).toNat % 65536,
      (rdReg (theCore s c) (wb w 43 38)).setWidth 32, true, wb w 15 10⟩) :
    sysIssue (issued s c) c.val (theCore s c) w mode send = sentOrKept s c d send := by
  subst hd hm
  unfold sysIssue sentOrKept
  simp only [hr, ne_eq, not_true_eq_false, and_false, false_and, if_false, if_true, decide_true,
    updCore_eq_of_coreOf (issued_coreOf s c c.val)]
  rfl

theorem sentOrKept_of_free (hq : d.seqs = []) (hf : ((theCore s c).defer.any fun e => sendsAfter e d) = false) :
    sentOrKept s c d send = sysSend (setCore (issued s c) c.val (advance (theCore s c))) c.val d send :=
  if_pos ⟨hq, by simp [hf]⟩

theorem sentOrKept_of_held (h : d.seqs ≠ [] ∨ ((theCore s c).defer.any fun e => sendsAfter e d) = true) :
    sentOrKept s c d send = setCore (issued s c) c.val
      { advance (theCore s c) with defer := (advance (theCore s c)).defer ++ [d] } := by
  rw [advance_defer]
  refine if_neg ?_
  rintro ⟨hq, hf⟩
  exact h.elim (· hq) hf

end

/-- Settles O11: a SYS faults, or is one deferred operation, which is sent or kept. -/
theorem sysOperations : Obligations.SysOperations := by
  unfold Obligations.SysOperations
  intro s c w mode op i hi
  obtain ⟨hexec, hword, hop⟩ := exec_sys hi
  have does {ch : Chip} (h : sysIssue (issued s c) c.val (theCore s c) w mode (fun x => remoteSend x c.val) = ch) :
      exec i s = .next (after s ch) := by
    rw [hexec, h]
  have faults {code : Nat} (h : sysIssue (issued s c) c.val (theCore s c) w mode (fun x => remoteSend x c.val) =
      faultWord (issued s c) c.val code w) : exec i s = .next (faulted s c code) := by
    rw [does h, faulted, hword]
  refine ⟨fun hr o d ho hd => ⟨fun hq hf => ?_, fun h =>
      does ((sysIssue_of_owned hr ho hd).trans (sentOrKept_of_held h))⟩,
    fun hr h => faults (sysIssue_of_unowned hr h), fun hr hm => faults (sysIssue_of_remote_operation hr hm),
    fun hr hm d hd => ⟨fun hq hf => does ((sysIssue_of_remote hr hm hd).trans (sentOrKept_of_free hq hf)),
      fun h => does ((sysIssue_of_remote hr hm hd).trans (sentOrKept_of_held h))⟩⟩
  rw [does ((sysIssue_of_owned hr ho hd).trans (sentOrKept_of_free hq hf)),
    sysSend_local (o := o) (by rw [hd]) (by rw [hd]), hd, hop]

/-! ### Deferred SYS, FENCE and held stores (R220, R226, R227) -/

section
variable {s : State} {c : CoreId} (hl : live s.chip = true)
include hl

theorem sysAfterSend_of_next {d : Deferred} {r : List Deferred}
    (h : nextSend (theCore s c) [] (theCore s c).defer = some (d, r)) : exec (.sysAfterSend c) s =
      .next (after s (sysSend (setCore s.chip c.val { theCore s c with defer := r }) c.val d fun x =>
        remoteSend x c.val)) := by
  refine exec_of_live hl (exec_sysAfterSend c s) ?_
  rw [theCore] at h
  simp only [h]
  rfl

theorem fenceResume_of_done {f : FenceWait} (hf : (theCore s c).fence = some f)
    (hq : seqsDone (theCore s c) f.seqs = true) (ha : coreAlive s.chip c.val = true) :
    exec (.fenceResume c) s = .next (after s (setCore s.chip c.val
      { theCore s c with fence := none, stale := if f.mask.testBit 3 then [] else (theCore s c).stale })) := by
  refine exec_of_live hl (exec_fenceResume c s) ?_
  rw [theCore] at hf hq
  simp only [hf]
  exact if_pos (by simp [hq, ha])

theorem descStoreRelease_of_fetched {h : HeldStore} (hh : (theCore s c).held = some h)
    (hn : entryNamed s.chip c.val (h.off / 64) = false) : exec (.descStoreRelease c) s = .next (after s (updCore
      (wrMem s.chip (descBase c.val + h.off) h.bytes false) c.val fun k => { k with held := none })) := by
  refine exec_of_live hl (exec_descStoreRelease c s) ?_
  rw [theCore] at hh
  simp only [hh]
  exact if_neg (by simp [hn])

end

/-- Settles O12: the first deferred SYS that may be sent, FENCE and its end, and the end of a held store. -/
theorem fencesAndDeferred : Obligations.FencesAndDeferred := by
  unfold Obligations.FencesAndDeferred
  refine fun s c hl => ⟨fun d r => sysAfterSend_of_next hl, fun w h => exec_of_issuing h rfl ?_,
    fun f => fenceResume_of_done hl, fun h => descStoreRelease_of_fetched hl⟩
  rw [updCore_eq_of_coreOf (issued_coreOf ..)]
  rfl

end Sys2Proof.CoreSync
end

section
/-! Proofs about the issue of queue instructions and their start (10_oanoine_control.md R210, R221, R229, R245;
12_memory.md R267): what an instruction takes with it to its queue, what holds it or takes it out as it starts, and the
statement QueueIssueAndStart. -/

namespace Sys2Proof.QueueStart
open Sys2Proof Sys2Proof.Machine Sys2Proof.Claims Sys2Proof.Laws Sys2Proof.ScalarCore Sys2Proof.CoreSync
open Sys2Proof.GoingOn

/-! ### Issue (R210, R221, R229) -/

section
variable {s : State} {c : CoreId} {w : Dword} {op : Op} {q : Queue} (hop : queueOf op = some q) (h : Issuing s c op w)
include hop h

/-- A queue whose block is not ENABLED faults the instruction, which has not issued. -/
theorem issueQueue_of_off {b : Blk} {code : Nat} (hb : queueBlk q = some (b, code))
    (he : enabled s.chip b c.val = false) : issueQueue s.chip c.val = faultWord s.chip c.val code w := by
  simp [issueQueue, h.can, h.clean, h.word, h.code, h.reads, h.writes, h.guard, hop, hb, he]

variable (hon : ∀ b code, queueBlk q = some (b, code) → enabled s.chip b c.val = true)
include hon

/-- A queue that takes instructions takes this one, unless it is full. -/
theorem issueQueue_of_on : issueQueue s.chip c.val =
    if queueDepth q ≤ ((theCore s c).q.filter fun i => i.q == q && i.phase != .done).length then
      countCore s.chip c.val (60 + queueBit q) 1
    else updCore (issued s c) c.val fun k =>
      { advance k with q := k.q ++ [issuedInstr s c q w], seq := k.seq + 1 } := by
  cases hb : queueBlk q with
  | none =>
    simp only [issueQueue, h.can, h.clean, h.word, h.code, h.reads, h.writes, h.guard, hop, hb, not_true_eq_false,
      if_false, Bool.false_eq_true, Bool.or_self]
    rfl
  | some p =>
    simp only [issueQueue, h.can, h.clean, h.word, h.code, h.reads, h.writes, h.guard, hop, hb, hon p.1 p.2 hb,
      not_true_eq_false, if_true, if_false, Bool.false_eq_true, Bool.or_self]
    rfl

/-- A full queue holds the sequencer and counts the attempt (log 49). -/
theorem issueQueue_of_full
    (hfull : queueDepth q ≤ ((theCore s c).q.filter fun i => i.q == q && i.phase != .done).length) :
    issueQueue s.chip c.val = countCore s.chip c.val (60 + queueBit q) 1 :=
  (issueQueue_of_on hop h hon).trans (if_pos hfull)

/-- Else the instruction goes to its queue with what its slots name and its dynamic operand. -/
theorem issueQueue_of_room
    (hroom : ((theCore s c).q.filter fun i => i.q == q && i.phase != .done).length < queueDepth q) :
    issueQueue s.chip c.val = setCore (issued s c) c.val { advance (theCore s c) with
      q := (theCore s c).q ++ [issuedInstr s c q w], seq := (theCore s c).seq + 1 } := by
  rw [issueQueue_of_on hop h hon, if_neg (Nat.not_le.mpr hroom), updCore_eq_of_coreOf (issued_coreOf ..)]
  rfl

end

/-! ### Start (R210, R245, R267) -/

/-- Queue `q` of core `g` may start its oldest instruction `i`, an `op`. -/
structure Startable (ch : Chip) (g : Nat) (q : Queue) (op : Op) (i : QInstr) : Prop where
  clock : islandRuns ch (g / 128) = true
  tower : (towerOf ch (g / 128)).fenced = false
  block : queueRuns ch g q = true
  idle : ((coreOf ch g).q.any fun j => j.q == q && j.phase == .started) = false
  oldest : ((coreOf ch g).q.find? fun j => j.q == q && j.phase == .queued) = some i
  code : decodeWord i.word = some op

/-- How a start ends that nothing holds: the first check that fails takes the instruction out (R245). -/
def endStart (ch : Chip) (g : Nat) (op : Op) (i f : QInstr) : Option Nat → Chip
  | some 0x102 => queueFault (raise ch .engAccTileRange g) g 2 i
  | some code => queueFault ch g code i
  | none => updInstr (startFetch ch g op f) g i.seq fun _ => startedWith ch op f

theorem endStart_of_failed {ch : Chip} {g code : Nat} {op : Op} {i f : QInstr} (h : code ≠ 0x102) :
    endStart ch g op i f (some code) = queueFault ch g code i := by
  simp [endStart]

section
variable {ch : Chip} {g : Nat} {q : Queue} {op : Op} {i f : QInstr} (h : Startable ch g q op i)
  (hf : f = fetched ch g i)
include h hf

/-- The start of an instruction, in the order of its checks. -/
theorem startQueue_eq : startQueue ch g q =
    if fetchPoisoned ch g i then queueFault ch g 9 i
    else if slotMissing f op then queueFault ch g 2 i
    else if positionWaits ch g op f || tilesOff ch g op f then ch
    else if q == .vector && tileClash ch g true i.seq [.engine, .array] (shapeTiles (tShape op f)) then
      raise ch .vecTileWait g
    else endStart ch g op i f (opCheck ch g op f) := by
  have hgo : ¬ (¬ islandRuns ch (g / 128) = true ∨ (towerOf ch (g / 128)).fenced = true ∨ ¬ queueRuns ch g q = true ∨
      ((coreOf ch g).q.any fun j => j.q == q && j.phase == .started) = true) := by
    simp [h.clock, h.tower, h.block, h.idle]
  subst hf
  simp only [startQueue, if_neg hgo, h.oldest, h.code]
  rfl

theorem startQueue_of_poisoned (hp : fetchPoisoned ch g i = true) : startQueue ch g q = queueFault ch g 9 i :=
  (startQueue_eq h hf).trans (if_pos hp)

variable (hp : fetchPoisoned ch g i = false)
include hp

theorem startQueue_of_missing (hm : slotMissing f op = true) : startQueue ch g q = queueFault ch g 2 i := by
  rw [startQueue_eq h hf, if_neg (by simp [hp]), if_pos hm]

variable (hm : slotMissing f op = false)
include hm

theorem startQueue_of_waits (hw : positionWaits ch g op f = true ∨ tilesOff ch g op f = true) :
    startQueue ch g q = ch := by
  rw [startQueue_eq h hf, if_neg (by simp [hp]), if_neg (by simp [hm]), if_pos (by simp [hw])]

variable (hpos : positionWaits ch g op f = false) (hoff : tilesOff ch g op f = false)
include hpos hoff

/-- An instruction of the vector queue waits for earlier operations on its tiles (R138). -/
theorem startQueue_of_clash (hq : q = .vector)
    (hc : tileClash ch g true i.seq [.engine, .array] (shapeTiles (tShape op f)) = true) :
    startQueue ch g q = raise ch .vecTileWait g := by
  rw [startQueue_eq h hf, if_neg (by simp [hp]), if_neg (by simp [hm]), if_neg (by simp [hpos, hoff]),
    if_pos (by simp [hq, hc])]

theorem startQueue_of_free
    (hc : q = .vector → tileClash ch g true i.seq [.engine, .array] (shapeTiles (tShape op f)) = false) :
    startQueue ch g q = endStart ch g op i f (opCheck ch g op f) := by
  have hclash : ¬ (q == .vector &&
      tileClash ch g true i.seq [.engine, .array] (shapeTiles (tShape op f))) = true := by
    by_cases hq : q = .vector
    · simp [hc hq]
    · simp [hq]
  rw [startQueue_eq h hf, if_neg (by simp [hp]), if_neg (by simp [hm]), if_neg (by simp [hpos, hoff]), if_neg hclash]

end

/-- Settles O13: the issue and the start of a queue instruction in their cases; a start is one work on memory, which
waits as a whole (logs 43 and 45). -/
theorem queueIssueAndStart : Obligations.QueueIssueAndStart := by
  unfold Obligations.QueueIssueAndStart
  intro s t c w op q b hop
  have hissue : exec (.queueStart c .issue) s = onChip s fun ch => issueQueue ch c.val := rfl
  have hstart : exec (.queueStart c (.start q b)) s =
      onChip s (memWork (.core (c.val / 128)) b fun ch => startQueue ch c.val q) := rfl
  refine ⟨fun h hon => ⟨fun hroom => ?_, fun hfull => ?_⟩, fun blk code h hb he => ?_, waitsOrLoses_of_memWork hstart,
    fun i f x hgo hclock htower hblock hidle hold hcode hf hx => ?starts⟩
  · exact exec_of_live h.live hissue (issueQueue_of_room hop h hon hroom)
  · exact exec_of_live h.live hissue (issueQueue_of_full hop h hon hfull)
  · exact exec_of_live h.live hissue (issueQueue_of_off hop h hb he)
  case starts =>
    have h : Startable t.chip c.val q op i := ⟨hclock, htower, hblock, hidle, hold, hcode⟩
    have does {ch : Chip} (hch : startQueue t.chip c.val q = ch) : x = .next (after t ch) :=
      hx.trans (work_of_goesOn_eq hstart hgo hch)
    refine ⟨fun hp => does (startQueue_of_poisoned h hf hp), fun hp hm => does (startQueue_of_missing h hf hp hm),
      fun hp hm => ⟨fun hw => does (startQueue_of_waits h hf hp hm hw), fun hpos hoff => ⟨fun hq hc =>
        does (startQueue_of_clash h hf hp hm hpos hoff hq hc), fun hc => ?free⟩⟩⟩
    case free =>
      have hfree := startQueue_of_free h hf hp hm hpos hoff hc
      exact ⟨fun hk => does (hfree.trans (by rw [hk, endStart])),
        fun code hk hne => does (hfree.trans (by rw [hk, endStart_of_failed hne])),
        fun hk => does (hfree.trans (by rw [hk, endStart]))⟩

end Sys2Proof.QueueStart
end

section
/-! Proofs about the run and the completion of queue instructions (10_oanoine_control.md R210, R229, R231 to R233;
20_faults.md R436): what a completion leaves, which tokens count, that a started instruction which nothing holds runs,
and the statements InstructionCompletes and StartedWorkRuns. -/

namespace Sys2Proof.QueueRun
open Sys2Proof Sys2Proof.Machine Sys2Proof.Claims Sys2Proof.Laws Sys2Proof.CoreSync Sys2Proof.GoingOn

/-! ### Tokens (R232, R233) -/

/-- The core once the done instruction `i` counted its token and left its queue. -/
def counted (k : Core) (i : QInstr) : Core :=
  { k with
    q := k.q.filter fun j => j.seq != i.seq
    tc := if tokenOf i = 0 then k.tc else tupd k.tc 0 (tokenOf i) (· + 1) }

/-- No earlier instruction with the token of `i` was lost. -/
def followsNoLost (k : Core) (i : QInstr) : Prop := ∀ p ∈ k.lost, p.1 < i.seq → p.2 = tokenOf i → tokenOf i = 0

section
variable (k : Core) (i : QInstr)

@[simp] theorem counted_q : (counted k i).q = k.q.filter fun j => j.seq != i.seq := rfl
@[simp] theorem counted_s : (counted k i).s = k.s := rfl
@[simp] theorem counted_a : (counted k i).a = k.a := rfl
@[simp] theorem counted_p : (counted k i).p = k.p := rfl
@[simp] theorem counted_lost : (counted k i).lost = k.lost := rfl
theorem counted_tc :
    (counted k i).tc = if tokenOf i = 0 then k.tc else tupd k.tc 0 (tokenOf i) (· + 1) := rfl

theorem mem_counted_q {j : QInstr} : j ∈ (counted k i).q ↔ j ∈ k.q ∧ j.seq ≠ i.seq := by
  simp

theorem tget_counted_tc {m : Nat} (h : m ≠ tokenOf i) : tget (counted k i).tc 0 m = tget k.tc 0 m := by
  rw [counted_tc]
  split
  · rfl
  · exact tget_tupd_other _ _ _ h

end

/-- One round of counting ends, or counts one done instruction that follows no lost one (R233). -/
theorem countTokens_succ (n : Nat) (k : Core) : countTokens (n + 1) k = k ∨
    ∃ i ∈ k.q, i.phase = .done ∧ followsNoLost k i ∧ countTokens (n + 1) k = countTokens n (counted k i) := by
  rw [countTokens]
  split
  · exact .inl rfl
  next i hi =>
    have hp := List.find?_some hi
    simp only [Bool.and_eq_true, beq_iff_eq, Bool.not_eq_true', List.any_eq_false, decide_eq_true_eq, bne_iff_ne, ne_eq,
      not_and, not_not] at hp
    obtain ⟨⟨hdone, -⟩, hlost⟩ := hp
    refine .inr ⟨i, List.mem_of_find?_eq_some hi, hdone, fun p hp hlt htok => ?_, ?_⟩
    · exact htok ▸ hlost p hp ⟨hlt, htok⟩
    · rw [counted]
      split <;> rfl

/-- What holds of a core and itself, and is kept by counting one instruction first, holds after counting. -/
theorem countTokens_related {R : Core → Core → Prop} (refl : ∀ k, R k k)
    (step : ∀ k k' i, i ∈ k.q → i.phase = .done → followsNoLost k i → R (counted k i) k' → R k k')
    (n : Nat) (k : Core) : R k (countTokens n k) := by
  induction n generalizing k with
  | zero => exact refl k
  | succ n ih =>
    rcases countTokens_succ n k with h | ⟨i, hi, hdone, hlost, h⟩
    · rw [h]
      exact refl k
    · rw [h]
      exact step k _ i hi hdone hlost (ih _)

theorem countTokens_registers (n : Nat) (k : Core) :
    (countTokens n k).s = k.s ∧ (countTokens n k).a = k.a ∧ (countTokens n k).p = k.p :=
  countTokens_related (R := fun k k' => k'.s = k.s ∧ k'.a = k.a ∧ k'.p = k.p) (fun _ => ⟨rfl, rfl, rfl⟩)
    (fun k k' i _ _ _ h => by simpa using h) n k

theorem countTokens_adds_nothing (n : Nat) (k : Core) : ∀ i ∈ (countTokens n k).q, i ∈ k.q :=
  countTokens_related (R := fun k k' => ∀ i ∈ k'.q, i ∈ k.q) (fun _ _ h => h)
    (fun k _ i _ _ _ h j hj => ((mem_counted_q k i).mp (h j hj)).1) n k

/-- An instruction that is not done leaves only with a done one of its issue number. -/
theorem countTokens_keeps_unfinished (n : Nat) (k : Core) : ∀ i ∈ k.q, i.phase ≠ .done →
    i ∈ (countTokens n k).q ∨ ∃ j ∈ k.q, j.seq = i.seq ∧ j.phase = .done := by
  refine countTokens_related (R := fun k k' => ∀ i ∈ k.q, i.phase ≠ .done →
    i ∈ k'.q ∨ ∃ j ∈ k.q, j.seq = i.seq ∧ j.phase = .done) (fun _ _ hi _ => .inl hi) ?_ n k
  intro k k' x hx hdone _ h i hi hnot
  by_cases hseq : i.seq = x.seq
  · exact .inr ⟨x, hx, hseq.symm, hdone⟩
  · refine (h i ((mem_counted_q k x).mpr ⟨hi, hseq⟩) hnot).imp id ?_
    rintro ⟨j, hj, hjs⟩
    exact ⟨j, ((mem_counted_q k x).mp hj).1, hjs⟩

/-- A token whose instructions all follow a lost one does not count (R233). -/
theorem countTokens_after_lost (n : Nat) (k : Core) : ∀ m, 0 < m →
    (∀ i ∈ k.q, tokenOf i = m → ∃ p ∈ k.lost, p.1 < i.seq ∧ p.2 = m) →
    tget (countTokens n k).tc 0 m = tget k.tc 0 m := by
  refine countTokens_related (R := fun k k' => ∀ m, 0 < m →
    (∀ i ∈ k.q, tokenOf i = m → ∃ p ∈ k.lost, p.1 < i.seq ∧ p.2 = m) → tget k'.tc 0 m = tget k.tc 0 m)
    (fun _ _ _ _ => rfl) ?_ n k
  intro k k' x hx _ hlost h m hm hall
  have hne : m ≠ tokenOf x := by
    rintro rfl
    obtain ⟨p, hp, hlt, htok⟩ := hall x hx rfl
    have hzero := hlost p hp hlt htok
    omega
  rw [h m hm fun i hi => by simpa using hall i ((mem_counted_q k x).mp hi).1, tget_counted_tc k x hne]

/-! ### Completion (R231, R436) -/

section
variable {k : Core} {op : Op} {i : QInstr}

/-- A write of a register leaves the queues. -/
@[simp] theorem wrReg_q (k : Core) (r : Nat) (v : Dword) : (wrReg k r v).q = k.q := by
  unfold wrReg
  repeat' split
  all_goals rfl

/-- The core with the results of a completed instruction in its registers (R231). -/
def withResults (k : Core) (op : Op) (i : QInstr) : Core :=
  if op = .ard ∨ op = .art then wrReg k (wb i.word 19 15) (BitVec.ofNat 64 i.conf)
  else if op = .wcheck then
    wrReg (wrReg k (wb i.word 19 15) i.sres) (0x30 + wb i.word 14 12) (if i.pres then 1 else 0)
  else if op = .wstep ∨ op = .wprobe ∨ op = .scalegen then
    wrReg k (0x30 + wb i.word 14 12) (if i.pres then 1 else 0)
  else k

theorem withResults_q : (withResults k op i).q = k.q := by
  unfold withResults
  repeat' split
  all_goals simp

/-- The model's choice among the results is the one by instruction. -/
theorem withResults_eq : (if (op == .ard || op == .art) = true then wrReg k (wb i.word 19 15) (BitVec.ofNat 64 i.conf)
    else if givesP op = true then
      wrReg (if op = .wcheck then wrReg k (wb i.word 19 15) i.sres else k) (0x30 + wb i.word 14 12)
        (if i.pres then 1 else 0)
    else if op = .wcheck then wrReg k (wb i.word 19 15) i.sres else k) = withResults k op i := by
  cases op <;> rfl

/-- The instruction is done, and the tokens that may count do. -/
def tokensCounted (k : Core) (i : QInstr) : Core :=
  countTokens (k.q.length + 1)
    { k with q := k.q.map fun j => if j.seq = i.seq then { j with phase := .done } else j }

/-- The chip once the counters of a completed instruction have counted (R449). -/
def completionCounted (x : Chip) (g : Nat) (q : Queue) (op : Op) : Chip :=
  if op = .mma then countCore x g 35 1
  else if q = .vector ∧ op ≠ .softmaxBwd ∧ op ≠ .normBwd ∧ op ≠ .drn then countCore x g 73 1 else x

end

/-- The oldest instruction of queue `q` of core `g` that may complete is `i`, an `op`. -/
structure Completing (ch : Chip) (g : Nat) (q : Queue) (op : Op) (i : QInstr) : Prop where
  clock : islandRuns ch (g / 128) = true
  oldest : ((coreOf ch g).q.find? fun j => j.q == q && j.phase == .ran && !unfinished ch g j) = some i
  code : decodeWord i.word = some op

section
variable {ch x y : Chip} {g : Nat} {q : Queue} {op : Op} {i : QInstr} {failed : Dword}
  (hx : x = countCore (failParts (bankConflict ch g i) g op i failed) g (65 + queueBit q) 1)
include hx

/-- A completion fails its parts, counts, writes its results and counts tokens. -/
theorem instructionComplete_eq (h : Completing ch g q op i) (hy : y = completionCounted x g q op) :
    instructionComplete g q failed ch =
      enterFaulted (setCore y g (tokensCounted (withResults (coreOf y g) op i) i)) g := by
  have hcounts : (q == .vector && !isVred op && op != .drn) = true ↔
      q = .vector ∧ op ≠ .softmaxBwd ∧ op ≠ .normBwd ∧ op ≠ .drn := by
    simp [isVred, and_assoc]
  subst hx hy
  unfold instructionComplete completionCounted
  simp only [h.clock, h.oldest, h.code, not_true_eq_false, if_false, hcounts, updCore, withResults_eq, tokensCounted,
    withResults_q]
  rfl

end

/-- Where two ports may have met, an event and a free value (log 132). -/
theorem bankConflict_shape (ch : Chip) (g : Nat) (i : QInstr) :
    ∃ n r y, bankConflict ch g i = { ch with free := n, regs := r, cnts := y } := by
  unfold bankConflict
  dsimp only
  split
  · obtain ⟨r, y, h⟩ := raiseIf_shape (Config.freeBit ch.free) { ch with free := ch.free + 1 } .engBankConflict g
    exact ⟨_, r, y, h⟩
  · exact ⟨_, _, _, rfl⟩

theorem completionCounted_shape (x : Chip) (g : Nat) (q : Queue) (op : Op) :
    ∃ y, completionCounted x g q op = { x with cnts := y } := by
  unfold completionCounted
  repeat' split
  · exact countCore_shape ..
  · exact countCore_shape ..
  · exact ⟨_, rfl⟩

/-- A completion without failed parts leaves all but free values, events and counters to its results. -/
theorem completion_shape (ch : Chip) (g : Nat) (q : Queue) (op : Op) (i : QInstr) : ∃ n r y,
    completionCounted (countCore (failParts (bankConflict ch g i) g op i 0) g (65 + queueBit q) 1) g q op =
      { ch with free := n, regs := r, cnts := y } := by
  obtain ⟨n, r, _, hbank⟩ := bankConflict_shape ch g i
  obtain ⟨_, hcount⟩ := countCore_shape (bankConflict ch g i) g (65 + queueBit q) 1
  obtain ⟨y, h⟩ := completionCounted_shape (countCore (bankConflict ch g i) g (65 + queueBit q) 1) g q op
  refine ⟨n, r, y, ?_⟩
  rw [failParts, if_pos rfl, h, hcount, hbank]

/-- Settles O14: a completion is one work on memory, which waits as a whole (logs 43 and 45); one that goes on is the
oldest instruction's, and counting tokens keeps what it must round by round (log 143). -/
theorem instructionCompletes : Obligations.InstructionCompletes := by
  unfold Obligations.InstructionCompletes
  refine ⟨fun s t c q i op failed => ?completes, fun n k => ?tokens⟩
  case completes =>
    have hi : exec (.instructionComplete c q failed) s =
      onChip s (memWork (.core (c.val / 128)) [] (instructionComplete c.val q failed)) := rfl
    refine ⟨waitsOrLoses_of_memWork hi, fun hgo hclock hold hcode x ch k hx hch hk => ⟨?_, ?_⟩⟩
    · have h : Completing t.chip c.val q op i := ⟨hclock, hold, hcode⟩
      rw [work_of_goesOn hi hgo, instructionComplete_eq hx h hch, hk]
      rfl
    · rintro rfl
      obtain ⟨n, r, y, hshape⟩ := completion_shape t.chip c.val q op i
      have hkept : ch = { t.chip with free := n, regs := r, cnts := y } := by rw [hch, hx, ← hshape]; rfl
      rw [hkept]
      exact ⟨rfl, rfl, rfl, rfl, rfl⟩
  case tokens =>
    obtain ⟨hs, ha, hp⟩ := countTokens_registers n k
    exact ⟨hs, ha, hp, countTokens_adds_nothing n k, countTokens_keeps_unfinished n k, countTokens_after_lost n k⟩

/-! ### Work that waits, and work that runs (R229, R285) -/

/-- Work that waits leaves marks in events and at the stacks: a part that neither changes is kept. -/
theorem memWaits_keeps {β : Type} (p : Chip → β) (hr : ∀ ch e u, p (raise ch e u) = p ch)
    (hs : ∀ ch k f, p (updStack ch k f) = p ch) (ch : Chip) (via : Via) (ts : List Touch) :
    p (memWaits ch via ts) = p ch := by
  have hheld := foldl_keeps p (fun c t => raise c .galHeld t) (fun c t => hr c .galHeld t) (shutOf ch via ts) ch
  unfold memWaits
  dsimp only
  split
  · exact (foldl_keeps p _ (fun c (x : Nat × JobId) => hs c x.1 _) _ _).trans hheld
  · exact hheld

/-- An instruction that has run is marked so in its queue. -/
theorem phase_of_updInstr {ch : Chip} {g seq : Nat} {f : QInstr → QInstr} (hf : ∀ i, (f i).phase = .ran) {y : QInstr}
    (hy : y ∈ (coreOf (updInstr ch g seq f) g).q) (hseq : y.seq = seq) : y.phase = .ran := by
  rw [updInstr, coreOf_updCore_same] at hy
  obtain ⟨z, -, rfl⟩ := List.mem_map.mp hy
  by_cases hz : z.seq = seq
  · rw [if_pos hz, hf]
  · rw [if_neg hz] at hseq
    exact absurd hseq hz

section
variable {s t : State} {r : CoreRun} {q : Queue} {op : Op} {i : QInstr} {x : Instr} {f : Chip → QInstr → Chip × QInstr}

/-- What is one run of its queue's instruction goes on to a state in which the instruction has run. -/
theorem has_run_of_coreRun (hw : Works s r q op f i t) (hx : exec x s = onChip s (coreRun r q op f)) :
    ∃ ch j, exec x s = .next (ran t r.core ch j i.seq) ∧
      ∀ k, k = coreOf (updInstr ch r.core.val i.seq fun y =>
          { y with phase := .ran, conf := j.conf, sres := j.sres, pres := j.pres }) r.core.val →
        ∀ y ∈ k.q, y.seq = i.seq → y.phase = .ran :=
  ⟨_, _, hx.trans (coreRun_of_works hw), fun _ hk _ hy => phase_of_updInstr (fun _ => rfl) (hk ▸ hy)⟩

/-- A started ARD or ART whose position is loaded and waits for no spare is one run of its queue (R19, R82). -/
theorem exec_read_of_loaded (hi : Started s r.core .array op i) (hx : (op, x) ∈ [(Op.ard, Instr.ard r), (.art, .art r)])
    (hp : posWaits s.chip r.core.val (arLogical i) = false ∧ posLoaded s.chip r.core.val (arLogical i) = true) :
    exec x s = onChip s (coreRun r .array op fun ch i => (readEffect ch r.core.val op i, { i with conf := 0 })) :=
  (ArrayWork.exec_read hx).trans (DeviceMemory.onChip_congr (ArrayWork.runRead_of_loaded hi hp.1 (.inr hp.2)))

/-- A started DMA that no unfetched entry holds is one run of its queue (R261). -/
theorem exec_dma_of_not_held {h : HostIn} (hr : r = ⟨r.core, [], [], h.bursts⟩) (hi : Started s r.core .dma op i)
    (hd : dmaHeld s.chip r.core.val i = false) (hx : exec x s = dmaRun r.core op h s) :
    exec x s = onChip s (coreRun r .dma op fun ch i => (dmaEffect ch r.core.val op i h, i)) := by
  rw [hx, DmaMoves.dmaRun_of_not_held hi hd, ← hr]

end

/-- Settles O19: work that waits leaves marks alone; each of the 29 operations that nothing holds is one run of its
queue's instruction, as work on memory (logs 43 and 45). -/
theorem startedWorkRuns : Obligations.StartedWorkRuns := by
  unfold Obligations.StartedWorkRuns
  refine ⟨?waits, ?runs⟩
  case waits =>
    rintro ch via ts y rfl
    exact ⟨memWaits_keeps Chip.mem raise_mem updStack_mem .., memWaits_keeps Chip.poi raise_poi updStack_poi ..,
      memWaits_keeps Chip.cores raise_cores updStack_cores .., memWaits_keeps Chip.accs raise_accs updStack_accs ..,
      memWaits_keeps Chip.banks raise_banks updStack_banks .., memWaits_keeps Chip.arrs raise_arrs updStack_arrs ..,
      memWaits_keeps Chip.objs raise_objs updStack_objs .., memWaits_keeps Chip.land raise_land updStack_land ..⟩
  case runs =>
    intro s t r h obs q op i x f _ hr hmem hi hw harray hload hflush hdma
    refine has_run_of_coreRun hw ?_
    simp only [List.mem_cons, Prod.mk.injEq, List.not_mem_nil, or_false] at hmem
    rcases hmem with hm | hm | hm | hm | hm | hm | hm | hm | hm | hm | hm | hm | hm | hm | hm | hm | hm | hm | hm | hm |
      hm | hm | hm | hm | hm | hm | hm | hm | hm
    all_goals obtain ⟨rfl, rfl, rfl, rfl⟩ := hm
    on_goal 29 => exact exec_dma_of_not_held (hr rfl) hi (hdma rfl) rfl
    on_goal 28 => exact exec_dma_of_not_held (hr rfl) hi (hdma rfl) rfl
    on_goal 27 => exact exec_dma_of_not_held (hr rfl) hi (hdma rfl) rfl
    on_goal 26 => exact exec_dma_of_not_held (hr rfl) hi (hdma rfl) rfl
    on_goal 8 => exact Watcher.wflush_of_not_held (.inl (hflush rfl))
    on_goal 4 =>
      obtain ⟨hready, hserves, hroom⟩ := hload rfl
      exact ArrayWork.apgLoad_of_room hi hready hserves hroom
    on_goal 3 => exact exec_read_of_loaded hi (by simp) (harray rfl)
    on_goal 2 => exact exec_read_of_loaded hi (by simp) (harray rfl)
    all_goals rfl

end Sys2Proof.QueueRun
end

section
/-! Proofs about writes of bytes (12_memory.md R278, 20_faults.md R433): what a byte reads after a write, which poison
marks a write sets and clears, and the statement MemoryWrites. -/

namespace Sys2Proof.MemoryBytes
open Sys2Proof Sys2Proof.Machine Sys2Proof.Claims Sys2Proof.Laws

/-- A byte after a write: inside the range the byte that was written there, outside it as before. -/
theorem mget_mwrite (m : List Host.Cell) (a : Nat) (bs : List Byte) (x : Nat) :
    mget (mwrite m a bs) x = if a ≤ x ∧ x < a + bs.length then bs.getD (x - a) 0 else mget m x := by
  induction bs generalizing m a with
  | nil =>
    rw [if_neg (by simp)]
    rfl
  | cons b r ih =>
    rw [mwrite, ih, mget_mset, List.length_cons]
    rcases lt_trichotomy x a with h | rfl | h
    · rw [if_neg (by omega), if_neg (by omega), if_neg (by omega)]
    · rw [if_neg (by omega), if_pos rfl, if_pos (by omega)]
      simp
    · rw [if_neg h.ne']
      obtain ⟨n, rfl⟩ : ∃ n, x = a + 1 + n := ⟨x - (a + 1), by omega⟩
      have hn : a + 1 + n - a = n + 1 := by omega
      simp only [hn, List.getD_cons_succ, Nat.add_sub_cancel_left]
      exact if_congr (by omega) rfl rfl

section
variable (ch : Chip) (a n w : Nat)

theorem mem_markPoi : w ∈ (markPoi ch a n).poi ↔ w ∈ grans ch a n ∨ w ∈ ch.poi :=
  mem_foldl_sadd _ _ _

/-- The marks that a clean write clears: those of its words whose granule it covers whole. -/
theorem mem_clearPoi : w ∈ (clearPoi ch a n).poi ↔
    w ∈ ch.poi ∧ ¬(w ∈ wordsOf a n ∧ a ≤ gran ch w ∧ gran ch w + granLen ch w ≤ a + n) := by
  simp [clearPoi, imp_iff_not_or]

variable (bs : List Byte)

/-- The bytes of a write change no granule: its marks are those of the chip before it. -/
theorem mem_wrMem_poisoned : w ∈ (wrMem ch a bs true).poi ↔ w ∈ grans ch a bs.length ∨ w ∈ ch.poi :=
  mem_markPoi (wrRaw ch a bs) a bs.length w

theorem mem_wrMem_clean : w ∈ (wrMem ch a bs false).poi ↔
    w ∈ ch.poi ∧ ¬(w ∈ wordsOf a bs.length ∧ a ≤ gran ch w ∧ gran ch w + granLen ch w ≤ a + bs.length) :=
  mem_clearPoi (wrRaw ch a bs) a bs.length w

end

/-- Settles O26: the bytes by induction on what is written, the marks by what a write sets and what it clears. -/
theorem memoryWrites : Obligations.MemoryWrites := by
  unfold Obligations.MemoryWrites
  refine ⟨fun ch a bs p x => ⟨fun h1 h2 => ?_, fun h => ?_⟩, fun ch a w bs => ⟨fun h => ?_, fun h1 h2 h3 => ?_,
    fun h => ?_, fun h => ?_⟩⟩
  · rw [wrMem_mem, mget_mwrite, if_pos ⟨h1, h2⟩]
  · rw [wrMem_mem, mget_mwrite, if_neg (by omega)]
  · exact (mem_wrMem_poisoned ..).mpr (.inl h)
  · exact fun hm => ((mem_wrMem_clean ..).mp hm).2 ⟨h1, h2, h3⟩
  · rw [mem_wrMem_poisoned, or_iff_right h]
  · rw [mem_wrMem_clean, and_iff_left fun hw => h hw.1]

end Sys2Proof.MemoryBytes
end

section
/-! Proofs about the bandwidth regulators (12_memory.md R276, R277, R284): when a waiting request is admitted, what a
microsecond adds to a bucket, and the statement TokenBuckets. -/

namespace Sys2Proof.Buckets
open Sys2Proof Sys2Proof.Machine Sys2Proof.Claims Sys2Proof.Laws

/-! ### Admission (R276, R277) -/

@[simp] theorem stackOf_count (ch : Chip) (k n x : Nat) : stackOf (count ch k n) x = stackOf ch x := by
  simp [stackOf]

@[simp] theorem stackOf_updStack_same (ch : Chip) (k : Nat) (f : Stack → Stack) :
    stackOf (updStack ch k f) k = f (stackOf ch k) := by
  simp [stackOf, updStack]

theorem rateOpen_iff (w : Word) : rateOpen w = true ↔ w.toNat % 65536 = 0xFFFF := by
  simp [rateOpen, ← BitVec.toNat_inj]

theorem rateOpen_eq_false {w : Word} (h : w.toNat % 65536 ≠ 0xFFFF) : rateOpen w = false :=
  Bool.eq_false_iff.mpr (mt (rateOpen_iff w).mp h)

/-- A partition's request is admitted where its partition is unlimited, its bucket holds the cost, or the pseudo-channel
is idle and the partition shares. -/
theorem admits_iff {ch : Chip} {k : Nat} {q : LReq} {idle : Bool} {j : JobId} (hq : q.payer = some j) :
    admits ch k q idle = true ↔ (partRate ch k j.val).toNat % 65536 = 0xFFFF ∨
      q.cost * 256 ≤ tget (stackOf ch k).tokens 0 j.val ∨ (partRate ch k j.val).getLsbD 31 = true ∧ idle = true := by
  simp [admits, hq, rateOpen_iff, or_assoc]

/-- Admission looks at the tokens and the rates of a stack alone. -/
theorem admits_congr {a b : Chip} {k : Nat} (ht : (stackOf a k).tokens = (stackOf b k).tokens)
    (hr : (stackOf a k).rates = (stackOf b k).rates) (q : LReq) (idle : Bool) :
    admits a k q idle = admits b k q idle := by
  simp only [admits, partRate, ht, hr]

/-- The chip once a partition of a stack has waited for some cycles. -/
def waitCounted (ch : Chip) (k : Nat) (j : JobId) (cycles : Nat) : Chip :=
  count (updStack ch k fun x => { x with waits := tput x.waits j.val (waited x j cycles) })
    (cntTower (k / 2) (8 + 12 * (k % 2) + 7)) cycles

theorem admits_waitCounted (ch : Chip) (k : Nat) (j : JobId) (cycles : Nat) (q : LReq) (idle : Bool) :
    admits (waitCounted ch k j cycles) k q idle = admits ch k q idle :=
  admits_congr (by simp [waitCounted]) (by simp [waitCounted]) q idle

section
variable {s : State} {k : StackId} {t : TowerId} {h : Fin 2} {j : JobId} {idle : Bool} {cycles : Nat} {q : LReq}
variable (hk : k.val = 2 * t.val + h.val) (hl : live s.chip = true)
include hk hl

theorem hbmAdmit_of_none (hq : ((stackOf s.chip k.val).queue.find? fun q => q.payer == some j) = none) :
    exec (.hbmAdmit t h j idle cycles) s = .next s := by
  rw [exec_hbmAdmit, execHbmAdmit, onChip_live hl]
  simp only [← hk, hq]
  rfl

variable (hq : ((stackOf s.chip k.val).queue.find? fun q => q.payer == some j) = some q)
include hq

theorem hbmAdmit_of_repair (hr : inRepair s.chip q.acc.addr = true) :
    exec (.hbmAdmit t h j idle cycles) s = .next s := by
  rw [exec_hbmAdmit, execHbmAdmit, onChip_live hl]
  simp only [← hk, hq, hr, or_true, if_true]
  rfl

theorem hbmAdmit_of_request (hi : islandRuns s.chip 16 = true) (hr : inRepair s.chip q.acc.addr = false) :
    exec (.hbmAdmit t h j idle cycles) s = .next (after s (if admits s.chip k.val q idle = true then
      homeAccess (updStack (waitCounted s.chip k.val j cycles) k.val fun x => { x with queue := x.queue.erase q }) q
      else waitCounted s.chip k.val j cycles)) := by
  have ht : t.val = k.val / 2 := by omega
  have hh : h.val = k.val % 2 := by omega
  rw [exec_hbmAdmit, execHbmAdmit, onChip_live hl, ← admits_waitCounted s.chip k.val j cycles]
  simp only [← hk, hq, hi, hr, Bool.false_eq_true, not_true_eq_false, or_self, if_false]
  rw [ht, hh]
  rfl

end

/-! ### The tick of the buckets (R276, R284) -/

/-- What a microsecond adds to one bucket, as the tick of the buckets does it. -/
def fillBucket (x : Stack) (p : Nat × Word) : Stack :=
  let gain := 2000 * fld p.2 15 0
  let owed := tget x.debt 0 p.1
  let x1 := { x with tokens := tput x.tokens p.1 (min (bucketDepth p.2) (tget x.tokens 0 p.1 + (gain - owed))) }
  if owed = 0 then x1 else { x1 with debt := tput x.debt p.1 (owed - gain) }

/-- The tokens of a partition's bucket, and what it owes. -/
def bucketOf (x : Stack) (j : Nat) : Nat × Nat := (tget x.tokens 0 j, tget x.debt 0 j)

/-- A bucket of a rate a microsecond later: the gain goes first against what it owes. -/
def filled (w : Word) (b : Nat × Nat) : Nat × Nat :=
  let gain := 2000 * (w.toNat % 65536)
  (min (bucketDepth w) (b.1 + (gain - b.2)), b.2 - gain)

theorem bucketOf_fillBucket_same (x : Stack) (j : Nat) (w : Word) :
    bucketOf (fillBucket x (j, w)) j = filled w (bucketOf x j) := by
  have hf : fld w 15 0 = w.toNat % 65536 := by simp [fld]
  unfold fillBucket
  simp only [hf]
  split
  case isTrue h => simp [bucketOf, filled, h]
  case isFalse h => simp [bucketOf, filled]

theorem bucketOf_fillBucket_other (x : Stack) {p : Nat × Word} {j : Nat} (h : j ≠ p.1) :
    bucketOf (fillBucket x p) j = bucketOf x j := by
  unfold fillBucket
  simp only
  split <;> simp [bucketOf, tget_tput_other _ _ _ h]

theorem bucketOf_fill_of_not_mem {l : List (Nat × Word)} {j : Nat} (h : j ∉ l.map Prod.fst) (x : Stack) :
    bucketOf (l.foldl fillBucket x) j = bucketOf x j := by
  induction l generalizing x with
  | nil => rfl
  | cons p r ih =>
    obtain ⟨hp, hr⟩ := not_or.mp (mt List.mem_cons.mpr h)
    rw [List.foldl_cons, ih hr, bucketOf_fillBucket_other x hp]

/-- A partition that has one rate is filled once. -/
theorem bucketOf_fill_of_mem {l : List (Nat × Word)} {j : Nat} {w : Word} (hn : (l.map Prod.fst).Nodup)
    (h : (j, w) ∈ l) (x : Stack) : bucketOf (l.foldl fillBucket x) j = filled w (bucketOf x j) := by
  induction l generalizing x with
  | nil => cases h
  | cons p r ih =>
    obtain ⟨hp, hr⟩ := List.nodup_cons.mp hn
    rw [List.foldl_cons]
    rcases List.mem_cons.mp h with rfl | hm
    · rw [bucketOf_fill_of_not_mem hp, bucketOf_fillBucket_same]
    · have hj : j ≠ p.1 := fun e => hp (e ▸ List.mem_map_of_mem hm)
      rw [ih hr hm, bucketOf_fillBucket_other x hj]

/-- The tick of a stack fills its limited buckets, and leaves those that are unlimited alone. -/
theorem bucketOf_tickBuckets {ch : Chip} {k : Nat} {x : Stack} (hi : islandRuns ch 16 = true) (hs : ch.stks = [(k, x)])
    (j : Nat) : bucketOf (stackOf (tickBuckets ch) k) j =
      bucketOf ((x.rates.filter fun q => !rateOpen q.2).foldl fillBucket x) j := by
  unfold tickBuckets
  simp only [hi, not_true_eq_false, if_false, hs, List.map_cons, List.map_nil, List.foldl_cons, List.foldl_nil,
    stackOf_count]
  simp only [stackOf, tget, if_true]
  rfl

section
variable {ch : Chip} {k : Nat} {x : Stack} {j : Nat} {w : Word} (hi : islandRuns ch 16 = true) (hs : ch.stks = [(k, x)])
  (hn : (x.rates.map Prod.fst).Nodup) (hw : (j, w) ∈ x.rates)
include hi hs hn hw

theorem bucketOf_tickBuckets_unlimited (ho : rateOpen w = true) :
    bucketOf (stackOf (tickBuckets ch) k) j = bucketOf x j := by
  rw [bucketOf_tickBuckets hi hs]
  refine bucketOf_fill_of_not_mem (fun hm => ?_) x
  obtain ⟨⟨i, v⟩, hv, rfl⟩ := List.mem_map.mp hm
  obtain ⟨hr, hc⟩ := List.mem_filter.mp hv
  have hvw : (i, v) = (i, w) := List.inj_on_of_nodup_map hn hr hw rfl
  simp_all

theorem bucketOf_tickBuckets_limited (ho : rateOpen w = false) :
    bucketOf (stackOf (tickBuckets ch) k) j = filled w (bucketOf x j) := by
  rw [bucketOf_tickBuckets hi hs]
  exact bucketOf_fill_of_mem (hn.sublist (List.filter_sublist.map _)) (List.mem_filter.mpr ⟨hw, by simp [ho]⟩) x

end

/-! ### The statement -/

/-- Settles O25: the first waiting request as its bucket, its share and its pseudo-channel say (logs 69 and 70), and a
tick of the one stack of a chip. -/
theorem tokenBuckets : Obligations.TokenBuckets := by
  unfold Obligations.TokenBuckets
  refine ⟨?admission, ?tick⟩
  case admission =>
    rintro s k t h j idle cycles cost q w ch hk hl hi rfl rfl rfl
    have hp {q : LReq} (hq : ((stackOf s.chip k.val).queue.find? fun q => q.payer == some j) = some q) :
        q.payer = some j := by simpa using List.find?_some hq
    refine ⟨hbmAdmit_of_none hk hl, hbmAdmit_of_repair hk hl, fun hq hr ha => ?_, fun hq hr ho ht hs => ?_⟩
    · rw [hbmAdmit_of_request hk hl hq hi hr, if_pos ((admits_iff (hp hq)).mpr ha)]
      rfl
    · rw [hbmAdmit_of_request hk hl hq hi hr, if_neg]
      · rfl
      · rw [admits_iff (hp hq)]
        rintro (hu | hc | ⟨h31, hidle⟩)
        · exact ho hu
        · exact absurd ht (Nat.not_lt.mpr hc)
        · rcases hs with hs | hs
          · exact Bool.false_ne_true (hs ▸ h31)
          · exact Bool.false_ne_true (hs ▸ hidle)
  case tick =>
    rintro ch k j x hi hs hn w n hw rfl
    refine ⟨fun ho => ?_, fun ho => ?_⟩
    · have h := bucketOf_tickBuckets_unlimited hi hs hn hw ((rateOpen_iff w).mpr ho)
      exact ⟨congrArg Prod.fst h, congrArg Prod.snd h⟩
    · have h := bucketOf_tickBuckets_limited hi hs hn hw (rateOpen_eq_false ho)
      exact ⟨congrArg Prod.fst h, congrArg Prod.snd h⟩

end Sys2Proof.Buckets
end

section
/-! Proofs about requests at the home slices and their stacks (12_memory.md R263, R270 to R279, R281, R285;
23_power_security_management.md R487): where a request from a tower waits, and the statement MemorySide. -/

namespace Sys2Proof.HomeSlices
open Sys2Proof Sys2Proof.Machine Sys2Proof.Claims Sys2Proof.Laws

/-! ### A request on its way (R277, R281, R285) -/

/-- A request waits at its controller: for a repair, behind an earlier request of its partition, or for tokens. -/
def mustWait (ch : Chip) (q : LReq) : Bool :=
  let k := (stackLine ch q.acc.addr).1
  inRepair ch q.acc.addr || (q.payer.isSome && (stackOf ch k).queue.any fun r => r.payer == q.payer) ||
    !admits ch k q false

section
variable {ch : Chip} {q : LReq}

theorem atStack_of_go (h : lineHeld ch q.acc.addr = true ∨ mustWait ch q = false) : atStack ch q = homeAccess ch q := by
  simp only [mustWait, Bool.or_eq_false_iff] at h
  rcases h with h | ⟨⟨hr, hb⟩, ha⟩
  · simp [atStack, h]
  · rw [Bool.not_eq_false'] at ha
    simp only [atStack, hr, hb, ha, Bool.false_eq_true, not_true_eq_false, or_self, and_false, if_false]

theorem atStack_of_wait (hl : lineHeld ch q.acc.addr = false) (hw : mustWait ch q = true) :
    atStack ch q = updStack ch (stackLine ch q.acc.addr).1 fun x => { x with queue := x.queue ++ [q] } := by
  simp only [mustWait, Bool.or_eq_true, Bool.not_eq_true', or_assoc] at hw
  rw [atStack, if_pos]
  simpa [hl] using hw

theorem arrive_of_unserved (h : hbmServed ch q.acc.addr = false) : arrive ch q = ch := by
  simp [arrive, h]

variable (h : hbmServed ch q.acc.addr = true)
include h

theorem arrive_of_stop (hs : reqStops ch q ≠ []) (hf : q.acc.who ≠ .firmware) {c : Chip}
    (hc : c = (reqStops ch q).foldl (fun x t => raise x .galHeld t) ch) :
    arrive ch q = { c with land := { c.land with held := c.land.held ++ [q] } } := by
  subst hc
  unfold arrive
  split
  case isTrue hn => exact absurd h hn
  case isFalse =>
    split
    case h_1 h0 => exact absurd h0 hs
    case h_2 => rfl

theorem arrive_of_way (hs : reqStops ch q = [] ∨ q.acc.who = .firmware) : arrive ch q = atStack ch q := by
  unfold arrive
  split
  case isTrue hn => exact absurd h hn
  case isFalse =>
    split
    case h_1 => rfl
    case h_2 h0 => rw [if_pos (hs.resolve_left h0)]

end

section
variable {s : State} (hl : live s.chip = true)
include hl

/-- An access to a line and one to a grain arrive as requests. -/
theorem request_arrives {a : LAccess} {q : LReq} {i : Instr}
    (hi : i = .landingAccess a ∧ q = ⟨a, false, none⟩ ∨ i = .fineGrain a ∧ q = ⟨a, true, none⟩) :
    exec i s = .next (after s (arrive s.chip q)) := by
  rcases hi with ⟨rfl, rfl⟩ | ⟨rfl, rfl⟩
  · rw [exec_landingAccess, execLandingAccess, onChip_live hl]
  · rw [exec_fineGrain, execFineGrain, onChip_live hl]

/-! ### Fills (R270, R272) -/

section
variable (who : Who) (a : Nat) (h : Hint) (sev : List Severity)

theorem landingFill_of_room (hs : hbmServed s.chip a = true) (hh : lineHeld s.chip a = false)
    (hr : inRepair s.chip a = false) :
    exec (.landingFill who a h sev) s = .next (after s (landTouch
      ((List.range 8).foldl (fun c i => burstRead c (a / 256 * 256 + 32 * i) (sev.getD i .clean)) s.chip)
      (whoJob who) h (a / 256 * 256) false false false)) := by
  rw [exec_landingFill, execLandingFill, onChip_live hl]
  simp [hs, hh, hr]

theorem landingFill_of_none
    (hn : hbmServed s.chip a = false ∨ lineHeld s.chip a = true ∨ inRepair s.chip a = true) :
    exec (.landingFill who a h sev) s = .next s := by
  rw [exec_landingFill, execLandingFill, onChip_live hl, if_pos (by simpa using hn)]
  rfl

end

/-! ### Scrub, temperature, refresh, replay (R263, R279, R285, R487) -/

section
variable {k : StackId} {a : Nat} {sev : Severity}

theorem patrolScrub_of_repair {last : Bool}
    (hr : (stackOf s.chip k.val).repair = some (lineGeo (stackLine s.chip a).2).1) :
    exec (.patrolScrub k a sev last) s = .next s := by
  rw [exec_patrolScrub, execPatrolScrub, onChip_live hl, if_pos (by simp [hr])]
  rfl

variable (hs : hbmServed s.chip a = true) (hk : (stackLine s.chip a).1 = k.val)
  (hc : 0 < regFld s.chip .hbmCfg k.val 7 0)
  (hr : (stackOf s.chip k.val).repair ≠ some (lineGeo (stackLine s.chip a).2).1)
include hs hk hc hr

theorem patrolScrub_reads (last : Bool) :
    exec (.patrolScrub k a sev last) s = .next (after s (if last = true then
      raise (updStack (burstRead s.chip a sev) k.val fun x => { x with corrRows := [] }) .hbmScrubDone k.val
      else burstRead s.chip a sev)) := by
  rw [exec_patrolScrub, execPatrolScrub, onChip_live hl, if_neg (by simp [hs, hk, hr, hc.ne'])]

end

theorem hbmTempRead_of_cool (hi : islandRuns s.chip 16 = true) (k : StackId) {temp : BitVec 8} (ht : temp.toNat ≤ 85) :
    exec (.hbmTempRead k temp) s = .next (after s (holdUpdate
      (updStack s.chip k.val fun x => { x with temp := temp.toNat, hot := false }) (k.val / 2))) := by
  rw [exec_hbmTempRead, execHbmTempRead, onChip_live hl]
  simp [hi, Nat.not_lt.mpr ht]

theorem hbmTempRead_of_hot (hi : islandRuns s.chip 16 = true) (k : StackId) {temp : BitVec 8} (ht : 85 < temp.toNat) :
    exec (.hbmTempRead k temp) s = .next (after s (holdUpdate
      (count (updStack s.chip k.val fun x => { x with temp := temp.toNat, hot := true })
        (cntTower (k.val / 2) (8 + 12 * (k.val % 2) + 9)) 1) (k.val / 2))) := by
  rw [exec_hbmTempRead, execHbmTempRead, onChip_live hl]
  simp [hi, ht]

theorem hbmRefresh_counts (hi : islandRuns s.chip 16 = true) (k : StackId) :
    exec (.hbmRefresh k) s = .next (after s (count s.chip (cntTower (k.val / 2) (8 + 12 * (k.val % 2) + 8)) 1)) := by
  rw [exec_hbmRefresh, execHbmRefresh, onChip_live hl, if_pos hi]

theorem galleryReplay_counts (hi : islandRuns s.chip 17 = true) (t : TowerId) :
    exec (.galleryReplay t) s =
      .next (after s (regSat (raise s.chip .galReplay t.val) .galReplayCnt t.val 31 0 1)) := by
  rw [exec_galleryReplay, execGalleryReplay, onChip_live hl, if_pos hi]

end

/-! ### The statement -/

/-- Settles O24: a request waits at a stop, then at its controller, or is made (log 69); fills, the scrub, the
temperature, the refresh and the replay where the clocks and the stack serve them. -/
theorem memorySide : Obligations.MemorySide := by
  unfold Obligations.MemorySide
  intro s hl
  refine ⟨fun a q i hi => ?request,
    fun who a h sev => ⟨landingFill_of_room hl who a h sev, landingFill_of_none hl who a h sev⟩,
    fun k a sev hs hk hc => ⟨fun hr => ?_, fun last => patrolScrub_of_repair hl⟩,
    fun k temp hc => ⟨hbmTempRead_of_cool hl hc k, hbmTempRead_of_hot hl hc k, hbmRefresh_counts hl hc k⟩,
    fun t hg => galleryReplay_counts hl hg t⟩
  case request =>
    rw [request_arrives hl hi]
    have ha : q.acc = a := by rcases hi with ⟨_, rfl⟩ | ⟨_, rfl⟩ <;> rfl
    have hh : q.host = none := by rcases hi with ⟨_, rfl⟩ | ⟨_, rfl⟩ <;> rfl
    subst ha
    refine ⟨fun hn => by rw [arrive_of_unserved hn, GoingOn.after_own_chip], ?_⟩
    rintro hs stops hstops
    have hr : reqStops s.chip q = stops := by simp [hstops, reqStops, hh]
    have hp : q.payer = whoJob q.acc.who := by simp [LReq.payer, hh]
    subst hr
    refine ⟨fun hne hf ch hch => by rw [arrive_of_stop hs hne hf hch], ?_⟩
    rintro hway k waits rfl hwaits
    have hw : mustWait s.chip q = waits := by rw [hwaits, mustWait, hp]
    rw [arrive_of_way hs hway]
    refine ⟨fun hgo => by rw [atStack_of_go (hw ▸ hgo)], fun hn hwt => by rw [atStack_of_wait hn (hw.trans hwt)]⟩
  · exact ⟨patrolScrub_reads hl hs hk hc hr false, patrolScrub_reads hl hs hk hc hr true⟩

end Sys2Proof.HomeSlices
end

section
/-! Proofs about MEM_MAP, MEM_UNMAP, PART_SET_RATE and PROG_LOAD (12_memory.md R284, 18_mailboxes_elbinik.md R399,
R400): what each answers, or how it waits, once its checks pass, and the statement MemoryCommands. -/

namespace Sys2Proof.MemoryCommands
open Sys2Proof Sys2Proof.Machine Sys2Proof.Claims Sys2Proof.Laws Sys2Proof.ArrayCommands

variable {s : State} {k : Stream} {c : Cmd}

/-! ### MEM_MAP (R399) -/

section
variable (ht : Taking s k 0x20 anyRow memMapChk c)
include ht

theorem memMap_of_full (hm : 128 ≤ (jobOf s.chip (cmdJob c.raw)).maps.length) :
    exec (.memMap k) s = .next (answered s k c s.chip (rspOf 0x15)) := by
  rw [exec_memMap, execMemMap]
  exact runNow_eq ht (if_pos hm)

variable (hm : (jobOf s.chip (cmdJob c.raw)).maps.length < 128)
include hm

theorem memMap_of_host (hh : pb c.raw 0 0 = 1) :
    exec (.memMap k) s = .next (answered s k c (updJob s.chip (cmdJob c.raw) fun b =>
      { b with maps := b.maps ++ [⟨pb c.raw 21 16, pb c.raw 15 8, true⟩] })
      (rspData 0 8 (leBytes (pb c.raw 21 16) 6))) := by
  rw [exec_memMap, execMemMap]
  refine runNow_eq ht ?_
  simp only [Nat.not_le.mpr hm, hh, if_false, if_true]

variable (hh : pb c.raw 0 0 ≠ 1)
include hh

theorem memMap_of_placed {da : Nat}
    (hp : placeHbm s.chip (jobOf s.chip (cmdJob c.raw)).global (pb c.raw 1 1) (pb c.raw 15 8) = some da) :
    exec (.memMap k) s = .next (answered s k c (mapHbm s.chip (cmdJob c.raw) da (pb c.raw 15 8))
      (rspData 0 8 (leBytes da 6))) := by
  rw [exec_memMap, execMemMap]
  refine runNow_eq ht ?_
  simp only [Nat.not_le.mpr hm, hh, hp, if_false]

theorem memMap_of_no_place
    (hp : placeHbm s.chip (jobOf s.chip (cmdJob c.raw)).global (pb c.raw 1 1) (pb c.raw 15 8) = none) :
    exec (.memMap k) s = .next (answered s k c s.chip (rspOf 0x15)) := by
  rw [exec_memMap, execMemMap]
  refine runNow_eq ht ?_
  simp only [Nat.not_le.mpr hm, hh, hp, if_false]

end

/-! ### MEM_UNMAP (R399) -/

section
variable (ht : Taking s k 0x21 anyRow (fun _ => ([(0, 5)], [])) c)
include ht

theorem memUnmap_of_unmapped
    (ho : (jobOf s.chip (cmdJob c.raw)).maps.find? (fun m => m.da == pb c.raw 5 0) = none) :
    exec (.memUnmap k) s = .next (answered s k c s.chip (rspBad 0)) := by
  rw [exec_memUnmap, execMemUnmap]
  refine runNow_eq ht ?_
  simp only [ho]

variable {m : MapEnt} (ho : (jobOf s.chip (cmdJob c.raw)).maps.find? (fun m => m.da == pb c.raw 5 0) = some m)
include ho

theorem memUnmap_of_statistics (hs : pb c.raw 5 0 = (jobOf s.chip (cmdJob c.raw)).stat) :
    exec (.memUnmap k) s = .next (answered s k c s.chip (rspBad 0)) := by
  rw [exec_memUnmap, execMemUnmap]
  refine runNow_eq ht ?_
  simp only [ho]
  exact if_pos hs

variable (hs : pb c.raw 5 0 ≠ (jobOf s.chip (cmdJob c.raw)).stat)
include hs

theorem memUnmap_of_busy (hb : rangeBusy s.chip m.da m.len = true) :
    exec (.memUnmap k) s = .next (answered s k c s.chip (rspOf 0x14)) := by
  rw [exec_memUnmap, execMemUnmap]
  refine runNow_eq ht ?_
  simp only [ho, hs, hb, if_false, if_true]

theorem memUnmap_of_free (hb : rangeBusy s.chip m.da m.len = false) :
    exec (.memUnmap k) s = .next (answered s k c (unmap s.chip (cmdJob c.raw) m) rspOk) := by
  rw [exec_memUnmap, execMemUnmap]
  refine runNow_eq ht ?_
  simp only [ho, hs, hb, if_false, Bool.false_eq_true]

end

/-! ### PART_SET_RATE (R284) -/

theorem partSetRate_of_taking (ht : Taking s k 0x22 anyRow (fun raw => ([(0, 0), (2, 8)], badIf (15 < pb raw 0 0) 0 ++
      badIf (0x7FFF < pb raw 7 6) 6 ++ badIf (1 < pb raw 8 8) 8)) c) :
    exec (.partSetRate k) s = .next (answered s k c
      (((List.range 16).filter fun k => (pb c.raw 3 2).testBit k).foldl (fun x k => fwReg x .hbmPartRate k fun x =>
        updStack x k fun y => setRate y (pb c.raw 0 0)
          (pack [(0, pb c.raw 5 4), (16, max 1 (pb c.raw 7 6)), (31, pb c.raw 8 8)])) s.chip) rspOk) := by
  rw [exec_partSetRate, execPartSetRate]
  exact runNow_eq ht rfl

/-! ### PROG_LOAD (R237, R400) -/

/-- The cluster that a PROG_LOAD names, and its cores that it names. -/
def loadCluster (raw : Nat) : Nat := 16 * pb raw 0 0 + pb raw 1 1
def loadCores (raw : Nat) : List Nat := (coresOfCluster (loadCluster raw)).filter fun g => (pb raw 2 2).testBit (g % 8)

section
variable {h : HostIn} {ch : Chip} {j : JobId}

/-- A PROG_LOAD does the same as it takes effect and as it is asked again. -/
theorem progLoad_eq (ht : Taking s k 0x30 anyRow progLoadChk c ∨ Waiting s k 0x30 anyRow c) :
    exec (.progLoad ⟨k, h⟩) s = .next (after s (settle (streamIx k) c (progLoadGo h s.chip c))) := by
  rw [exec_progLoad, execProgLoad]
  rcases ht with ht | hw
  · rw [runCmd_of_taking ht]
  · rw [runCmd_of_waiting hw]

theorem progLoad_of_reply (ht : Taking s k 0x30 anyRow progLoadChk c ∨ Waiting s k 0x30 anyRow c) {r : Rsp}
    (hg : progLoadGo h s.chip c = reply ch r) : exec (.progLoad ⟨k, h⟩) s = .next (answered s k c ch r) := by
  rw [progLoad_eq ht, hg, settle_reply, answered]

theorem progLoad_of_stay (ht : Taking s k 0x30 anyRow progLoadChk c ∨ Waiting s k 0x30 anyRow c) {memo : List Nat}
    (hg : progLoadGo h s.chip c = stay ch memo) : exec (.progLoad ⟨k, h⟩) s = .next (waits s k c ch memo) := by
  rw [progLoad_eq ht, hg, settle_stay, waits]

theorem progLoadGo_of_foreign (ho : owner ch (loadCluster c.raw) ≠ some (jobId (cmdJob c.raw))) :
    progLoadGo h ch c = reply ch (rspOf 0x13) := if_pos ho

section
variable (ho : owner ch (loadCluster c.raw) = some (jobId (cmdJob c.raw)))
include ho

theorem progLoadGo_of_fenced (hf : (loadCores c.raw).any (coreFenced ch) = true) :
    progLoadGo h ch c = reply ch (rspOf 0x18) :=
  (if_neg (not_not.mpr ho)).trans (if_pos hf)

variable (hf : (loadCores c.raw).any (coreFenced ch) = false)
include hf

theorem progLoadGo_of_tested (hu : ((loadCores c.raw).any fun g => (tcoreOf ch g).under.isSome) = true) :
    progLoadGo h ch c = stay ch [] :=
  (if_neg (not_not.mpr ho)).trans ((if_neg (ne_true_of_eq_false hf)).trans (if_pos hu))

variable (hu : ((loadCores c.raw).any fun g => (tcoreOf ch g).under.isSome) = false)
include hu

/-- With its cores free the command clears their images, or loads them from where the image lies. -/
theorem progLoadGo_of_free : progLoadGo h ch c =
    if pbit c.raw 3 0 0 = 1 then reply ((loadCores c.raw).foldl clearImage ch) (rspData 0 1 [0])
    else loadFrom ch h (jobId (cmdJob c.raw)) (pb c.raw 13 8) (pb c.raw 2 2) (loadCores c.raw) :=
  (if_neg (not_not.mpr ho)).trans ((if_neg (ne_true_of_eq_false hf)).trans (if_neg (ne_true_of_eq_false hu)))

end

/-- The bytes of an image that a PROG_LOAD reads: as many as it says, or its header where the job does not map them. -/
def imageSpan (ch : Chip) (h : HostIn) (j : JobId) (da : Nat) : Nat :=
  let len := max 64 (rdNat (if outBase ≤ da then hostIn ch h else ch) (da + 16) 8)
  if inMaps ch j da len then len else 64

section
variable {da mask : Nat} {gs : List Nat}

theorem loadFrom_of_unmapped (hm : inMaps ch j da 64 = false) :
    loadFrom ch h j da mask gs = reply ch (rspOf 0x1C) := by
  simp [loadFrom, hm]

variable (hm : inMaps ch j da 64 = true)
include hm

theorem loadFrom_of_repair (hw : fwReadWaits ch da (imageSpan ch h j da) = true) :
    loadFrom ch h j da mask gs = stay ch [] :=
  (if_neg (by simp [hm])).trans (if_pos hw)

variable (hw : fwReadWaits ch da (imageSpan ch h j da) = false) {f : Chip × Bool}
  (hf : fetchHost ch h [(da, imageSpan ch h j da)] = f)
include hw hf

/-- What was read is refused where the host failed it or the image is none; else it is loaded. -/
theorem loadFrom_of_read : loadFrom ch h j da mask gs =
    if f.2 = true then reply f.1 (rspOf 0x1D)
    else match imageRefusal f.1 j da with
      | some r => reply f.1 r
      | none => reply (gs.foldl (fun x g => loadImage x j da g)
          (landRange f.1 none .normal da (rdNat f.1 (da + 16) 8) false)) (rspData 0 1 (leBytes mask 1)) := by
  subst hf
  exact (if_neg (by simp [hm])).trans (if_neg (ne_true_of_eq_false hw))

theorem loadFrom_of_failed (h2 : f.2 = true) : loadFrom ch h j da mask gs = reply f.1 (rspOf 0x1D) := by
  rw [loadFrom_of_read hm hw hf, if_pos h2]

variable (h2 : f.2 = false)
include h2

theorem loadFrom_of_refusal {r : Rsp} (hr : imageRefusal f.1 j da = some r) :
    loadFrom ch h j da mask gs = reply f.1 r := by
  rw [loadFrom_of_read hm hw hf, if_neg (ne_true_of_eq_false h2), hr]

theorem loadFrom_of_image (hr : imageRefusal f.1 j da = none) :
    loadFrom ch h j da mask gs = reply (gs.foldl (fun x g => loadImage x j da g)
      (landRange f.1 none .normal da (rdNat f.1 (da + 16) 8) false)) (rspData 0 1 (leBytes mask 1)) := by
  rw [loadFrom_of_read hm hw hf, if_neg (ne_true_of_eq_false h2), hr]

end

end

/-! ### The statement -/

/-- Settles O41: each command refuses, is answered or waits as the case of its meaning says (logs 8, 86, 89 and 91). -/
theorem memoryCommands : Obligations.MemoryCommands := by
  unfold Obligations.MemoryCommands
  rintro s k h c j rfl
  refine ⟨fun ht => ⟨memMap_of_full ht, memMap_of_host ht, fun hm hh da => memMap_of_placed ht hm hh,
    memMap_of_no_place ht⟩, ?unmap, ?rate, ?load⟩
  case unmap =>
    rintro ht o rfl
    exact ⟨memUnmap_of_unmapped ht, fun m => memUnmap_of_statistics ht, fun m => memUnmap_of_busy ht,
      fun m => memUnmap_of_free ht⟩
  case rate =>
    rintro ht w rfl
    exact partSetRate_of_taking ht
  case load =>
    rintro ht i cl gs da rfl rfl rfl rfl
    refine ⟨fun ho => progLoad_of_reply ht (progLoadGo_of_foreign ho),
      fun ho hf => progLoad_of_reply ht (progLoadGo_of_fenced ho hf), fun ho hf =>
      ⟨fun hu => progLoad_of_stay ht (progLoadGo_of_tested ho hf hu), fun hu => ?_⟩⟩
    have hgo := progLoadGo_of_free (h := h) ho hf hu
    have hread (hc : pbit c.raw 3 0 0 ≠ 1) := hgo.trans (if_neg hc)
    refine ⟨fun hc => progLoad_of_reply ht (hgo.trans (if_pos hc)),
      fun hc hm => progLoad_of_reply ht ((hread hc).trans (loadFrom_of_unmapped hm)), ?_⟩
    intro hc hm len n f hlen hn hf
    have hspan : n = imageSpan s.chip h (jobId (cmdJob c.raw)) (pb c.raw 13 8) := by rw [hn, hlen, imageSpan]
    clear hn hlen
    subst hspan hf
    refine ⟨fun hw => progLoad_of_stay ht ((hread hc).trans (loadFrom_of_repair hm hw)), fun hw =>
      ⟨fun h2 => progLoad_of_reply ht ((hread hc).trans (loadFrom_of_failed hm hw rfl h2)),
       fun h2 r hr => progLoad_of_reply ht ((hread hc).trans (loadFrom_of_refusal hm hw rfl h2 hr)),
       fun h2 hr => progLoad_of_reply ht ((hread hc).trans (loadFrom_of_image hm hw rfl h2 hr))⟩⟩

end Sys2Proof.MemoryCommands
end

section
/-! Proofs about the host's link (12_memory.md R281, R285, 16_host_offload.md R348 to R355, 19_bring_up.md R412, R415):
what a request that arrives is answered, what a Function Level Reset and the link do, and the statement HostSide. -/

namespace Sys2Proof.HostPort
open Sys2Proof Sys2Proof.Machine Sys2Proof.Claims Sys2Proof.Laws

/-! ### Refusals (R348, R351) -/

@[simp] theorem aerLog_resp (ch : Chip) (f : Nat) (e : AerErr) : (aerLog ch f e).resp = ch.resp := by
  unfold aerLog
  split <;> rfl

@[simp] theorem urResp_resp (ch : Chip) (f : Nat) : (urResp ch f).resp = ⟨.unsupported, [], false⟩ := by
  simp [urResp]

/-! ### A request as it arrives (R348, R349) -/

/-- The chip that has counted a request of the host. -/
def arrived (ch : Chip) (r : BarReq) : Chip :=
  raiseIf r.ep (count ch 128 (if r.write.isSome then r.len else 0)) .pciEpIn 0

section
variable (ch : Chip) (r : BarReq)

@[simp] theorem arrived_phase : (arrived ch r).phase = ch.phase := by simp [arrived]
@[simp] theorem arrived_pci : (arrived ch r).pci = ch.pci := by simp [arrived]
@[simp] theorem fnOpen_arrived (f : Nat) : fnOpen (arrived ch r) f = fnOpen ch f := by simp [fnOpen, fnThere]

/-- A write's payload is cut or filled to its length; a read stays as it is. -/
theorem barFit_of_read {r : BarReq} (h : r.write = none) : barFit r = r := by simp [barFit, h]
theorem barFit_of_write {r : BarReq} {bs : List Byte} (h : r.write = some bs) :
    barFit r = { r with write := some (fitBytes bs r.len) } := by simp [barFit, h]

@[simp] theorem barFit_fn : (barFit r).fn = r.fn := by unfold barFit; split <;> rfl
@[simp] theorem barFit_bar : (barFit r).bar = r.bar := by unfold barFit; split <;> rfl
@[simp] theorem barFit_offset : (barFit r).offset = r.offset := by unfold barFit; split <;> rfl
@[simp] theorem barFit_len : (barFit r).len = r.len := by unfold barFit; split <;> rfl

end

/-! ### What a request does (R350 to R352, R412) -/

section
variable {ch : Chip} {r : BarReq}

theorem serveBar_of_reset (h : ch.phase = 0) : serveBar ch r = urResp ch r.fn.val := if_pos (.inl h)

theorem serveBar_of_shut (h : fnOpen ch r.fn.val = false) : serveBar ch r = urResp ch r.fn.val :=
  if_pos (.inr (.inr (ne_true_of_eq_false h)))

/-- The HBM BAR of the physical function is open from CALIBRATION on. -/
theorem serveBar_hbm_of_early (hf : r.fn.val = 0) (hb : r.bar = 4) (hp : ch.phase = 1) :
    serveBar ch r = urResp ch r.fn.val := by
  simp [serveBar, hf, hb, hp, hbmServes]

theorem serveBar_hbm (hf : r.fn.val = 0) (hb : r.bar = 4) (hp : ch.phase = 4) (ho : fnOpen ch 0 = true)
    (he : r.offset + r.len ≤ hbmEnd) : serveBar ch r = hostHbm ch r := by
  simp [serveBar, hf, hb, hp, ho, he, hbmServes]

theorem hostHbm_of_write {bs : List Byte} (hw : r.write = some bs) :
    hostHbm ch r = okData (postWrite ch (fnWho r.fn.val) .normal (some r.ep) r.offset bs) [] false := by
  simp only [hostHbm, hw]

variable (hw : r.write = none)
include hw

theorem hostHbm_of_held (hh : memHeld ch .die (touched (hostData r) ch) = true) :
    hostHbm ch r = { memWaits ch .die (touched (hostData r) ch) with resp := ⟨.waiting, [], false⟩ } := by
  simp only [hostHbm, hw, hh, if_true]

theorem hostHbm_of_going (hh : memHeld ch .die (touched (hostData r) ch) = false)
    (hk : (touched (hostData r) ch).any (touchLost ch .die) = false) :
    hostHbm ch r = hostData r (memReady ch r.bursts (touched (hostData r) ch)) := by
  simp only [hostHbm, hw, memWork, hh, hk, Bool.false_eq_true, if_false]

end

/-! ### INBOUND_REQUEST (R348, R349, R352; log 169) -/

section
variable {ch : Chip} {r : BarReq} {x : CfgField}

theorem cfgAccess_of_retry (h : cfgStatus ch r.fn.val = .retry) :
    cfgAccess ch r x = { ch with resp := ⟨.retry, [], false⟩ } := by
  simp only [cfgAccess, h]

theorem cfgAccess_of_unsupported (h : cfgStatus ch r.fn.val = .unsupported) : cfgAccess ch r x = urResp ch 0 := by
  simp only [cfgAccess, h]

theorem cfgAccess_of_write (h : cfgStatus ch r.fn.val = .ok) {bs : List Byte} (hw : r.write = some bs) :
    cfgAccess ch r x = okData (if r.ep then ch else cfgPut ch r.fn.val x (leNat bs)) [] false := by
  simp only [cfgAccess, h, hw]

theorem cfgAccess_of_read (h : cfgStatus ch r.fn.val = .ok) (hw : r.write = none) :
    cfgAccess ch r x = okData ch (leBytes (cfgGet ch r.fn.val x) 4) false := by
  simp only [cfgAccess, h, hw]

end

/-- What a request to a BAR leaves: it waits behind posted writes of its function, or is served. -/
def served (ch : Chip) (r : BarReq) : Chip :=
  if orderedBehind r = true ∧ writeHeld ch r.fn.val = true then { ch with resp := ⟨.waiting, [], false⟩ }
  else serveBar ch (barFit r)

theorem ecrc_passes {ch : Chip} {r : BarReq} (h : r.ecrcBad = false ∨ ch.pci.ecrcCheck = false) :
    ¬(r.ecrcBad = true ∧ ch.pci.ecrcCheck = true) := by
  rintro ⟨hb, hc⟩
  simp [hb, hc] at h

section
variable {s : State} {r : BarReq} (hl : live s.chip = true)
include hl

theorem inbound_of_no_link (h : s.chip.pci.width = 0 ∨ islandRuns s.chip 19 = false) :
    exec (.inboundRequest r) s = .next s := by
  rw [exec_inboundRequest, execInboundRequest, onChip_live hl, if_pos (by simpa using h)]
  rfl

variable (hw : 0 < s.chip.pci.width) (hi : islandRuns s.chip 19 = true)
include hw hi

theorem inbound_of_bad_ecrc (hb : r.ecrcBad = true) (hc : s.chip.pci.ecrcCheck = true) :
    exec (.inboundRequest r) s = .next (after s (aerLog (arrived s.chip r) r.fn.val .ecrc)) := by
  rw [exec_inboundRequest, execInboundRequest, onChip_live hl, if_neg (by simp [hw.ne', hi])]
  simp only [hb, hc, and_self, if_true]
  rfl

variable (he : r.ecrcBad = false ∨ s.chip.pci.ecrcCheck = false)
include he

theorem inbound_of_config {x : CfgField} (hx : r.cfg = some x) :
    exec (.inboundRequest r) s = .next (after s (cfgAccess (arrived s.chip r) r x)) := by
  rw [exec_inboundRequest, execInboundRequest, onChip_live hl, if_neg (by simp [hw.ne', hi])]
  simp only [ecrc_passes he, if_false, hx]
  rfl

theorem inbound_of_bar (hx : r.cfg = none) {y : Chip} (hy : y = served (arrived s.chip r) r) :
    exec (.inboundRequest r) s =
      .next (after s (count y 129 (if r.write.isNone ∧ y.resp.status = .ok then r.len else 0))) := by
  subst hy
  rw [exec_inboundRequest, execInboundRequest, onChip_live hl, if_neg (by simp [hw.ne', hi])]
  simp only [ecrc_passes he, if_false, hx]
  rfl

end

/-! ### Configuration requests to the physical function (R412, R415) -/

section
variable {ch : Chip}

theorem cfgStatus_of_boot (f : Nat) (h : ch.phase = 0 ∨ ch.phase = 5 ∧ failedCause ch = 3) : cfgStatus ch f = .retry :=
  if_pos h

theorem cfgStatus_of_firmware (h1 : 1 ≤ ch.phase) (h2 : ch.phase ≠ 5 ∨ failedCause ch ≠ 3) :
    cfgStatus ch 0 = .ok := by
  rw [cfgStatus, if_neg (by omega)]
  rfl

end

section
variable {s : State} (hl : live s.chip = true)
include hl

theorem configuration_of_link (hw : 0 < s.chip.pci.width) {st : RespStatus} (hst : cfgStatus s.chip 0 = st) :
    exec .configurationRequest s = .next (after s { s.chip with resp := ⟨st, [], false⟩ }) := by
  rw [exec_configurationRequest, execConfigurationRequest, onChip_live hl, if_neg hw.ne', hst]

theorem configuration_of_no_link (hw : s.chip.pci.width = 0) : exec .configurationRequest s = .next s := by
  rw [exec_configurationRequest, execConfigurationRequest, onChip_live hl, if_pos hw]
  rfl

end

/-! ### Function Level Resets (R355) -/

theorem flrOk_iff (ch : Chip) : flrOk ch = true ↔ 1 ≤ ch.phase ∧ 0 < ch.pci.width ∧ islandRuns ch 19 = true := by
  simp [flrOk, and_assoc, Nat.pos_iff_ne_zero]

theorem flrOk_eq_false {ch : Chip} (h : ch.phase = 0 ∨ ch.pci.width = 0 ∨ islandRuns ch 19 = false) :
    flrOk ch = false := by
  rw [← Bool.not_eq_true, flrOk_iff]
  rintro ⟨h1, h2, h3⟩
  rcases h with h | h | h
  · omega
  · omega
  · simp [h] at h3

section
variable {s : State} (hl : live s.chip = true)
include hl

theorem flrVf_of_ok (h : flrOk s.chip = true) (j : JobId) :
    exec (.flrVf j) s = .next (after s (raise (flrJob s.chip j) .pciFlr 0)) := by
  rw [exec_flrVf, execFlrVf, onChip_live hl, if_pos h]

theorem flrPf_of_ok (h : flrOk s.chip = true) :
    exec .flrPf s = .next (after s (raise (msixReset (resetPfMailbox ((List.finRange 16).foldl flrJob s.chip)) 0)
      .pciFlr 0)) := by
  rw [exec_flrPf, execFlrPf, onChip_live hl, if_pos h]

variable (h : flrOk s.chip = false)
include h

theorem flrVf_of_not_ok (j : JobId) : exec (.flrVf j) s = .next s := by
  rw [exec_flrVf, execFlrVf, onChip_live hl, if_neg (ne_true_of_eq_false h)]
  rfl

theorem flrPf_of_not_ok : exec .flrPf s = .next s := by
  rw [exec_flrPf, execFlrPf, onChip_live hl, if_neg (ne_true_of_eq_false h)]
  rfl

end

/-! ### The link goes down and comes up (R348, R349) -/

section
variable {s : State} (hl : live s.chip = true)
include hl

theorem linkDown_of_up (hw : 0 < s.chip.pci.width) :
    exec .pcieLinkDown s = .next (after s ((List.range 16).foldl bwCut
      (raise { s.chip with pci := { s.chip.pci with width := 0, speed := 0, flit := false } } .pciLinkDown 0))) := by
  rw [exec_pcieLinkDown, execPcieLinkDown, onChip_live hl, pcieDown, if_neg hw.ne']

theorem linkDown_of_down (hw : s.chip.pci.width = 0) : exec .pcieLinkDown s = .next s := by
  rw [exec_pcieLinkDown, execPcieLinkDown, onChip_live hl, pcieDown, if_pos hw]
  rfl

variable {w : Fin 6} {v : Fin 7} (f : Bool)

theorem linkUp_of_training (hw : w.val ≠ 0) (hv : v.val ≠ 0) (hi : islandRuns s.chip 19 = true) :
    exec (.pcieLinkUp w v f) s = .next (after s (deliverHeld { s.chip with pci := { s.chip.pci with
      width := w.val, speed := v.val, flit := decide (v.val = 6) } })) := by
  rw [exec_pcieLinkUp, execPcieLinkUp, onChip_live hl, if_neg (by simp [hw, hv, hi])]

theorem linkUp_of_none (h : w.val = 0 ∨ v.val = 0 ∨ islandRuns s.chip 19 = false) :
    exec (.pcieLinkUp w v f) s = .next s := by
  rw [exec_pcieLinkUp, execPcieLinkUp, onChip_live hl, if_pos (by simpa using h)]
  rfl

end

/-! ### The statement -/

/-- Settles O36: a request as its ECRC, its kind, its function and the phase say (logs 83, 135 and 169); resets and the
link where there is one. -/
theorem hostSide : Obligations.HostSide := by
  unfold Obligations.HostSide
  intro s hl
  refine ⟨?inbound, fun hn r => inbound_of_no_link hl hn, fun hw => ⟨fun hb => ?boot, fun h1 h2 => ?firmware⟩,
    fun hp hw hi => ⟨flrVf_of_ok hl ((flrOk_iff _).mpr ⟨hp, hw, hi⟩), flrPf_of_ok hl ((flrOk_iff _).mpr ⟨hp, hw, hi⟩)⟩,
    fun hn => ⟨flrVf_of_not_ok hl (flrOk_eq_false hn), flrPf_of_not_ok hl (flrOk_eq_false hn)⟩,
    linkDown_of_up hl, fun hw => ⟨linkDown_of_down hl hw, configuration_of_no_link hl hw⟩,
    fun w v f => ⟨linkUp_of_training hl f, linkUp_of_none hl f⟩⟩
  case boot => exact configuration_of_link hl hw (cfgStatus_of_boot 0 hb)
  case firmware => exact configuration_of_link hl hw (cfgStatus_of_firmware h1 h2)
  case inbound =>
    rintro r hw hi f rfl ch hch
    have hch : ch = arrived s.chip r := hch
    subst hch
    refine ⟨inbound_of_bad_ecrc hl hw hi, fun he => ⟨fun x hx => ?config, fun hx y => inbound_of_bar hl hw hi he hx⟩,
      fun hp => ?_, fun ho => ?_, fun hf hb hp => ?_, fun hf hb hp ho hlen => ?hbm⟩
    case config =>
      rw [inbound_of_config hl hw hi he hx]
      refine ⟨fun hc => by rw [cfgAccess_of_retry hc], fun hc => by rw [cfgAccess_of_unsupported hc], fun hc =>
        ⟨fun bs hbs => by rw [cfgAccess_of_write hc hbs], fun hr => by rw [cfgAccess_of_read hc hr]⟩⟩
    · rw [serveBar_of_reset (by simp [hp]), urResp_resp]
    · rw [serveBar_of_shut (by simp [ho]), urResp_resp]
    · rw [serveBar_hbm_of_early (by simp [hf]) (by simp [hb]) (by simp [hp]), urResp_resp]
    case hbm =>
      rw [serveBar_hbm (by simp [hf]) (by simp [hb]) (by simp [hp]) (by simp [ho]) (by simpa using hlen)]
      refine ⟨fun bs hbs => ?_, ?_⟩
      · rw [barFit_of_write hbs, hostHbm_of_write rfl, hf]
        rfl
      · rintro hr ts rfl
        rw [barFit_of_read hr]
        exact ⟨hostHbm_of_held hr, hostHbm_of_going hr⟩

end Sys2Proof.HostPort
end

section
/-! Proofs about the commands of the system (12_memory.md R280, R281, 16_host_offload.md R356,
23_power_security_management.md R486, R490 to R494): updates, attestation, repairs, the offload queue and the power cap,
and the statement SystemCommands. -/

namespace Sys2Proof.SystemCommands
open Sys2Proof Sys2Proof.Machine Sys2Proof.Claims Sys2Proof.Laws Sys2Proof.ArrayCommands

variable {s : State} {k : Stream} {c : Cmd}

/-! ### Commands that see what outlives resets (R385, R390) -/

section
variable {n : Nat} {mine : Nat → Bool} {chk : Nat → List (Nat × Nat) × List Nat}
variable {f : Chip → NonVol → Cmd → Chip × NonVol × Rsp} {ch : Chip} {r : Rsp} (ht : Taking s k n mine chk c)
include ht

theorem runNv_eq {nv : NonVol} (h : f s.chip s.nv c = (ch, nv, r)) :
    runNv s k n mine chk f = .next { answered s k c ch r with nv := nv } := by
  rw [runNv_of_taking ht, h]
  rfl

/-- A command that keeps what outlives resets is answered as any other. -/
theorem runNv_eq_kept (h : f s.chip s.nv c = (ch, s.nv, r)) : runNv s k n mine chk f = .next (answered s k c ch r) :=
  runNv_eq ht h

end

/-! ### Updates and owners (R410, R411, R490, R491, R494) -/

theorem imageFits_checks {ch : Chip} {nv : NonVol} {v : Verdict} {a n kind : Nat}
    (h : imageFits ch nv v a n kind = true) :
    v.magicOk = true ∧ minVerOf nv (kind - 1) ≤ headVer (rdBytes ch a 64) ∧
      (if kind = 1 ∧ nv.owners ≠ [] then v.ownerOk else v.vendorOk) = true := by
  simp only [imageFits, headFits, signed, Bool.and_eq_true, decide_eq_true_eq, beq_iff_eq, bne_iff_ne] at h
  obtain ⟨⟨⟨hmagic, hsign⟩, -, hver⟩, -⟩ := h
  exact ⟨hmagic, hver, hsign⟩

theorem signed_owned (nv : NonVol) (v : Verdict) :
    signed nv true v = if nv.owners = [] then v.vendorOk else v.ownerOk := by
  by_cases h : nv.owners = [] <;> simp [signed, h]

/-- The bytes of an update's object, as the host sends them. -/
def updateRead (ch : Chip) (h : HostIn) (raw : Nat) : Chip := hostRead ch 0 h [(pb raw 13 8, pb raw 19 16)]

/-- Command `i` is the update of action `a`: it reads an object from the host, and where that is what it should be
(`ok`), what outlives resets becomes `nv`. -/
def IsUpdate (s : State) (k : Stream) (c : Cmd) (h : HostIn) (i : Instr) (a : Nat) (ok : Bool) (nv : NonVol) : Prop :=
  ∃ f check put, exec i s = runNv s k 0xB1 (actRow a 4) updateChk f ∧
    f s.chip s.nv c = updateFrom s.chip s.nv c h check put ∧
    check (updateRead s.chip h c.raw) (pb c.raw 13 8) (pb c.raw 19 16) = ok ∧ put s.nv = nv

section
variable (h : HostIn) (v : Verdict)

theorem firmware_isUpdate : IsUpdate s k c h (.fwUpdateFirmware k h v) 0
    (imageFits (updateRead s.chip h c.raw) s.nv v (pb c.raw 13 8) (pb c.raw 19 16) 2)
    { s.nv with preferFwB := !fwSlotB s.chip } :=
  ⟨_, fun x a n => imageFits x s.nv v a n 2, fun nv => { nv with preferFwB := !fwSlotB s.chip },
    exec_fwUpdateFirmware k h v s, rfl, rfl, rfl⟩

theorem configuration_isUpdate : IsUpdate s k c h (.fwUpdateConfiguration k h v) 1
    (imageFits (updateRead s.chip h c.raw) s.nv v (pb c.raw 13 8) (pb c.raw 19 16) 1)
    { s.nv with preferCfgB := !cfgSlotB s.chip } :=
  ⟨_, fun x a n => imageFits x s.nv v a n 1, fun nv => { nv with preferCfgB := !cfgSlotB s.chip },
    exec_fwUpdateConfiguration k h v s, rfl, rfl, rfl⟩

theorem owner_isUpdate : IsUpdate s k c h (.fwUpdateOwner k h v) 2
    ((if s.nv.owners = [] then v.vendorOk else v.ownerOk) &&
      recordOk (updateRead s.chip h c.raw) s.nv (pb c.raw 13 8) (pb c.raw 19 16))
    { s.nv with owners := s.nv.owners ++ [recordKey h s.chip (pb c.raw 13 8)] } :=
  ⟨_, fun x a n => signed s.nv true v && recordOk x s.nv a n,
    fun nv => { nv with owners := nv.owners ++ [recordKey h s.chip (pb c.raw 13 8)] },
    exec_fwUpdateOwner k h v s, rfl, by rw [signed_owned], rfl⟩

end

section
variable {a : Nat} {h : HostIn} {i : Instr} {ok : Bool} {nv : NonVol}
variable (ht : Taking s k 0xB1 (actRow a 4) updateChk c) (hu : IsUpdate s k c h i a ok nv)
include ht hu

theorem update_of_stopped (hp : islandRuns s.chip 22 = false) :
    exec i s = .next (answered s k c s.chip (rspOf 0x14)) := by
  obtain ⟨f, check, put, hi, hf, -, -⟩ := hu
  rw [hi]
  refine runNv_eq_kept ht (hf.trans ?_)
  simp [updateFrom, hp]

variable (hp : islandRuns s.chip 22 = true)
include hp

theorem update_of_beyond (hw : pb c.raw 13 8 < outBase ∨ 2 * outBase < pb c.raw 13 8 + pb c.raw 19 16) :
    exec i s = .next (answered s k c s.chip (rspOf 0x1C)) := by
  obtain ⟨f, check, put, hi, hf, -, -⟩ := hu
  rw [hi]
  refine runNv_eq_kept ht (hf.trans ?_)
  simp [updateFrom, fromHost, hp, hw]

variable (h1 : outBase ≤ pb c.raw 13 8) (h2 : pb c.raw 13 8 + pb c.raw 19 16 ≤ 2 * outBase)
include h1 h2

theorem update_of_failed (hb : hostBad s.chip h = true) :
    exec i s = .next (answered s k c (updateRead s.chip h c.raw) (rspOf 0x1D)) := by
  obtain ⟨f, check, put, hi, hf, -, -⟩ := hu
  rw [hi]
  refine runNv_eq_kept ht (hf.trans ?_)
  simp [updateFrom, fromHost, updateRead, hp, h1.not_gt, h2.not_gt, hb]

variable (hb : hostBad s.chip h = false)
include hb

/-- An object that is not what it should be changes nothing that outlives resets. -/
theorem update_of_refused (ho : ok = false) :
    exec i s = .next (answered s k c (updateRead s.chip h c.raw) (rspOf 0x1B)) := by
  obtain ⟨f, check, put, hi, hf, hc, -⟩ := hu
  rw [hi]
  refine runNv_eq_kept ht (hf.trans ?_)
  rw [updateRead, ho] at hc
  simp [updateFrom, fromHost, updateRead, hp, h1.not_gt, h2.not_gt, hb, hc]

theorem update_of_accepted (ho : ok = true) :
    exec i s = .next { answered s k c (updateRead s.chip h c.raw) rspOk with nv := nv } := by
  obtain ⟨f, check, put, hi, hf, hc, hn⟩ := hu
  rw [hi]
  refine runNv_eq ht (hf.trans ?_)
  rw [updateRead, ho] at hc
  simp [updateFrom, fromHost, updateRead, hp, h1.not_gt, h2.not_gt, hb, hc, hn]

end

section
variable (ht : Taking s k 0xB1 (actRow 3 4) (fun _ => ([(0, 0)], [])) c)
include ht

theorem raiseVersions_of_stopped (hp : islandRuns s.chip 22 = false) :
    exec (.fwUpdateRaise k) s = .next (answered s k c s.chip (rspOf 0x14)) := by
  rw [exec_fwUpdateRaise, execFwUpdateRaise]
  exact runNv_eq_kept ht (if_pos (ne_true_of_eq_false hp))

theorem raiseVersions_of_running (hp : islandRuns s.chip 22 = true) :
    exec (.fwUpdateRaise k) s = .next { answered s k c
      (raiseIf (anyLower s.nv.minVer (runningVer s.chip)) s.chip .pwrLockRefused 0) rspOk with
      nv := { s.nv with minVer := raiseAll s.nv.minVer (runningVer s.chip) } } := by
  rw [exec_fwUpdateRaise, execFwUpdateRaise]
  exact runNv_eq ht (if_neg (not_not.mpr hp))

end

/-! ### ATTEST_REPORT (R493) -/

section
variable {sig : List Byte} (ht : Taking s k 0xB0 anyRow attestChk c)
include ht

theorem attest_of_stopped (hp : islandRuns s.chip 22 = false) :
    exec (.attestReport k sig) s = .next (answered s k c s.chip (rspOf 0x14)) := by
  rw [exec_attestReport, execAttestReport]
  exact runNv_eq_kept ht (if_pos (ne_true_of_eq_false hp))

variable (hp : islandRuns s.chip 22 = true)
include hp

theorem attest_of_no_identity (hf : s.chip.sys.sec.pufFail = true) :
    exec (.attestReport k sig) s = .next (answered s k c s.chip (rspOf 0x1B)) := by
  rw [exec_attestReport, execAttestReport]
  exact runNv_eq_kept ht ((if_neg (not_not.mpr hp)).trans (if_pos hf))

theorem attest_reports (hf : s.chip.sys.sec.pufFail = false) {bs : List Byte}
    (hb : bs = reportHead s.chip s.nv k.fn.val (pb c.raw 31 0) ++ fitBytes sig 29792 ++
      (if pbit c.raw 40 0 0 = 1 then identityBytes 64 certLen else [])) :
    buffered s k c (.attestReport k sig) (pb c.raw 37 32) bs (rspData 0 4 (leBytes bs.length 4)) := by
  subst hb
  refine buffered_of_toBuffer ?_
  rw [exec_attestReport, execAttestReport]
  exact runNv_eq_kept ht ((if_neg (not_not.mpr hp)).trans (if_neg (ne_true_of_eq_false hf)))

end

/-! ### HBM_REPAIR (R280, R281) -/

theorem repairQuery_reports
    (ht : Taking s k 0xC0 anyRow (fun raw => ([(0, 0), (8, 15)], badIf (15 < pb raw 0 0) 0)) c) {cs : List Cand}
    (hc : cs = (stackOf s.chip (pb c.raw 0 0)).cands) :
    buffered s k c (.hbmRepairQuery k) (pb c.raw 15 8)
      ((List.range 64).flatMap (pcRecord s.nv (pb c.raw 0 0)) ++ cs.flatMap candRecord)
      (rspData 0 6 (le16 (stackLeft s.nv (pb c.raw 0 0) 0) ++ le16 (stackLeft s.nv (pb c.raw 0 0) 1) ++
        leBytes cs.length 2)) := by
  subst hc
  refine buffered_of_toBuffer ?_
  rw [exec_hbmRepairQuery, execHbmRepairQuery]
  exact runNv_eq_kept ht rfl

section
variable (ht : Taking s k 0xC1 anyRow applyChk c) {ch : Chip}
include ht

theorem repairApply_of_start_refusal {r : Rsp} (hr : repairStart s.chip s.nv c.raw = (ch, some r)) :
    exec (.hbmRepairApply k) s = .next (answered s k c ch r) := by
  obtain ⟨hl, hc, hf, hb, hp⟩ := ht
  rw [exec_hbmRepairApply, execHbmRepairApply]
  simp only [hl, hc, hf, hb, hp, hr, not_true_eq_false, Bool.false_eq_true, if_false]
  rfl

theorem repairApply_of_start (hr : repairStart s.chip s.nv c.raw = (ch, none)) :
    exec (.hbmRepairApply k) s = .next (waits s k c ch []) := by
  obtain ⟨hl, hc, hf, hb, hp⟩ := ht
  rw [exec_hbmRepairApply, execHbmRepairApply]
  simp only [hl, hc, hf, hb, hp, hr, not_true_eq_false, Bool.false_eq_true, if_false, settle_stay]
  rfl

end

section
variable (ht : Taking s k 0xC1 anyRow applyChk c)
include ht

theorem repairApply_of_busy (hr : (stackOf s.chip (pb c.raw 0 0)).repair.isSome = true) :
    exec (.hbmRepairApply k) s = .next (answered s k c s.chip (rspOf 0x14)) :=
  repairApply_of_start_refusal ht (if_pos hr)

variable (hr : (stackOf s.chip (pb c.raw 0 0)).repair = none)
include hr

theorem repairApply_of_no_spare
    (hn : sparesLeft s.nv (pb c.raw 0 0) (pb c.raw 1 1) (pb c.raw 3 3) (pb c.raw 2 2) = 0) :
    exec (.hbmRepairApply k) s = .next (answered s k c s.chip (rspOf 0x15)) :=
  repairApply_of_start_refusal ht ((if_neg (by simp [hr])).trans (if_pos hn))

theorem repairApply_blocks
    (hn : 0 < sparesLeft s.nv (pb c.raw 0 0) (pb c.raw 1 1) (pb c.raw 3 3) (pb c.raw 2 2)) :
    exec (.hbmRepairApply k) s = .next (waits s k c (updStack s.chip (pb c.raw 0 0) fun x =>
      { x with repair := some (pb c.raw 1 1) }) []) :=
  repairApply_of_start ht ((if_neg (by simp [hr])).trans (if_neg hn.ne'))

end

/-- A repair that waits is over the next time its command runs (log 20). -/
theorem repairApply_of_waiting (hw : Waiting s k 0xC1 anyRow c) :
    exec (.hbmRepairApply k) s = .next { answered s k c (repairEnd s.chip s.nv c.raw).1 rspOk with
      nv := (repairEnd s.chip s.nv c.raw).2 } := by
  obtain ⟨hl, hc, hd⟩ := hw
  rw [exec_hbmRepairApply, execHbmRepairApply]
  simp only [hl, hc, hd, not_true_eq_false, if_false, if_true]
  rfl

section
variable (hl : live s.chip = true)
include hl

theorem repairApply_of_no_command (hc : cmdIn s.chip (streamIx k) 0xC1 anyRow = none) :
    exec (.hbmRepairApply k) s = .next s := by
  rw [exec_hbmRepairApply, execHbmRepairApply]
  simp only [hl, hc, not_true_eq_false, if_false]

variable (hc : cmdIn s.chip (streamIx k) 0xC1 anyRow = some c) (hd : c.committed = false)
include hc hd

theorem repairApply_of_blocked (hb : blocked s.chip (streamIx k) c = true) :
    exec (.hbmRepairApply k) s = .next s := by
  rw [exec_hbmRepairApply, execHbmRepairApply]
  simp only [hl, hc, hd, hb, not_true_eq_false, Bool.false_eq_true, if_false, if_true]

theorem repairApply_of_refusal (hb : blocked s.chip (streamIx k) c = false) {r : Rsp}
    (hr : refuse s.chip (streamIx k) c (applyChk c.raw).1 (applyChk c.raw).2 = some r) :
    exec (.hbmRepairApply k) s = .next (answered s k c s.chip r) := by
  rw [exec_hbmRepairApply, execHbmRepairApply]
  simp only [hl, hc, hd, hb, hr, not_true_eq_false, Bool.false_eq_true, if_false]
  rfl

end

/-! ### OFFLOAD_CFG and POWER_CAP_SET (R356, R486) -/

section
variable (ht : Taking s k 0xD0 (actRow 0 2) offloadChk c)
include ht

theorem offloadEnable_of_refusal {r : Rsp} (hr : offloadRefusal s.chip (jobId (cmdJob c.raw)) c.raw = some r) :
    exec (.offloadCfgEnable k) s = .next (answered s k c s.chip r) := by
  rw [exec_offloadCfgEnable, execOffloadCfgEnable]
  exact runNow_eq ht (by simp only [hr])

theorem offloadEnable_of_none (hr : offloadRefusal s.chip (jobId (cmdJob c.raw)) c.raw = none) :
    exec (.offloadCfgEnable k) s =
      .next (answered s k c (setBw s.chip (jobId (cmdJob c.raw)).val (newQueue s.chip c.raw)) rspOk) := by
  rw [exec_offloadCfgEnable, execOffloadCfgEnable]
  exact runNow_eq ht (by simp only [hr])

end

theorem offloadDisable_of_taking
    (ht : Taking s k 0xD0 (actRow 1 2) (fun _ => ([(0, 0), (2, 6), (8, 13), (16, 21), (24, 31)], [])) c) :
    exec (.offloadCfgDisable k) s = .next (answered s k c (bwDisable s.chip (jobId (cmdJob c.raw))) rspOk) := by
  rw [exec_offloadCfgDisable, execOffloadCfgDisable]
  exact runNow_eq ht rfl

theorem powerCap_of_taking (ht : Taking s k 0xE0 anyRow capChk c) {v cap : Nat} (hv : v = pb c.raw 1 0)
    (hcap : cap = max 800 (min 2150 (if v = 0 then s.chip.sys.cap0 else v))) :
    exec (.powerCapSet k) s = .next (answered s k c ((List.range 8).foldl (fun x t =>
        if pb c.raw (2 + t) (2 + t) = 0 then x else regPut x .pwrTPoint t 13 8 (pb c.raw (2 + t) (2 + t)))
        (regPut s.chip .pwrCap 0 11 0 cap))
      (rspData (if v = 0 ∨ cap = v then 0 else 2) 4 (leBytes cap 2 ++ leBytes s.chip.sys.pwr.est 2))) := by
  subst hv hcap
  rw [exec_powerCapSet, execPowerCapSet]
  exact runNow_eq ht rfl

/-! ### The statement -/

/-- Settles O48: each command refuses, is answered or waits as the case of its meaning says, and what outlives resets
changes by an accepted update, a raise and the end of a repair alone (logs 20, 106 and 110). -/
theorem systemCommands : Obligations.SystemCommands := by
  unfold Obligations.SystemCommands
  rintro s k c j rfl
  refine ⟨?updates, fun ht => ⟨raiseVersions_of_stopped ht, raiseVersions_of_running ht⟩,
    fun sig ht => ⟨attest_of_stopped ht, attest_of_no_identity ht, fun hp hf bs => attest_reports ht hp hf⟩,
    fun ht cs => repairQuery_reports ht, ?repairs,
    fun ht => ⟨fun r => offloadEnable_of_refusal ht, offloadEnable_of_none ht⟩, offloadDisable_of_taking,
    fun ht v cap => powerCap_of_taking ht⟩
  case updates =>
    rintro h v ch ad n rfl rfl rfl
    refine ⟨fun kind => imageFits_checks, fun a i ok nv hm ht => ?_⟩
    have hu : IsUpdate s k c h i a ok nv := by
      simp only [List.mem_cons, Prod.mk.injEq, List.not_mem_nil, or_false] at hm
      rcases hm with ⟨rfl, rfl, rfl, rfl⟩ | ⟨rfl, rfl, rfl, rfl⟩ | ⟨rfl, rfl, rfl, rfl⟩
      · exact firmware_isUpdate h v
      · exact configuration_isUpdate h v
      · exact owner_isUpdate h v
    exact ⟨update_of_stopped ht hu, update_of_beyond ht hu, fun hp h1 h2 =>
      ⟨update_of_failed ht hu hp h1 h2, update_of_refused ht hu hp h1 h2, update_of_accepted ht hu hp h1 h2⟩⟩
  case repairs =>
    rintro t p kind b row rfl rfl rfl rfl rfl
    refine ⟨fun ht => ⟨repairApply_of_busy ht, repairApply_of_no_spare ht, repairApply_blocks ht⟩, ?_,
      fun hl hc hd => ⟨repairApply_of_blocked hl hc hd, fun r hb => repairApply_of_refusal hl hc hd hb⟩,
      repairApply_of_no_command⟩
    rintro hw ch rfl
    exact repairApply_of_waiting hw

end Sys2Proof.SystemCommands
end

section
/-! Proofs about the synchronisation objects (13_sync_newel.md R286 to R292, R304): what an operation leaves at its
object and at the others, when a wait stays as it is, and the statement ObjectOperations. -/

namespace Sys2Proof.SyncObjects
open Sys2Proof Sys2Proof.Machine Sys2Proof.Claims Sys2Proof.Laws Sys2Proof.ScalarCore Sys2Proof.CoreSync

/-! ### Waits (R288) -/

section
variable (ch : Chip) (o : ObjId)

/-- The evaluation of the waits on an object moves the engines' waits, cores and counters alone. -/
theorem evalWaits_shape : ∃ x0 x1, evalWaits ch o = { engineWaits ch o with cores := x0, cnts := x1 } := by
  unfold evalWaits
  generalize ch.cores = l
  refine List.foldlRecOn l _
    (motive := fun c : Chip => ∃ x0 x1, c = { engineWaits ch o with cores := x0, cnts := x1 })
    ⟨(engineWaits ch o).cores, (engineWaits ch o).cnts, rfl⟩ ?_
  rintro _ ⟨x0, x1, rfl⟩ p _
  split
  · split
    · exact (count_shape (updCore _ p.1 _) _ _).elim fun x1 h => ⟨_, x1, h⟩
    · exact ⟨x0, x1, rfl⟩
  · exact ⟨x0, x1, rfl⟩

@[simp] theorem evalWaits_objs : (evalWaits ch o).objs = ch.objs := by
  obtain ⟨_, _, h⟩ := evalWaits_shape ch o; rw [h]; rfl
@[simp] theorem evalWaits_objPoi : (evalWaits ch o).objPoi = ch.objPoi := by
  obtain ⟨_, _, h⟩ := evalWaits_shape ch o; rw [h]; rfl
@[simp] theorem reportCount_objs (b : Option Nat) : (reportCount ch o b).objs = ch.objs := rfl
@[simp] theorem reportCount_objPoi (b : Option Nat) : (reportCount ch o b).objPoi = ch.objPoi := rfl

variable {ch o}

/-- Where no wait on the object is unseen with its condition true, no core changes. -/
theorem evalWaits_cores_of_unmet (h : ∀ p ∈ ch.cores, ∀ w, p.2.syw = some w → w.obj = some o →
    w.seen = true ∨ waitHolds ch w o = false) : (evalWaits ch o).cores = ch.cores := by
  have keep : evalWaits ch o = engineWaits ch o := by
    refine List.foldlRecOn (motive := (· = engineWaits ch o)) ch.cores _ rfl ?_
    rintro _ rfl p hp
    split
    case h_2 => rfl
    case h_1 w hw =>
      refine if_neg ?_
      rintro ⟨hobj, -, hnew, hmet⟩
      rcases h p hp w hw hobj with hseen | hfalse
      · exact hnew hseen
      · exact Bool.false_ne_true (hfalse.symm.trans hmet)
  rw [keep]
  rfl

end

/-! ### Operations at the home arbiter (R286, R287, R292) -/

section
variable {ch : Chip} {o : ObjId} {port : Nat}

theorem objGet_of_objs {b : Chip} {v : Word} (h : b.objs = tput ch.objs o.val v) :
    objGet b o = v ∧ ∀ x, x ≠ o → objGet b x = objGet ch x := by
  simp only [objGet, h]
  exact ⟨tget_tput_same .., fun x hx => tget_tput_other _ _ _ (Fin.val_ne_of_ne hx)⟩

/-- An addition to an object that is not poisoned, whether it wraps or not. -/
theorem objApply_add_objs (hp : objPoisoned ch o = false) (n : Word) (ix cl : Nat) :
    (objApply.add ch o n ix cl).objs = tput ch.objs o.val (objGet ch o + n) := by
  unfold objApply.add
  simp only [hp, Bool.false_eq_true, if_false, evalWaits_objs, reportCount_objs, fireSource_objs]
  split <;> simp

theorem objApply_add_of_poisoned (hp : objPoisoned ch o = true) (n : Word) (ix cl : Nat) :
    objApply.add ch o n ix cl = ch :=
  if_pos hp

theorem objApply_reset_objs : (objApply ch port o .reset).objs = tput ch.objs o.val 0 := by
  simp [objApply]

theorem objApply_reset_objPoi : (objApply ch port o .reset).objPoi = sdel ch.objPoi o.val := by
  simp [objApply]

theorem objPoisoned_reset : objPoisoned (objApply ch port o .reset) o = false := by
  simp [objPoisoned, objApply_reset_objPoi]

theorem objDeliver_of_enabled (h : enabled ch .syn (objTower o) = true) (op : ObjOp) :
    objDeliver ch port o op = objApply ch port o op :=
  if_pos h

theorem objDeliver_of_held (h : enabled ch .syn (objTower o) = false) (op : ObjOp) :
    objDeliver ch port o op = { ch with ports := ch.ports ++ [⟨port, o, op, false, none⟩] } :=
  if_neg (by simp [h])

end

/-! ### The scrub (R292) -/

section
variable {s : State} {o : ObjId} (hl : live s.chip = true)
include hl

theorem syncObjectScrub_of_found (hp : objPoisoned s.chip o = false) :
    exec (.syncObjectScrub o true) s =
      .next (after s (faultMark (poisonObj s.chip o) (objCluster o * 8))) :=
  exec_of_live hl rfl (if_pos ⟨rfl, by simp [hp]⟩)

/-- A scrub that finds no damage, or that of an object known as poisoned. -/
theorem syncObjectScrub_of_nothing {bad : Bool} (h : bad = false ∨ objPoisoned s.chip o = true) :
    exec (.syncObjectScrub o bad) s = .next s :=
  exec_of_live hl rfl (if_neg (by rcases h with h | h <;> simp [h]))

end

/-- Settles O27: each operation is one delivery, and the scrub poisons what it finds (log 101; R430 and R462 for the
fault source). -/
theorem objectOperations : Obligations.ObjectOperations := by
  unfold Obligations.ObjectOperations
  refine ⟨fun s o p n hl => ?operations, fun s o hl => ⟨syncObjectScrub_of_nothing hl (.inl rfl), fun hp =>
    syncObjectScrub_of_nothing hl (.inr hp), syncObjectScrub_of_found hl, evalWaits_cores_of_unmet⟩⟩
  have signal : exec (.signal o p n) s = .next (after s (objDeliver s.chip p.val o (.signal n))) :=
    onChip_live hl (objDeliver · p.val o _)
  have arrive : exec (.arrive o p) s = .next (after s (objDeliver s.chip p.val o .arrive)) :=
    onChip_live hl (objDeliver · p.val o _)
  have reset : exec (.reset o p) s = .next (after s (objDeliver s.chip p.val o .reset)) :=
    onChip_live hl (objDeliver · p.val o _)
  refine ⟨fun he => ?_, fun he => ?_⟩
  · rw [objDeliver_of_enabled he] at signal arrive reset
    refine ⟨fun hp => ⟨⟨_, signal, objGet_of_objs (objApply_add_objs hp ..)⟩,
      ⟨_, arrive, objGet_of_objs (objApply_add_objs hp ..)⟩⟩, fun hp => ⟨?_, ?_⟩, ⟨_, reset, ?_⟩⟩
    · rw [signal]; exact congrArg (Host.Outcome.next <| after s ·) (objApply_add_of_poisoned hp ..)
    · rw [arrive]; exact congrArg (Host.Outcome.next <| after s ·) (objApply_add_of_poisoned hp ..)
    · obtain ⟨hsame, hother⟩ := objGet_of_objs (objApply_reset_objs (ch := s.chip) (port := p.val))
      exact ⟨hsame, objPoisoned_reset, hother⟩
  · rw [objDeliver_of_held he] at signal arrive reset
    exact ⟨signal, arrive, reset⟩

end Sys2Proof.SyncObjects
end

section
/-! Proofs about the Newel interface (13_sync_newel.md R295 to R305): what its commands answer where the interface runs
and where it does not, what a write of a binding does, and the statements NewelLines and NewelRegisters. -/

namespace Sys2Proof.NewelInterface
open Sys2Proof Sys2Proof.Machine Sys2Proof.Claims Sys2Proof.Laws Sys2Proof.ScalarCore

/-! ### Barrier lines (R300, R302) -/

section
variable {s : State} {b : LineId} (hl : live s.chip = true)
include hl

theorem newelStateReport_of_clocked (hc : s.chip.nwl.clkLost = false) (hi : islandRuns s.chip 23 = true) {ch : Chip}
    (hch : ch = (match s.chip.nwl.flight.find? fun r => r.line == b.val with
      | none => s.chip
      | some r => updNwl s.chip fun x => { x with
          rep := tput x.rep b.val r.count, flight := x.flight.erase r
          holdSub := if r.sub then sdel x.holdSub b.val else x.holdSub })) :
    exec (.newelStateReport b) s = .next (after s
      (if nwlRuns ch = true ∧ lineFree ch b.val = true then barOut ch b.val true else ch)) := by
  subst hch
  exact exec_of_live hl (exec_newelStateReport b s) (if_neg (by simp [hc, hi]))

theorem barrierCompletion_of_stopped (h : nwlRuns s.chip = false) : exec (.barrierCompletion b) s = .next s :=
  exec_of_live hl (exec_barrierCompletion b s) (if_pos (by simp [h]))

section
variable (h : nwlRuns s.chip = true) (hhigh : s.chip.nwl.barOut.getLsbD b.val = true) {ch : Chip}
  (hch : ch = updNwl s.chip fun x => { x with barIn := x.barIn ||| barBit b.val })
include h hhigh hch

theorem barrierCompletion_of_unbound (hb : bound s.chip b.val = false) :
    exec (.barrierCompletion b) s = .next (after s ch) := by
  subst hch
  refine exec_of_live hl (exec_barrierCompletion b s) ?_
  simp only [h, hhigh, hb, not_true_eq_false, if_false, Bool.false_eq_true, not_false_eq_true, if_true]

theorem barrierCompletion_of_bound (hb : bound s.chip b.val = true) :
    exec (.barrierCompletion b) s = .next (after s (updNwl (barOut (raise ch .nwlCompletion 0) b.val false) fun x =>
      { x with
          toSend := x.toSend ++ [⟨b.val, bindArrive s.chip b.val, bindTarget s.chip b.val, bindDone s.chip b.val⟩],
          holdSub := sadd x.holdSub b.val })) := by
  subst hch
  refine exec_of_live hl (exec_barrierCompletion b s) ?_
  simp only [h, hhigh, hb, not_true_eq_false, if_false]

end

section
variable (hc : s.chip.nwl.clkLost = false) (hi : islandRuns s.chip 23 = true)
include hc hi

theorem completion_of_none (h : (s.chip.nwl.toSend.find? fun d => d.line == b.val) = none) :
    exec (.completion b) s = .next s := by
  refine exec_of_live hl (exec_completion b s) ?_
  simp [hc, hi, h]

theorem completion_of_recorded {d : LineDone} (h : (s.chip.nwl.toSend.find? fun d => d.line == b.val) = some d) :
    exec (.completion b) s = .next (after s (objDeliver (objDeliver
      (updNwl s.chip fun x => { x with toSend := x.toSend.erase d }) 10 (objOfNat d.arrive)
      (.completion b.val (BitVec.ofNat 32 d.target))) 10 (objOfNat d.done) (.signal 1))) := by
  refine exec_of_live hl (exec_completion b s) ?_
  simp [hc, hi, h]

end

end

/-! ### The other shared lines (R303, R473) -/

section
variable {s : State} (hl : live s.chip = true)
include hl

theorem nwlTrigFall_of_stopped (h : nwlRuns s.chip = false) : exec .nwlTrigFall s = .next s :=
  exec_of_live hl (exec_nwlTrigFall s) (if_pos (by simp [h]))

theorem nwlTrigFall_of_running (h : nwlRuns s.chip = true) {ch : Chip}
    (hch : ch = (List.range 9).foldl (fun x k => snUrgent x k 8)
      (raise (updNwl s.chip fun x => { x with trigIn := false, trigPull := false }) .nwlTrigSeen 0)) :
    exec .nwlTrigFall s = .next (after s (match ch.obs.arm with
      | some m => if m.system = true ∨ Machine.bit m.sources 0 = true then
          { ch with obs := { ch.obs with trigs := ch.obs.trigs ++ [(1, 0)] } } else ch
      | none => ch)) := by
  refine exec_of_live hl (exec_nwlTrigFall s) ?_
  cases harm : ch.obs.arm <;> simp only [h, not_true_eq_false, if_false, ← hch, harm]

theorem fenceRequest_of_stopped (h : nwlRuns s.chip = false) : exec .fenceRequest s = .next s :=
  exec_of_live hl (exec_fenceRequest s) (if_pos (.inl (by simp [h])))

end

/-- The chip that has seen a fence request. -/
def fenceSeen (ch : Chip) : Chip :=
  raise (updNwl ch fun x => { x with fenceArmed := false, fenceIn := false }) .nwlFenceSeen 0

section
variable (ch : Chip)

/-- Seeing it writes the event register alone of Newel's registers. -/
theorem regGet_fenceSeen {r : Reg} {k : Nat} (h : regAddr r 0 k ≠ regAddr .nwlEvent 0 0) :
    regGet (fenceSeen ch) r 0 k = regGet ch r 0 k :=
  CoreControl.regGet_raise_other _ .nwlFenceSeen h

theorem regAddr_nwlBindA_ne (b : Nat) : regAddr .nwlBindA 0 b ≠ regAddr .nwlEvent 0 0 := by
  simp [regAddr, regInfo, blkBase, blkInfo]
  omega

theorem regAddr_nwlBindB_ne (b : Nat) : regAddr .nwlBindB 0 b ≠ regAddr .nwlEvent 0 0 := by
  simp [regAddr, regInfo, blkBase, blkInfo]
  omega

theorem fenceAct_fenceSeen : regFld (fenceSeen ch) .nwlCfg 0 1 0 = regFld ch .nwlCfg 0 1 0 :=
  congrArg (fld · 1 0) (regGet_fenceSeen ch (by decide))

theorem boundJobs_fenceSeen : boundJobs (fenceSeen ch) = boundJobs ch := by
  have howner (cl : Nat) : owner (fenceSeen ch) cl = owner ch cl := by simp [owner, fenceSeen, updNwl]
  simp only [boundJobs, bound, bindArrive, bindDone, regGet_fenceSeen ch (regAddr_nwlBindA_ne _),
    regGet_fenceSeen ch (regAddr_nwlBindB_ne _), howner]

theorem jobExists_fenceSeen (j : Nat) : jobExists (fenceSeen ch) j = jobExists ch j := by
  rw [jobExists, jobExists, jobOf, jobOf, fenceSeen, raise_jobs, updNwl]

end

/-- The jobs that a fence request halts, as `fence_act` says (R303). -/
def fencedJobs (ch : Chip) : List JobId :=
  match regFld ch .nwlCfg 0 1 0 with
  | 0 => []
  | 1 => boundJobs ch
  | _ => (List.finRange 16).filter fun j => jobExists ch j.val

theorem fencedJobs_fenceSeen (ch : Chip) : fencedJobs (fenceSeen ch) = fencedJobs ch := by
  simp only [fencedJobs, fenceAct_fenceSeen, boundJobs_fenceSeen, jobExists_fenceSeen]

theorem fenceRequest_of_armed {s : State} (hl : live s.chip = true) (h : nwlRuns s.chip = true)
    (ha : s.chip.nwl.fenceArmed = true) : exec .fenceRequest s =
      .next (after s ((fencedJobs (fenceSeen s.chip)).foldl haltJob (fenceSeen s.chip))) := by
  refine exec_of_live hl (exec_fenceRequest s) ?_
  rw [fencedJobs_fenceSeen, fencedJobs]
  simp only [h, ha, not_true_eq_false, or_self, if_false]
  generalize regFld s.chip .nwlCfg 0 1 0 = act
  rcases act with _ | _ | n <;> rfl

/-- Settles O28: each command is its meaning on a live device (line levels: logs 31 and 139). -/
theorem newelLines : Obligations.NewelLines := by
  unfold Obligations.NewelLines
  refine fun s b hl => ⟨fun hc hi ch => newelStateReport_of_clocked hl hc hi, fun h hhigh ch hch =>
      ⟨barrierCompletion_of_unbound hl h hhigh hch, barrierCompletion_of_bound hl h hhigh hch⟩,
    fun hc hi => ⟨completion_of_none hl hc hi, fun d => completion_of_recorded hl hc hi⟩,
    fun h ch => nwlTrigFall_of_running hl h, ?fence,
    fun h => ⟨barrierCompletion_of_stopped hl h, nwlTrigFall_of_stopped hl h, fenceRequest_of_stopped hl h⟩⟩
  rintro h ha ch hch
  have hseen : ch = fenceSeen s.chip := hch
  have hexec := fenceRequest_of_armed hl h ha
  rw [← hseen] at hexec
  refine ⟨fun h0 => ?_, fun h1 => ?_, fun h2 => ?_⟩
  · rw [hexec, fencedJobs, h0]; rfl
  · rw [hexec, fencedJobs, h1]; rfl
  · obtain ⟨n, hn⟩ := Nat.exists_eq_add_of_le' h2
    rw [hexec, fencedJobs, hn]; rfl

/-! ### The clock of Newel (R298) -/

section
variable {s : State} (hl : live s.chip = true)
include hl

theorem nwlClkReturn_of_lost (hc : s.chip.nwl.clkLost = true) (hp : s.chip.phase = 4) {ch : Chip}
    (hch : ch = { s.chip with
      nwl := { s.chip.nwl with clkLost := false }, islRun := s.chip.islRun ||| 0x800000#25 }) :
    exec .nwlClkReturn s = .next (after s (lines ch)) := by
  subst hch
  exact exec_of_live hl (exec_nwlClkReturn s) (if_pos ⟨hc, hp⟩)

theorem nwlClkReturn_of_kept (h : s.chip.nwl.clkLost = false ∨ s.chip.phase ≠ 4) :
    exec .nwlClkReturn s = .next (after s { s.chip with nwl := { s.chip.nwl with clkLost := false } }) := by
  refine exec_of_live hl (exec_nwlClkReturn s) (if_neg ?_)
  rintro ⟨hc, hp⟩
  rcases h with h | h
  · exact Bool.false_ne_true (h.symm.trans hc)
  · exact h hp

end

/-! ### Bindings (R299) -/

section
variable {ch : Chip} {b : Nat} {v : Word}

/-- An unbound line takes its first word, and with `valid` 0 its second. -/
theorem bindWrite_first (h : bound ch b = false) : bindWrite ch b false v = regSet ch .nwlBindA 0 v b := by
  simp [bindWrite, h]

section
variable (h : bound ch b = false) {c : Chip} (hc : c = regSet ch .nwlBindB 0 (v &&& 0xFFFF) b)
include h hc

theorem bindWrite_second_invalid (hv : v.getLsbD 31 = false) : bindWrite ch b true v = c := by
  subst hc
  simp only [bindWrite, h, hv, Bool.false_eq_true, not_true_eq_false, not_false_eq_true, and_self, if_true, if_false]

theorem bindWrite_second_rejected (hv : v.getLsbD 31 = true) (hok : bindOk c b (fld v 15 0) = false) :
    bindWrite ch b true v = raise c .nwlBindReject 0 := by
  subst hc
  simp only [bindWrite, h, hv, hok, Bool.false_eq_true, not_true_eq_false, if_false]

theorem bindWrite_second_valid (hv : v.getLsbD 31 = true) (hok : bindOk c b (fld v 15 0) = true) :
    bindWrite ch b true v = reportCount (barOut (dropLine (regSet c .nwlBindB 0 (v &&& 0x8000FFFF) b) b) b false)
      (objOfNat (bindArrive c b)) none := by
  subst hc
  simp only [bindWrite, h, hv, hok, Bool.false_eq_true, not_true_eq_false, if_true, if_false]

end

section
variable (h : bound ch b = true) {c : Chip} (hc : c = raise ch .nwlCfgIgnored 0)
include h hc

/-- While a binding is valid a write that keeps `valid` is ignored. -/
theorem bindWrite_ignored {second : Bool} (hv : second = false ∨ v.getLsbD 31 = true) :
    bindWrite ch b second v = c := by
  subst hc
  rw [bindWrite, if_pos h]
  refine if_neg ?_
  rintro ⟨hs, h31⟩
  rcases hv with hv | hv
  · exact Bool.false_ne_true (hv.symm.trans hs)
  · exact h31 hv

theorem bindWrite_unbinds (hv : v.getLsbD 31 = false) : bindWrite ch b true v =
    barOut (dropLine (regPut c .nwlBindB 0 31 31 0 b) b) b (enabled c .nwl 0) := by
  subst hc
  simp only [bindWrite, h, hv, Bool.false_eq_true, not_true_eq_false, not_false_eq_true, and_self, if_true, if_false]

end

end

/-- Both words of a binding are reached on one path. -/
theorem nwlBindWrite_eq {s : State} (h : OnBus s .nwlBindA 0) (b : LineId) (second : Bool) (v : Word) :
    exec (.nwlBindWrite b second v) s =
      .next (after s (bindWrite (okBus s .nwlBindA 0) b.val second v)) := by
  cases second
  · exact RegisterBus.onReg_of_onBus h (bindWrite · b.val false v)
  · have hB : OnBus s .nwlBindB 0 := ⟨h.live, h.bus, h.target⟩
    exact RegisterBus.onReg_of_onBus hB (bindWrite · b.val true v)

/-- Settles O29: the loss and the return of the clock, and each write of a binding on the chip that the access has
crossed. -/
theorem newelRegisters : Obligations.NewelRegisters := by
  unfold Obligations.NewelRegisters
  refine fun s hl => ⟨onChip_live hl loseNwlClk, fun hc hp ch => nwlClkReturn_of_lost hl hc hp,
    nwlClkReturn_of_kept hl, fun o ho => ⟨ho, ho⟩, ?bindings,
    fun hb h => RegisterBus.onReg_of_onBus hb (fenceHold · h), ?stopped⟩
  case bindings =>
    rintro hb b v o rfl
    simp only [nwlBindWrite_eq hb]
    have does {x y : Chip} (h : x = y) :
        (.next (after s x) : Host.Outcome State Fault Refusal) = .next (after s y) := by rw [h]
    refine ⟨fun h => ⟨does (bindWrite_first h), fun ch hc => ⟨fun hv => does (bindWrite_second_invalid h hc hv),
      fun hv hok => does (bindWrite_second_rejected h hc hv hok), fun hv hok =>
      does (bindWrite_second_valid h hc hv hok)⟩⟩, fun h ch hc => ⟨does (bindWrite_ignored h hc (.inl rfl)),
      fun hv => does (bindWrite_ignored h hc (.inr hv)), fun hv => does (bindWrite_unbinds h hc hv)⟩⟩
  case stopped =>
    intro hs b second v h i hi
    rcases List.mem_pair.mp hi with rfl | rfl
    · cases second
      · exact RegisterBus.access_of_stopped (r := .nwlBindA) ⟨_, exec_nwlBindWrite ..⟩ hl hs
      · exact RegisterBus.access_of_stopped (r := .nwlBindB) ⟨_, exec_nwlBindWrite ..⟩ hl hs
    · exact RegisterBus.access_of_stopped (r := .nwlCtrl) ⟨_, exec_nwlFenceHold ..⟩ hl hs

end Sys2Proof.NewelInterface
end

section
/-! Proofs about what comes in on a link (13_sync_newel.md R293, R294, R304, 14_fabric_collectives.md R309 to R316):
what the receiver answers to a sequenced flit, what an accepted SIG flit does, what a CTRL flit does and says, and the
statement LinkFlits. -/

namespace Sys2Proof.LinkFlits
open Sys2Proof Sys2Proof.Machine Sys2Proof.Claims Sys2Proof.Laws Sys2Proof.ScalarCore

/-! ### The receiver (R312, R315) -/

section
variable {s : State} {l : LinkId} {f : Flit} (k : Chip → Chip)

theorem receive_of_in_sequence (h : InSequence s l f) : receive s.chip l.val f k = k (accepted s l f) := by
  obtain ⟨-, hup, hpar, hseq, hjob⟩ := h
  unfold receive
  simp only [hup, hpar, hseq, not_true_eq_false, ne_eq, if_false]
  exact if_pos hjob

theorem receive_of_down (h : linkUp s.chip l.val = false) : receive s.chip l.val f k = s.chip :=
  if_pos (by simp [h])

section
variable (h : Incoming s l)
include h

theorem receive_of_bad_parity (hp : f.wpar ≠ wparOf f) : receive s.chip l.val f k =
    rejectFlit (raise s.chip .fabParityReplay (portOf l.val)) l.val true := by
  simp [receive, h.up, hp]

theorem receive_of_wrong_seq (hp : f.wpar = wparOf f) (hs : f.seq.toNat ≠ (linkOf s.chip l.val).rxSeq) :
    receive s.chip l.val f k = rejectFlit s.chip l.val false := by
  simp [receive, h.up, ← hp, hs]

theorem receive_of_other_job (hp : f.wpar = wparOf f) (hs : f.seq.toNat = (linkOf s.chip l.val).rxSeq)
    (hj : carries (accepted s l f) l.val f.jfid = false) :
    receive s.chip l.val f k = raise (accepted s l f) .fabJfidReject (portOf l.val) := by
  unfold receive
  simp only [h.up, hp, hs, not_true_eq_false, ne_eq, if_false]
  exact if_neg (by rw [← accepted, hj]; exact Bool.false_ne_true)

end

end

/-! ### SIG flits (R293, R294, R316) -/

/-- What an accepted SIG flit does: it arrives here, moves on, or finds no route (R316). -/
def sigAccepted (ch : Chip) (port : Nat) (f : Flit) : Chip :=
  if f.dst = ch.nwl.pos then remoteArrive ch f
  else match routeTo ch f.dst.toNat f.jfid with
    | some r => sendFlits ch r.link [⟨{ f with lane := f.lane || r.dateline }, port / 2, 0⟩]
    | none => raise ch .fabNoRoute port

section
variable {s : State} {l : LinkId} {f : Flit}

theorem sigFlit_eq (hl : live s.chip = true) (ht : f.ftype = 3) :
    exec (.sigFlit l f) s = .next (after s (receive s.chip l.val f fun c => sigAccepted c (portOf l.val) f)) := by
  exact exec_of_live hl (exec_sigFlit l f s) (if_neg (not_not.mpr ht))

theorem sigFlit_of_in_sequence (h : InSequence s l f) (ht : f.ftype = 3) :
    exec (.sigFlit l f) s = .next (after s (sigAccepted (accepted s l f) (portOf l.val) f)) := by
  rw [sigFlit_eq h.live ht, receive_of_in_sequence _ h]

end

section
variable {ch : Chip} {f : Flit} {port : Nat}

theorem sigAccepted_of_route (hd : f.dst ≠ ch.nwl.pos) {r : Route} (hr : routeTo ch f.dst.toNat f.jfid = some r) :
    sigAccepted ch port f = sendFlits ch r.link [⟨{ f with lane := f.lane || r.dateline }, port / 2, 0⟩] := by
  simp [sigAccepted, hd, hr]

theorem sigAccepted_of_no_route (hd : f.dst ≠ ch.nwl.pos) (hr : routeTo ch f.dst.toNat f.jfid = none) :
    sigAccepted ch port f = raise ch .fabNoRoute port := by
  simp [sigAccepted, hd, hr]

/-- What a SIG flit does at its object (R309; log 136). -/
def sigOp (f : Flit) : ObjOp :=
  if f.poison then .poison else .signal (BitVec.ofNat 32 (leNat ((f.payload.drop 4).take 4)))

theorem sigOp_of_poison (h : f.poison = true) : sigOp f = .poison := if_pos h

theorem sigOp_of_clean (h : f.poison = false) :
    sigOp f = .signal (BitVec.ofNat 32 (leNat ((f.payload.drop 4).take 4))) :=
  if_neg (by simp [h])

section
variable {o : ObjId} (hd : f.dst = ch.nwl.pos) (ho : leNat (f.payload.take 2) = o.val)
include hd ho

theorem sigAccepted_here : sigAccepted ch port f =
    if remoteOk ch o f.jfid then objDeliverAs ch 9 o (sigOp f) (some f.jfid) else remoteReject ch o := by
  have hin : leNat (f.payload.take 2) < 65536 := ho ▸ o.isLt
  have hobj : (⟨leNat (f.payload.take 2), hin⟩ : ObjId) = o := Fin.ext ho
  rw [sigAccepted, if_pos hd, remoteArrive]
  simp only [dif_pos hin, hobj]
  rfl

theorem sigAccepted_of_reject (hok : remoteOk ch o f.jfid = false) : sigAccepted ch port f = remoteReject ch o := by
  rw [sigAccepted_here hd ho, if_neg (by simp [hok])]

theorem sigAccepted_of_enabled (hok : remoteOk ch o f.jfid = true) (he : enabled ch .syn (objTower o) = true) :
    sigAccepted ch port f = objApply ch 9 o (sigOp f) := by
  rw [sigAccepted_here hd ho, if_pos hok, objDeliverAs, if_pos he]

theorem sigAccepted_of_held (hok : remoteOk ch o f.jfid = true) (he : enabled ch .syn (objTower o) = false) :
    sigAccepted ch port f = { ch with ports := ch.ports ++ [⟨9, o, sigOp f, false, some f.jfid⟩] } := by
  rw [sigAccepted_here hd ho, if_pos hok, objDeliverAs, if_neg (by simp [he])]

end

theorem objApply_poison_of_poisoned {o : ObjId} (h : objPoisoned ch o = true) : objApply ch port o .poison = ch :=
  if_pos h

theorem objApply_poison_of_clean {o : ObjId} (h : objPoisoned ch o = false) :
    objApply ch port o .poison = poisonObj ch o :=
  if_neg (by simp [h])

end

/-! ### Rejected flits, CTRL flits and reserved types (R310, R312, R333) -/

section
variable {s : State} {l : LinkId}

section
variable (h : Incoming s l)
include h

theorem flitReject_of_up (why : RejectCause) : exec (.flitReject l why) s = .next (after s (match why with
    | .fec => rejectFlit (regSat (count (raise s.chip .fabFecUncorr (portOf l.val)) (cntPort l.val 4) 1) .fabFecCnt
        (portOf l.val) 31 16 1) l.val true
    | .parity => rejectFlit (raise s.chip .fabParityReplay (portOf l.val)) l.val true
    | .seq => rejectFlit s.chip l.val false
    | .corrected => regSat (count s.chip (cntPort l.val 3) 1) .fabFecCnt (portOf l.val) 15 0 1)) := by
  refine exec_of_live h.live (exec_flitReject l why s) ?_
  cases why <;> simp only [h.up, not_true_eq_false, if_false]

/-- Acknowledged flits leave the buffer, credits return, a NAK replays, and waiting flits go (R312). -/
theorem ctrlFlit_of_up {x : Ctrl} {n : Nat}
    (hn : n = (match (linkOf s.chip l.val).sent.findIdx? fun y => y.f.seq == x.ackSeq with
      | some i => i + 1 | none => 0))
    {ch : Chip} (hch : ch = updLink s.chip l.val fun k => { k with
      sent := k.sent.drop n
      ackAt := if n = 0 then k.ackAt else s.chip.us
      back := (List.range 6).map fun c => (c, (x.credits.getD c 0).toNat) })
    {y : Chip} (hy : y = if x.nak then replayLink ch l.val else ch) :
    exec (.ctrlFlit l x) s = .next (after s (pump y l.val (linkOf y l.val).wait.length)) := by
  subst hn hch hy
  exact exec_of_live h.live (exec_ctrlFlit l x s) (if_neg (by simp [h.up]))

theorem ctrlFlitSend_of_owed (ho : 0 < (linkOf s.chip l.val).owe ∨ (linkOf s.chip l.val).nak = 1) :
    exec (.ctrlFlitSend l) s = .next (after s (updLink s.chip l.val fun k => { k with
      owe := 0
      nak := if k.nak = 1 then 2 else k.nak
      ctrlOut := some { ackSeq := BitVec.ofNat 12 (k.rxSeq + 4095), nak := k.nak == 1
                        credits := (List.range 6).map fun i => BitVec.ofNat 16 (tget k.given 0 i) } })) := by
  have howed : ¬ ((linkOf s.chip l.val).owe = 0 ∧ (linkOf s.chip l.val).nak ≠ 1) :=
    fun ⟨howe, hnak⟩ => ho.elim (Nat.ne_of_gt · howe) hnak
  refine exec_of_live h.live (exec_ctrlFlitSend l s) ?_
  simp only [h.up, not_true_eq_false, false_or, if_neg howed, updLink]

theorem ctrlFlitSend_of_nothing (ho : (linkOf s.chip l.val).owe = 0) (hn : (linkOf s.chip l.val).nak ≠ 1) :
    exec (.ctrlFlitSend l) s = .next s :=
  exec_of_live h.live (exec_ctrlFlitSend l s) (if_pos (.inr ⟨ho, hn⟩))

end

variable {f : Flit} (hl : live s.chip = true)
include hl

theorem proto_of_trained (hr : portRuns s.chip l.val = true)
    (hst : (linkOf s.chip l.val).st = 2 ∨ (linkOf s.chip l.val).st = 3) (hp : f.wpar = wparOf f)
    (ht : knownType f.ftype = false) :
    exec (.proto l f) s = .next (after s (raise s.chip .fabProto (portOf l.val))) :=
  exec_of_live hl (exec_proto l f s) (if_pos ⟨hr, hst, hp, by simp [ht]⟩)

theorem proto_of_bad_or_known (h : f.wpar ≠ wparOf f ∨ knownType f.ftype = true) :
    exec (.proto l f) s = .next s := by
  refine exec_of_live hl (exec_proto l f s) (if_neg ?_)
  rintro ⟨-, -, hp, ht⟩
  exact h.elim (· hp) ht

section
variable (hdown : linkUp s.chip l.val = false)
include hdown

theorem sigFlit_of_down : exec (.sigFlit l f) s = .next s := by
  by_cases ht : f.ftype = 3
  · rw [sigFlit_eq hl ht, receive_of_down _ hdown]
    rfl
  · exact exec_of_live hl (exec_sigFlit l f s) (if_pos ht)

theorem flitReject_of_down (why : RejectCause) : exec (.flitReject l why) s = .next s :=
  exec_of_live hl (exec_flitReject l why s) (if_pos (by simp [hdown]))

theorem ctrlFlit_of_down (x : Ctrl) : exec (.ctrlFlit l x) s = .next s :=
  exec_of_live hl (exec_ctrlFlit l x s) (if_pos (by simp [hdown]))

theorem ctrlFlitSend_of_down : exec (.ctrlFlitSend l) s = .next s :=
  exec_of_live hl (exec_ctrlFlitSend l s) (if_pos (.inl (by simp [hdown])))

end

end

/-- Settles O30: the receiver accepts or rejects, and an accepted SIG flit acts as its destination and its object say
(logs 75, 136 and 167). -/
theorem linkFlits : Obligations.LinkFlits := by
  unfold Obligations.LinkFlits
  intro s l f
  refine ⟨?accepted, ?rejected, fun h => ⟨flitReject_of_up h .seq, flitReject_of_up h .parity,
      flitReject_of_up h .fec, flitReject_of_up h .corrected⟩, fun h x n hn ch hch y hy => ctrlFlit_of_up h hn hch hy,
    fun h => ⟨ctrlFlitSend_of_owed h, ctrlFlitSend_of_nothing h⟩, proto_of_trained, proto_of_bad_or_known,
    fun hl hdown => ⟨sigFlit_of_down hl hdown, flitReject_of_down hl hdown, ctrlFlit_of_down hl hdown,
      ctrlFlitSend_of_down hl hdown⟩⟩
  case accepted =>
    rintro h ht ch rfl
    rw [sigFlit_of_in_sequence h ht]
    refine ⟨fun o hd ho => ⟨fun hok => ?_, fun hok hp he => ⟨fun hpoi => ?_, fun hpoi => ?_⟩,
      fun hok hp he => ?_, fun hok hp he => ?_, fun hok hp he => ?_⟩, fun hd r hr => ?_, fun hd hr => ?_⟩
    · rw [sigAccepted_of_reject hd ho hok]
    · rw [sigAccepted_of_enabled hd ho hok he, sigOp_of_poison hp, objApply_poison_of_poisoned hpoi]
    · rw [sigAccepted_of_enabled hd ho hok he, sigOp_of_poison hp, objApply_poison_of_clean hpoi]
    · rw [sigAccepted_of_held hd ho hok he, sigOp_of_poison hp]
    · rw [sigAccepted_of_enabled hd ho hok he, sigOp_of_clean hp]
    · rw [sigAccepted_of_held hd ho hok he, sigOp_of_clean hp]
    · rw [sigAccepted_of_route hd hr]
    · rw [sigAccepted_of_no_route hd hr]
  case rejected =>
    intro h ht
    rw [sigFlit_eq h.live ht]
    refine ⟨fun hp => ?_, fun hp hs => ?_, fun hp hs hj => ?_⟩
    · rw [receive_of_bad_parity _ h hp]
    · rw [receive_of_wrong_seq _ h hp hs]
    · rw [receive_of_other_job _ h hp hs hj]

end Sys2Proof.LinkFlits
end

section
/-! Proofs about Bindweed's queues (16_host_offload.md R349, R356 to R360; 13_sync_newel.md R288): what the push wait,
the start of a PREFETCH and the end of an entry do, and the statement OffloadQueue. -/

namespace Sys2Proof.Offload
open Sys2Proof Sys2Proof.Machine Sys2Proof.Claims Sys2Proof.Laws Sys2Proof.ScalarCore

/-! ### Work that finds nothing to do (log 43) -/

/-- The chip on which a work is looked at. -/
def looked (ch : Chip) : Chip := { ch with land := { ch.land with log := some [] } }

/-- A work that keeps the chip, and does so when it is looked at, touches no memory. -/
theorem exec_of_idle_work {s : State} (hl : live s.chip = true) {i : Instr} {via : Via} {b : Bursts} {f : Chip → Chip}
    (hi : exec i s = onChip s (memWork via b f)) (h : f s.chip = s.chip) (hlook : f (looked s.chip) = looked s.chip) :
    exec i s = .next s := by
  have htouched : touched f s.chip = [] := by rw [touched, ← looked, hlook]; rfl
  exact exec_of_live hl hi ((memWork_untouched htouched).trans h)

/-! ### The push wait (R357) -/

section
variable {ch : Chip} {run : JobRun} {j : JobId} {q : BwQ} (hj : j = run.job) (hq : bwOf ch j.val = some q)
include hj hq

theorem bindweedPushWork_of_unreleased (h : bwRuns ch = false ∨ q.closing = true ∨ q.rel < q.next) :
    bindweedPushWork run ch = ch := by
  subst hj
  simp only [bindweedPushWork, hq]
  exact if_pos (h.imp_left fun hr => by simp [hr])

variable (hr : bwRuns ch = true) (hc : q.closing = false) (hn : q.next ≤ q.rel) {a raw : Nat} {q1 : BwQ} {c : Chip}
  (ha : a = bwAddr q q.next) (hraw : raw = rdNat ch a 64)
  (hq1 : q1 = { q with next := q.next + 1, pushed := q.pushed + 1 })
  (hch : c = setBw (landRange ch (some j) .normal a 64 false) j.val q1)
include hr hc hn ha hraw hq1 hch

theorem bindweedPushWork_of_released : bindweedPushWork run ch =
    if anyPoi ch a 64 = true ∨ ¬ bwValid ch j q raw = true then bwEnd c j q1 ⟨q.next, raw, false, 0, false⟩ 4
    else startOffloads (setBw c j.val { q1 with ents := q1.ents ++ [⟨q.next, raw, false, 0, false⟩] }) j.val 4 := by
  subst hj ha hq1 hch
  rw [hraw]
  simp only [bindweedPushWork, hq, hr, hc, Nat.not_lt.mpr hn, not_true_eq_false, Bool.false_eq_true, or_self, if_false]

theorem bindweedPushWork_of_invalid (hbad : anyPoi ch a 64 = true ∨ bwValid ch j q raw = false) :
    bindweedPushWork run ch = bwEnd c j q1 ⟨q.next, raw, false, 0, false⟩ 4 := by
  rw [bindweedPushWork_of_released hj hq hr hc hn ha hraw hq1 hch]
  exact if_pos (hbad.imp_right fun hv => by simp [hv])

theorem bindweedPushWork_of_valid (hp : anyPoi ch a 64 = false) (hv : bwValid ch j q raw = true) :
    bindweedPushWork run ch =
      startOffloads (setBw c j.val { q1 with ents := q1.ents ++ [⟨q.next, raw, false, 0, false⟩] }) j.val 4 := by
  rw [bindweedPushWork_of_released hj hq hr hc hn ha hraw hq1 hch]
  exact if_neg (by simp [hp, hv])

end

section
variable {s : State} {j : JobId} {q : BwQ} (hl : live s.chip = true) (hq : bwOf s.chip j.val = some q)
include hl hq

theorem bindweedPush_of_unreleased {run : JobRun} (hj : j = run.job)
    (h : bwRuns s.chip = false ∨ q.closing = true ∨ q.rel < q.next) : exec (.bindweedPush run) s = .next s :=
  exec_of_idle_work hl (exec_bindweedPush run s) (bindweedPushWork_of_unreleased hj hq h)
    (bindweedPushWork_of_unreleased (ch := looked s.chip) hj hq h)

/-! ### The order of PREFETCH (R359) -/

theorem prefetchStart_of_shut (h : bwRuns s.chip = false ∨ 4 ≤ bwFlying q) :
    exec (.prefetchStart j) s = .next s := by
  refine exec_of_live hl (exec_prefetchStart j s) ?_
  simp only [hq]
  exact if_pos (h.imp_left fun hr => by simp [hr])

theorem prefetchStart_of_none (he : nextPrefetch s.chip q = none) : exec (.prefetchStart j) s = .next s := by
  refine exec_of_live hl (exec_prefetchStart j s) ?_
  simp [hq, he]

theorem prefetchStart_of_eligible (hr : bwRuns s.chip = true) (hf : bwFlying q < 4) {e : BwEnt}
    (he : nextPrefetch s.chip q = some e) :
    exec (.prefetchStart j) s = .next (after s (setBw s.chip j.val (bwStartEnt q s.chip.us e.k))) := by
  refine exec_of_live hl (exec_prefetchStart j s) ?_
  simp [hq, hr, hf, he]

end

/-! ### The end of an entry (R360) -/

section
variable {ch : Chip} {j : JobId} {q : BwQ} {k : Nat} {o : BwObs} (hq : bwOf ch j.val = some q)
include hq

theorem bindweedEntryDoneWork_of_none (h : (q.ents.find? fun e => e.k == k && e.started) = none) :
    bindweedEntryDoneWork j k o ch = ch := by
  simp only [bindweedEntryDoneWork, hq, h]

theorem bindweedEntryDoneWork_of_flying {e : BwEnt} (h : (q.ents.find? fun e => e.k == k && e.started) = some e)
    {fail : Bool} {c1 came c3 c5 : Chip} {fr : (Nat → Nat) × Chip} {x : Enc} {dl moved : Nat}
    {runs : List (Nat × Nat)}
    (hfail : fail = (o.hostErr || e.cut || !hostOpen ch))
    (hc1 : c1 = (if bwKind e.raw = 2 then hostCells ch o.cells else ch))
    (hcame : came = (if bwKind e.raw = 2 then o.ep.foldl (fun c p => markPoi c p.1 p.2) c1 else c1))
    (hfr : fr = freeBits c1) (hx : x = bwMove came e.raw o.moved fail fr.1)
    (hdl : dl = (match fmtOfCode (eb e.raw 2 2) with | some f => bwBytes f (bwN e.raw) | none => 0))
    (hc3 : c3 = applyOut (landRange fr.2 (some j) .normal (bwDev e.raw) dl (bwKind e.raw == 2)) x.out)
    (hc5 : c5 = raiseIf fail (raiseIf (o.ep != [] && bwKind e.raw == 2)
      (if bwConvert e.raw then watchJob c3 j (bwTid e.raw) x else c3) .pciEpIn 0) .pciHostError 0)
    (hruns : runs = bwHostRuns e.raw (if fail then min o.moved (bwN e.raw) else bwN e.raw))
    (hmoved : moved = runBytes runs) :
    bindweedEntryDoneWork j k o ch = bwClose (startOffloads (bwEnd (setBw
      (count (count (sendTlps c5 (j.val + 1) (bwKind e.raw == 1) runs) (if bwKind e.raw = 1 then 129 else 128) moved)
        (cntPkg (8 * j.val + 5)) moved) j.val
      { q with ents := q.ents.filter fun x => x.k != k }) j q e
        (if fail then 3 else if bwSrcPoi came e.raw then 2 else 1)) j.val 4) j.val := by
  subst hfail hc1 hcame hfr hx hdl hc3 hc5 hruns hmoved
  unfold bindweedEntryDoneWork
  rw [hq]
  cases hfmt : fmtOfCode (eb e.raw 2 2) <;> simp only [h, hfmt]

end

theorem bindweedEntryDone_of_none {s : State} {j : JobId} {q : BwQ} (hl : live s.chip = true)
    (hq : bwOf s.chip j.val = some q) {k : Nat} {o : BwObs}
    (h : (q.ents.find? fun e => e.k == k && e.started) = none) : exec (.bindweedEntryDone j k o) s = .next s :=
  exec_of_idle_work hl (exec_bindweedEntryDone j k o s) (bindweedEntryDoneWork_of_none hq h)
    (bindweedEntryDoneWork_of_none (ch := looked s.chip) hq h)

/-- Settles O37: the pushed entry, the PREFETCH that starts and the entry that ends, each work on the state on which it
goes on (logs 78 and 116). -/
theorem offloadQueue : Obligations.OffloadQueue := by
  unfold Obligations.OffloadQueue
  refine ⟨?queue, ?ends⟩
  case queue =>
    intro s run j q hj hl hq
    refine ⟨fun t a raw q1 ch hgo hq ha hraw hq1 hch hr hc hn => ⟨fun hbad => ?_, fun hp hv => ?_⟩,
      bindweedPush_of_unreleased hl hq hj, waitsOrLoses_of_memWork (exec_bindweedPush run s),
      fun hr hf => ⟨fun e => prefetchStart_of_eligible hl hq hr hf, prefetchStart_of_none hl hq⟩,
      prefetchStart_of_shut hl hq, fun k o => bindweedEntryDone_of_none hl hq,
      fun k o => waitsOrLoses_of_memWork (exec_bindweedEntryDone j k o s)⟩
    · rw [← bindweedPushWork_of_invalid hj hq hr hc hn ha hraw hq1 hch hbad]
      exact memWork_of_goesOn hgo
    · rw [← bindweedPushWork_of_valid hj hq hr hc hn ha hraw hq1 hch hp hv]
      exact memWork_of_goesOn hgo
  case ends =>
    intro s t j q k o e hgo hq he fail c1 came fr x dl c3 c5 runs moved hfail hc1 hcame hfr hx hdl hc3 hc5 hruns hmoved
    rw [← bindweedEntryDoneWork_of_flying hq he hfail hc1 hcame hfr hx hdl hc3 hc5 hruns hmoved]
    exact memWork_of_goesOn hgo

end Sys2Proof.Offload
end

section
/-! Proofs about power, resets, bring-up and the test access port (13_sync_newel.md R297, 19_bring_up.md R406 to R423,
24_package_pins.md R510): what the inputs do, how each phase ends, and the statement BringUpAndPins. -/

namespace Sys2Proof.BringUp
open Sys2Proof Sys2Proof.Machine Sys2Proof.Claims Sys2Proof.Laws Sys2Proof.ScalarCore

/-! ### Power and the reset inputs (R297, R406, R407, R423) -/

section
variable {s : State}

section
variable {p : PowerOn}

theorem pwrOkRise_of_powered (h : s.chip.sys.pins.powered = true) : exec (.pwrOkRise p) s = .next s :=
  congrArg (Host.Outcome.next <| after s ·) (if_pos h)

/-- The cause word of a power-up, by the reset inputs that are low (R423). -/
theorem riseCause_eq (a b : Bool) : BitVec.ofNat 32 (1 + 2 * b2n a + 4 * b2n b) =
    BitVec.ofNat 32 (1 + (if a = true then 2 else 0) + (if b = true then 4 else 0)) := by
  cases a <;> cases b <;> rfl

theorem pwrOkRise_of_unpowered (h : s.chip.sys.pins.powered = false) {rst : Bool}
    (hrst : rst = (s.chip.sys.pins.sysRst || p.sysRst)) {ch : Chip}
    (hch : ch = heldChip s.chip
      (BitVec.ofNat 32 (1 + (if p.perst = true then 2 else 0) + (if rst = true then 4 else 0)))
      ⟨true, true, false, rst, 2000, none⟩) :
    exec (.pwrOkRise p) s = .next (after s { ch with us := 0, nwl := { ch.nwl with pos := p.pos } }) := by
  subst hrst hch
  rw [← riseCause_eq]
  exact congrArg (Host.Outcome.next <| after s ·) (if_neg (by simp [h]))

end

section
variable (h : s.chip.sys.pins.powered = false)
include h

theorem pwrOkFall_of_unpowered : exec .pwrOkFall s = .next s :=
  congrArg (Host.Outcome.next <| after s ·) (if_pos (by simp [h]))

theorem resetRelease_of_unpowered : exec .resetRelease s = .next s :=
  congrArg (Host.Outcome.next <| after s ·) (if_pos (.inl (by simp [h])))

theorem warmReset_of_unpowered (b : Nat) (sys : Bool) : warmReset s.chip b sys = { s.chip with
    sys := { s.chip.sys with pins := { s.chip.sys.pins with sysRst := s.chip.sys.pins.sysRst || sys } } } :=
  if_pos (by simp [h])

theorem perstAssert_of_unpowered : exec .perstAssert s = .next s := by
  have hw := warmReset_of_unpowered h 1 false
  rw [Bool.or_false] at hw
  exact congrArg (Host.Outcome.next <| after s ·) hw

theorem sysRstAssert_of_unpowered : exec .sysRstAssert s = .next (after s
    { s.chip with sys := { s.chip.sys with pins := { s.chip.sys.pins with sysRst := true } } }) := by
  have hw := warmReset_of_unpowered h 2 true
  rw [Bool.or_true] at hw
  exact congrArg (Host.Outcome.next <| after s ·) hw

end

section
variable (h : s.chip.sys.pins.powered = true) {p : Pins} (hp : s.chip.sys.pins = p)
include h hp

theorem pwrOkFall_of_powered : exec .pwrOkFall s =
    .next (after s { heldChip s.chip 1 ⟨false, true, false, p.sysRst, 0, none⟩ with us := 0 }) := by
  subst hp
  exact congrArg (Host.Outcome.next <| after s ·) (if_neg (by simp [h]))

theorem warmReset_of_powered (b : Nat) (sys : Bool) : warmReset s.chip b sys =
    heldChip s.chip (regGet s.chip .pwrResetCause 0 ||| BitVec.ofNat 32 (2 ^ b))
      ⟨true, true, false, p.sysRst || sys, if p.held then p.relAt else 0, none⟩ := by
  subst hp
  exact if_neg (by simp [h])

theorem perstAssert_of_powered : exec .perstAssert s =
    .next (after s (heldChip s.chip (regGet s.chip .pwrResetCause 0 ||| 2)
      ⟨true, true, false, p.sysRst, if p.held then p.relAt else 0, none⟩)) := by
  have hw := warmReset_of_powered h hp 1 false
  rw [Bool.or_false] at hw
  exact congrArg (Host.Outcome.next <| after s ·) hw

theorem sysRstAssert_of_powered : exec .sysRstAssert s =
    .next (after s (heldChip s.chip (regGet s.chip .pwrResetCause 0 ||| 4)
      ⟨true, true, false, true, if p.held then p.relAt else 0, none⟩)) := by
  have hw := warmReset_of_powered h hp 2 true
  rw [Bool.or_true] at hw
  exact congrArg (Host.Outcome.next <| after s ·) hw

theorem resetRelease_of_locked (hheld : p.held = true) (hus : p.relAt ≤ s.chip.us) :
    exec .resetRelease s = .next (after s { s.chip with
      us := 0, isl := [], cnts := [], islRun := Chip.reset.islRun, phase := 0,
      sys := { s.chip.sys with pins := ⟨true, false, false, false, 0, some 0x6C⟩ } }) := by
  subst hp
  exact congrArg (Host.Outcome.next <| after s ·) (if_neg (by simp [h, hheld, hus]))

omit h in
theorem resetRelease_of_waiting (hw : p.held = false ∨ s.chip.us < p.relAt) : exec .resetRelease s = .next s := by
  subst hp
  exact congrArg (Host.Outcome.next <| after s ·) (if_pos (.inr (hw.imp_left fun hh => by simp [hh])))

end

/-! ### BOOT (R414, R415, R420, R421) -/

/-- The cause of a failure lies in the top byte of PWR_BOOT_STAT (R423). -/
theorem regFld_regPut_cause (ch : Chip) {n : Nat} (hn : n < 256) :
    regFld (regPut ch .pwrBootStat 0 31 24 n) .pwrBootStat 0 31 24 = n := by
  have hw := (regGet ch .pwrBootStat 0).isLt
  simp only [regFld, fld, regPut, regGet_regSet_same, BitVec.toNat_ofNat]
  omega

/-- A command that firmware accepts changes neither the phase nor the cause of a failure. -/
theorem acceptCmd_phase (ch : Chip) (f : Nat) : (acceptCmd ch f).phase = ch.phase := by
  unfold acceptCmd
  split <;> simp

theorem failedCause_acceptCmd (ch : Chip) : failedCause (acceptCmd ch 0) = failedCause ch := by
  unfold acceptCmd
  split
  · exact congrArg (fld · 31 24) (regGet_regSet_other _ _ (by decide))
  · rfl

theorem enterFailed_phase (ch : Chip) (n : Nat) : (enterFailed ch n).phase = 5 := by
  unfold enterFailed
  dsimp only
  split
  · rfl
  · exact acceptCmd_phase ..

theorem failedCause_enterFailed (ch : Chip) {n : Nat} (hn : n < 256) : failedCause (enterFailed ch n) = n := by
  unfold enterFailed
  dsimp only
  split
  · exact regFld_regPut_cause _ hn
  · exact (failedCause_acceptCmd _).trans (regFld_regPut_cause _ hn)

section
variable (hl : live s.chip = true)
include hl

theorem bootEnd_of_boot (hp : s.chip.phase = 0) (hi : islandRuns s.chip 20 = true) (o : BootObs) :
    exec (.bootEnd o) s = .next { s with
      chip := bootChip s.chip s.nv o
      nv := if o.spiOk then { s.nv with preferFwB := preferFwB o, preferCfgB := preferCfgB o } else s.nv } :=
  congrArg Host.Outcome.next (if_pos ⟨hl, hp, hi⟩)

theorem failed_of_boot (hp : s.chip.phase = 0) {n : Fin 6} (hn : n.val ≠ 0) :
    exec (.failed n) s = .next (after s (enterFailed s.chip n.val)) :=
  exec_of_live hl (exec_failed n s) (if_pos ⟨hp, hn⟩)

theorem failed_of_later {n : Fin 6} (h : s.chip.phase ≠ 0 ∨ n.val = 0) : exec (.failed n) s = .next s := by
  refine exec_of_live hl (exec_failed n s) (if_neg ?_)
  rintro ⟨hp, hn⟩
  exact h.elim (· hp) hn

end

theorem bootEnd_of_later (h : s.chip.phase ≠ 0 ∨ islandRuns s.chip 20 = false) (o : BootObs) :
    exec (.bootEnd o) s = .next s := by
  refine congrArg Host.Outcome.next (if_neg ?_)
  rintro ⟨-, hp, hi⟩
  exact h.elim (· hp) (Bool.false_ne_true <| ·.symm.trans hi)

/-! ### MEMORY, CALIBRATION, FABRIC and READY (R416 to R419) -/

theorem enterReady_phase (ch : Chip) : (enterReady ch).phase = 4 := rfl

section
variable (hl : live s.chip = true) (hf : fwReady s.chip = true)
include hl hf

theorem memoryEnd_of_memory (hp : s.chip.phase = 1) (b : BitVec 16) (x y : Bool) :
    exec (.memoryEnd b x y) s = .next { s with chip := memoryChip s.chip s.nv b x y, nv := wearBoot s.nv x y } :=
  congrArg Host.Outcome.next (if_pos ⟨hl, hp, hf⟩)

theorem calibrationEnd_of_calibration (hp : s.chip.phase = 2) (hr : refsAwaited s.chip = true) (o : List TraceObs)
    (l : List FirstTrim) : exec (.calibrationEnd o l) s = .next (after s (startFabric
      (regPut { ((o.take 8).zipIdx.foldl (fun c p => calibrateTower l c p.2 p.1) s.chip) with phase := 3 }
        .pwrBootTime1 0 15 0 (msNow s.chip)))) :=
  exec_of_live hl (exec_calibrationEnd o l s) (if_neg (by simp [hp, hf, hr]))

theorem ready_of_fabric (hp : s.chip.phase = 3) (hd : portsDone s.chip = true) :
    exec .ready s = .next (after s (enterReady s.chip)) :=
  exec_of_live hl (exec_ready s) (if_pos ⟨hp, hf, hd⟩)

end

theorem memoryEnd_of_other (h : s.chip.phase ≠ 1 ∨ fwReady s.chip = false) (b : BitVec 16) (x y : Bool) :
    exec (.memoryEnd b x y) s = .next s := by
  refine congrArg Host.Outcome.next (if_neg ?_)
  rintro ⟨-, hp, hf⟩
  exact h.elim (· hp) (Bool.false_ne_true <| ·.symm.trans hf)

section
variable (hl : live s.chip = true)
include hl

theorem calibrationEnd_of_other (h : s.chip.phase ≠ 2 ∨ fwReady s.chip = false ∨ refsAwaited s.chip = false)
    (o : List TraceObs) (l : List FirstTrim) : exec (.calibrationEnd o l) s = .next s :=
  exec_of_live hl (exec_calibrationEnd o l s) (if_pos (by simpa using h))

theorem ready_of_other (h : s.chip.phase ≠ 3 ∨ fwReady s.chip = false ∨ portsDone s.chip = false) :
    exec .ready s = .next s := by
  refine exec_of_live hl (exec_ready s) (if_neg ?_)
  rintro ⟨hp, hf, hd⟩
  rcases h with h | h | h
  · exact h hp
  · exact Bool.false_ne_true (h.symm.trans hf)
  · exact Bool.false_ne_true (h.symm.trans hd)

end

end

/-! ### The test access port (R510; log 27) -/

theorem trst_eq (s : State) : exec (.testAccessPort .trst) s = .next (after s
    { s.chip with sys := { s.chip.sys with tap := ⟨15, 1, [], s.chip.sys.tap.tdo⟩ } }) := rfl

theorem tck_eq (s : State) (tms tdi : Bool) :
    exec (.testAccessPort (.tck tms tdi)) s = .next (after s (tapClock s.chip tms tdi)) := rfl

section
variable (ch : Chip) (tms tdi : Bool)

theorem tapClock_st : (tapClock ch tms tdi).sys.tap.st = tapNext ch.sys.tap.st tms := rfl

/-- An edge of TCK changes the port and the count of free values alone. -/
theorem tapClock_frame : tapClock ch tms tdi = { ch with
    free := (tapClock ch tms tdi).free, sys := { ch.sys with tap := (tapClock ch tms tdi).sys.tap } } := rfl

end

/-- Settles O55: the inputs act on every device, and each phase ends as its own command says (logs 27, 32, 35 and 37 to
39). -/
theorem bringUpAndPins : Obligations.BringUpAndPins := by
  unfold Obligations.BringUpAndPins
  refine ⟨fun s => ⟨fun p => ⟨fun h rst ch hrst hch => pwrOkRise_of_unpowered h hrst hch,
        pwrOkRise_of_powered⟩,
      fun h => ⟨pwrOkFall_of_unpowered h, resetRelease_of_unpowered h, perstAssert_of_unpowered h,
        sysRstAssert_of_unpowered h⟩,
      fun h p hp => ⟨pwrOkFall_of_powered h hp, perstAssert_of_powered h hp, sysRstAssert_of_powered h hp,
        resetRelease_of_locked h hp, resetRelease_of_waiting hp⟩,
      fun hl => ⟨bootEnd_of_boot hl, fun hp n hn => ⟨_, failed_of_boot hl hp hn, enterFailed_phase ..,
        failedCause_enterFailed _ (by omega)⟩, bootEnd_of_later, fun n => failed_of_later hl⟩,
      fun hl hf => ⟨memoryEnd_of_memory hl hf, calibrationEnd_of_calibration hl hf,
        fun hp hd => ⟨_, ready_of_fabric hl hf hp hd, enterReady_phase _⟩,
        fun _ hd => ready_of_other hl (.inr (.inr hd))⟩,
      fun hl => ⟨memoryEnd_of_other, calibrationEnd_of_other hl, fun h => ready_of_other hl (h.imp_right .inl)⟩⟩,
    fun s => ⟨trst_eq s, fun a b => ⟨_, tck_eq s a b, tapClock_st .., tapClock_frame ..⟩⟩⟩

end Sys2Proof.BringUp
end

section
/-! Proofs about the whole machine (00_scope.md, 19_bring_up.md R407, R408, 23_power_security_management.md R488, R490,
R491, R494): how every command answers, what it does to the lock region, and the statements StepRunsTheFront,
EveryCommandGoes, DeadDeviceKeepsStill, LockRegionOnlyGrows and LockRegionAtReset. -/

namespace Sys2Proof.WholeMachine
open Sys2Proof Sys2Proof.Machine Sys2Proof.Claims Sys2Proof.Laws Sys2Proof.Safety

/-! ### The two kinds of commands that do not act on the running chip alone -/

/-- The power and reset inputs and the test access port: they act whether the device runs or not (R407, R408; log 3). -/
def actsOnPins (i : Instr) : Bool :=
  match i with
  | .pwrOkRise _ | .pwrOkFall | .perstAssert | .sysRstAssert | .resetRelease | .testAccessPort _ => true
  | _ => false

/-- The commands that may change what outlives resets (R45, R281, R410, R416, R490). -/
def mayChangeNv (i : Instr) : Bool :=
  match i with
  | .wearLogWrite | .bootEnd _ | .memoryEnd _ _ _ | .testPackLoad _ _ _ | .attestReport _ _ | .fwUpdateFirmware _ _ _
  | .fwUpdateConfiguration _ _ _ | .fwUpdateOwner _ _ _ | .fwUpdateRaise _ | .hbmRepairQuery _ | .hbmRepairApply _ => true
  | _ => false

/-- The outcome is a change of the chip alone, and of that only while the device runs. -/
def ActsOnChip (s : State) (o : Host.Outcome State Fault Refusal) : Prop :=
  ∃ ch, o = .next (if live s.chip = true then after s ch else s)

/-- Every other command acts on the chip of a device that runs. -/
theorem actsOnChip_exec {i : Instr} (hp : actsOnPins i = false) (hn : mayChangeNv i = false) (s : State) :
    ActsOnChip s (exec i s) := by
  cases i
  case pwrOkRise | pwrOkFall | perstAssert | sysRstAssert | resetRelease | testAccessPort => cases hp
  case wearLogWrite | bootEnd | memoryEnd | testPackLoad | attestReport | fwUpdateFirmware | fwUpdateConfiguration
    | fwUpdateOwner | fwUpdateRaise | hbmRepairQuery | hbmRepairApply => cases hn
  case obsHmStatRead m =>
    rw [exec_obsHmStatRead, execObsHmStatRead]
    split <;> exact ⟨_, rfl⟩
  case snsEventRead k =>
    rw [exec_snsEventRead, execSnsEventRead]
    split <;> exact ⟨_, rfl⟩
  all_goals exact ⟨_, rfl⟩

/-- A pin changes the chip alone. -/
theorem exec_of_actsOnPins {i : Instr} (hp : actsOnPins i = true) (s : State) : ∃ ch, exec i s = .next (after s ch) := by
  cases i
  case pwrOkRise | pwrOkFall | perstAssert | sysRstAssert | resetRelease | testAccessPort => exact ⟨_, rfl⟩
  all_goals cases hp

/-! ### The lock region (R490) -/

/-- What outlives resets is `b` after `a`: a lock region of the part stays one, and grows only stricter. -/
def LockGrows (a b : NonVol) : Prop := LockOk a → LockOk b ∧ LockLe a b

theorem lockGrows_of_kept {a b : NonVol} (hv : b.minVer = a.minVer) (ho : b.owners = a.owners) : LockGrows a b := by
  rintro ⟨hlen, hown⟩
  refine ⟨⟨hv ▸ hlen, ho ▸ hown⟩, by rw [hv], fun i => by rw [hv], fun i _ => by rw [ho]⟩

theorem lockGrows_refl (a : NonVol) : LockGrows a a := lockGrows_of_kept rfl rfl

theorem raiseAll_of_short {old new : List Word} (h : ∀ o os n ns, old = o :: os → new = n :: ns → False) :
    raiseAll old new = old := by
  unfold raiseAll
  split
  · exact (h _ _ _ _ rfl rfl).elim
  · rfl

theorem length_raiseAll (old new : List Word) : (raiseAll old new).length = old.length := by
  induction old, new using raiseAll.induct with
  | case1 o os n ns ih => simp [raiseAll, ih]
  | case2 old new h => rw [raiseAll_of_short h]

theorem le_raiseVer (old new : Word) : old.toNat ≤ (raiseVer old new).toNat := by
  unfold raiseVer
  split
  · assumption
  · exact le_rfl

theorem getD_le_raiseAll (old new : List Word) (i : Nat) :
    (old.getD i 0).toNat ≤ ((raiseAll old new).getD i 0).toNat := by
  induction old, new using raiseAll.induct generalizing i with
  | case1 o os n ns ih =>
    cases i with
    | zero => exact le_raiseVer o n
    | succ i => simpa [raiseAll] using ih i
  | case2 old new h => rw [raiseAll_of_short h]

/-- Raising the version counters lowers none (R490). -/
theorem lockGrows_raiseAll (nv : NonVol) (new : List Word) :
    LockGrows nv { nv with minVer := raiseAll nv.minVer new } := fun ⟨hlen, hown⟩ =>
  ⟨⟨(length_raiseAll _ _).trans hlen, hown⟩, (length_raiseAll _ _).symm, getD_le_raiseAll _ _, fun _ _ => rfl⟩

/-- An enrolment takes the lowest unused slot (R491). -/
theorem lockGrows_enrol {nv : NonVol} (key : List Byte) (h : nv.owners.length < 4) :
    LockGrows nv { nv with owners := nv.owners ++ [key] } := fun ⟨hlen, _⟩ =>
  ⟨⟨hlen, by simpa using h⟩, rfl, fun _ => le_rfl, fun _ hi => List.getElem?_append_left hi⟩

/-! ### How a command answers -/

/-- The outcome is a next state with the queue of `s`, whose lock region has only grown. -/
def Answers (s : State) (o : Host.Outcome State Fault Refusal) : Prop :=
  ∃ t, o = .next t ∧ t.pending = s.pending ∧ LockGrows s.nv t.nv

variable {s : State}

theorem answers_after (ch : Chip) : Answers s (.next (after s ch)) := ⟨_, rfl, rfl, lockGrows_refl _⟩

theorem answers_same : Answers s (.next s) := ⟨_, rfl, rfl, lockGrows_refl _⟩

theorem ActsOnChip.answers {o : Host.Outcome State Fault Refusal} (h : ActsOnChip s o) : Answers s o := by
  obtain ⟨ch, rfl⟩ := h
  split
  · exact answers_after ch
  · exact answers_same

section
variable {k : Stream} {n : Nat} {mine : Nat → Bool} {chk : Nat → List (Nat × Nat) × List Nat}
  {f : Chip → NonVol → Cmd → Chip × NonVol × Rsp}

theorem answers_runNv (hf : ∀ c, LockGrows s.nv (f s.chip s.nv c).2.1) : Answers s (runNv s k n mine chk f) := by
  refine ⟨_, rfl, ?_⟩
  dsimp only
  split
  · exact ⟨rfl, lockGrows_refl _⟩
  · split
    · exact ⟨rfl, lockGrows_refl _⟩
    · split
      · exact ⟨rfl, lockGrows_refl _⟩
      · split
        · exact ⟨rfl, lockGrows_refl _⟩
        · exact ⟨rfl, hf _⟩

end

theorem fromHost_nv {ch : Chip} {a n : Nat} {h : HostIn} {f : Chip → Chip × NonVol × Rsp} {nv : NonVol}
    (hf : ∀ c, LockGrows nv (f c).2.1) : LockGrows nv (fromHost ch a n h f nv).2.1 := by
  unfold fromHost
  split
  · exact lockGrows_refl _
  · dsimp only
    split
    · exact lockGrows_refl _
    · exact hf _

theorem updateFrom_nv {ch : Chip} {nv : NonVol} {c : Cmd} {h : HostIn} {ok : Chip → Nat → Nat → Bool}
    {put : NonVol → NonVol} (hput : ∀ x a n, ok x a n = true → LockGrows nv (put nv)) :
    LockGrows nv (updateFrom ch nv c h ok put).2.1 := by
  unfold updateFrom
  dsimp only
  split
  · exact lockGrows_refl _
  · refine fromHost_nv fun x => ?_
    split
    case isTrue hok => exact hput _ _ _ hok
    case isFalse => exact lockGrows_refl _

theorem lt_four_of_recordOk {ch : Chip} {nv : NonVol} {a n : Nat} (h : recordOk ch nv a n = true) :
    nv.owners.length < 4 := by
  simp only [recordOk, Bool.and_eq_true, decide_eq_true_eq] at h
  exact h.1.1.2

theorem wearBoot_nv (nv : NonVol) (a b : Bool) : LockGrows nv (wearBoot nv a b) := by
  apply lockGrows_of_kept <;> · unfold wearBoot; (repeat' split) <;> rfl

theorem repairEnd_nv (ch : Chip) (nv : NonVol) (raw : Nat) : LockGrows nv (repairEnd ch nv raw).2 := by
  apply lockGrows_of_kept <;> · unfold repairEnd; dsimp only; split <;> rfl

theorem answers_hbmRepairApply (k : Stream) : Answers s (execHbmRepairApply k s) := by
  refine ⟨_, rfl, ?_⟩
  dsimp only
  split
  · exact ⟨rfl, lockGrows_refl _⟩
  · split
    · exact ⟨rfl, lockGrows_refl _⟩
    · split
      · exact ⟨rfl, repairEnd_nv s.chip s.nv _⟩
      · (repeat' split) <;> exact ⟨rfl, lockGrows_refl _⟩

theorem answers_wearLogWrite : Answers s (execWearLogWrite s) := by
  unfold execWearLogWrite
  split
  · exact ⟨_, rfl, rfl, lockGrows_of_kept rfl rfl⟩
  · exact answers_same

theorem answers_bootEnd (o : BootObs) : Answers s (execBootEnd o s) := by
  unfold execBootEnd
  split
  · refine ⟨_, rfl, rfl, ?_⟩
    dsimp only
    split <;> exact lockGrows_of_kept rfl rfl
  · exact answers_same

theorem answers_memoryEnd (m : BitVec 16) (a b : Bool) : Answers s (execMemoryEnd m a b s) := by
  unfold execMemoryEnd
  split
  · exact ⟨_, rfl, rfl, wearBoot_nv s.nv a b⟩
  · exact answers_same

theorem answers_testPackLoad (k : Stream) (h : HostIn) (v : Verdict) : Answers s (execTestPackLoad k h v s) := by
  refine answers_runNv fun c => fromHost_nv fun x => ?_
  split <;> exact lockGrows_refl _

theorem answers_attestReport (k : Stream) (sig : List Byte) : Answers s (execAttestReport k sig s) := by
  refine answers_runNv fun c => ?_
  dsimp only
  (repeat' split) <;> exact lockGrows_refl _

theorem answers_fwUpdateFirmware (k : Stream) (h : HostIn) (v : Verdict) : Answers s (execFwUpdateFirmware k h v s) :=
  answers_runNv fun _ => updateFrom_nv fun _ _ _ _ => lockGrows_of_kept rfl rfl

theorem answers_fwUpdateConfiguration (k : Stream) (h : HostIn) (v : Verdict) :
    Answers s (execFwUpdateConfiguration k h v s) :=
  answers_runNv fun _ => updateFrom_nv fun _ _ _ _ => lockGrows_of_kept rfl rfl

theorem answers_hbmRepairQuery (k : Stream) : Answers s (execHbmRepairQuery k s) :=
  answers_runNv fun _ => lockGrows_refl _

theorem answers_fwUpdateOwner (k : Stream) (h : HostIn) (v : Verdict) : Answers s (execFwUpdateOwner k h v s) :=
  answers_runNv fun _ => updateFrom_nv fun _ _ _ hok =>
    lockGrows_enrol _ (lt_four_of_recordOk (Bool.and_eq_true_iff.mp hok).2)

theorem answers_fwUpdateRaise (k : Stream) : Answers s (execFwUpdateRaise k s) := by
  refine answers_runNv fun c => ?_
  split
  · exact lockGrows_refl _
  · exact lockGrows_raiseAll _ _

theorem answers_of_mayChangeNv {i : Instr} (hn : mayChangeNv i = true) : Answers s (exec i s) := by
  cases i
  case wearLogWrite => exact answers_wearLogWrite
  case bootEnd o => exact answers_bootEnd o
  case memoryEnd m a b => exact answers_memoryEnd m a b
  case testPackLoad k h v => exact answers_testPackLoad k h v
  case attestReport k sig => exact answers_attestReport k sig
  case fwUpdateFirmware k h v => exact answers_fwUpdateFirmware k h v
  case fwUpdateConfiguration k h v => exact answers_fwUpdateConfiguration k h v
  case fwUpdateOwner k h v => exact answers_fwUpdateOwner k h v
  case fwUpdateRaise k => exact answers_fwUpdateRaise k
  case hbmRepairQuery k => exact answers_hbmRepairQuery k
  case hbmRepairApply k => exact answers_hbmRepairApply k
  all_goals cases hn

/-- Every command answers a next state, leaves the queue alone, and keeps the lock region or makes it stricter. -/
theorem answers_exec (i : Instr) (s : State) : Answers s (exec i s) := by
  by_cases hp : actsOnPins i = true
  · obtain ⟨ch, hch⟩ := exec_of_actsOnPins hp s
    exact hch ▸ answers_after ch
  · by_cases hn : mayChangeNv i = true
    · exact answers_of_mayChangeNv hn
    · exact (actsOnChip_exec (by simpa using hp) (by simpa using hn) s).answers

/-! ### The statements -/

/-- Settles O59: an empty queue passes time on the chip alone, and the command at the front keeps the lock region or makes
it stricter. -/
theorem lockRegionOnlyGrows : Obligations.LockRegionOnlyGrows := by
  unfold Obligations.LockRegionOnlyGrows
  intro s hlock t hstep
  unfold step at hstep
  split at hstep
  case h_1 =>
    cases hstep
    exact lockGrows_refl _ hlock
  case h_2 c r _ =>
    obtain ⟨u, hu, -, hgrows⟩ := answers_exec c { s with pending := r }
    rw [hu] at hstep
    cases hstep
    exact hgrows hlock

/-- Settles O57: every command answers a next state with the same queue (log 3). -/
theorem everyCommandGoes : Obligations.EveryCommandGoes := by
  unfold Obligations.EveryCommandGoes
  intro i s
  obtain ⟨t, ht, hq, -⟩ := answers_exec i s
  exact ⟨t, ht, hq⟩

/-- A command that may change what outlives resets does nothing while the device does not run. -/
theorem exec_dead_of_mayChangeNv {i : Instr} (hn : mayChangeNv i = true) (hl : live s.chip = false) :
    exec i s = .next s := by
  have hdead : ¬ live s.chip = true := by simp [hl]
  cases i
  case wearLogWrite | bootEnd | memoryEnd => exact congrArg _ (if_neg fun h => hdead h.1)
  case testPackLoad | attestReport | fwUpdateFirmware | fwUpdateConfiguration | fwUpdateOwner | fwUpdateRaise
    | hbmRepairQuery | hbmRepairApply => exact congrArg _ (if_pos hdead)
  all_goals cases hn

/-- Settles O58: the commands that act on pins are excluded, and every other acts only on a device that runs (log 3). -/
theorem deadDeviceKeepsStill : Obligations.DeadDeviceKeepsStill := by
  unfold Obligations.DeadDeviceKeepsStill
  intro i s hl hRise hFall hPerst hSysRst hRelease hTap
  have hp : actsOnPins i = false := by
    cases i
    case pwrOkRise p => exact absurd rfl (hRise p)
    case pwrOkFall => exact absurd rfl hFall
    case perstAssert => exact absurd rfl hPerst
    case sysRstAssert => exact absurd rfl hSysRst
    case resetRelease => exact absurd rfl hRelease
    case testAccessPort x => exact absurd rfl (hTap x)
    all_goals rfl
  by_cases hn : mayChangeNv i = true
  · exact exec_dead_of_mayChangeNv hn hl
  · obtain ⟨ch, hch⟩ := actsOnChip_exec hp (by simpa using hn) s
    rw [hch, if_neg (ne_true_of_eq_false hl)]

/-- Settles O56: both cases of `step`. -/
theorem stepRunsTheFront : Obligations.StepRunsTheFront := by
  unfold Obligations.StepRunsTheFront
  intro s c r
  refine ⟨fun hfront => ?_, fun hempty => ?_⟩
  · rw [step, hfront]
  · rw [step, hempty]

/-- Settles O60: the three counters of NonVol.fresh are 0 and its owner list is empty (log 10). -/
theorem lockRegionAtReset : Obligations.LockRegionAtReset := by
  unfold Obligations.LockRegionAtReset
  exact ⟨⟨rfl, by decide⟩, rfl, rfl⟩

end Sys2Proof.WholeMachine
end

section
/-! Proofs about the lifecycle of a link and about COLL flits that are not for this package (14_fabric_collectives.md R308,
R313, R314, R317): how training, handshakes, eyes and failures move a link, and the statements LinkLifecycle and
CollFlitsNeverRouted. -/

namespace Sys2Proof.LinkLifecycle
open Sys2Proof Sys2Proof.Machine Sys2Proof.Claims Sys2Proof.Laws Sys2Proof.ScalarCore Sys2Proof.GoingOn
  Sys2Proof.LinkFlits

section
variable {s : State} {l : LinkId} (hl : live s.chip = true) (hr : portRuns s.chip l.val = true)
include hl hr

/-! ### Training (R308) -/

section
variable (hst : (linkOf s.chip l.val).st = 1)
include hst

theorem trainingDone_eq (o : TrainObs) : exec (.fabTrainingDone l o) s = .next (after s (match o with
    | .failed => updLink s.chip l.val fun k => { k with st := 4, result := 1 }
    | .trained eyes =>
      if eyes.length ≠ (lanesOf s.chip l.val).length then s.chip
      else if eyes.all eyeOk then updLink (putEyes s.chip l.val eyes) l.val fun k =>
        { k with st := 2, since := s.chip.us, good := 0, seen := false, partner := none }
      else if ¬ (linkOf s.chip l.val).retrained then
        updLink (putEyes s.chip l.val eyes) l.val fun k => { k with retrained := true, since := s.chip.us }
      else updLink (putEyes s.chip l.val eyes) l.val fun k => { k with st := 4, result := 2 })) :=
  exec_of_live hl (exec_fabTrainingDone l o s) (if_neg (by simp [hr, hst]))

variable {eyes : List Eye}

theorem trainingDone_of_short (hn : eyes.length ≠ (lanesOf s.chip l.val).length) :
    exec (.fabTrainingDone l (.trained eyes)) s = .next s := by
  simp only [trainingDone_eq hl hr hst, if_pos hn]
  rfl

variable (hn : eyes.length = (lanesOf s.chip l.val).length)
include hn

theorem trainingDone_of_good_eyes (he : eyes.all eyeOk = true) : exec (.fabTrainingDone l (.trained eyes)) s =
    .next (after s (updLink (putEyes s.chip l.val eyes) l.val fun k =>
      { k with st := 2, since := s.chip.us, good := 0, seen := false, partner := none })) := by
  simp only [trainingDone_eq hl hr hst, if_neg (not_not.mpr hn), if_pos he]

variable (he : eyes.all eyeOk = false)
include he

theorem trainingDone_of_first_low_eye (ht : (linkOf s.chip l.val).retrained = false) :
    exec (.fabTrainingDone l (.trained eyes)) s = .next (after s (updLink (putEyes s.chip l.val eyes) l.val fun k =>
      { k with retrained := true, since := s.chip.us })) := by
  simp only [trainingDone_eq hl hr hst, if_neg (not_not.mpr hn), if_neg (ne_true_of_eq_false he),
    if_pos (ne_true_of_eq_false ht)]

theorem trainingDone_of_second_low_eye (ht : (linkOf s.chip l.val).retrained = true) :
    exec (.fabTrainingDone l (.trained eyes)) s = .next (after s (updLink (putEyes s.chip l.val eyes) l.val fun k =>
      { k with st := 4, result := 2 })) := by
  simp only [trainingDone_eq hl hr hst, if_neg (not_not.mpr hn), if_neg (ne_true_of_eq_false he),
    if_neg (not_not.mpr ht)]

end

/-! ### Handshakes (R314) -/

section
variable (hst : (linkOf s.chip l.val).st = 2)
include hst

theorem handshake_of_fault {h : Hand} {r : Nat} (hf : handFault s.chip l.val h = some r) :
    exec (.handshake l h) s = .next (after s (handshakeFail s.chip l.val r)) := by
  refine exec_of_live hl (exec_handshake l h s) ((if_neg (by simp [hr, hst])).trans ?_)
  simp only [hf]

/-- A valid handshake restarts the wait, and the third in a row that has seen this end brings the link UP. -/
theorem handshake_of_valid {h : Hand} (hf : handFault s.chip l.val h = none) {k : Link}
    (hk : k = { linkOf s.chip l.val with
      since := s.chip.us, good := if h.seen then (linkOf s.chip l.val).good + 1 else 0, seen := true, partner := some h }) :
    exec (.handshake l h) s =
      .next (after s (updLink s.chip l.val fun _ => if 3 ≤ k.good then linkStart k s.chip.us else k)) := by
  subst hk
  refine exec_of_live hl (exec_handshake l h s) ((if_neg (by simp [hr, hst])).trans ?_)
  simp only [hf]

theorem handshake_of_third {h : Hand} (hf : handFault s.chip l.val h = none) (hseen : h.seen = true)
    (hgood : 2 ≤ (linkOf s.chip l.val).good) : exec (.handshake l h) s =
      .next (after s (updLink s.chip l.val fun _ => linkStart { linkOf s.chip l.val with
        since := s.chip.us, good := (linkOf s.chip l.val).good + 1, seen := true, partner := some h } s.chip.us)) := by
  rw [handshake_of_valid hl hr hst hf rfl]
  simp only [hseen, if_true, if_pos (Nat.succ_le_succ hgood)]

theorem handshake_of_early {h : Hand} (hf : handFault s.chip l.val h = none)
    (hearly : h.seen = false ∨ (linkOf s.chip l.val).good < 2) : exec (.handshake l h) s =
      .next (after s (updLink s.chip l.val fun _ => { linkOf s.chip l.val with
        since := s.chip.us, good := if h.seen then (linkOf s.chip l.val).good + 1 else 0, seen := true
        partner := some h })) := by
  have hfew : ¬ 3 ≤ if h.seen = true then (linkOf s.chip l.val).good + 1 else 0 := by
    rcases hearly with hseen | hgood
    · simp [hseen]
    · split <;> omega
  rw [handshake_of_valid hl hr hst hf rfl]
  simp only [if_neg hfew]

theorem noPartner_of_late (ht : (linkOf s.chip l.val).since + 10000 ≤ s.chip.us) :
    exec (.noPartner l) s = .next (after s (handshakeFail s.chip l.val 3)) :=
  exec_of_live hl (exec_noPartner l s) (if_pos ⟨hr, hst, ht⟩)

end

omit hr in
theorem noPartner_of_early (ht : s.chip.us < (linkOf s.chip l.val).since + 10000) :
    exec (.noPartner l) s = .next s :=
  exec_of_live hl (exec_noPartner l s) (if_neg fun ⟨_, _, hlate⟩ => Nat.not_le.mpr ht hlate)

section
omit hr
variable (hst : (linkOf s.chip l.val).st ≠ 2)
include hst

theorem handshake_elsewhere (h : Hand) : exec (.handshake l h) s = .next s :=
  exec_of_live hl (exec_handshake l h s) (if_pos (.inr hst))

theorem noPartner_elsewhere : exec (.noPartner l) s = .next s :=
  exec_of_live hl (exec_noPartner l s) (if_neg fun ⟨_, h2, _⟩ => hst h2)

end

theorem handshakeSend_of_trained (hst : (linkOf s.chip l.val).st = 2 ∨ (linkOf s.chip l.val).st = 3) :
    exec (.handshakeSend l) s =
      .next (after s (updLink s.chip l.val fun k => { k with handOut := some (ownHand s.chip l.val) })) :=
  exec_of_live hl (exec_handshakeSend l s) (if_pos ⟨hr, hst⟩)

/-! ### A link that is UP (R308, R313) -/

omit hl in
theorem linkUp_of_runs (hst : (linkOf s.chip l.val).st = 3) : linkUp s.chip l.val = true := by
  simp [linkUp, hr, hst]

section
variable (hst : (linkOf s.chip l.val).st = 3)
include hst

theorem eyeMeasure_eq {eyes : List Eye} (hn : eyes.length = (lanesOf s.chip l.val).length) :
    exec (.eyeMeasure l eyes) s = .next (after s (if eyes.all eyeOk then putEyes s.chip l.val eyes
      else health (raise (putEyes s.chip l.val eyes) .fabEyeLow (portOf l.val)))) :=
  exec_of_live hl (exec_eyeMeasure l eyes s) (if_neg (by simp [linkUp_of_runs hr hst, hn]))

theorem replayExhausted_of_resent (h : ∃ x ∈ (linkOf s.chip l.val).sent, 8 ≤ x.tries) :
    exec (.replayExhausted l) s = .next (after s (linkFails s.chip l.val)) :=
  exec_of_live hl (exec_replayExhausted l s) (if_pos ⟨linkUp_of_runs hr hst, by simpa using h⟩)

theorem linkDown_of_unacknowledged (hs : (linkOf s.chip l.val).sent ≠ [])
    (ht : (linkOf s.chip l.val).ackAt + 1000 ≤ s.chip.us) :
    exec (.linkDown l) s = .next (after s (linkFails s.chip l.val)) :=
  exec_of_live hl (exec_linkDown l s) (if_pos ⟨linkUp_of_runs hr hst, hs, ht⟩)

end

section
omit hr

theorem replayExhausted_of_few (h : ∀ x ∈ (linkOf s.chip l.val).sent, x.tries < 8) :
    exec (.replayExhausted l) s = .next s :=
  exec_of_live hl (exec_replayExhausted l s) (if_neg fun ⟨_, hany⟩ => by
    obtain ⟨x, hx, htries⟩ := List.any_eq_true.mp hany
    exact Nat.not_le.mpr (h x hx) (of_decide_eq_true htries))

theorem linkDown_of_acknowledged
    (h : (linkOf s.chip l.val).sent = [] ∨ s.chip.us < (linkOf s.chip l.val).ackAt + 1000) :
    exec (.linkDown l) s = .next s :=
  exec_of_live hl (exec_linkDown l s) (if_neg fun ⟨_, hs, ht⟩ => h.elim hs (Nat.not_lt.mpr ht))

end

end

/-- Settles O31: each event of a link in the state that the link is in (logs 74 and 101). -/
theorem linkLifecycle : Obligations.LinkLifecycle := by
  unfold Obligations.LinkLifecycle
  rintro s l hl hr k rfl
  refine ⟨fun hst => ⟨trainingDone_eq hl hr hst .failed, ?_, fun eyes => trainingDone_of_short hl hr hst⟩,
    fun hst h => ⟨handshake_of_third hl hr hst, handshake_of_early hl hr hst, fun r => handshake_of_fault hl hr hst⟩,
    fun hst => ⟨handshake_elsewhere hl hst, noPartner_elsewhere hl hst⟩,
    fun hst => ⟨noPartner_of_late hl hr hst, noPartner_of_early hl⟩, handshakeSend_of_trained hl hr,
    fun hst eyes hn => ⟨fun he => ?_, fun he => ?_⟩,
    fun hst => ⟨replayExhausted_of_resent hl hr hst, replayExhausted_of_few hl⟩,
    fun hst => ⟨linkDown_of_unacknowledged hl hr hst, linkDown_of_acknowledged hl⟩⟩
  · rintro eyes ch hn rfl
    exact ⟨trainingDone_of_good_eyes hl hr hst hn, trainingDone_of_first_low_eye hl hr hst hn,
      trainingDone_of_second_low_eye hl hr hst hn⟩
  · rw [eyeMeasure_eq hl hr hst hn, if_pos he]
  · rw [eyeMeasure_eq hl hr hst hn, if_neg (ne_true_of_eq_false he)]

/-! ### COLL flits for another package (R317) -/

section
variable {s : State} {l : LinkId} {f : Flit}

/-- What an accepted COLL flit does (R317). -/
theorem collFlitWork_of_in_sequence (h : InSequence s l f) (ht : f.ftype = 4) : collFlitWork l f s.chip =
    if f.dst ≠ (accepted s l f).nwl.pos then raise (accepted s l f) .fabMisroute (portOf l.val)
    else collGather (accepted s l f) l.val f := by
  rw [collFlitWork, if_neg (not_not.mpr ht), receive_of_in_sequence _ h]

@[simp] theorem accepted_nwl : (accepted s l f).nwl = s.chip.nwl := by
  simp [accepted, updLink]

@[simp] theorem accepted_land : (accepted s l f).land = s.chip.land := by
  simp [accepted, updLink]

@[simp] theorem accepted_mem : (accepted s l f).mem = s.chip.mem := by
  simp [accepted, updLink]

theorem accepted_fab_congr {t : State} (h : t.chip.fab = s.chip.fab) : (accepted t l f).fab = (accepted s l f).fab := by
  simp [accepted, updLink, linkOf, h]

/-- A flit that comes in sequence still does when the work on it is looked at. -/
theorem inSequence_looked (h : InSequence s l f) : InSequence (after s (Offload.looked s.chip)) l f where
  live := h.live
  up := h.up
  parity := h.parity
  seq := h.seq
  job := by
    have hjob := h.job
    unfold carries linkOf at hjob ⊢
    rwa [accepted_fab_congr (s := s) (t := after s (Offload.looked s.chip)) rfl]

theorem collFlit_of_misroute {b : Bursts} (h : InSequence s l f) (ht : f.ftype = 4) (hd : f.dst ≠ s.chip.nwl.pos) :
    exec (.collFlit l f b) s = .next (after s (raise (accepted s l f) .fabMisroute (portOf l.val))) := by
  have hhere : collFlitWork l f s.chip = raise (accepted s l f) .fabMisroute (portOf l.val) :=
    (collFlitWork_of_in_sequence h ht).trans (if_pos (by simpa using hd))
  have hlooked : collFlitWork l f (Offload.looked s.chip) =
      raise (accepted (after s (Offload.looked s.chip)) l f) .fabMisroute (portOf l.val) :=
    (collFlitWork_of_in_sequence (inSequence_looked h) ht).trans (if_pos (by simpa [Offload.looked] using hd))
  have htouched : touched (collFlitWork l f) s.chip = [] := by
    rw [touched, ← Offload.looked, hlooked]
    simp [Offload.looked]
  exact exec_of_live h.live (exec_collFlit l f b s) ((memWork_untouched htouched).trans hhere)

theorem linkOf_updLink (ch : Chip) (l m : Nat) (g : Link → Link) :
    linkOf (updLink ch l g) m = if m = l then g (linkOf ch l) else linkOf ch m := by
  simp only [linkOf, updLink, tget_tput]

/-- Taking a flit in sends none. -/
theorem sent_accepted (k : Nat) : (linkOf (accepted s l f) k).sent = (linkOf s.chip k).sent := by
  have hcount (m : Nat) : linkOf (count s.chip (cntPort l.val 1) 1) m = linkOf s.chip m := by simp [linkOf]
  rw [accepted, linkOf_updLink]
  split
  case isTrue hk => rw [hk, hcount]
  case isFalse => rw [hcount]

end

/-- Settles O32: such a flit sets `misroute` on the chip that has accepted it, and accepting changes no buffer of sent
flits and no memory. -/
theorem collFlitsNeverRouted : Obligations.CollFlitsNeverRouted := by
  unfold Obligations.CollFlitsNeverRouted
  intro s l f b h ht hd
  refine ⟨collFlit_of_misroute h ht hd, fun k => ?_, by simp, ?_⟩
  · have hraise : linkOf (raise (accepted s l f) .fabMisroute (l.val / 2)) k.val = linkOf (accepted s l f) k.val := by
      simp [linkOf]
    rw [hraise, sent_accepted]
  · have hbit := LostClocks.regGet_raise (accepted s l f) .fabMisroute (l.val / 2)
    simp only [evInfo] at hbit
    simp [hbit]

end Sys2Proof.LinkLifecycle
end

section
/-! Proofs about collective operations (14_fabric_collectives.md R317, R319, R323, R325 to R331): what a flit of a message
gathers, what each work of the engine does to the group that it is about, and the statement CollectiveOperations. -/

namespace Sys2Proof.CollectiveOperations
open Sys2Proof Sys2Proof.Machine Sys2Proof.Claims Sys2Proof.Laws Sys2Proof.GoingOn

/-! ### Messages (R317, R323) -/

section
variable (ch : Chip) (l : Nat) (f : Flit)

/-- What link `l` has gathered of the message that the lane of `f` brings, and its bytes with those of `f`. -/
def gatheredBefore : CollAsm := ((linkOf ch l).asm.find? fun a => a.lane == f.lane).getD ⟨f.lane, [], false, false⟩
def gatheredBytes : List Byte := (gatheredBefore ch l f).bytes ++ f.payload

/-- The chip that has gathered `f`: a whole message leaves nothing behind. -/
def gathered (lost : Bool) : Chip := updLink ch l fun k => { k with
  asm := k.asm.filter (fun b => b.lane != f.lane) ++
    (if msgLen (gatheredBytes ch l f) ≤ (gatheredBytes ch l f).length then []
     else [⟨f.lane, gatheredBytes ch l f, (gatheredBefore ch l f).poison || f.poison, lost⟩]) }

end

section
variable {ch : Chip} {l : Nat} {f : Flit}

theorem collGather_of_stopped (hm : colMoves ch = false) : collGather ch l f = gathered ch l f true := by
  simp only [collGather, hm, Bool.false_eq_true, not_false_eq_true, if_true, Bool.not_false, Bool.or_true,
    decide_eq_true_eq]
  rfl

/-- The group that the gathered bytes name. -/
def gatheredGroup (ch : Chip) (l : Nat) (f : Flit) : Option Group :=
  groupOf ch ((gatheredBytes ch l f).getD 0 0).toNat

/-- A flit of the job of the group that its message names completes the message, or is gathered for it; another's is
refused. -/
theorem collGather_of_moving (hm : colMoves ch = true) : collGather ch l f =
    match gatheredGroup ch l f with
    | none => raise (gathered ch l f true) .colCollReject 0
    | some x =>
      if (jobOf ch x.job.val).jfid = f.jfid then
        if h : ((gatheredBytes ch l f).getD 0 0).toNat < 64 then
          if msgLen (gatheredBytes ch l f) ≤ (gatheredBytes ch l f).length ∧ (gatheredBefore ch l f).lost = false then
            segArrives (gathered ch l f (gatheredBefore ch l f).lost) l (msgOf x ⟨((gatheredBytes ch l f).getD 0 0).toNat, h⟩
              (gatheredBytes ch l f) ((gatheredBefore ch l f).poison || f.poison))
          else gathered ch l f (gatheredBefore ch l f).lost
        else gathered ch l f (gatheredBefore ch l f).lost
      else raise (gathered ch l f true) .colCollReject 0 := by
  cases hgroup : gatheredGroup ch l f with
  | none =>
    unfold gatheredGroup gatheredBytes gatheredBefore at hgroup
    simp only [collGather, hm, hgroup, decide_eq_true_eq, Bool.not_true, Bool.not_false, Bool.or_true, Bool.or_false,
      Bool.false_eq_true, not_true_eq_false, not_false_eq_true, if_true, if_false]
    rfl
  | some x =>
    unfold gatheredGroup gatheredBytes gatheredBefore at hgroup
    by_cases hj : (jobOf ch x.job.val).jfid = f.jfid
    · simp only [collGather, hm, hgroup, hj, BEq.rfl, decide_eq_true_eq, Bool.not_true, Bool.or_false,
        Bool.not_eq_true, not_true_eq_false, if_true, if_false]
      rfl
    · simp only [collGather, hm, hgroup, beq_false_of_ne hj, hj, decide_eq_true_eq, Bool.not_true, Bool.not_false,
        Bool.or_true, Bool.or_false, Bool.false_eq_true, not_true_eq_false, not_false_eq_true, if_true, if_false]
      rfl

section
variable (hm : colMoves ch = true)
include hm

theorem collGather_of_foreign (hn : ∀ x, gatheredGroup ch l f = some x → (jobOf ch x.job.val).jfid ≠ f.jfid) :
    collGather ch l f = raise (gathered ch l f true) .colCollReject 0 := by
  rw [collGather_of_moving hm]
  split
  case h_1 => rfl
  case h_2 x hx => exact if_neg (hn x hx)

variable {g : GroupId} {x : Group} (hn : ((gatheredBytes ch l f).getD 0 0).toNat = g.val)
  (hg : groupOf ch g.val = some x) (hj : (jobOf ch x.job.val).jfid = f.jfid)
include hn hg hj

theorem collGather_of_known : collGather ch l f =
    if msgLen (gatheredBytes ch l f) ≤ (gatheredBytes ch l f).length ∧ (gatheredBefore ch l f).lost = false then
      segArrives (gathered ch l f (gatheredBefore ch l f).lost) l
        (msgOf x g (gatheredBytes ch l f) ((gatheredBefore ch l f).poison || f.poison))
    else gathered ch l f (gatheredBefore ch l f).lost := by
  have hgroup : gatheredGroup ch l f = some x := by rw [gatheredGroup, hn, hg]
  have hlt : ((gatheredBytes ch l f).getD 0 0).toNat < 64 := hn ▸ g.isLt
  have hid : (⟨((gatheredBytes ch l f).getD 0 0).toNat, hlt⟩ : GroupId) = g := Fin.ext hn
  simp only [collGather_of_moving hm, hgroup, if_pos hj, dif_pos hlt, hid]

theorem collGather_of_whole (hw : msgLen (gatheredBytes ch l f) ≤ (gatheredBytes ch l f).length)
    (hl : (gatheredBefore ch l f).lost = false) : collGather ch l f = segArrives (gathered ch l f false) l
      (msgOf x g (gatheredBytes ch l f) ((gatheredBefore ch l f).poison || f.poison)) := by
  rw [collGather_of_known hm hn hg hj, if_pos ⟨hw, hl⟩, hl]

theorem collGather_of_part
    (h : (gatheredBytes ch l f).length < msgLen (gatheredBytes ch l f) ∨ (gatheredBefore ch l f).lost = true) :
    collGather ch l f = gathered ch l f (gatheredBefore ch l f).lost := by
  rw [collGather_of_known hm hn hg hj, if_neg]
  rintro ⟨hw, hl⟩
  rcases h with h | h
  · omega
  · simp [hl] at h

end

end

section
variable {ch : Chip} {g : GroupId} {x : Group} (hg : groupOf ch g.val = some x)
include hg

/-! ### Starts (R319, R325, R326) -/

section
variable {run : GroupRun} (hrun : g = run.group)
include hrun

theorem collStartWork_of_held (h : colRuns ch = false ∨ startReached x x.k = false) : collStartWork run ch = ch := by
  subst hrun
  simp only [collStartWork, hg]
  exact if_pos (by simpa using h)

variable (hr : colRuns ch = true) (hreached : startReached x x.k = true)
include hr hreached

theorem collStartWork_of_new (ho : x.op = none) : collStartWork run ch =
    beginOp (updGroup (touchRec ch x) g.val fun y =>
      { y with op := some { newOp ch x (nextRec ch x) with started := true, relUs := some ch.us } }) g := by
  subst hrun
  simp only [collStartWork, hg, hr, hreached, ho, not_true_eq_false, or_self, if_false]

variable {o : CollOp} (ho : x.op = some o)
include ho

/-- A start goes on with the operation that a message had brought. -/
theorem collStartWork_of_announced (hs : o.started = false) (he : o.empty = false) {n : CollOp}
    (hn : n = { newOp ch x (nextRec ch x) with
      started := true, relUs := some ch.us, firstUs := o.firstUs, policy := o.policy, timeout := o.timeout
      lateKids := o.lateKids, kidSeen := o.kidSeen }) :
    collStartWork run ch = beginOp (updGroup (touchRec ch x) g.val fun y => { y with op := some n }) g := by
  subst hrun hn
  simp only [collStartWork, hg, hr, hreached, ho, hs, he, not_true_eq_false, or_self, if_false, Bool.false_eq_true]

theorem collStartWork_of_begun (h : o.started = true ∨ o.empty = true) : collStartWork run ch = ch := by
  subst hrun
  simp only [collStartWork, hg, hr, hreached, ho, h, not_true_eq_false, or_self, if_false, if_true]

end

/-! ### Deadlines (R325 to R327) -/

section
variable {o : CollOp} (ho : x.op = some o) {d : Option Bool}
include ho

theorem collDeadlineWork_of_early (h : o.policy = 0 ∨ ch.us ≤ o.firstUs + o.deadline) :
    collDeadlineWork g d ch = ch := by
  simp only [collDeadlineWork, hg, ho, or_true, h, if_true]

variable (hm : colMoves ch = true) (hp : o.policy ≠ 0) (ht : o.firstUs + o.deadline < ch.us)
include hm hp ht

theorem collDeadlineWork_of_begun (h : o.started = true ∨ o.empty = true) : collDeadlineWork g none ch = ch := by
  simp only [collDeadlineWork, hg, ho, hm, hp, Nat.not_le.mpr ht, h, not_true_eq_false, or_self, if_false, if_true]

theorem collDeadlineWork_of_waiting (hs : o.started = false) (he : o.empty = false) {n : CollOp}
    (hn : n = { newOp ch x (nextRec ch x) with
      empty := true, firstUs := o.firstUs, policy := o.policy, timeout := o.timeout, lateKids := o.lateKids
      kidSeen := o.kidSeen }) :
    collDeadlineWork g none ch = beginOp (updGroup
      (count (raise (touchRec ch x) .colEmptySent 0) (cntPkg (8 * x.job.val + 3)) 1) g.val
      fun y => { y with op := some n, owe := y.owe ++ [(y.k, n.rec_, n.policy)] }) g := by
  subst hn
  simp only [collDeadlineWork, hg, ho, hm, hp, Nat.not_le.mpr ht, hs, he, not_true_eq_false, or_self, if_false,
    Bool.false_eq_true]

theorem collDeadlineWork_of_child {b begun : Bool} (hb : begun = (o.kidSeen.contains (b2n b) || x.waiting.any fun p =>
      kidOf x p.1 == some (b2n b) && p.2.opIndex == x.k % 64 && !p.2.gather)) : collDeadlineWork g (some b) ch =
    if x.tree = false ∨ o.bad = true ∨ (liveKids x o).contains (b2n b) = false ∨ begun = true then ch
    else treeSums (updOp ch g.val fun o => { o with lateKids := sadd o.lateKids (b2n b) }) g o.rec_ := by
  subst hb
  simp only [collDeadlineWork, hg, ho, hm, hp, Nat.not_le.mpr ht, not_true_eq_false, or_self, if_false,
    Bool.not_eq_true]

end

/-! ### Late starts (R326 to R329) -/

section

theorem collLateStartWork_of_nothing (ho : x.owe = []) : collLateStartWork g ch = ch := by
  simp only [collLateStartWork, hg, ho]

variable {k r policy : Nat} {rest : List (Nat × Nat × Nat)} (ho : x.owe = (k, r, policy) :: rest)
include ho

theorem collLateStartWork_of_held (h : colMoves ch = false ∨ startReached x k = false) :
    collLateStartWork g ch = ch := by
  simp only [collLateStartWork, hg, ho]
  exact if_pos (by simpa using h)

variable (hm : colMoves ch = true) (hreached : startReached x k = true)
include hm hreached

theorem collLateStartWork_of_released {c : Chip} (hc : c = updGroup ch g.val (fun y => { y with
      owe := rest, op := if k = y.k then y.op.map fun o => { o with relUs := some ch.us } else y.op })) :
    collLateStartWork g ch = if policy = 1 then
        countLate (updGroup (dropHeld c g.val true []) g.val fun y => { y with heldOwn := some r }) g.val x true
      else countLate c g.val x false := by
  subst hc
  simp only [collLateStartWork, hg, ho, hm, hreached, not_true_eq_false, or_self, if_false]

end

/-! ### Time-outs and completions (R319, R329) -/

section
variable {o : CollOp} (ho : x.op = some o) (hm : colMoves ch = true)
include ho hm

theorem opTimeoutWork_of_late {r : Nat} (hr : o.relUs = some r) (hb : o.bad = false) (ht : r + o.timeout ≤ ch.us) :
    opTimeoutWork g ch = endOp ch g.val 3 := by
  simp [opTimeoutWork, hg, ho, hm, hr, hb, ht]

omit hm in
theorem opTimeoutWork_of_early
    (h : o.relUs = none ∨ o.bad = true ∨ ∃ r, o.relUs = some r ∧ ch.us < r + o.timeout) :
    opTimeoutWork g ch = ch := by
  rcases h with hr | hb | ⟨r, hr, ht⟩
  · simp [opTimeoutWork, hg, ho, hr]
  · simp [opTimeoutWork, hg, ho, hb]
  · simp [opTimeoutWork, hg, ho, hr, Nat.not_le.mpr ht]

variable {run : GroupRun} (hrun : g = run.group)
include hrun

theorem collCompleteWork_of_invalid (hb : o.bad = true) (hs : o.started = true ∨ o.empty = true) :
    collCompleteWork run ch = endOp ch g.val 5 := by
  subst hrun
  simp only [collCompleteWork, hg, ho, hm, hb, hs, not_true_eq_false, if_false, and_self, if_true]

theorem collCompleteWork_of_finished (hb : o.bad = false) (hf : opFinished x o = true) :
    collCompleteWork run ch = endOp ch g.val (if contributors x o = allRanks x.ranks then 1 else 2) := by
  subst hrun
  simp only [collCompleteWork, hg, ho, hm, hb, hf, not_true_eq_false, if_false, false_and, Bool.false_eq_true,
    not_false_eq_true, and_self, if_true]

omit hm in
theorem collCompleteWork_of_unfinished
    (h : o.bad = true ∧ o.started = false ∧ o.empty = false ∨ o.bad = false ∧ opFinished x o = false) :
    collCompleteWork run ch = ch := by
  subst hrun
  rcases h with ⟨hb, hs, he⟩ | ⟨hb, hf⟩
  · simp [collCompleteWork, hg, ho, hb, hs, he]
  · simp [collCompleteWork, hg, ho, hb, hf]

end

end

/-! ### The statement -/

/-- Settles O33: a gathered flit by the state of its message, and each work of the engine by the state of its group (logs
43, 45, 116 and 166). -/
theorem collectiveOperations : Obligations.CollectiveOperations := by
  unfold Obligations.CollectiveOperations
  refine ⟨?gather, ?works⟩
  case gather =>
    rintro ch l f _ _ n _ rfl rfl hn rfl
    refine ⟨collGather_of_stopped, fun hm hother => collGather_of_foreign hm (by rw [gatheredGroup]; exact hn ▸ hother),
      fun g x hm hng hg hj => ?_⟩
    have hname : ((gatheredBytes ch l f).getD 0 0).toNat = g.val := hn ▸ hng
    have hg' : groupOf ch g.val = some x := hng ▸ hg
    exact ⟨collGather_of_whole hm hname hg' hj, collGather_of_part hm hname hg' hj⟩
  case works =>
    intro s t run g x hrun hg
    refine ⟨waitsOrLoses_of_memWork (exec_collStart run s), waitsOrLoses_of_memWork (exec_collComplete run s),
      fun d => waitsOrLoses_of_memWork (exec_collDeadline g d s), waitsOrLoses_of_memWork (exec_collLateStart g s),
      waitsOrLoses_of_memWork (exec_opTimeout g s), fun l f b => waitsOrLoses_of_memWork (exec_collFlit l f b s),
      ?start, ?flit, ?deadline, ?late, ?timeout, ?complete⟩
    case start =>
      intro hgo
      have go {ch : Chip} (h : collStartWork run t.chip = ch) := work_of_goesOn_eq (exec_collStart run s) hgo h
      refine ⟨fun hr hreached => ⟨fun ho => go (collStartWork_of_new hg hrun hr hreached ho), ?_,
        fun o ho h => go (collStartWork_of_begun hg hrun hr hreached ho h)⟩,
        fun h => go (collStartWork_of_held hg hrun h)⟩
      exact fun o ho hs he n hn => go (collStartWork_of_announced hg hrun hr hreached ho hs he hn)
    case flit =>
      intro l f b hgo hin ht hd
      exact work_of_goesOn_eq (exec_collFlit l f b s) hgo
        ((LinkLifecycle.collFlitWork_of_in_sequence hin ht).trans (if_neg (not_not.mpr hd)))
    case deadline =>
      rintro o d hgo ⟨-, -, ho, hm⟩
      have go {ch : Chip} (h : collDeadlineWork g d t.chip = ch) := work_of_goesOn_eq (exec_collDeadline g d s) hgo h
      refine ⟨fun h => go (collDeadlineWork_of_early hg ho h), fun hp ht => ⟨?_, ?_, ?_⟩⟩
      · rintro rfl hs he n hn
        exact go (collDeadlineWork_of_waiting hg ho hm hp ht hs he hn)
      · rintro rfl h
        exact go (collDeadlineWork_of_begun hg ho hm hp ht h)
      · rintro b begun rfl hb
        have hwork := collDeadlineWork_of_child hg ho hm hp ht hb
        exact ⟨fun h1 h2 h3 h4 => go (hwork.trans (if_neg (by rw [h1, h2, h3, h4]; decide))),
          fun h => go (hwork.trans (if_pos h))⟩
    case late =>
      intro hgo
      have go {ch : Chip} (h : collLateStartWork g t.chip = ch) := work_of_goesOn_eq (exec_collLateStart g s) hgo h
      refine ⟨fun ho => go (collLateStartWork_of_nothing hg ho), fun k r policy rest ho => ⟨fun hm hreached c hc => ?_,
        fun h => go (collLateStartWork_of_held hg ho h)⟩⟩
      have hwork := collLateStartWork_of_released hg ho hm hreached hc
      exact ⟨fun hp => go (hwork.trans (if_pos hp)), fun hp => go (hwork.trans (if_neg hp))⟩
    case timeout =>
      rintro o hgo ⟨-, -, ho, hm⟩
      have go {ch : Chip} (h : opTimeoutWork g t.chip = ch) := work_of_goesOn_eq (exec_opTimeout g s) hgo h
      exact ⟨fun r hr hb ht => go (opTimeoutWork_of_late hg ho hm hr hb ht),
        fun h => go (opTimeoutWork_of_early hg ho h)⟩
    case complete =>
      rintro o hgo ⟨-, -, ho, hm⟩
      have go {ch : Chip} (h : collCompleteWork run t.chip = ch) := work_of_goesOn_eq (exec_collComplete run s) hgo h
      have finished (hb : o.bad = false) (hf : opFinished x o = true) :=
        collCompleteWork_of_finished hg ho hm hrun hb hf
      exact ⟨fun hb hs => go (collCompleteWork_of_invalid hg ho hm hrun hb hs),
        fun hb hf hc => go ((finished hb hf).trans (by rw [if_pos hc])),
        fun hb hf hc => go ((finished hb hf).trans (by rw [if_neg hc])),
        fun h => go (collCompleteWork_of_unfinished hg ho hrun h)⟩

end Sys2Proof.CollectiveOperations
end

section
/-! Proofs about twin copies at their source (15_twin_copy.md R339, R340, R346): what a twin point, a due copy and an
unacknowledged OPEN do, and the statement TwinCopySource. -/

namespace Sys2Proof.TwinSource
open Sys2Proof Sys2Proof.Machine Sys2Proof.Claims Sys2Proof.Laws Sys2Proof.ScalarCore Sys2Proof.GoingOn

section
variable {ch : Chip} {j : Nat} {t : TwinSrc} (ht : twinOf ch j = some t)
include ht

theorem updTwin_eq (f : TwinSrc → TwinSrc) :
    updTwin ch j f = { ch with fab := { ch.fab with twins := tput ch.fab.twins j (f t) } } := by
  simp only [updTwin, ht]

/-- An update of a source gives what it gives of the one that is there. -/
theorem updTwin_congr {f g : TwinSrc → TwinSrc} (h : f t = g t) : updTwin ch j f = updTwin ch j g := by
  rw [updTwin_eq ht, updTwin_eq ht, h]

end

/-! ### Twin points (R339) -/

section
variable {s : State} {j : JobId} {t : TwinSrc} (hl : live s.chip = true) (ht : twinOf s.chip j.val = some t)
include hl ht

theorem twinGate_of_held
    (h : colRuns s.chip = false ∨ t.enabled = false ∨ t.copy.isSome = true ∨ t.rel < t.points + 1) :
    exec (.twinGate j) s = .next s := by
  refine exec_of_live hl (exec_twinGate j s) ?_
  simp only [ht]
  exact if_pos (by simpa using h)

section
variable (hr : colRuns s.chip = true) (he : t.enabled = true) (hc : t.copy = none) (hp : t.points + 1 ≤ t.rel)
include hr he hc hp

theorem twinGate_of_due (h : (t.points + 1) % t.every = 0 ∨ t.now = true) : exec (.twinGate j) s =
    .next (after s (updTwin s.chip j.val fun t => { t with
      points := t.points + 1
      since := t.since + 1
      now := false
      copy := some ⟨t.lastNumber + 1, 0, false, s.chip.us⟩ })) := by
  have hdue : (decide ((t.points + 1) % t.every = 0) || t.now) = true := by simpa using h
  have hgo : ¬ (¬ colRuns s.chip = true ∨ ¬ t.enabled = true ∨ t.copy.isSome = true ∨ t.rel < t.points + 1) := by
    simp [hr, he, hc]; omega
  refine exec_of_live hl (exec_twinGate j s) ?_
  simp only [ht, if_neg hgo, hdue, if_true, Bool.not_true, Bool.and_false]
  exact updTwin_congr ht rfl

theorem twinGate_of_passed (h : (t.points + 1) % t.every ≠ 0) (hn : t.now = false) : exec (.twinGate j) s =
    .next (after s (objDeliver (updTwin s.chip j.val fun t => { t with
      points := t.points + 1, since := t.since + 1, now := false, copy := none }) 8 t.resume (.signal 1))) := by
  have hdue : (decide ((t.points + 1) % t.every = 0) || t.now) = false := by simp [h, hn]
  have hgo : ¬ (¬ colRuns s.chip = true ∨ ¬ t.enabled = true ∨ t.copy.isSome = true ∨ t.rel < t.points + 1) := by
    simp [hr, he, hc]; omega
  refine exec_of_live hl (exec_twinGate j s) ?_
  simp only [ht, if_neg hgo, hdue, if_false, Bool.false_eq_true, Bool.not_false, Bool.and_true]
  rw [updTwin_congr ht (by rw [hn])]

end

/-! ### Unacknowledged OPENs (R346; log 24) -/

theorem twinOpenTimeout_eq {c : TwinCopy} (hc : t.copy = some c) {w : Bool}
    (hw : w = (c.sent && decide (c.at_ + 10000 ≤ s.chip.us) &&
      t.links.any fun l => ((linkOf s.chip l).sent ++ (linkOf s.chip l).wait).any fun x =>
        x.f.ftype == 5 && x.f.lane && x.f.jfid == (jobOf s.chip j.val).jfid && x.f.payload.headD 0 == 1)) :
    exec (.twinOpenTimeout j) s = .next (after s (if w then endCopy s.chip j.val 2 else s.chip)) := by
  subst hw
  refine exec_of_live hl (exec_twinOpenTimeout j s) ?_
  simp only [ht, hc, Bool.and_eq_true, decide_eq_true_eq, and_assoc]

end

/-! ### Due copies (R340, R346) -/

section
variable {ch : Chip} {run : JobRun} {j : JobId} {v : TwinSrc} {c : TwinCopy} (hj : j = run.job)
  (ht : twinOf ch j.val = some v) (hc : v.copy = some c)
include hj ht hc

theorem twinCopyWork_of_held (h : c.sent = true ∨ colMoves ch = false ∨ jobCollBusy ch j = true) :
    twinCopyWork run ch = ch := by
  subst hj
  have hheld : ¬ colMoves ch = true ∨ c.sent = true ∨ jobCollBusy ch run.job = true := by
    rcases h with h | h | h <;> simp [h]
  simp only [twinCopyWork, ht, hc, if_pos hheld]

variable (hs : c.sent = false) (hm : colMoves ch = true) (hb : jobCollBusy ch j = false)
include hs hm hb

section
variable {step : Nat} (hstep : step = hdrStep ch (jobOf ch j.val).stat) {ch1 : Chip}
  (hch : ch1 = updTwin ch j.val fun t => { t with
    lastNumber := c.number, copy := some ⟨c.number, step, true, ch.us⟩ })
include hstep hch

theorem twinCopyWork_of_failed_link (hl : (v.links.any fun l => !linkUp ch l) = true) :
    twinCopyWork run ch = endCopy ch1 j.val 2 := by
  subst hj hch hstep
  simp only [twinCopyWork, ht, hc, hs, hm, hb, hl, not_true_eq_false, Bool.false_eq_true, or_self, if_false, if_true]

/-- With its links UP the shard leaves, or a poisoned word ends the copy. -/
theorem twinCopyWork_of_streaming (hl : (v.links.any fun l => !linkUp ch l) = false) {areas : List (Nat × Nat)}
    (ha : areas = shardAreas ch j.val v.regions v.history) {m : TwinCtl}
    (hctl : m = { ctlNone with
      copy := c.number, shardBytes := shardBytes v.regions v.history, step := step, history := v.history
      lengths := v.regions.map Prod.snd, jfid := (jobOf ch j.val).jfid }) {r : Chip × Bool}
    (hr : r = sendStream (areas.foldl (fun y a => landRange y (some j) .stream a.1 a.2 false) ch1) v.links v.partner m
      areas) : twinCopyWork run ch = if r.2 then r.1 else endCopy r.1 j.val 3 := by
  subst hj hr hctl ha hch hstep
  simp only [twinCopyWork, ht, hc, hs, hm, hb, hl, not_true_eq_false, Bool.false_eq_true, or_self, if_false]

end

end

/-- Settles O34: the twin point, the due copy and the unacknowledged OPEN by the state of the source (logs 24, 43, 45 and
116). -/
theorem twinCopySource : Obligations.TwinCopySource := by
  unfold Obligations.TwinCopySource
  intro s run j t hj hl ht
  refine ⟨fun hr he hc hp => ⟨twinGate_of_due hl ht hr he hc hp, twinGate_of_passed hl ht hr he hc hp⟩,
    twinGate_of_held hl ht, waitsOrLoses_of_memWork (exec_twinCopy run s), ?copy, ?timeout⟩
  case copy =>
    intro u v c hgo hv hc
    have go {ch : Chip} (h : twinCopyWork run u.chip = ch) := work_of_goesOn_eq (exec_twinCopy run s) hgo h
    refine ⟨fun hs hm hb ch step hstep hch => ⟨fun hup => go ?_, fun hup m r areas ha hctl hr => ?_⟩,
      fun h => go (twinCopyWork_of_held hj hv hc h)⟩
    · exact twinCopyWork_of_failed_link hj hv hc hs hm hb hstep hch hup
    · have hwork := twinCopyWork_of_streaming hj hv hc hs hm hb hstep hch hup ha hctl hr
      exact ⟨fun h => go (hwork.trans (if_pos h)), fun h => go (hwork.trans (if_neg (ne_true_of_eq_false h)))⟩
  case timeout =>
    intro c hc w hw
    have heq := twinOpenTimeout_eq hl ht hc hw
    refine ⟨fun h => ?_, fun h => ?_⟩
    · rw [heq, if_pos h]
    · rw [heq, if_neg (ne_true_of_eq_false h)]
      rfl

end Sys2Proof.TwinSource
end

section
/-! Proofs about twin copies at their partner (14_fabric_collectives.md R309, 15_twin_copy.md R338 to R346): what a TWIN
flit does once it is received, what 100 ms of silence do, and the statement TwinCopyPartner. -/

namespace Sys2Proof.TwinPartner
open Sys2Proof Sys2Proof.Machine Sys2Proof.Claims Sys2Proof.Laws Sys2Proof.ScalarCore Sys2Proof.GoingOn
  Sys2Proof.LinkFlits

/-! ### Control flits (R309, R310, R342) -/

section
variable {s : State} {l : LinkId} {f : Flit} {kind : Nat} {k : Chip → TwinCtl → Chip}

/-- What a control flit of the awaited kind does once it is accepted: one for another position is misrouted, a poisoned
one is not acted on. -/
theorem receiveCtl_of_in_sequence (h : InSequence s l f) (ht : f.ftype = 5) (hlane : f.lane = true)
    (hk : ctlKind f = kind) : receiveCtl s.chip l.val kind f k =
      if f.dst ≠ (accepted s l f).nwl.pos then raise (accepted s l f) .fabMisroute (portOf l.val)
      else if colMoves (accepted s l f) = true ∧ ¬ f.poison = true then k (accepted s l f) (ctlOf f)
      else accepted s l f := by
  rw [receiveCtl, if_neg (by simp [ht, hlane, hk]), receive_of_in_sequence _ h]

section
variable (h : InSequence s l f) (ht : f.ftype = 5) (hlane : f.lane = true) (hk : ctlKind f = kind)
include h ht hlane hk

theorem receiveCtl_of_misroute (hd : f.dst ≠ (accepted s l f).nwl.pos) :
    receiveCtl s.chip l.val kind f k = raise (accepted s l f) .fabMisroute (portOf l.val) := by
  rw [receiveCtl_of_in_sequence h ht hlane hk, if_pos hd]

theorem receiveCtl_of_poison (hd : f.dst = (accepted s l f).nwl.pos) (hp : f.poison = true) :
    receiveCtl s.chip l.val kind f k = accepted s l f := by
  rw [receiveCtl_of_in_sequence h ht hlane hk, if_neg (not_not.mpr hd), if_neg (fun hc => hc.2 hp)]

end

theorem receiveCtl_of_control (h : TwinControl s l f kind) :
    receiveCtl s.chip l.val kind f k = k (accepted s l f) (ctlOf f) := by
  obtain ⟨hin, ht, hlane, hk, hd, hp, hm⟩ := h
  rw [receiveCtl_of_in_sequence hin ht hlane hk, if_neg (not_not.mpr hd), if_pos ⟨hm, by simp [hp]⟩]

end

/-! ### OPEN and CLOSE (R340) -/

section
variable {t : State} {l : LinkId} {f : Flit} {a : Chip} {m : TwinCtl} (ha : a = accepted t l f) (hm : m = ctlOf f)
include ha hm

theorem openTwinWork_of_control (h : TwinControl t l f 1) : openTwinWork l f t.chip = openStream a l.val m := by
  subst ha hm
  exact receiveCtl_of_control h

section
variable {run : LinkRun} (hl : l = run.link) (h : TwinControl t l f 2)
include hl h

theorem closeTwinWork_of_unknown (hx : inOf a m.src.toNat m.jfid = none) : closeTwinWork run f t.chip = a := by
  subst hl
  rw [closeTwinWork, receiveCtl_of_control h, ← ha, ← hm]
  simp only [hx]

variable {x : TwinIn} (hx : inOf a m.src.toNat m.jfid = some x)
include hx

theorem closeTwinWork_of_other_copy (hn : x.number ≠ m.copy) : closeTwinWork run f t.chip = a := by
  subst hl
  rw [closeTwinWork, receiveCtl_of_control h, ← ha, ← hm]
  simp only [hx, if_pos hn]

variable (hn : x.number = m.copy) {y : TwinIn} (hy : y = { x with closed := sadd x.closed m.stream, lastUs := a.us })
include hn hy

theorem closeTwinWork_of_part (hc : inComplete y = false) : closeTwinWork run f t.chip = setIn a y := by
  subst hl hy
  rw [closeTwinWork, receiveCtl_of_control h, ← ha, ← hm]
  simp only [hx, if_neg (not_not.mpr hn), hc, Bool.false_eq_true, not_false_eq_true, if_true]

variable (hc : inComplete y = true)
include hc

theorem closeTwinWork_of_restore {j : JobId} (hj : y.job = some j) :
    closeTwinWork run f t.chip = finishRest (dropIn a y.src y.jfid) y j := by
  subst hl hy
  have hjob : x.job = _ := hj
  rw [closeTwinWork, receiveCtl_of_control h, ← ha, ← hm]
  simp only [hx, if_neg (not_not.mpr hn), hc, not_true_eq_false, if_false]
  simp only [hjob]

theorem closeTwinWork_of_copy (hj : y.job = none) : closeTwinWork run f t.chip =
    sendCtl (wrLand (dropIn a y.src y.jfid) none .stream y.slot (slotHeader y) false) l.val y.src a.nwl.pos.toNat 3
      { ctlNone with copy := y.number, step := y.step, jfid := y.jfid } := by
  subst hl hy
  have hjob : x.job = _ := hj
  rw [closeTwinWork, receiveCtl_of_control h, ← ha, ← hm]
  simp only [hx, if_neg (not_not.mpr hn), hc, not_true_eq_false, if_false]
  simp only [hjob]

end

/-! ### COMMIT and ABORT (R340, R345, R346) -/

/-- What an ABORT that is about no copy of this package does: it drops the incoming copy that it numbers, or ends the
restore. -/
theorem abortTwin_of_control (h : TwinControl t l f 4) (hc : copyFor a m = none)
    (hx : ∀ x, inOf a m.src.toNat m.jfid = some x → x.number = m.copy) : exec (.abortTwin l f) t =
      .next (after t (match restFor a m.src.toNat m.jfid with
        | some (j, _) => endRest (dropIn a m.src.toNat m.jfid) j m.result id
        | none => dropIn a m.src.toNat m.jfid)) := by
  have hown : (match inOf a m.src.toNat m.jfid with | some x => x.number != m.copy | none => false) = false := by
    split
    case h_1 x hin => simp [hx x hin]
    case h_2 => rfl
  refine exec_of_live h.comes.live (exec_abortTwin l f t) ((receiveCtl_of_control h).trans ?_)
  rw [← ha, ← hm]
  simp only [hc]
  exact if_neg (ne_true_of_eq_false hown)

end

/-! ### PULL (R345, R346) -/

section
variable {t : State} {run : LinkRun} {l : LinkId} {f : Flit} {a : Chip} {m : TwinCtl} (hl : l = run.link)
  (ha : a = accepted t l f) (hm : m = ctlOf f) (h : TwinControl t l f 5) {back : Nat}
  (hback : back = ((linkOf a l.val).partner.map fun h => h.pos.toNat).getD 0)
include hl ha hm h hback

theorem pullTwinWork_of_control : pullTwinWork run f t.chip =
    match (holdOf a m.src.toNat m.jfid).bind fun h => bestSlot a h with
    | none => sendCtl a l.val back a.nwl.pos.toNat 4 { ctlNone with result := 7, jfid := m.jfid }
    | some d =>
      if (List.range 16).any (fun i => (slotLengths a d).getD i 0 != m.lengths.getD i 0) then
        sendCtl a l.val back a.nwl.pos.toNat 4 { ctlNone with result := 6, jfid := m.jfid }
      else (sendStream (landRange a none .stream (d + 4096) (rdNat a (d + 16) 8) false)
        ((linksTo a l.val back m.jfid).take (max 1 m.streams)) back
        { ctlNone with
          copy := slotCopy a d, shardBytes := rdNat a (d + 16) 8, step := rdNat a (d + 8) 8
          history := (rdNat a (d + 4) 1).testBit 1, lengths := slotLengths a d, jfid := m.jfid }
        [(d + 4096, rdNat a (d + 16) 8)]).1 := by
  subst hl
  rw [pullTwinWork, receiveCtl_of_control h, ← ha, ← hm, hback]
  cases hp : (linkOf a run.link.val).partner <;> simp only [hp, Option.map, Option.getD] <;> rfl

end

/-! ### Pieces (R340, R342) -/

section
variable {t : State} {run : LinkRun} {l : LinkId} {f : Flit} {a : Chip} (hl : l = run.link) (ha : a = accepted t l f)
  (h : InSequence t l f) (ht : f.ftype = 5) (hlane : f.lane = false)
include hl ha h ht hlane

theorem twinDataWork_of_misroute (hd : f.dst ≠ a.nwl.pos) :
    twinDataWork run f t.chip = raise a .fabMisroute (portOf l.val) := by
  subst hl
  rw [twinDataWork, if_neg (by simp [ht, hlane]), receive_of_in_sequence _ h, ← ha, if_pos hd]

variable (hd : f.dst = a.nwl.pos)
include hd

theorem twinDataWork_of_stopped (hm : colMoves a = false) : twinDataWork run f t.chip = a := by
  subst hl
  rw [twinDataWork, if_neg (by simp [ht, hlane]), receive_of_in_sequence _ h, ← ha, if_neg (not_not.mpr hd),
    if_pos (ne_true_of_eq_false hm)]

variable (hm : colMoves a = true)
include hm

theorem twinDataWork_of_unknown (hx : inOf a f.src.toNat f.jfid = none) : twinDataWork run f t.chip = a := by
  subst hl
  rw [twinDataWork, if_neg (by simp [ht, hlane]), receive_of_in_sequence _ h, ← ha, if_neg (not_not.mpr hd),
    if_neg (not_not.mpr hm)]
  simp only [hx]

variable {x : TwinIn} (hx : inOf a f.src.toNat f.jfid = some x)
include hx

theorem twinDataWork_of_no_stream (hp : x.links.find? (fun p => p.1 == l.val) = none) :
    twinDataWork run f t.chip = a := by
  subst hl
  rw [twinDataWork, if_neg (by simp [ht, hlane]), receive_of_in_sequence _ h, ← ha, if_neg (not_not.mpr hd),
    if_neg (not_not.mpr hm)]
  simp only [hx, hp]

theorem twinDataWork_of_stream {p : Nat × Nat} (hp : x.links.find? (fun p => p.1 == l.val) = some p) :
    twinDataWork run f t.chip = setIn (putPiece a x (tget x.got 0 p.2 * x.streams + p.2) f.payload f.poison)
      { x with got := tput x.got p.2 (tget x.got 0 p.2 + 1), lastUs := a.us } := by
  subst hl
  rw [twinDataWork, if_neg (by simp [ht, hlane]), receive_of_in_sequence _ h, ← ha, if_neg (not_not.mpr hd),
    if_neg (not_not.mpr hm)]
  simp only [hx, hp]

end

/-! ### Silence (R346) -/

section
variable {s : State} (hl : live s.chip = true) {src : BitVec 6} {jf : BitVec 16}
include hl

theorem twinStreamTimeout_of_none (hx : inOf s.chip src.toNat jf = none) :
    exec (.twinStreamTimeout src jf) s = .next s := by
  refine exec_of_live hl (exec_twinStreamTimeout src jf s) ?_
  simp only [hx]

variable {x : TwinIn} (hx : inOf s.chip src.toNat jf = some x)
include hx

theorem twinStreamTimeout_of_early (ht : s.chip.us < x.lastUs + 100000) :
    exec (.twinStreamTimeout src jf) s = .next s := by
  refine exec_of_live hl (exec_twinStreamTimeout src jf s) ?_
  simp only [hx, if_pos ht]

variable (ht : x.lastUs + 100000 ≤ s.chip.us)
include ht

theorem twinStreamTimeout_of_restore {j : JobId} (hj : x.job = some j) : exec (.twinStreamTimeout src jf) s =
    .next (after s (endRest (dropIn s.chip src.toNat jf) j.val 8 id)) := by
  refine exec_of_live hl (exec_twinStreamTimeout src jf s) ?_
  simp only [hx, if_neg (Nat.not_lt.mpr ht), hj]

theorem twinStreamTimeout_of_copy (hj : x.job = none) {n : Nat} (hn : n = (x.links.map Prod.fst).headD 0) :
    exec (.twinStreamTimeout src jf) s = .next (after s (if linkUp s.chip n then
      sendCtl (dropIn s.chip src.toNat jf) n src.toNat s.chip.nwl.pos.toNat 4
        { ctlNone with result := 8, copy := x.number, jfid := jf }
      else dropIn s.chip src.toNat jf)) := by
  subst hn
  refine exec_of_live hl (exec_twinStreamTimeout src jf s) ?_
  simp only [hx, if_neg (Nat.not_lt.mpr ht), hj]

end

/-! ### The statement -/

/-- The three control flits whose work touches memory: each waits or loses as a work, and is misrouted or ignored as every
control flit is. -/
theorem control_work {s t : State} {l : LinkId} {f : Flit} {a : Chip} {kind : Nat} {i : Instr} {b : Bursts}
    {k : Chip → TwinCtl → Chip} (ha : a = accepted t l f)
    (hi : exec i s = onChip s (memWork .die b fun ch => receiveCtl ch l.val kind f k)) :
    waitsOrLoses s i .die b (fun ch => receiveCtl ch l.val kind f k) ∧
    (GoesOn s .die b (fun ch => receiveCtl ch l.val kind f k) t → InSequence t l f → f.ftype = 5 → f.lane = true →
      ctlKind f = kind → (f.dst ≠ a.nwl.pos → exec i s = .next (after t (raise a .fabMisroute (portOf l.val)))) ∧
        (f.dst = a.nwl.pos → f.poison = true → exec i s = .next (after t a))) := by
  subst ha
  exact ⟨waitsOrLoses_of_memWork hi, fun hgo h ht hlane hk =>
    ⟨fun hd => work_of_goesOn_eq hi hgo (receiveCtl_of_misroute h ht hlane hk hd),
      fun hd hp => work_of_goesOn_eq hi hgo (receiveCtl_of_poison h ht hlane hk hd hp)⟩⟩

/-- Settles O35: each flit by what the partner holds of its copy, and silence by what it was silent about (logs 23, 43, 45,
163 and 164). -/
theorem twinCopyPartner : Obligations.TwinCopyPartner := by
  unfold Obligations.TwinCopyPartner
  intro s t run l f m a hl hm ha
  refine ⟨?control, fun hgo h => work_of_goesOn_eq (exec_openTwin l f s) hgo (openTwinWork_of_control ha hm h),
    ?close, ?commit, ?abort, ?misroute, ?pull, waitsOrLoses_of_memWork (exec_twinData run f s), ?data, ?silence⟩
  case control =>
    rintro kind i w b (⟨rfl, rfl, rfl, rfl⟩ | ⟨rfl, rfl, rfl, rfl⟩ | ⟨rfl, rfl, rfl, rfl⟩)
    · exact control_work ha (exec_openTwin l f s)
    · subst hl
      exact control_work ha (exec_closeTwin run f s)
    · subst hl
      exact control_work ha (exec_pullTwin run f s)
  case close =>
    intro hgo h
    have go {ch : Chip} (hw : closeTwinWork run f t.chip = ch) := work_of_goesOn_eq (exec_closeTwin run f s) hgo hw
    refine ⟨fun hx => go (closeTwinWork_of_unknown ha hm hl h hx), fun x hx =>
      ⟨fun hn => go (closeTwinWork_of_other_copy ha hm hl h hx hn), fun y hy hn =>
        ⟨fun hc => go (closeTwinWork_of_part ha hm hl h hx hn hy hc),
          fun j hc hj => go (closeTwinWork_of_restore ha hm hl h hx hn hy hc hj),
          fun hc hj => go (closeTwinWork_of_copy ha hm hl h hx hn hy hc hj)⟩⟩⟩
  case commit =>
    rintro rfl h
    have heq := exec_of_live h.comes.live (exec_commitTwin l f t) (receiveCtl_of_control h)
    rw [← ha, ← hm] at heq
    refine ⟨fun j hc => ?_, fun hc => ?_⟩
    · simpa only [hc] using heq
    · simpa only [hc] using heq
  case abort =>
    rintro rfl h
    have heq := exec_of_live h.comes.live (exec_abortTwin l f t) (receiveCtl_of_control h)
    rw [← ha, ← hm] at heq
    refine ⟨fun j hc => ?_, fun hc => ?_, fun hc hx => ?_⟩
    · simpa only [hc] using heq
    · rintro ⟨x, hx, hn⟩
      simpa [hc, hx, hn] using heq
    · have hown := abortTwin_of_control ha hm h hc hx
      exact ⟨fun hr => by simpa only [hr] using hown, fun p hr => by simpa only [hr] using hown⟩
  case misroute =>
    rintro rfl h ht hlane hd
    subst ha
    exact ⟨fun hk => exec_of_live h.live (exec_commitTwin l f t) (receiveCtl_of_misroute h ht hlane hk hd),
      fun hk => exec_of_live h.live (exec_abortTwin l f t) (receiveCtl_of_misroute h ht hlane hk hd)⟩
  case pull =>
    intro hgo h back hback
    have hwork := pullTwinWork_of_control hl ha hm h hback
    have go {ch : Chip} (hw : pullTwinWork run f t.chip = ch) := work_of_goesOn_eq (exec_pullTwin run f s) hgo hw
    refine ⟨fun hd => go ?_, fun d hd w hw => ⟨fun hdiff => go ?_, ?_⟩⟩
    · simpa only [hd] using hwork
    · simpa only [hd, ← hw, hdiff, if_true] using hwork
    · rintro hsame n c rfl rfl
      refine go ?_
      simpa only [hd, ← hw, hsame, if_false, Bool.false_eq_true] using hwork
  case data =>
    intro hgo h ht hlane
    have go {ch : Chip} (hw : twinDataWork run f t.chip = ch) := work_of_goesOn_eq (exec_twinData run f s) hgo hw
    refine ⟨fun hd => go (twinDataWork_of_misroute hl ha h ht hlane hd),
      fun hd hm => go (twinDataWork_of_stopped hl ha h ht hlane hd hm), fun hd hm =>
      ⟨fun hx => go (twinDataWork_of_unknown hl ha h ht hlane hd hm hx), fun x hx =>
        ⟨fun hp => go (twinDataWork_of_no_stream hl ha h ht hlane hd hm hx hp), ?_⟩⟩⟩
    rintro p _ hp rfl
    exact go (twinDataWork_of_stream hl ha h ht hlane hd hm hx hp)
  case silence =>
    intro hlive src jf
    refine ⟨twinStreamTimeout_of_none hlive, fun x hx => ⟨twinStreamTimeout_of_early hlive hx, ?_⟩⟩
    rintro ht _ n rfl hn
    have hcopy (hj : x.job = none) := twinStreamTimeout_of_copy hlive hx ht hj hn
    exact ⟨fun j => twinStreamTimeout_of_restore hlive hx ht,
      fun hj hup => (hcopy hj).trans (by rw [if_neg (ne_true_of_eq_false hup)]),
      fun hj hup => (hcopy hj).trans (by rw [if_pos hup])⟩

end Sys2Proof.TwinPartner
end

section
/-! Proofs about the commands of ports, routes, training and collective groups (14_fabric_collectives.md R318, R325,
R332, R333): what each answers, or how it waits, once its checks pass, and the statement FabricCommands. -/

namespace Sys2Proof.FabricCommands
open Sys2Proof Sys2Proof.Machine Sys2Proof.Claims Sys2Proof.Laws Sys2Proof.ArrayCommands

variable {s : State} {k : Stream} {c : Cmd}

/-! ### FAB_PORT_CFG -/

section
variable (ht : Taking s k 0x60 (actRow 0 2) portCfgChk c)
include ht

theorem portCfg_of_link_in_use (hb : ((span (2 * pb c.raw 1 1) 2).any fun l => (linkOf s.chip l).st != 0) = true) :
    exec (.fabPortCfgPort k) s = .next (answered s k c s.chip (rspOf 0x14)) := by
  rw [exec_fabPortCfgPort, execFabPortCfgPort]
  exact runNow_eq ht (if_pos hb)

theorem portCfg_of_links_down (hb : ((span (2 * pb c.raw 1 1) 2).any fun l => (linkOf s.chip l).st != 0) = false) :
    exec (.fabPortCfgPort k) s = .next (answered s k c (cfgPort s.chip (pb c.raw 1 1) (pb c.raw 2 2) (pb c.raw 5 4)
      (pb c.raw 7 6) (pb c.raw 9 8) (pb c.raw 11 10) (pb c.raw 13 12, pb c.raw 15 14, pb c.raw 17 16)) rspOk) := by
  rw [exec_fabPortCfgPort, execFabPortCfgPort]
  exact runNow_eq ht (if_neg (ne_true_of_eq_false hb))

end

theorem portCfg_route (ht : Taking s k 0x60 (actRow 1 2)
      (fun raw => ([(0, 3)], badIf (63 < pb raw 1 1) 1 ++ badIf (31 < pb raw 2 2) 2 ++ badIf (3 < pb raw 3 3) 3)) c) :
    exec (.fabPortCfgRoute k) s = .next (answered s k c (fwReg s.chip .fabRoute 0 fun ch => { ch with fab := { ch.fab with
      routes := tput ch.fab.routes (pb c.raw 1 1) ⟨pb c.raw 2 2, pbit c.raw 3 1 1 == 1, pbit c.raw 3 0 0 == 1⟩ } })
      rspOk) := by
  rw [exec_fabPortCfgRoute, execFabPortCfgRoute]
  exact runNow_eq ht rfl

/-! ### FAB_TRAIN -/

theorem trainGo_of_done {ch : Chip} (h : pbit c.raw 2 0 0 = 0 ∨ trainOver ch c.raw = true) :
    trainGo ch c = reply ch (trainRsp ch c.raw 0) := if_pos h.symm

theorem trainGo_of_training {ch : Chip} (hw : pbit c.raw 2 0 0 ≠ 0) (ho : trainOver ch c.raw = false) :
    trainGo ch c = stay ch [] := if_neg (by simp [hw, ho])

section
variable (ht : Taking s k 0x61 (trainRow 0) trainChk c)
include ht

theorem train_of_busy (hb : ((portLinks s.chip (pb c.raw 0 0)).any fun l =>
      (linkOf s.chip l).st != 0 && (linkOf s.chip l).st != 4) = true) :
    exec (.fabTrainTrain k) s = .next (answered s k c s.chip (rspOf 0x14)) := by
  rw [exec_fabTrainTrain, execFabTrainTrain]
  exact runCmd_of_start_reply ht (if_pos hb)

variable (hb : ((portLinks s.chip (pb c.raw 0 0)).any fun l =>
  (linkOf s.chip l).st != 0 && (linkOf s.chip l).st != 4) = false)
  {ch : Chip} (hch : ch = (portLinks s.chip (pb c.raw 0 0)).foldl trainLink s.chip)
include hb hch

theorem train_of_done (hd : pbit c.raw 2 0 0 = 0 ∨ trainOver ch c.raw = true) :
    exec (.fabTrainTrain k) s = .next (answered s k c ch (trainRsp ch c.raw 0)) := by
  subst hch
  rw [exec_fabTrainTrain, execFabTrainTrain]
  exact runCmd_of_start_reply ht ((if_neg (ne_true_of_eq_false hb)).trans (trainGo_of_done hd))

theorem train_of_training (hw : pbit c.raw 2 0 0 ≠ 0) (ho : trainOver ch c.raw = false) :
    exec (.fabTrainTrain k) s = .next (waits s k c ch []) := by
  subst hch
  rw [exec_fabTrainTrain, execFabTrainTrain]
  exact runCmd_of_start_stay ht ((if_neg (ne_true_of_eq_false hb)).trans (trainGo_of_training hw ho))

end

/-- TRAIN and RETRAIN, which wait alike. -/
theorem trains_again {a : Nat} {i : Instr} (ha : (a, i) ∈ [(0, Instr.fabTrainTrain k), (2, .fabTrainRetrain k)])
    (hw : Waiting s k 0x61 (trainRow a) c) :
    exec i s = .next (after s (settle (streamIx k) c (trainGo s.chip c))) := by
  simp only [List.mem_cons, Prod.mk.injEq, List.not_mem_nil, or_false] at ha
  obtain ⟨rfl, rfl⟩ | ⟨rfl, rfl⟩ := ha
  · rw [exec_fabTrainTrain, execFabTrainTrain, runCmd_of_waiting hw]
  · rw [exec_fabTrainRetrain, execFabTrainRetrain, runCmd_of_waiting hw]

theorem takeDown_of_taking (ht : Taking s k 0x61 (trainRow 1) trainChk c) {ch : Chip}
    (hch : ch = (portLinks s.chip (pb c.raw 0 0)).foldl takeDown s.chip) :
    exec (.fabTrainTakeDown k) s = .next (answered s k c ch (trainRsp ch c.raw 0)) := by
  subst hch
  rw [exec_fabTrainTakeDown, execFabTrainTakeDown]
  exact runNow_eq ht rfl

section
variable (ht : Taking s k 0x61 (trainRow 2) trainChk c)
include ht

theorem retrain_of_busy (hb : ((portLinks s.chip (pb c.raw 0 0)).any fun l =>
      (linkOf s.chip l).st == 1 || (linkOf s.chip l).st == 2) = true) :
    exec (.fabTrainRetrain k) s = .next (answered s k c s.chip (rspOf 0x14)) := by
  rw [exec_fabTrainRetrain, execFabTrainRetrain]
  exact runCmd_of_start_reply ht (if_pos hb)

variable (hb : ((portLinks s.chip (pb c.raw 0 0)).any fun l =>
  (linkOf s.chip l).st == 1 || (linkOf s.chip l).st == 2) = false)
  {ch : Chip} (hch : ch = (portLinks s.chip (pb c.raw 0 0)).foldl (fun x l => trainLink (takeDown x l) l) s.chip)
include hb hch

theorem retrain_of_done (hd : pbit c.raw 2 0 0 = 0 ∨ trainOver ch c.raw = true) :
    exec (.fabTrainRetrain k) s = .next (answered s k c ch (trainRsp ch c.raw 0)) := by
  subst hch
  rw [exec_fabTrainRetrain, execFabTrainRetrain]
  exact runCmd_of_start_reply ht ((if_neg (ne_true_of_eq_false hb)).trans (trainGo_of_done hd))

theorem retrain_of_training (hw : pbit c.raw 2 0 0 ≠ 0) (ho : trainOver ch c.raw = false) :
    exec (.fabTrainRetrain k) s = .next (waits s k c ch []) := by
  subst hch
  rw [exec_fabTrainRetrain, execFabTrainRetrain]
  exact runCmd_of_start_stay ht ((if_neg (ne_true_of_eq_false hb)).trans (trainGo_of_training hw ho))

end

/-! ### COLL_GROUP_CFG and STRAGGLER_POLICY -/

section
variable (ht : Taking s k 0x62 (groupRow 0) groupChk c)
include ht

theorem groupCreate_of_refusal {r : Rsp} (hr : groupRefusal s.chip k.fn.val c = some r) :
    exec (.collGroupCreate k) s = .next (answered s k c s.chip r) := by
  rw [exec_collGroupCreate, execCollGroupCreate]
  exact runNow_eq ht (by simp only [hr])

theorem groupCreate_of_none (hr : groupRefusal s.chip k.fn.val c = none) : exec (.collGroupCreate k) s =
    .next (answered s k c (setGroup s.chip (pb c.raw 0 0) (newGroup s.chip c.raw)) rspOk) := by
  rw [exec_collGroupCreate, execCollGroupCreate]
  exact runNow_eq ht (by simp only [hr])

end

section
variable (ht : Taking s k 0x62 (groupRow 1) groupChk c)
include ht

theorem groupDestroy_of_no_group (hg : groupOf s.chip (pb c.raw 0 0) = none) :
    exec (.collGroupDestroy k) s = .next (answered s k c s.chip (rspBad 0)) := by
  rw [exec_collGroupDestroy, execCollGroupDestroy]
  exact runNow_eq ht (by simp only [hg])

variable {x : Group} (hg : groupOf s.chip (pb c.raw 0 0) = some x)
include hg

theorem groupDestroy_of_foreign (hj : x.job ≠ jobId (cmdJob c.raw)) :
    exec (.collGroupDestroy k) s = .next (answered s k c s.chip (rspOf 0x13)) := by
  rw [exec_collGroupDestroy, execCollGroupDestroy]
  exact runNow_eq ht (by simp only [hg, if_pos hj])

theorem groupDestroy_of_own (hj : x.job = jobId (cmdJob c.raw)) :
    exec (.collGroupDestroy k) s = .next (answered s k c (destroyGroup s.chip (pb c.raw 0 0)) rspOk) := by
  rw [exec_collGroupDestroy, execCollGroupDestroy]
  exact runNow_eq ht (by simp only [hg, if_neg (not_not.mpr hj)])

end

theorem stragglerPolicy_of_taking (ht : Taking s k 0x63 anyRow stragglerChk c) : exec (.stragglerPolicy k) s =
    .next (answered s k c (updJob s.chip (cmdJob c.raw) fun b => { b with
      policy := pb c.raw 0 0, deadline := pb c.raw 7 4, opTimeout := pb c.raw 11 8 }) rspOk) := by
  rw [exec_stragglerPolicy, execStragglerPolicy]
  exact runNow_eq ht rfl

/-! ### The statement -/

/-- Settles O44: each command refuses, is answered or waits as the case of its meaning says (log 93). -/
theorem fabricCommands : Obligations.FabricCommands := by
  unfold Obligations.FabricCommands
  intro s k c
  refine ⟨?port, portCfg_route, ?train, ?again, fun ht ch => takeDown_of_taking ht, ?retrain,
    fun ht => ⟨fun r => groupCreate_of_refusal ht, groupCreate_of_none ht⟩,
    fun ht => ⟨groupDestroy_of_no_group ht, fun x => groupDestroy_of_foreign ht, fun x => groupDestroy_of_own ht⟩,
    stragglerPolicy_of_taking⟩
  case port =>
    rintro ht p rfl
    exact ⟨portCfg_of_link_in_use ht, portCfg_of_links_down ht⟩
  case train =>
    rintro ht ls rfl
    exact ⟨train_of_busy ht, fun hb ch hch => ⟨train_of_done ht hb hch, train_of_training ht hb hch⟩⟩
  case again =>
    intro a i ha hw
    refine ⟨fun hd => ?_, fun hp ho => ?_⟩
    · rw [trains_again ha hw, trainGo_of_done hd, settle_reply, answered]
    · rw [trains_again ha hw, trainGo_of_training hp ho, settle_stay, waits]
  case retrain =>
    rintro ht ls ch rfl hch
    exact ⟨retrain_of_busy ht, fun hb => ⟨retrain_of_done ht hb hch, retrain_of_training ht hb hch⟩⟩

end Sys2Proof.FabricCommands
end

section
/-! Proofs about the commands of twin copies (15_twin_copies.md R335, R337, R338, R345, R347): what each answers, or how
it waits, once its checks pass, and the statement TwinCommands. -/

namespace Sys2Proof.TwinCommands
open Sys2Proof Sys2Proof.Machine Sys2Proof.Claims Sys2Proof.Laws Sys2Proof.ArrayCommands

variable {s : State} {k : Stream} {c : Cmd}

/-! ### TWIN_CFG of a source (R335, R337) -/

/-- The object whose number stands at payload byte `lo` belongs to the job that the command names. -/
def ownsObject (ch : Chip) (c : Cmd) (n : Nat) : Prop := owner ch (objCluster (objOfNat n)) = some (jobId (cmdJob c.raw))

/-- The first link of a source's list that may not carry its flits. -/
def firstBadLink (ch : Chip) (c : Cmd) : Option Nat :=
  (List.range (pb c.raw 1 1)).find? fun i =>
    !twinLinkOk ch (jobOf ch (jobId (cmdJob c.raw)).val).jfid (pb c.raw 6 6) (pb c.raw (2 + i) (2 + i))

section
variable (ht : Taking s k 0x70 (actRow 0 4) sourceChk c)
include ht

theorem source_of_source (h : (twinOf s.chip (jobId (cmdJob c.raw)).val).isSome = true) :
    exec (.twinCfgSource k) s = .next (answered s k c s.chip (rspOf 0x14)) := by
  rw [exec_twinCfgSource, execTwinCfgSource]
  exact runNow_eq ht (if_pos h)

variable (h0 : twinOf s.chip (jobId (cmdJob c.raw)).val = none)
include h0

theorem source_of_foreign
    (hm : ¬(ownsObject s.chip c (pb c.raw 13 12) ∧ ownsObject s.chip c (pb c.raw 15 14))) :
    exec (.twinCfgSource k) s = .next (answered s k c s.chip (rspOf 0x13)) := by
  rw [exec_twinCfgSource, execTwinCfgSource]
  refine runNow_eq ht ((if_neg (by simp [h0])).trans (if_pos ?_))
  simpa only [ownsObject, beq_iff_eq, ← not_and_or] using hm

variable (hm : ownsObject s.chip c (pb c.raw 13 12) ∧ ownsObject s.chip c (pb c.raw 15 14))
include hm

/-- A source of the job's own objects is refused for its partner, a link or its table, or it is taken. -/
theorem source_of_own {ch : Chip} {r : Rsp}
    (hd : (if pb c.raw 6 6 = s.chip.nwl.pos.toNat then (s.chip, rspBad 6) else
      match firstBadLink s.chip c with
      | some i => (s.chip, rspBad (2 + i))
      | none => match tableRefusal s.chip (jobId (cmdJob c.raw)) (pb c.raw 29 24) 24 with
        | some r => (s.chip, r)
        | none => ({ s.chip with fab := { s.chip.fab with
            twins := tput s.chip.fab.twins (jobId (cmdJob c.raw)).val (newSource s.chip c.raw) } }, rspOk)) = (ch, r)) :
    exec (.twinCfgSource k) s = .next (answered s k c ch r) := by
  rw [exec_twinCfgSource, execTwinCfgSource]
  refine runNow_eq ht ((if_neg (by simp [h0])).trans ((if_neg ?_).trans hd))
  simpa only [ownsObject, beq_iff_eq, ← not_and_or, not_not] using hm

theorem source_of_own_position (hp : pb c.raw 6 6 = s.chip.nwl.pos.toNat) :
    exec (.twinCfgSource k) s = .next (answered s k c s.chip (rspBad 6)) :=
  source_of_own ht h0 hm (if_pos hp)

variable (hp : pb c.raw 6 6 ≠ s.chip.nwl.pos.toNat)
include hp

theorem source_of_bad_link {i : Nat} (ho : firstBadLink s.chip c = some i) :
    exec (.twinCfgSource k) s = .next (answered s k c s.chip (rspBad (2 + i))) :=
  source_of_own ht h0 hm ((if_neg hp).trans (by simp only [ho]))

variable (ho : firstBadLink s.chip c = none)
include ho

theorem source_of_bad_table {r : Rsp}
    (hr : tableRefusal s.chip (jobId (cmdJob c.raw)) (pb c.raw 29 24) 24 = some r) :
    exec (.twinCfgSource k) s = .next (answered s k c s.chip r) :=
  source_of_own ht h0 hm ((if_neg hp).trans (by simp only [ho, hr]))

theorem source_of_good_table (hr : tableRefusal s.chip (jobId (cmdJob c.raw)) (pb c.raw 29 24) 24 = none) :
    exec (.twinCfgSource k) s = .next (answered s k c { s.chip with fab := { s.chip.fab with
      twins := tput s.chip.fab.twins (jobId (cmdJob c.raw)).val (newSource s.chip c.raw) } } rspOk) :=
  source_of_own ht h0 hm ((if_neg hp).trans (by simp only [ho, hr]))

end

/-! ### TWIN_CFG of a hold area (R338) -/

section
variable (ht : Taking s k 0x70 (actRow 1 4) holdChk c) {h : TwinHold}
  (hh : h = ⟨pb c.raw 1 1, BitVec.ofNat 16 (pb c.raw 3 2), pbit c.raw 4 0 0 == 1, pb c.raw 13 8, pb c.raw 23 16⟩)
include ht hh

theorem hold_of_own_position (hp : h.src = s.chip.nwl.pos.toNat) :
    exec (.twinCfgHold k) s = .next (answered s k c s.chip (rspBad 1)) := by
  subst hh
  rw [exec_twinCfgHold, execTwinCfgHold]
  exact runNow_eq ht (if_pos hp)

variable (hp : h.src ≠ s.chip.nwl.pos.toNat)
include hp

theorem hold_beyond_memory (hb : hbmEnd < h.da + holdSpan h) :
    exec (.twinCfgHold k) s = .next (answered s k c s.chip (rspOf 0x1C)) := by
  subst hh
  rw [exec_twinCfgHold, execTwinCfgHold]
  exact runNow_eq ht ((if_neg hp).trans (if_pos hb))

variable (hb : h.da + holdSpan h ≤ hbmEnd)
include hb

theorem hold_of_taken (hx : ((holdOf s.chip h.src h.jfid).isSome ||
      (taken s.chip).any fun x => decide (h.da < x.1 + x.2 ∧ x.1 < h.da + holdSpan h)) = true) :
    exec (.twinCfgHold k) s = .next (answered s k c s.chip (rspOf 0x14)) := by
  subst hh
  rw [exec_twinCfgHold, execTwinCfgHold]
  rw [Bool.or_eq_true] at hx
  exact runNow_eq ht ((if_neg hp).trans ((if_neg (Nat.not_lt.mpr hb)).trans (if_pos hx)))

theorem hold_of_free (hx : ((holdOf s.chip h.src h.jfid).isSome ||
      (taken s.chip).any fun x => decide (h.da < x.1 + x.2 ∧ x.1 < h.da + holdSpan h)) = false) :
    exec (.twinCfgHold k) s = .next (answered s k c
      { s.chip with fab := { s.chip.fab with holds := s.chip.fab.holds ++ [h] } } rspOk) := by
  subst hh
  rw [exec_twinCfgHold, execTwinCfgHold]
  have hx := ne_true_of_eq_false hx
  rw [Bool.or_eq_true] at hx
  exact runNow_eq ht ((if_neg hp).trans ((if_neg (Nat.not_lt.mpr hb)).trans (if_neg hx)))

end

/-! ### TWIN_CFG that removes or asks (R347) -/

section
variable (ht : Taking s k 0x70 (actRow 2 4) removeChk c)
include ht

section
variable (h1 : pb c.raw 1 1 = 0)
include h1

theorem remove_of_no_source (ho : twinOf s.chip (cmdJob c.raw) = none) :
    exec (.twinCfgRemove k) s = .next (answered s k c s.chip (rspBad 1)) := by
  rw [exec_twinCfgRemove, execTwinCfgRemove]
  exact runNow_eq ht ((if_pos h1).trans (if_pos (by simp [ho])))

theorem remove_of_source (ho : (twinOf s.chip (cmdJob c.raw)).isSome = true) {ch : Chip}
    (hch : ch = abortCopy s.chip (cmdJob c.raw) 4) : exec (.twinCfgRemove k) s = .next (answered s k c
      { ch with fab := { ch.fab with twins := tdel ch.fab.twins (cmdJob c.raw) } } rspOk) := by
  subst hch
  rw [exec_twinCfgRemove, execTwinCfgRemove]
  exact runNow_eq ht ((if_pos h1).trans (if_neg (by simpa [Option.isSome_iff_ne_none] using ho)))

end

variable (h1 : pb c.raw 1 1 ≠ 0)
include h1

theorem remove_of_no_hold (ho : (s.chip.fab.holds.any fun h => h.src == pb c.raw 2 2) = false) :
    exec (.twinCfgRemove k) s = .next (answered s k c s.chip (rspBad 2)) := by
  rw [exec_twinCfgRemove, execTwinCfgRemove]
  exact runNow_eq ht ((if_neg h1).trans (if_pos (ne_true_of_eq_false ho)))

theorem remove_of_hold (ho : (s.chip.fab.holds.any fun h => h.src == pb c.raw 2 2) = true) :
    exec (.twinCfgRemove k) s = .next (answered s k c { s.chip with fab := { s.chip.fab with
      holds := s.chip.fab.holds.filter fun h => h.src != pb c.raw 2 2
      ins := s.chip.fab.ins.filter fun x => x.job.isSome || x.src != pb c.raw 2 2 } } rspOk) := by
  rw [exec_twinCfgRemove, execTwinCfgRemove]
  exact runNow_eq ht ((if_neg h1).trans (if_neg (not_not.mpr ho)))

end

section
variable (ht : Taking s k 0x70 (actRow 3 4) (fun _ => ([(0, 0)], [])) c)
include ht

theorem query_of_no_source (ho : twinOf s.chip (cmdJob c.raw) = none) :
    exec (.twinCfgQuery k) s = .next (answered s k c s.chip (rspData 0 24 [])) := by
  rw [exec_twinCfgQuery, execTwinCfgQuery]
  exact runNow_eq ht (by simp only [ho])

theorem query_of_source {t : TwinSrc} (ho : twinOf s.chip (cmdJob c.raw) = some t) : exec (.twinCfgQuery k) s =
    .next (answered s k c s.chip (rspData 0 24 (leBytes (t.committed.getD (0, 0)).1 4 ++
      leBytes (t.committed.getD (0, 0)).2 8 ++ leBytes t.lastResult 1 ++ leBytes 0 3 ++ leBytes t.since 8))) := by
  rw [exec_twinCfgQuery, execTwinCfgQuery]
  exact runNow_eq ht (by simp only [ho])

end

/-! ### TWIN_COPY_NOW (R347) -/

section
variable (ht : Taking s k 0x71 anyRow (fun raw => ([(0, 0)], badIf (1 < pb raw 0 0) 0)) c)
include ht

theorem copyNow_of_no_source (ho : twinOf s.chip (cmdJob c.raw) = none) :
    exec (.twinCopyNow k) s = .next (answered s k c s.chip (rspOf 0x12)) := by
  rw [exec_twinCopyNow, execTwinCopyNow]
  exact runCmd_of_start_reply ht (by simp only [ho])

variable {t : TwinSrc} (ho : twinOf s.chip (cmdJob c.raw) = some t) {ch : Chip}
  (hch : (if t.copy.isSome then s.chip else updTwin s.chip (cmdJob c.raw) fun t => { t with now := true }) = ch)
include ho hch

theorem copyNow_of_wait (hw : pbit c.raw 0 0 0 = 1) : exec (.twinCopyNow k) s = .next (waits s k c ch []) := by
  rw [exec_twinCopyNow, execTwinCopyNow]
  exact runCmd_of_start_stay ht (by simp only [ho, hch, if_pos hw])

theorem copyNow_of_no_wait (hw : pbit c.raw 0 0 0 ≠ 1) :
    exec (.twinCopyNow k) s = .next (answered s k c ch (rspData 0 1 [])) := by
  rw [exec_twinCopyNow, execTwinCopyNow]
  exact runCmd_of_start_reply ht (by simp only [ho, hch, if_neg hw])

end

section
variable (hw : Waiting s k 0x71 anyRow c)
include hw

theorem copyNow_of_over {r : Nat} (ho : copyOver s.chip (cmdJob c.raw) = some r) :
    exec (.twinCopyNow k) s = .next (answered s k c s.chip (rspData 0 1 (leBytes r 1))) := by
  rw [exec_twinCopyNow, execTwinCopyNow]
  exact runCmd_of_go_reply hw (by simp only [ho])

theorem copyNow_of_not_over (ho : copyOver s.chip (cmdJob c.raw) = none) :
    exec (.twinCopyNow k) s = .next (waits s k c s.chip []) := by
  rw [exec_twinCopyNow, execTwinCopyNow]
  exact runCmd_of_go_stay hw (by simp only [ho])

end

/-! ### TWIN_RESTORE (R345) -/

section
variable {ch : Chip} {x : TwinRest}

theorem restoreGo_of_running (hx : restOf ch (cmdJob c.raw) = some x) (hr : x.running = true) :
    restoreGo ch c = stay ch [] := by
  simp only [restoreGo, hx, if_pos hr]

theorem restoreGo_of_over (hx : restOf ch (cmdJob c.raw) = some x) (hr : x.running = false) :
    restoreGo ch c = reply ch (restoreRsp x) := by
  simp only [restoreGo, hx, if_neg (ne_true_of_eq_false hr)]

theorem restoreGo_of_none (hx : restOf ch (cmdJob c.raw) = none) : restoreGo ch c = reply ch (rspOf 0) := by
  simp only [restoreGo, hx]

end

section
variable (ht : Taking s k 0x72 anyRow restoreChk c)
include ht

theorem restore_of_running {x : TwinRest} (hx : restOf s.chip (jobId (cmdJob c.raw)).val = some x)
    (hr : x.running = true) : exec (.twinRestore k) s = .next (answered s k c s.chip (rspOf 0x14)) := by
  rw [exec_twinRestore, execTwinRestore]
  exact runCmd_of_start_reply ht (by simp only [hx, if_pos hr])

variable (hn : ∀ x, restOf s.chip (jobId (cmdJob c.raw)).val = some x → x.running = false)
include hn

/-- A restore of a job that has none running is refused for its table, or it starts. -/
theorem restore_of_not_running {d : Did}
    (hd : (match tableRefusal s.chip (jobId (cmdJob c.raw)) (pb c.raw 21 16) 16 with
      | some x => reply s.chip x
      | none => if pbit c.raw 22 0 0 = 1 then restoreGo (startRestore s.chip c.raw) c
        else reply (startRestore s.chip c.raw) (rspData 0 17 [])) = d) :
    exec (.twinRestore k) s = .next (after s (settle (streamIx k) c d)) := by
  rw [exec_twinRestore, execTwinRestore, runCmd_of_taking ht, ← hd]
  refine congrArg (fun d => Host.Outcome.next (after s (settle (streamIx k) c d))) (if_neg ?_)
  cases hx : restOf s.chip (jobId (cmdJob c.raw)).val with
  | none => simp
  | some x => simp [hn x hx]

theorem restore_of_bad_table {r : Rsp} (hr : tableRefusal s.chip (jobId (cmdJob c.raw)) (pb c.raw 21 16) 16 = some r) :
    exec (.twinRestore k) s = .next (answered s k c s.chip r) := by
  rw [restore_of_not_running ht hn (d := reply s.chip r) (by simp only [hr]), settle_reply, answered]

variable (hr : tableRefusal s.chip (jobId (cmdJob c.raw)) (pb c.raw 21 16) 16 = none)
include hr

theorem restore_of_no_wait (hw : pbit c.raw 22 0 0 ≠ 1) :
    exec (.twinRestore k) s = .next (answered s k c (startRestore s.chip c.raw) (rspData 0 17 [])) := by
  rw [restore_of_not_running ht hn (d := reply (startRestore s.chip c.raw) (rspData 0 17 []))
    (by simp only [hr, if_neg hw]), settle_reply, answered]

theorem restore_of_wait (hw : pbit c.raw 22 0 0 = 1) : exec (.twinRestore k) s =
    .next (after s (settle (streamIx k) c (restoreGo (startRestore s.chip c.raw) c))) :=
  restore_of_not_running ht hn (by simp only [hr, if_pos hw])

end

theorem restore_again (hw : Waiting s k 0x72 anyRow c) :
    exec (.twinRestore k) s = .next (after s (settle (streamIx k) c (restoreGo s.chip c))) := by
  rw [exec_twinRestore, execTwinRestore, runCmd_of_waiting hw]

/-! ### The statement -/

/-- Settles O45: each command refuses, is answered or waits as the case of its meaning says (log 94). -/
theorem twinCommands : Obligations.TwinCommands := by
  unfold Obligations.TwinCommands
  rintro s k c j rfl
  refine ⟨fun ht => ⟨source_of_source ht, ?source⟩, ?hold, ?remove,
    fun ht => ⟨query_of_no_source ht, fun t => query_of_source ht⟩,
    fun ht => ⟨copyNow_of_no_source ht, ?copy⟩,
    fun hw => ⟨fun r => copyNow_of_over hw, copyNow_of_not_over hw⟩, fun ht => ⟨fun x => restore_of_running ht, ?restore⟩,
    ?restoring⟩
  case source =>
    intro h0 mine hm
    refine ⟨fun h => source_of_foreign ht h0 (mt hm.mpr h), fun h => source_of_own_position ht h0 (hm.mp h), ?_⟩
    rintro h hp o rfl
    have hown := hm.mp h
    exact ⟨fun i => source_of_bad_link ht h0 hown hp, fun r ho => source_of_bad_table ht h0 hown hp ho,
      source_of_good_table ht h0 hown hp⟩
  case hold =>
    rintro ht h hh t rfl
    exact ⟨hold_of_own_position ht hh, hold_beyond_memory ht hh, hold_of_taken ht hh, hold_of_free ht hh⟩
  case remove =>
    exact fun ht => ⟨remove_of_no_source ht, fun h1 ho ch hch => remove_of_source ht h1 ho hch,
      fun h1 => ⟨remove_of_no_hold ht h1, remove_of_hold ht h1⟩⟩
  case copy =>
    intro t ho ch h1 h2
    have hch : (if t.copy.isSome then s.chip else
        updTwin s.chip (cmdJob c.raw) fun t => { t with now := true }) = ch := by
      cases hc : t.copy with
      | none => exact (h2 hc).symm
      | some x => exact (h1 (by simp [hc])).symm
    exact ⟨copyNow_of_wait ht ho hch, copyNow_of_no_wait ht ho hch⟩
  case restore =>
    exact fun hn => ⟨fun r => restore_of_bad_table ht hn, restore_of_no_wait ht hn⟩
  case restoring =>
    intro ch hc
    have he : exec (.twinRestore k) s = .next (after s (settle (streamIx k) c (restoreGo ch c))) := by
      obtain ⟨ht, hn, hr, hw, rfl⟩ | ⟨hw, rfl⟩ := hc
      · exact restore_of_wait ht hn hr hw
      · exact restore_again hw
    refine ⟨fun x hx hr => ?_, fun x hx hr => ?_, fun hx => ?_⟩
    · rw [he, restoreGo_of_running hx hr, settle_stay, waits]
    · rw [he, restoreGo_of_over hx hr, settle_reply, answered]
    · rw [he, restoreGo_of_none hx, settle_reply, answered]

end Sys2Proof.TwinCommands
end

section
/-! Proofs about the checks of commands (18_mailboxes_elbinik.md R385, R397): the header in the order of the rule, the
first byte that fails, what a refused or waiting command does, and the statement CommandChecks. -/

namespace Sys2Proof.CommandChecks
open Sys2Proof Sys2Proof.Machine Sys2Proof.Claims Sys2Proof.Laws

/-! ### The header (R385, checks 1 to 5) -/

theorem headCheck_of_unlisted {ch : Chip} {f raw : Nat} (hi : cmdInfo (cmdOp raw) = none) :
    headCheck ch f raw = some (rspOf 0x10) := by
  simp only [headCheck, hi]

section
variable {ch : Chip} {f raw : Nat} {sc : CmdScope} {pf : Bool} (hi : cmdInfo (cmdOp raw) = some (sc, pf))
include hi

theorem headCheck_of_long (hl : 48 < cmdLen raw) : headCheck ch f raw = some ⟨0x11, 2, 0, []⟩ := by
  simp only [headCheck, hi, if_pos hl]

variable (hl : cmdLen raw ≤ 48)
include hl

theorem headCheck_of_early (hp : ch.phase ≠ 4) (ho : cmdOp raw ≠ 1) : headCheck ch f raw = some (rspOf 0x16) := by
  simp only [headCheck, hi, if_neg (Nat.not_lt.mpr hl), if_pos (And.intro hp ho)]

variable (hp : ch.phase = 4)
include hp

theorem headCheck_of_pf_only (hpf : pf = true) (hf : f ≠ 0) : headCheck ch f raw = some (rspOf 0x13) := by
  simp [headCheck, hi, Nat.not_lt.mpr hl, hp, hpf, hf]

theorem headCheck_of_other_job (hf : f ≠ 0) (hj : cmdJob raw ≠ f - 1) : headCheck ch f raw = some (rspOf 0x13) := by
  simp [headCheck, hi, Nat.not_lt.mpr hl, hp, hf, hj]

theorem headCheck_of_device_job (hf : f = 0) (hs : sc = .dev) (hj : cmdJob raw ≠ 0xFF) :
    headCheck ch f raw = some (rspOf 0x13) := by
  simp [headCheck, hi, Nat.not_lt.mpr hl, hp, hf, hs, hj, jobScoped]

theorem headCheck_of_no_job (hf : f = 0) (hs : sc = .job) (hj : cmdJob raw < 16) (ho : cmdOp raw ≠ 0x10)
    (hx : jobExists ch (cmdJob raw) = false) : headCheck ch f raw = some (rspOf 0x17) := by
  simp [headCheck, hi, Nat.not_lt.mpr hl, hp, hf, hs, hj, ho, hx, jobScoped]

end

/-! ### The fields (R385, check 6) -/

/-- The command bytes that check 6 refuses: of the header, and of the payload. -/
def badHeader (raw : Nat) : List Nat := (span 7 9).filter fun b => eb raw b b != 0
def badPayload (raw : Nat) (used : List (Nat × Nat)) (bad : List Nat) : List Nat :=
  (((List.range 48).filter fun b => pb raw b b != 0 && !(used.any fun u => decide (u.1 ≤ b ∧ b ≤ u.2))) ++ bad).map (· + 16)

theorem fieldCheck_eq_min (raw : Nat) (used : List (Nat × Nat)) (bad : List Nat) :
    fieldCheck raw used bad = (badHeader raw ++ badPayload raw used bad).min? := by
  simp only [fieldCheck, badHeader, badPayload]
  split
  · next h => rw [h]; rfl
  · next h => rw [h]; rfl

theorem mem_badHeader {raw b : Nat} : b ∈ badHeader raw ↔ (7 ≤ b ∧ b < 16) ∧ eb raw b b ≠ 0 := by
  simp [badHeader, mem_span]

theorem le_of_mem_badPayload {raw x b : Nat} {used : List (Nat × Nat)} {bad : List Nat} (hb : b < 16)
    (hbad : ∀ y ∈ bad, b ≤ y + 16) (hx : x ∈ badPayload raw used bad) : b ≤ x := by
  obtain ⟨y, hy, rfl⟩ := List.mem_map.mp hx
  rcases List.mem_append.mp hy with h | h
  · omega
  · exact hbad y h

section
variable {ch : Chip} {k : Nat} {c : Cmd} {used : List (Nat × Nat)} {bad : List Nat}

theorem refuse_of_bad_byte (hh : headCheck ch (k / 2) c.raw = none) {b : Nat} (hf : fieldCheck c.raw used bad = some b) :
    refuse ch k c used bad = some ⟨0x12, b, 0, []⟩ := by
  simp only [refuse, hh, hf]

/-- The first header byte that is not 0 is the one that is named. -/
theorem fieldCheck_of_header {raw b : Nat} (h7 : 7 ≤ b) (h16 : b < 16) (h0 : eb raw b b ≠ 0)
    (hfirst : ∀ x, 7 ≤ x → x < b → eb raw x x = 0) (hbad : ∀ x ∈ bad, b ≤ x + 16) :
    fieldCheck raw used bad = some b := by
  rw [fieldCheck_eq_min, List.min?_eq_some_iff]
  refine ⟨List.mem_append_left _ (mem_badHeader.mpr ⟨⟨h7, h16⟩, h0⟩), fun x hx => ?_⟩
  rcases List.mem_append.mp hx with h | h
  · obtain ⟨⟨hx7, -⟩, hx0⟩ := mem_badHeader.mp h
    exact Nat.le_of_not_lt fun hlt => hx0 (hfirst x hx7 hlt)
  · exact le_of_mem_badPayload h16 hbad h

/-- A field out of range is refused with its byte, or with one before it. -/
theorem fieldCheck_of_bad {raw b : Nat} (hb : b ∈ bad) : ∃ x, fieldCheck raw used bad = some x ∧ x ≤ b + 16 := by
  have hmem : b + 16 ∈ badHeader raw ++ badPayload raw used bad :=
    List.mem_append_right _ (List.mem_map_of_mem (List.mem_append_right _ hb))
  obtain ⟨x, hx⟩ := Option.isSome_iff_exists.mp (List.isSome_min?_of_mem hmem)
  exact ⟨x, (fieldCheck_eq_min raw used bad).trans hx, (List.min?_eq_some_iff.mp hx).2 _ hmem⟩

end

/-! ### Commands that wait, are refused, or are not there (R397) -/

section
variable {s : State} {n : Stream} {op : Nat} {mine : Nat → Bool} {chk : Nat → List (Nat × Nat) × List Nat}
  {start go : Chip → Cmd → Did} {f : Chip → NonVol → Cmd → Chip × NonVol × Rsp} (hl : live s.chip = true)
include hl

theorem runCmd_of_no_command (hc : cmdIn s.chip (streamIx n) op mine = none) :
    runCmd s n op mine chk start go = .next s := by
  simp [runCmd, onChip_live hl, runCmdOn, hc]

theorem runNv_of_no_command (hc : cmdIn s.chip (streamIx n) op mine = none) : runNv s n op mine chk f = .next s := by
  simp [runNv, hl, hc]

variable {d : Cmd} (hc : cmdIn s.chip (streamIx n) op mine = some d)
include hc

theorem runCmd_of_blocked (hd : d.committed = false) (hb : blocked s.chip (streamIx n) d = true) :
    runCmd s n op mine chk start go = .next s := by
  simp [runCmd, onChip_live hl, runCmdOn, hc, hd, hb]

theorem runCmd_of_refused (hd : d.committed = false) (hb : blocked s.chip (streamIx n) d = false) {r : Rsp}
    (hr : refuse s.chip (streamIx n) d (chk d.raw).1 (chk d.raw).2 = some r) :
    runCmd s n op mine chk start go = .next (answered s n d s.chip r) := by
  simp [runCmd, onChip_live hl, runCmdOn, hc, hd, hb, hr, answered]

theorem runNv_of_blocked (hb : blocked s.chip (streamIx n) d = true) : runNv s n op mine chk f = .next s := by
  simp [runNv, hl, hc, hb]

theorem runNv_of_refused (hb : blocked s.chip (streamIx n) d = false) {r : Rsp}
    (hr : refuse s.chip (streamIx n) d (chk d.raw).1 (chk d.raw).2 = some r) :
    runNv s n op mine chk f = .next (answered s n d s.chip r) := by
  simp [runNv, hl, hc, hb, hr, answered, after]

end

/-! ### The statement -/

/-- Settles O39: the first check of the header that fails gives the status, the least of the bytes that check 6 refuses is
the one named, and each runner of commands asks for them in the order of R397. -/
theorem commandChecks : Obligations.CommandChecks := by
  unfold Obligations.CommandChecks
  rintro ch k raw c used bad rfl
  refine ⟨headCheck_of_unlisted, ?header, fun hh => ⟨?first, ?bad⟩, ?run, ?runNv⟩
  case header =>
    exact fun sc pf hi => ⟨headCheck_of_long hi, headCheck_of_early hi, headCheck_of_pf_only hi,
      headCheck_of_other_job hi, headCheck_of_device_job hi, headCheck_of_no_job hi⟩
  case first =>
    exact fun b h7 h16 h0 hfirst hbad => refuse_of_bad_byte hh (fieldCheck_of_header h7 h16 h0 hfirst hbad)
  case bad =>
    intro b hb
    obtain ⟨x, hx, hle⟩ := fieldCheck_of_bad (raw := c.raw) (used := used) hb
    exact ⟨x, refuse_of_bad_byte hh hx, hle⟩
  case run =>
    exact fun s n op mine chk start go d hl hc hd =>
      ⟨runCmd_of_blocked hl hc hd, fun r hb hr => runCmd_of_refused hl hc hd hb hr⟩
  case runNv =>
    exact fun s n op mine chk start go f hl => ⟨fun hc => ⟨runCmd_of_no_command hl hc, runNv_of_no_command hl hc⟩,
      fun d hc => ⟨runNv_of_blocked hl hc, fun r hb hr => runNv_of_refused hl hc hb hr⟩⟩

end Sys2Proof.CommandChecks
end

section
/-! Proofs about the front of the mailboxes (18_mailboxes_elbinik.md R371, R381, R382, R386, R387, R389, R390): their
registers, the start of commands, their bounds, the failed compares of Campion, and the statement MailboxFront. -/

namespace Sys2Proof.MailboxFront
open Sys2Proof Sys2Proof.Machine Sys2Proof.Claims Sys2Proof.Laws Sys2Proof.ScalarCore Sys2Proof.RegisterBus
open Sys2Proof.GoingOn (after_own_chip)

variable {s : State}

/-! ### The registers of a mailbox (R371, R386, R387) -/

/-- The mailboxes stand in the island of the bus, so that an access to them crosses to none. -/
theorem okBus_of_mailbox {r : Reg} (hr : (regInfo r).blk = .mbx) (u : Nat) :
    okBus s r u = { s.chip with resp := ⟨.ok, [], false⟩ } := by
  simp [okBus, hr, blkIsle, blkInfo, crossing]

theorem mbxWrite_of_onBus {r : Reg} {f : FnId} {v : Word} (h : OnBus s r f.val) :
    mbxWrite s r f v = .next (after s (writeReg (okBus s r f.val) false r f.val 0 v)) := onReg_of_onBus h _

theorem mbxWrite_of_stopped {r : Reg} {f : FnId} {v : Word} (hl : live s.chip = true)
    (h : islandRuns s.chip 20 = false) : mbxWrite s r f v = .next (after s (busError s.chip)) := by
  rw [mbxWrite, onReg, onChip_live hl]
  simp [h]

/-- The accesses to a mailbox all go by the one bus. -/
theorem OnBus.mailbox {r q : Reg} {f : Nat} (h : OnBus s r f) (hr : (regInfo r).blk = .mbx)
    (hq : (regInfo q).blk = .mbx) : OnBus s q f := by
  obtain ⟨hl, hb, ht⟩ := h
  exact ⟨hl, hb, by rw [hq, ← hr]; exact ht⟩

/-! ### The doorbell (R386) -/

section
variable {f : FnId} (h : OnBus s .mbxDoorbell f.val)
include h

theorem mbxDoorbell_of_busy (hb : (streamOf s.chip (2 * f.val)).busy = true) :
    exec (.mbxDoorbell f) s = .next (after s (raise (okBus s .mbxDoorbell f.val) .mbxDbIgnored f.val)) := by
  rw [exec_mbxDoorbell, execMbxDoorbell, mbxWrite_of_onBus h, okBus_of_mailbox rfl]
  exact congrArg (fun ch => Host.Outcome.next (after s ch)) (if_pos hb)

theorem mbxDoorbell_of_free (hb : (streamOf s.chip (2 * f.val)).busy = false) : exec (.mbxDoorbell f) s =
    .next (after s (acceptCmd (regSet (okBus s .mbxDoorbell f.val) .mbxDoorbell f.val 1) f.val)) := by
  rw [exec_mbxDoorbell, execMbxDoorbell, mbxWrite_of_onBus h, okBus_of_mailbox rfl]
  exact congrArg (fun ch => Host.Outcome.next (after s ch)) (if_neg (ne_true_of_eq_false hb))

end

theorem regAddr_bootStat_ne_doorbell (f : FnId) : regAddr .pwrBootStat 0 0 ≠ regAddr .mbxDoorbell f.val 0 := by
  simp only [regAddr, regInfo, blkBase, blkInfo, Bool.false_eq_true, if_false]
  omega

/-- Ringing a doorbell leaves what firmware's readiness is read from. -/
theorem fwReady_ring (ch : Chip) (f : FnId) (v : Word) : fwReady (regSet ch .mbxDoorbell f.val v) = fwReady ch := by
  simp only [fwReady, failedCause, regFld, regGet_regSet_other ch v (regAddr_bootStat_ne_doorbell f)]
  rfl

theorem acceptCmd_of_ready {ch : Chip} {f : FnId} (hr : fwReady ch = true)
    (hb : (streamOf ch (2 * f.val)).busy = false) : acceptCmd (regSet ch .mbxDoorbell f.val 1) f.val =
      regSet (updStream (regSet ch .mbxDoorbell f.val 1) (2 * f.val) fun x =>
        { x with busy := true, rspValid := false, since := ch.us, held := none }) .mbxDoorbell f.val 0 := by
  refine if_pos ⟨(fwReady_ring ch f 1).trans hr, ne_true_of_eq_false hb, ?_⟩
  rw [regGet_regSet_same]
  rfl

/-! ### The ring's indices and its enable (R387) -/

theorem index_toNat (v : Word) : (v &&& 0xFFF).toNat = v.toNat % 4096 := by
  rw [BitVec.toNat_and]
  exact Nat.and_two_pow_sub_one_eq_mod v.toNat 12

section
variable {r : Reg} {f : FnId} {v : Word}

theorem ringIndex_beyond (hr : (regInfo r).blk = .mbx) (hv : ringSize s.chip f.val ≤ v.toNat % 4096) :
    ringIndex (okBus s r f.val) r f.val v = raise (okBus s r f.val) .mbxIndexBad f.val := by
  rw [okBus_of_mailbox hr, ringIndex, index_toNat]
  exact if_pos hv

theorem ringIndex_within (hr : (regInfo r).blk = .mbx) (hv : v.toNat % 4096 < ringSize s.chip f.val) :
    ringIndex (okBus s r f.val) r f.val v = regSet (okBus s r f.val) r f.val (BitVec.ofNat 32 (v.toNat % 4096)) := by
  rw [okBus_of_mailbox hr, ringIndex, index_toNat]
  exact if_neg (Nat.not_le.mpr hv)

end

section
variable {f : FnId} (v : Word) (h : OnBus s .mbxRingTail f.val)
include h

theorem mbxRingTail_eq : exec (.mbxRingTail f v) s =
    .next (after s (ringIndex (okBus s .mbxRingTail f.val) .mbxRingTail f.val v)) := mbxWrite_of_onBus h

theorem mbxCplHead_eq : exec (.mbxCplHead f v) s =
    .next (after s (ringIndex (okBus s .mbxCplHead f.val) .mbxCplHead f.val v)) :=
  mbxWrite_of_onBus (OnBus.mailbox h rfl rfl)

end

theorem mbxRingEnable_eq {f : FnId} (v : Word) (h : OnBus s .mbxRingCfg f.val) {ch : Chip}
    (hch : ch = if blkGet s.chip .mbx f.val = .disabled
      then regPut (okBus s .mbxRingCfg f.val) .mbxRingCfg f.val 11 8 (clampN 4 12 (fld v 11 8))
      else raise (okBus s .mbxRingCfg f.val) .mbxCfgIgnored f.val) :
    exec (.mbxRingEnable f v) s = .next (after s (writeEnable ch .mbx f.val false (v.getLsbD 0))) := by
  rw [exec_mbxRingEnable, execMbxRingEnable, mbxWrite_of_onBus h, hch, okBus_of_mailbox rfl]
  rfl

/-! ### The start of a command (R377, R387, R389) -/

section
variable {k : Stream} {h : HostIn} (hl : live s.chip = true) (hf : fwReady s.chip = true)
include hl hf

theorem commandStart_of_full (hr : k.ring = true) (hw : ringWaits s.chip k.fn.val = true)
    (hc : ringFull s.chip k.fn.val = true) :
    exec (.commandStart k h) s = .next (after s (raise s.chip .mbxCplFull k.fn.val)) := by
  refine exec_of_live hl (exec_commandStart ..) ?_
  simp only [hf, hr, hw, hc, not_true_eq_false, if_false, and_self, if_true]

variable (hc : k.ring = false ∨ ringWaits s.chip k.fn.val = false ∨ ringFull s.chip k.fn.val = false)
include hc

/-- A ring that is not stalled leaves the start to arbitration. -/
theorem commandStart_of_room {ch : Chip}
    (hch : (if granted s.chip ≠ some (streamIx k) then s.chip
      else if k.ring ∧ fwReadWaits s.chip (ringBase s.chip k.fn.val + 64 * regFld s.chip .mbxRingHead k.fn.val 11 0) 64
        then s.chip
      else if k.ring then ringRead (updCamp s.chip fun p => { p with base := (p.base + 1) % 34 }) k.fn.val h
      else startCmd (updCamp s.chip fun p => { p with base := (p.base + 1) % 34 }) (streamIx k)
        (mbxRaw (updCamp s.chip fun p => { p with base := (p.base + 1) % 34 }) k.fn.val)
        (streamOf s.chip (streamIx k)).since) = ch) :
    exec (.commandStart k h) s = .next (after s ch) := by
  refine exec_of_live hl (exec_commandStart ..) ?_
  have hstall : ¬(k.ring = true ∧ ringWaits s.chip k.fn.val = true ∧ ringFull s.chip k.fn.val = true) := by
    rintro ⟨h1, h2, h3⟩
    simp [h1, h2, h3] at hc
  simp only [hf, not_true_eq_false, if_false, if_neg hstall]
  exact hch

theorem commandStart_of_other (hg : granted s.chip ≠ some (streamIx k)) : exec (.commandStart k h) s = .next s :=
  commandStart_of_room hl hf hc (if_pos hg)

variable (hg : granted s.chip = some (streamIx k)) {ch : Chip}
  (hch : ch = updCamp s.chip fun p => { p with base := (p.base + 1) % 34 })
include hg hch

theorem commandStart_of_registers (hr : k.ring = false) : exec (.commandStart k h) s =
    .next (after s (startCmd ch (streamIx k) (mbxRaw ch k.fn.val) (streamOf s.chip (streamIx k)).since)) := by
  subst hch
  exact commandStart_of_room hl hf hc
    ((if_neg (not_not.mpr hg)).trans ((if_neg (by simp [hr])).trans (if_neg (by simp [hr]))))

variable (hr : k.ring = true) {a : Nat} (ha : a = ringBase s.chip k.fn.val + 64 * regFld s.chip .mbxRingHead k.fn.val 11 0)
include hr ha

omit hch in
theorem commandStart_of_repair (hw : fwReadWaits s.chip a 64 = true) : exec (.commandStart k h) s = .next s := by
  subst ha
  exact commandStart_of_room hl hf hc ((if_neg (not_not.mpr hg)).trans (if_pos ⟨hr, hw⟩))

theorem commandStart_of_ring (hw : fwReadWaits s.chip a 64 = false) :
    exec (.commandStart k h) s = .next (after s (ringRead ch k.fn.val h)) := by
  subst ha hch
  exact commandStart_of_room hl hf hc
    ((if_neg (not_not.mpr hg)).trans ((if_neg (by simp [hw])).trans (if_pos hr)))

end

/-! ### The bound of a waiting command (R390) -/

section
variable {k : Stream} (hl : live s.chip = true)
include hl

theorem commandBound_of_none (hc : (streamOf s.chip (streamIx k)).cmd = none) :
    exec (.commandBound k) s = .next s :=
  exec_of_live hl (exec_commandBound ..) (by simp only [hc])

variable {c : Cmd} (hc : (streamOf s.chip (streamIx k)).cmd = some c)
include hc

theorem commandBound_of_no_bound (hw : waitBound (cmdOp c.raw) = none) : exec (.commandBound k) s = .next s :=
  exec_of_live hl (exec_commandBound ..) (by simp only [hc, hw])

theorem commandBound_of_uncommitted (hd : c.committed = false) : exec (.commandBound k) s = .next s := by
  refine exec_of_live hl (exec_commandBound ..) ?_
  cases hw : waitBound (cmdOp c.raw) with
  | none => simp only [hc, hw]
  | some n => simp only [hc, hw, hd, Bool.false_eq_true, not_false_eq_true, true_or, if_true]

variable {n : Nat} (hw : waitBound (cmdOp c.raw) = some n)
include hw

theorem commandBound_of_early (ht : s.chip.us < c.since + n) : exec (.commandBound k) s = .next s := by
  refine exec_of_live hl (exec_commandBound ..) ?_
  simp only [hc, hw, ht, or_true, if_true]

/-- At its bound the command answers what it has, and goes on behind its answer if it is of those that do. -/
theorem commandBound_of_late (hf : fwReady s.chip = true) (hd : c.committed = true) (ht : c.since + n ≤ s.chip.us) :
    exec (.commandBound k) s = .next (after s (settle (streamIx k) c
      ⟨s.chip, some (partialRsp s.chip c), c.memo, cmdOp c.raw == 0x40 || cmdOp c.raw == 0x42⟩)) := by
  refine exec_of_live hl (exec_commandBound ..) ?_
  simp only [hc, hw]
  exact if_neg (by simp [hf, hd, ht])

end

/-! ### Failed compares (R381) -/

/-- The command of stream `k` ends RESTARTED unless it has committed. -/
def endUncommitted (c : Chip) (k : Nat) : Chip :=
  match (streamOf c k).cmd with
  | some d => if d.committed then c else respond c k d (rspOf 0x1E)
  | none => c

section
variable (hl : live s.chip = true) (hb : islandRuns s.chip 20 = true)
include hl hb

section
variable (hp : s.chip.phase = 0)
include hp

theorem lockstep_in_boot_first (hx : s.chip.sys.camp.failed = 0) : exec .lockstepMismatch s = .next (after s
    (regPut (count (updCamp s.chip fun p => { p with failed := 1 }) 136 1) .pwrBootStat 0 5 5 1)) :=
  exec_of_live hl (exec_lockstepMismatch _)
    ((if_neg (by simp [hx, hb])).trans ((if_pos hp).trans (if_neg (by simp [hx]))))

theorem lockstep_in_boot_second (hx : s.chip.sys.camp.failed = 1) :
    exec .lockstepMismatch s = .next (after s (enterFailed s.chip 3)) :=
  exec_of_live hl (exec_lockstepMismatch _)
    ((if_neg (by simp [hx, hb])).trans ((if_pos hp).trans (if_pos (by simp [hx]))))

end

variable (hp : 0 < s.chip.phase)
include hp

/-- The commands that had not committed end RESTARTED, whatever way it is written that each stream's does. -/
theorem lockstep_first (hx : s.chip.sys.camp.failed = 0) {g : Chip → Nat → Chip} (hg : ∀ c k, g c k = endUncommitted c k) :
    exec .lockstepMismatch s = .next (after s (faultMark (health (count (updCamp ((List.range 34).foldl g s.chip)
      fun p => { p with failed := 1 }) 136 1)) 0xFFFF)) := by
  refine exec_of_live hl (exec_lockstepMismatch _)
    ((if_neg (by simp [hx, hb])).trans ((if_neg hp.ne').trans ((if_neg (by simp [hx])).trans ?_)))
  refine congrArg (fun x => faultMark (health (count (updCamp x fun p => { p with failed := 1 }) 136 1)) 0xFFFF) ?_
  refine List.foldl_ext _ _ _ fun c k _ => ?_
  refine Eq.trans ?_ (hg c k).symm
  unfold endUncommitted
  cases (streamOf c k).cmd <;> rfl

theorem lockstep_second (hx : s.chip.sys.camp.failed = 1) : exec .lockstepMismatch s =
    .next (after s (faultMark (updCamp s.chip fun p => { p with failed := 2 }) 0xFFFF)) :=
  exec_of_live hl (exec_lockstepMismatch _)
    ((if_neg (by simp [hx, hb])).trans ((if_neg hp.ne').trans (if_pos hx)))

omit hb hp in
theorem lockstep_of_no_pair (hx : 2 ≤ s.chip.sys.camp.failed) : exec .lockstepMismatch s = .next s :=
  exec_of_live hl (exec_lockstepMismatch _) (if_pos (.inl hx))

end

/-! ### The statement -/

/-- Settles O38: each command does to the registers and the streams what the case of its rule says (logs 33, 88, 101). -/
theorem mailboxFront : Obligations.MailboxFront := by
  unfold Obligations.MailboxFront
  intro s f
  refine ⟨fun h => ⟨mbxDoorbell_of_busy h, mbxDoorbell_of_free h, ?accept⟩, ?index, ?enable, ?stopped, ?start, ?bound,
    fun hl hp hb => ⟨lockstep_in_boot_first hl hb hp, lockstep_in_boot_second hl hb hp⟩,
    fun hl hp hb => ⟨fun hx => lockstep_first hl hb hp hx ?ending, lockstep_second hl hb hp, lockstep_of_no_pair hl⟩⟩
  case ending =>
    intro c k
    unfold endUncommitted
    cases (streamOf c k).cmd <;> rfl
  case accept =>
    intro hb hr
    rw [okBus_of_mailbox rfl]
    exact acceptCmd_of_ready hr hb
  case index =>
    intro v h
    rw [mbxRingTail_eq v h, mbxCplHead_eq v h]
    refine ⟨fun hv => ?_, fun hv => ?_⟩
    · rw [ringIndex_beyond rfl hv, ringIndex_beyond rfl hv]
      exact ⟨rfl, rfl⟩
    · rw [ringIndex_within rfl hv, ringIndex_within rfl hv]
      exact ⟨rfl, rfl⟩
  case enable =>
    intro v h ch hch
    rw [mbxRingEnable_eq v h hch]
    refine ⟨fun hv => ?_, fun hv => ?_⟩
    · rw [hv, writeEnable, if_pos rfl]
    · rw [hv, writeEnable, if_neg Bool.false_ne_true]
  case stopped =>
    exact fun hl hb v => ⟨mbxWrite_of_stopped hl hb, mbxWrite_of_stopped hl hb, mbxWrite_of_stopped hl hb,
      mbxWrite_of_stopped hl hb⟩
  case start =>
    intro k h hl hf
    refine ⟨commandStart_of_full hl hf, fun hc => ⟨commandStart_of_other hl hf hc, fun hg ch hch => ?_⟩⟩
    exact ⟨commandStart_of_registers hl hf hc hg hch, fun hr a ha =>
      ⟨commandStart_of_repair hl hf hc hg hr ha, commandStart_of_ring hl hf hc hg hch hr ha⟩⟩
  case bound =>
    intro k hl hf
    refine ⟨commandBound_of_none hl, fun c hc => ⟨?_, fun n hw hd => ⟨commandBound_of_early hl hc hw, ?_, ?_⟩⟩⟩
    · rintro (hw | hd)
      · exact commandBound_of_no_bound hl hc hw
      · exact commandBound_of_uncommitted hl hc hd
    · intro ht h40 h42
      rw [commandBound_of_late hl hc hw hf hd ht]
      simp [settle, h40, h42, answered]
    · intro ht hop
      rw [commandBound_of_late hl hc hw hf hd ht]
      exact congrArg (fun ch => Host.Outcome.next (after s ch)) (if_pos (by simpa using hop))

end Sys2Proof.MailboxFront
end

section
/-! Proofs about LAUNCH (18_mailboxes_elbinik.md R401; 10_oanoine_control.md R238): what it refuses, what a start depends
on, and the statement LaunchStartsImages. -/

namespace Sys2Proof.Launch
open Sys2Proof Sys2Proof.Machine Sys2Proof.Claims Sys2Proof.Laws Sys2Proof.ArrayCommands Sys2Proof.CommandChecks
open Sys2Proof.ScalarCore

/-! ### A payload without fields -/

/-- A command without fields is refused for any payload byte that is not 0. -/
theorem refuse_of_payload {ch : Chip} {k : Nat} {c : Cmd} (hh : headCheck ch (k / 2) c.raw = none) {b : Nat} (hb : b < 48)
    (h0 : pb c.raw b b ≠ 0) : ∃ x, refuse ch k c [] [] = some ⟨0x12, x, 0, []⟩ := by
  have hmem : b + 16 ∈ badHeader c.raw ++ badPayload c.raw [] [] := by simp [badPayload, hb, h0]
  obtain ⟨x, hx⟩ := Option.isSome_iff_exists.mp (List.isSome_min?_of_mem hmem)
  exact ⟨x, refuse_of_bad_byte hh ((fieldCheck_eq_min c.raw [] []).trans hx)⟩

/-! ### LAUNCH -/

section
variable {s : State} {k : Stream} {c : Cmd} {gs : List Nat} (ht : Taking s k 0x31 anyRow (fun _ => ([], [])) c)
  (hgs : gs = (coresOfJob s.chip (jobId (cmdJob c.raw))).filter fun g => (coreOf s.chip g).image.isSome)
include ht hgs

theorem launch_of_fenced (hf : gs.any (coreFenced s.chip) = true) :
    exec (.launch k) s = .next (answered s k c s.chip (rspOf 0x18)) := by
  subst hgs
  exact runNow_eq ht (if_pos hf)

theorem launch_of_no_image (hn : gs = []) : exec (.launch k) s = .next (answered s k c s.chip (rspOf 0x12)) := by
  have hf : ¬gs.any (coreFenced s.chip) = true := by simp [hn]
  subst hgs
  exact runNow_eq ht ((if_neg hf).trans (if_pos hn))

/-- Every core with an image starts, in whatever way that is written. -/
theorem launch_of_images (hf : gs.any (coreFenced s.chip) = false) (hn : gs ≠ []) {start : Chip → Nat → Chip}
    (hs : ∀ x g, start x g = match (coreOf x g).image with
      | some m => startCore x g m
      | none => x) : exec (.launch k) s = .next (answered s k c
    (updJob (gs.foldl start s.chip) (jobId (cmdJob c.raw)).val fun b => { b with state := .running })
    (rspData 0 4 (leBytes gs.length 4))) := by
  subst hgs
  refine runNow_eq ht ((if_neg (ne_true_of_eq_false hf)).trans ((if_neg hn).trans ?_))
  refine congrArg (fun x => (updJob x (jobId (cmdJob c.raw)).val fun b => { b with state := .running }, _)) ?_
  refine List.foldl_ext _ _ _ fun x g _ => ?_
  refine Eq.trans ?_ (hs x g).symm
  cases (coreOf x g).image <;> rfl

end

/-! ### A job that becomes IDLE, and a start -/

theorem jobIdle_cores (s : State) (j : JobId) : ∃ t, exec (.jobIdle j) s = .next t ∧ t.chip.cores = s.chip.cores := by
  cases hl : live s.chip with
  | false => exact ⟨s, by rw [exec_jobIdle, execJobIdle, onChip_dead hl], rfl⟩
  | true =>
    refine ⟨_, exec_of_live hl (exec_jobIdle ..) rfl, ?_⟩
    simp only [after]
    split <;> rfl

/-- Looking whether a history is armed leaves the cores alone. -/
theorem coreOf_readArmed (ch : Chip) (g x : Nat) : coreOf (readArmed ch g) x = coreOf ch x := by
  unfold readArmed
  cases statOfCore ch g <;> rfl

/-- Of the core's own state a start keeps the number of its next instruction and the words it has not fetched again. -/
theorem coreOf_startCore_congr {x y : Chip} {g : Nat} (m : Image) (hseq : (coreOf x g).seq = (coreOf y g).seq)
    (hstale : (coreOf x g).stale = (coreOf y g).stale) (hcyc : islCycles x (g / 128) = islCycles y (g / 128)) :
    coreOf (startCore x g m) g = coreOf (startCore y g m) g := by
  simp only [startCore, coreOf_readArmed, coreOf_setCore_same, hseq, hstale, hcyc]

/-! ### The statement -/

/-- Settles O42: LAUNCH answers by its cases, and a start depends on no register that an earlier run left. -/
theorem launchStartsImages : Obligations.LaunchStartsImages := by
  unfold Obligations.LaunchStartsImages
  rintro s k c j gs rfl hgs
  refine ⟨fun b hb h0 hh => refuse_of_payload hh hb h0, fun ht => ⟨launch_of_fenced ht hgs, launch_of_no_image ht hgs,
    fun hf hn => launch_of_images ht hgs hf hn fun x g => ?_⟩, jobIdle_cores s _,
    fun ch g m x y => coreOf_startCore_congr m ?_ ?_ rfl⟩
  · cases (coreOf x g).image <;> rfl
  · simp only [coreOf_setCore_same]
  · simp only [coreOf_setCore_same]

end Sys2Proof.Launch
end

section
/-! Proofs about the commands of devices, jobs and clusters (18_mailboxes_elbinik.md R394 to R398, R402): what each
answers, or how it waits, once its checks pass, and the statement JobCommands. -/

namespace Sys2Proof.JobCommands
open Sys2Proof Sys2Proof.Machine Sys2Proof.Claims Sys2Proof.Laws Sys2Proof.ArrayCommands Sys2Proof.ScalarCore

variable {s : State} {k : Stream} {c : Cmd}

/-! ### DEV_QUERY and JOB_CREATE (R395, R396) -/

theorem devQuery_of_taking (ht : Taking s k 0x01 anyRow (fun raw => ([(0, 0)], badIf (4 < pb raw 0 0) 0)) c) :
    exec (.devQuery k) s = .next (answered s k c s.chip (if s.chip.phase = 5 ∧ pb c.raw 0 0 ≠ 0 then rspOf 0x16
      else rspData 0 48 (queryBytes s.chip k.fn.val (pb c.raw 0 0)))) := by
  rw [exec_devQuery, execDevQuery]
  exact runNow_eq ht rfl

section
variable (ht : Taking s k 0x10 anyRow
  (fun raw => ([(0, 3)], badIf (1 < pb raw 0 0) 0 ++ badIf (!towerOk (pb raw 1 1)) 1)) c)
include ht

theorem jobCreate_of_no_place (hp : placeHbm s.chip (pb c.raw 0 0 == 1) (pb c.raw 1 1) mib = none) :
    exec (.jobCreate k) s = .next (answered s k c s.chip (rspOf 0x15)) := by
  rw [exec_jobCreate, execJobCreate]
  exact runNow_eq ht (by simp only [hp])

theorem jobCreate_of_place {da : Nat} (hp : placeHbm s.chip (pb c.raw 0 0 == 1) (pb c.raw 1 1) mib = some da) {ch : Chip}
    (hch : ch = openRates (mapHbm (updJob s.chip (cmdJob c.raw) fun _ => { jobReset with
      state := .idle, global := pb c.raw 0 0 == 1, tower := pb c.raw 1 1, jfid := BitVec.ofNat 16 (pb c.raw 3 2)
      stat := da }) (cmdJob c.raw) da mib) (cmdJob c.raw)) : exec (.jobCreate k) s = .next (answered s k c
    { ch with cnts := (span (8 * cmdJob c.raw) 8).foldl tdel ch.cnts } (rspData 0 8 (leBytes da 6))) := by
  subst hch
  rw [exec_jobCreate, execJobCreate]
  exact runNow_eq ht (by simp only [hp])

end

/-! ### JOB_ASSIGN_CLUSTERS (R398) -/

/-- The clusters of the mask that change owner. -/
def changing (ch : Chip) (c : Cmd) (give : Bool) : List Nat :=
  (maskClusters c.raw).filter fun cl => !give || owner ch cl == none
/-- A core of one of them is under test. -/
def anyTested (ch : Chip) (cls : List Nat) : Bool :=
  cls.any fun cl => (coresOfCluster cl).any fun g => (tcoreOf ch g).under.isSome
/-- Background work of an earlier command holds one that is released. -/
def anyBusy (ch : Chip) (give : Bool) (cls : List Nat) : Bool :=
  !give && cls.any fun cl => (coresOfCluster cl).any (coreBusy ch)
/-- Those whose ways are being flushed while a command waits: none before the tests are over. -/
def flushed (ch : Chip) (cls : List Nat) : List Nat :=
  if anyTested ch cls = true then [] else cls.filter (wayWaits ch)

section
variable {ch : Chip} {give : Bool}

theorem clusterCmd_of_foreign (h : ∃ cl ∈ maskClusters c.raw,
      owner ch cl ≠ some (jobId (cmdJob c.raw)) ∧ (give = false ∨ owner ch cl ≠ none)) :
    clusterCmd ch c give = reply ch (rspOf 0x14) := by
  obtain ⟨cl, hcl, hown, hgive⟩ := h
  refine if_pos (.inl fun hok => ?_)
  have hok := List.all_eq_true.mp hok cl hcl
  cases give with
  | false => simp [hown] at hok
  | true => simp_all

theorem clusterCmd_of_busy (h : anyBusy ch give (changing ch c give) = true) :
    clusterCmd ch c give = reply ch (rspOf 0x14) := by
  obtain ⟨hg, hb⟩ := Bool.and_eq_true_iff.mp h
  exact if_pos (.inr ⟨by simpa using hg, hb⟩)

variable (hown : ∀ cl ∈ maskClusters c.raw,
    owner ch cl = some (jobId (cmdJob c.raw)) ∨ give = true ∧ owner ch cl = none)
  (hb : anyBusy ch give (changing ch c give) = false)
include hown hb

/-- A command that is not refused waits for tests and for ways that cannot be written back, or moves the clusters. -/
theorem clusterCmd_of_own {d : Did}
    (hd : (if anyTested ch (changing ch c give) = true ∨ (changing ch c give).any (wayWaits ch) = true then
        stay { ch with land := { ch.land with flushing := flushed ch (changing ch c give) } } []
      else reply ((changing ch c give).foldl
        (fun x cl => moveCluster x (if give = true then some (jobId (cmdJob c.raw)) else none) cl)
        { ch with land := { ch.land with flushing := [] } }) rspOk) = d) : clusterCmd ch c give = d := by
  refine (if_neg ?_).trans hd
  rintro (h | ⟨hg, h⟩)
  · refine h (List.all_eq_true.mpr fun cl hcl => ?_)
    rcases hown cl hcl with ho | ⟨rfl, ho⟩
    · cases give <;> simp [ho]
    · simp [ho]
  · have hb : (changing ch c give).any (fun cl => (coresOfCluster cl).any (coreBusy ch)) = false := by
      simpa [anyBusy, hg] using hb
    exact ne_true_of_eq_false hb h

theorem clusterCmd_of_held
    (hw : anyTested ch (changing ch c give) = true ∨ (changing ch c give).filter (wayWaits ch) ≠ []) :
    clusterCmd ch c give = stay { ch with land := { ch.land with flushing := flushed ch (changing ch c give) } } [] := by
  refine clusterCmd_of_own hown hb (if_pos (hw.imp_right fun h => ?_))
  simpa using h

theorem clusterCmd_of_free (ht : anyTested ch (changing ch c give) = false)
    (hw : (changing ch c give).filter (wayWaits ch) = []) :
    clusterCmd ch c give = reply ((changing ch c give).foldl
      (fun x cl => moveCluster x (if give = true then some (jobId (cmdJob c.raw)) else none) cl)
      { ch with land := { ch.land with flushing := [] } }) rspOk := by
  refine clusterCmd_of_own hown hb (if_neg ?_)
  rw [ht, List.any_eq_true]
  simpa using hw

end

/-- ASSIGN and RELEASE do the same as they take effect and as they are asked again. -/
theorem assignClusters_eq {give : Bool} {a : Nat} {i : Instr}
    (hi : (give, a, i) ∈ [(true, 0, Instr.jobAssignClustersAssign k), (false, 1, .jobAssignClustersRelease k)])
    (ht : Taking s k 0x12 (actRow a 2) assignChk c ∨ Waiting s k 0x12 (actRow a 2) c) :
    exec i s = .next (after s (settle (streamIx k) c (clusterCmd s.chip c give))) := by
  simp only [List.mem_cons, Prod.mk.injEq, List.not_mem_nil, or_false] at hi
  obtain ⟨rfl, rfl, rfl⟩ | ⟨rfl, rfl, rfl⟩ := hi
  · rw [exec_jobAssignClustersAssign, execJobAssignClustersAssign]
    rcases ht with ht | hw
    · rw [runCmd_of_taking ht]
    · rw [runCmd_of_waiting hw]
  · rw [exec_jobAssignClustersRelease, execJobAssignClustersRelease]
    rcases ht with ht | hw
    · rw [runCmd_of_taking ht]
    · rw [runCmd_of_waiting hw]

/-! ### JOB_DESTROY (R397) -/

section
variable {ch : Chip} {x : Nat} {j : JobId}

theorem destroyGo_of_cores (hq : jobQuiet ch j = false) : destroyGo ch x j = stay ch [] :=
  if_pos (ne_true_of_eq_false hq)

variable (hq : jobQuiet ch j = true)
include hq

theorem destroyGo_of_units
    (hb : (bwOf (destroyUnits ch j) j.val).isSome = true ∨ dumpBusy (destroyUnits ch j) j.val = true) :
    destroyGo ch x j = stay (destroyUnits ch j) [] :=
  (if_neg (not_not.mpr hq)).trans (if_pos hb)

theorem destroyGo_of_quiet (hb : bwOf (destroyUnits ch j) j.val = none)
    (hd : dumpBusy (destroyUnits ch j) j.val = false) : destroyGo ch x j =
      reply (dropCommands (destroyJob (destroyUnits ch j) j) (j.val + 1) x) rspOk :=
  (if_neg (not_not.mpr hq)).trans (if_neg (by simp [hb, hd]))

end

theorem jobDestroy_of_busy (ht : Taking s k 0x11 anyRow (fun _ => ([], [])) c)
    (hb : (coresOfJob s.chip (jobId (cmdJob c.raw))).any (coreBusy s.chip) = true) :
    exec (.jobDestroy k) s = .next (answered s k c s.chip (rspOf 0x14)) := by
  rw [exec_jobDestroy, execJobDestroy]
  exact runCmd_of_start_reply ht (if_pos hb)

/-- Once its job is halted a destroy does the same as it takes effect and as it is asked again. -/
theorem jobDestroy_goes {ch : Chip} (hg : Taking s k 0x11 anyRow (fun _ => ([], [])) c ∧
      (coresOfJob s.chip (jobId (cmdJob c.raw))).any (coreBusy s.chip) = false ∧
      ch = haltJob s.chip (jobId (cmdJob c.raw)) ∨ Waiting s k 0x11 anyRow c ∧ ch = s.chip) :
    exec (.jobDestroy k) s =
      .next (after s (settle (streamIx k) c (destroyGo ch (streamIx k) (jobId (cmdJob c.raw))))) := by
  rw [exec_jobDestroy, execJobDestroy]
  obtain ⟨ht, hb, rfl⟩ | ⟨hw, rfl⟩ := hg
  · rw [runCmd_of_taking ht]
    simp only [hb, Bool.false_eq_true, if_false]
  · rw [runCmd_of_waiting hw]

/-! ### HALT_JOB and the end of a run (R394, R402) -/

section
variable (ht : Taking s k 0x32 anyRow (fun raw => ([(0, 0)], badIf (1 < pb raw 0 0) 0)) c)
include ht

theorem haltJob_of_done
    (hd : pbit c.raw 0 0 0 = 0 ∨ jobIdleNow (haltJob s.chip (jobId (cmdJob c.raw))) (jobId (cmdJob c.raw)).val = true) :
    exec (.haltJob k) s = .next (answered s k c (haltJob s.chip (jobId (cmdJob c.raw))) rspOk) := by
  rw [exec_haltJob, execHaltJob]
  exact runCmd_of_start_reply ht (if_pos hd)

theorem haltJob_of_wait (hw : pbit c.raw 0 0 0 ≠ 0)
    (hi : jobIdleNow (haltJob s.chip (jobId (cmdJob c.raw))) (jobId (cmdJob c.raw)).val = false) :
    exec (.haltJob k) s = .next (waits s k c (haltJob s.chip (jobId (cmdJob c.raw))) []) := by
  rw [exec_haltJob, execHaltJob]
  exact runCmd_of_start_stay ht (if_neg (by simp [hw, hi]))

end

section
variable (hw : Waiting s k 0x32 anyRow c)
include hw

theorem haltJob_of_idle (hi : jobIdleNow s.chip (cmdJob c.raw) = true) :
    exec (.haltJob k) s = .next (answered s k c s.chip rspOk) := by
  rw [exec_haltJob, execHaltJob]
  exact runCmd_of_go_reply hw (if_pos hi)

theorem haltJob_of_not_idle (hi : jobIdleNow s.chip (cmdJob c.raw) = false) :
    exec (.haltJob k) s = .next (waits s k c s.chip []) := by
  rw [exec_haltJob, execHaltJob]
  exact runCmd_of_go_stay hw (if_neg (ne_true_of_eq_false hi))

end

/-- Every launched core of the job has stopped. -/
def coresStopped (ch : Chip) (j : JobId) : Bool :=
  (coresOfJob ch j).all fun g => (coreOf ch g).run != .running && (coreOf ch g).run != .waiting

section
variable {j : JobId} (hl : live s.chip = true)
include hl

theorem jobIdle_of_stopped (hr : (jobOf s.chip j.val).state = .running ∨ (jobOf s.chip j.val).state = .halting)
    (hd : coresStopped s.chip j = true) :
    exec (.jobIdle j) s = .next (after s (updJob s.chip j.val fun b => { b with state := .idle })) :=
  exec_of_live hl (exec_jobIdle ..) (if_pos ⟨hd, hr⟩)

theorem jobIdle_of_other (h : coresStopped s.chip j = false ∨
      (jobOf s.chip j.val).state ≠ .running ∧ (jobOf s.chip j.val).state ≠ .halting) :
    exec (.jobIdle j) s = .next s := by
  refine exec_of_live hl (exec_jobIdle ..) (if_neg ?_)
  rintro ⟨hd, hr⟩
  rcases h with h | ⟨h1, h2⟩
  · exact ne_true_of_eq_false h hd
  · exact hr.elim h1 h2

end

/-! ### The statement -/

/-- Settles O40: each command refuses, is answered or waits as the case of its meaning says (logs 43, 89, 91 and 100). -/
theorem jobCommands : Obligations.JobCommands := by
  unfold Obligations.JobCommands
  rintro s k c j rfl
  refine ⟨devQuery_of_taking, fun ht => ⟨jobCreate_of_no_place ht, fun da hp ch => jobCreate_of_place ht hp⟩, ?clusters,
    jobDestroy_of_busy, ?destroy, fun ht => ⟨haltJob_of_done ht, haltJob_of_wait ht⟩,
    fun hw => ⟨haltJob_of_idle hw, haltJob_of_not_idle hw⟩, ?idle⟩
  case clusters =>
    rintro give a i hi ht cls change busy tested late rfl rfl rfl rfl rfl
    have he := assignClusters_eq hi ht
    refine ⟨fun h => ?_, fun hb => ?_, fun hown hb => ⟨fun hw => ?_, fun h1 h2 => ?_⟩⟩
    · rw [he, clusterCmd_of_foreign h, settle_reply, answered]
    · rw [he, clusterCmd_of_busy hb, settle_reply, answered]
    · rw [he, clusterCmd_of_held hown hb hw, settle_stay, waits]
      rfl
    · rw [he, clusterCmd_of_free hown hb h1 h2, settle_reply, answered]
      rfl
  case destroy =>
    intro ch hg
    have he := jobDestroy_goes hg
    refine ⟨fun hq => ?_, fun hq hb => ?_, fun hq hb hd => ?_⟩
    · rw [he, destroyGo_of_cores hq, settle_stay, waits]
    · rw [he, destroyGo_of_units hq hb, settle_stay, waits]
    · rw [he, destroyGo_of_quiet hq hb hd, settle_reply, answered]
  case idle =>
    rintro hl d rfl
    exact ⟨jobIdle_of_stopped hl, jobIdle_of_other hl⟩

end Sys2Proof.JobCommands
end

section
/-! Proofs about Teasel's test windows (20_faults.md R428, R429): where a window begins, goes on and ends, and the
statement TestWindows. -/

namespace Sys2Proof.TestWindows
open Sys2Proof Sys2Proof.Machine Sys2Proof.Claims Sys2Proof.Laws Sys2Proof.GoingOn

/-! ### A window (R428, R429) -/

section
variable {ch : Chip} {g : Nat} {k : WindowKind} {may : Bool} {obs : TestObs}

section
variable (hu : (tcoreOf ch g).under ≠ some k)
include hu

theorem runWindow_of_not_owed (h : may = false ∨ clusterFree ch g = false) : runWindow ch g k may obs = (ch, none) :=
  if_pos ⟨by simpa using hu, by rcases h with h | h <;> simp [h]⟩

variable (hm : may = true) (hf : clusterFree ch g = true)
include hm hf

theorem runWindow_of_begin (ho : obs = .begins) : runWindow ch g k may obs = (beginWindow ch g k, none) := by
  simp [runWindow, hu, hm, hf, ho]

theorem runWindow_of_whole (ho : obs ≠ .begins) : runWindow ch g k may obs =
    ((endWindow (beginWindow ch g k) g obs).1, some (endWindow (beginWindow ch g k) g obs).2) := by
  simp [runWindow, hu, hm, hf, ho]

end

variable (hu : (tcoreOf ch g).under = some k)
include hu

theorem runWindow_of_under (ho : obs = .begins) : runWindow ch g k may obs = (ch, none) := by
  simp [runWindow, hu, ho]

theorem runWindow_of_end (ho : obs ≠ .begins) :
    runWindow ch g k may obs = ((endWindow ch g obs).1, some (endWindow ch g obs).2) := by
  simp [runWindow, hu, ho]

end

/-! ### The statement -/

/-- A window's work is a window of its core while Teasel's control runs; both kinds of scheduled windows are. -/
structure Windowed (s t : State) (r : CoreRun) (obs : TestObs) (k : WindowKind) (i : Instr) (f : Chip → Chip)
    (may : Bool) : Prop where
  run : exec i s = onChip s (memWork (.core (r.core.val / 128)) r.bursts f)
  work : f t.chip = if ctlRuns t.chip then (runWindow t.chip r.core.val k may obs).1 else t.chip

section
variable {s t : State} {r : CoreRun} {obs : TestObs} {k : WindowKind} {i : Instr} {f : Chip → Chip} {may : Bool}
variable (hw : Windowed s t r obs k i f may) (hg : GoesOn s (.core (r.core.val / 128)) r.bursts f t)
include hw hg

theorem window_of_runWindow (hc : ctlRuns t.chip = true) {ch : Chip} {o : Option Bool}
    (h : runWindow t.chip r.core.val k may obs = (ch, o)) : exec i s = .next (after t ch) :=
  work_of_goesOn_eq hw.run hg (hw.work.trans (by rw [if_pos hc, h]))

theorem window_of_stopped (hc : ctlRuns t.chip = false) : exec i s = .next t :=
  work_of_goesOn_eq hw.run hg (hw.work.trans (if_neg (ne_true_of_eq_false hc)))

end

/-- Settles O23: a core that owes a window is taken, stays under test or leaves it, and another is left alone (logs 20, 43
and 45). -/
theorem testWindows : Obligations.TestWindows := by
  unfold Obligations.TestWindows
  rintro s t r c obs k i f may rfl hk
  have hw : Windowed s t r obs k i f may := by
    rcases hk with ⟨rfl, rfl, rfl, rfl⟩ | ⟨rfl, rfl, rfl, rfl⟩
    · exact ⟨exec_testWindow .., rfl⟩
    · exact ⟨exec_forcedWindow .., rfl⟩
  refine ⟨waitsOrLoses_of_memWork hw.run, fun hg => ⟨fun hc hu hm hf => ?begins, fun hc hu => ?ends, ?alone⟩⟩
  case begins =>
    exact ⟨fun ho => window_of_runWindow hw hg hc (runWindow_of_begin hu hm hf ho),
      fun ho => window_of_runWindow hw hg hc (runWindow_of_whole hu hm hf ho)⟩
  case ends =>
    exact ⟨fun ho => window_of_runWindow hw hg hc (runWindow_of_under hu ho),
      fun ho => window_of_runWindow hw hg hc (runWindow_of_end hu ho)⟩
  case alone =>
    intro h
    cases hc : ctlRuns t.chip with
    | false => exact window_of_stopped hw hg hc
    | true =>
      obtain ⟨hu, hm⟩ := h.resolve_left (by simp [hc])
      exact window_of_runWindow hw hg hc (runWindow_of_not_owed hu hm)

end Sys2Proof.TestWindows
end

section
/-! Proofs about Teasel's commands (20_faults.md R432, R435, R441, R443): what each answers, or how it waits, once its
checks pass, and the statement TestCommands. -/

namespace Sys2Proof.TestCommands
open Sys2Proof Sys2Proof.Machine Sys2Proof.Claims Sys2Proof.Laws Sys2Proof.ArrayCommands
open Sys2Proof.SystemCommands (runNv_eq_kept)

variable {s : State} {k : Stream} {c : Cmd}

/-! ### TEST_PACK_LOAD (R441) -/

section
variable {h : HostIn} {v : Verdict}
  (ht : Taking s k 0x80 anyRow (fun raw => ([(0, 5), (8, 11)], badIf (0x200000 < pb raw 11 8) 8)) c)
include ht

theorem packLoad_of_outside (hw : pb c.raw 5 0 < outBase ∨ 2 * outBase < pb c.raw 5 0 + pb c.raw 11 8) :
    exec (.testPackLoad k h v) s = .next (answered s k c s.chip (rspOf 0x1C)) := by
  rw [exec_testPackLoad, execTestPackLoad]
  exact runNv_eq_kept ht (if_pos hw)

variable (h1 : outBase ≤ pb c.raw 5 0) (h2 : pb c.raw 5 0 + pb c.raw 11 8 ≤ 2 * outBase) {ch : Chip}
  (hch : ch = hostRead s.chip 0 h [(pb c.raw 5 0, pb c.raw 11 8)])
include h1 h2 hch

theorem packLoad_of_failed (hb : hostBad s.chip h = true) :
    exec (.testPackLoad k h v) s = .next (answered s k c ch (rspOf 0x1D)) := by
  subst hch
  rw [exec_testPackLoad, execTestPackLoad]
  exact runNv_eq_kept ht ((if_neg (by omega)).trans (if_pos hb))

variable (hb : hostBad s.chip h = false)
include hb

theorem packLoad_of_good (hv : v.vendorOk = true)
    (hp : packOk ch (pb c.raw 5 0) (pb c.raw 11 8) (minVerOf s.nv 2) = true) :
    exec (.testPackLoad k h v) s = .next (answered s k c (installPack ch (pb c.raw 5 0) v).1
      (installPack ch (pb c.raw 5 0) v).2) := by
  subst hch
  rw [exec_testPackLoad, execTestPackLoad]
  exact runNv_eq_kept ht ((if_neg (by omega)).trans ((if_neg (ne_true_of_eq_false hb)).trans (if_pos ⟨hv, hp⟩)))

theorem packLoad_of_bad
    (hp : v.vendorOk = false ∨ packOk ch (pb c.raw 5 0) (pb c.raw 11 8) (minVerOf s.nv 2) = false) :
    exec (.testPackLoad k h v) s = .next (answered s k c (raise ch .tslPackRejected 0) (rspOf 0x1B)) := by
  subst hch
  rw [exec_testPackLoad, execTestPackLoad]
  refine runNv_eq_kept ht ((if_neg (by omega)).trans ((if_neg (ne_true_of_eq_false hb)).trans (if_neg ?_)))
  rintro ⟨h3, h4⟩
  simp [h3, h4] at hp

end

/-! ### TEST_SCHEDULE (R443) -/

section
variable (ht : Taking s k 0x81 (actRow 0 3) scheduleChk c) {ch : Chip} {r : Rsp}
  (hch : ch = regPut (regPut s.chip .tslPeriod 0 15 0 (clampN 250 60000 (pb c.raw 7 4))) .tslCtrl 0 1 1
    (if pbit c.raw 8 0 0 = 1 then 1 else 0))
  (hr : r = rspOf (if clampN 250 60000 (pb c.raw 7 4) = pb c.raw 7 4 then 0 else 2))
include ht hch hr

/-- The schedule is set; one that begins counts its periods from now. -/
theorem scheduleSet_eq : exec (.testScheduleSet k) s = .next (answered s k c
    (if pbit c.raw 8 0 0 = 1 ∧ ¬(regGet s.chip .tslCtrl 0).getLsbD 1 = true
      then { ch with tsl := { ch.tsl with schedAt := s.chip.us } } else ch) r) := by
  subst hch hr
  rw [exec_testScheduleSet, execTestScheduleSet]
  refine runNow_eq ht ?_
  simp only [beq_iff_eq, b2n]
  rfl

theorem scheduleSet_of_going (h : pbit c.raw 8 0 0 ≠ 1 ∨ (regGet s.chip .tslCtrl 0).getLsbD 1 = true) :
    exec (.testScheduleSet k) s = .next (answered s k c ch r) := by
  rw [scheduleSet_eq ht hch hr, if_neg (by tauto)]

theorem scheduleSet_of_start (h1 : pbit c.raw 8 0 0 = 1) (h2 : (regGet s.chip .tslCtrl 0).getLsbD 1 = false) :
    exec (.testScheduleSet k) s =
      .next (answered s k c { ch with tsl := { ch.tsl with schedAt := s.chip.us } } r) := by
  rw [scheduleSet_eq ht hch hr, if_pos ⟨h1, ne_true_of_eq_false h2⟩]

end

/-- A TEST_NOW does the same as it takes effect and as it is asked again. -/
theorem testNow_eq {obs : TestObs}
    (ht : Taking s k 0x81 (actRow 1 3) scheduleChk c ∨ Waiting s k 0x81 (actRow 1 3) c) :
    exec (.testNow k obs) s = .next (after s (settle (streamIx k) c (testNowGo s.chip c obs))) := by
  rw [exec_testNow, execTestNow]
  rcases ht with ht | hw
  · rw [runCmd_of_taking ht]
  · rw [runCmd_of_waiting hw]

section
variable {ch : Chip} {obs : TestObs}

theorem testNowGo_of_ended (hm : c.memo ≠ []) (hu : (tcoreOf ch (schedCore c.raw)).under ≠ some .now) :
    testNowGo ch c obs = reply ch (rspData 0 1 [2]) :=
  if_pos ⟨hm, by simpa using hu⟩

variable (hm : c.memo = [] ∨ (tcoreOf ch (schedCore c.raw)).under = some .now)
include hm

theorem testNow_not_ended : ¬(c.memo ≠ [] ∧ ¬((tcoreOf ch (schedCore c.raw)).under == some .now) = true) := by
  rw [beq_iff_eq]
  tauto

theorem testNowGo_of_fenced (hf : coreFenced ch (schedCore c.raw) = true) :
    testNowGo ch c obs = reply ch (rspOf 0x14) :=
  (if_neg (testNow_not_ended hm)).trans (if_pos hf)

variable (hf : coreFenced ch (schedCore c.raw) = false)
include hf

theorem testNowGo_of_held
    (h : ctlRuns ch = false ∨ c.memo = [] ∧ (tcoreOf ch (schedCore c.raw)).under = some .now) :
    testNowGo ch c obs = stay ch c.memo :=
  (if_neg (testNow_not_ended hm)).trans ((if_neg (ne_true_of_eq_false hf)).trans
    (if_pos (h.imp ne_true_of_eq_false (And.imp_right beq_iff_eq.mpr))))

variable (hc : ctlRuns ch = true) (hu : c.memo ≠ [] ∨ (tcoreOf ch (schedCore c.raw)).under ≠ some .now)
  {r : Chip × Option Bool} (hr : r = runWindow ch (schedCore c.raw) .now (atTestPoint ch (schedCore c.raw) &&
    workDone ch (schedCore c.raw) && !memHeld ch (.core (schedCore c.raw / 128))
      (touched (fun x => flushCache x (schedCore c.raw)) ch)) obs)
include hc hu hr

/-- The window runs as far as it goes. -/
theorem testNowGo_of_window {d : Did} (hd : (match r.2 with
      | some passed => reply r.1 (rspData 0 1 [if passed then 1 else 2])
      | none => stay r.1 (if (tcoreOf r.1 (schedCore c.raw)).under = some .now then [1] else [])) = d) :
    testNowGo ch c obs = d := by
  subst hr hd
  refine (if_neg (testNow_not_ended hm)).trans ((if_neg (ne_true_of_eq_false hf)).trans ((if_neg ?_).trans rfl))
  rw [beq_iff_eq, not_or, not_not]
  exact ⟨hc, by tauto⟩

theorem testNowGo_of_passed {p : Bool} (hp : r.2 = some p) :
    testNowGo ch c obs = reply r.1 (rspData 0 1 [if p = true then 1 else 2]) :=
  testNowGo_of_window hm hf hc hu hr (by simp only [hp])

theorem testNowGo_of_going (hp : r.2 = none) :
    testNowGo ch c obs = stay r.1 (if (tcoreOf r.1 (schedCore c.raw)).under = some .now then [1] else []) :=
  testNowGo_of_window hm hf hc hu hr (by simp only [hp])

end

theorem scheduleFence_of_taking (ht : Taking s k 0x81 (actRow 2 3) scheduleChk c) :
    exec (.testScheduleFence k) s = .next (answered s k c
      (fenceUnit s.chip (schedCore c.raw) (schedUnit c.raw) (pb c.raw 4 4)) rspOk) := by
  rw [exec_testScheduleFence, execTestScheduleFence]
  exact runNow_eq ht rfl

/-! ### FENCE_QUERY (R435, R443) -/

theorem fences_buffered (ht : Taking s k 0x82 (actRow 0 2) fenceQueryChk c) {l : List (List Byte)}
    (hl : l = ((fencesOf s.chip k.fn.val).drop (pb c.raw 15 8)).take (pb c.raw 27 24)) :
    buffered s k c (.fenceQueryFences k) (pb c.raw 21 16) l.flatten (queryRsp l.length (pb c.raw 15 8 + l.length)) := by
  subst hl
  refine buffered_of_toBuffer ?_
  rw [exec_fenceQueryFences, execFenceQueryFences]
  exact runNow_eq ht rfl

/-- The number that a NOTIFY answers as its next: after the last note that it lists. -/
def nextNote (first : Nat) (l : List Note) : Nat :=
  match l.getLast? with
  | some n => n.seq + 1
  | none => first

theorem notes_buffered (ht : Taking s k 0x82 (actRow 1 2) fenceQueryChk c) {l : List Note}
    (hl : l = ((notesOf s.chip k.fn.val).filter fun n => decide (pb c.raw 15 8 ≤ n.seq)).take (pb c.raw 27 24)) :
    buffered s k c (.fenceQueryNotify k) (pb c.raw 21 16) (l.flatMap noteRec)
      (queryRsp l.length (nextNote (pb c.raw 15 8) l)) := by
  subst hl
  refine buffered_of_toBuffer ?_
  rw [exec_fenceQueryNotify, execFenceQueryNotify]
  exact runNow_eq ht rfl

/-! ### READMIT (R432) -/

/-- What holds for a core, an engine or an array. -/
def byUnit {α : Type} (u : Nat) (core engine array : α) : α :=
  match u with
  | 0 => core
  | 1 => engine
  | _ => array

theorem eq_byUnit {α : Type} {u : Nat} {x a b d : α} (h0 : u = 0 → x = a) (h1 : u = 1 → x = b)
    (h2 : u ≠ 0 → u ≠ 1 → x = d) : x = byUnit u a b d := by
  match u with
  | 0 => exact h0 rfl
  | 1 => exact h1 rfl
  | n + 2 => exact h2 (by omega) (by omega)

/-- Unit `n` of core `g` is fenced. -/
def unitFenced (ch : Chip) (u g n : Nat) : Bool :=
  byUnit u (tcoreOf ch g).fenced ((accOf ch g).fencedEng.getLsbD n) (arrOf ch g n).fenced

/-- It returns to service. -/
def unitReturns (ch : Chip) (u g n : Nat) : Chip :=
  byUnit u (readmitCore ch g)
    (updTcore (updAcc (emptyTiles ch g) g fun a => { a with
      fencedEng := a.fencedEng &&& ~~~(BitVec.ofNat 64 (2 ^ n)) }) g fun x => { x with engCause := tdel x.engCause n })
    (updArr (emptyTiles ch g) g n fun x =>
      { (if (bankOf ch g).moves.any (fun m => m.old == n) = true then x else retired x 1) with
        fenced := false, fenceCause := 0, role := 1 })

/-- Its content has failed again. -/
def unitFails (ch : Chip) (u g : Nat) : Chip :=
  if u = 0 then updTcore (emptyTiles ch g) g fun x => { x with result := 2 } else emptyTiles ch g

/-- A READMIT does the same as it takes effect and as it is asked again. -/
theorem readmit_eq {obs : List (Nat × TestObs)} (ht : Taking s k 0x83 anyRow readmitChk c ∨ Waiting s k 0x83 anyRow c) :
    exec (.readmit k obs) s = .next (after s (settle (streamIx k) c (readmitGo s.chip c.raw obs))) := by
  rw [exec_readmit, execReadmit]
  rcases ht with ht | hw
  · rw [runCmd_of_taking ht]
  · rw [runCmd_of_waiting hw]

section
variable {ch : Chip} {raw : Nat} {obs : List (Nat × TestObs)}

section
variable (hu : pb raw 0 0 = 3)
include hu

theorem readmitGo_of_tower_in_service (hf : (towerOf ch (pb raw 1 1)).fenced = false) :
    readmitGo ch raw obs = reply ch (rspData 0 1 (leBytes 2 1)) :=
  (if_pos hu).trans (if_pos (ne_true_of_eq_false hf))

variable (hf : (towerOf ch (pb raw 1 1)).fenced = true)
include hf

theorem readmitGo_of_tower_without_clocks (hc : clocksBack ch (pb raw 1 1) obs = false) :
    readmitGo ch raw obs = reply ch (rspData 0 1 (leBytes 3 1)) :=
  (if_pos hu).trans ((if_neg (not_not.mpr hf)).trans (if_pos (ne_true_of_eq_false hc)))

theorem readmitGo_of_tower (hc : clocksBack ch (pb raw 1 1) obs = true) {p : Chip × Nat}
    (hp : p = readmitTower (runClocks ch (pb raw 1 1)) (pb raw 1 1) obs) :
    readmitGo ch raw obs = reply p.1 (rspData 0 1 (leBytes p.2 1)) := by
  subst hp
  exact (if_pos hu).trans ((if_neg (not_not.mpr hf)).trans (if_neg (not_not.mpr hc)))

end

variable (hu : pb raw 0 0 ≠ 3)
include hu

theorem readmitGo_of_fenced_tower (hf : (towerOf ch (pb raw 1 1)).fenced = true) :
    readmitGo ch raw obs = reply ch (rspData 0 1 (leBytes 4 1)) :=
  (if_neg hu).trans (if_pos hf)

variable (hf : (towerOf ch (pb raw 1 1)).fenced = false) {g n : Nat} (hg : g = coreAt (pb raw 1 1) (pb raw 2 2))
  (hn : n = pb raw 3 3)
include hf hg hn

/-- Cores, engines and arrays return by the same steps. -/
theorem readmitGo_of_unit : readmitGo ch raw obs =
    if ¬unitFenced ch (pb raw 0 0) g n = true then reply ch (rspData 0 1 (leBytes 2 1))
    else if ¬readmitReady ch g = true then stay ch []
    else if contentPasses obs g = true then reply (unitReturns ch (pb raw 0 0) g n) (rspData 0 1 (leBytes 0 1))
    else reply (unitFails ch (pb raw 0 0) g) (rspData 0 1 (leBytes 1 1)) := by
  subst hg hn
  refine (if_neg hu).trans ((if_neg (ne_true_of_eq_false hf)).trans ?_)
  simp only [unitFenced, unitReturns, unitFails]
  generalize pb raw 0 0 = u
  match u with
  | 0 => simp only [byUnit, if_true]
  | 1 => simp only [byUnit, Nat.one_ne_zero, if_false]
  | n + 2 => simp only [byUnit, Nat.add_eq_zero_iff, OfNat.ofNat_ne_zero, and_false, if_false]

variable {out : Bool} (hout : out = unitFenced ch (pb raw 0 0) g n)
include hout

theorem readmitGo_of_unit_in_service (ho : out = false) :
    readmitGo ch raw obs = reply ch (rspData 0 1 (leBytes 2 1)) := by
  rw [readmitGo_of_unit hu hf hg hn, ← hout, ho, if_pos Bool.false_ne_true]

variable (ho : out = true)
include ho

theorem readmitGo_of_unit_at_work (hr : readmitReady ch g = false) : readmitGo ch raw obs = stay ch [] := by
  rw [readmitGo_of_unit hu hf hg hn, ← hout, ho, if_neg (not_not.mpr rfl), if_pos (ne_true_of_eq_false hr)]

variable (hr : readmitReady ch g = true)
include hr

theorem readmitGo_of_unit_passed (hp : contentPasses obs g = true) :
    readmitGo ch raw obs = reply (unitReturns ch (pb raw 0 0) g n) (rspData 0 1 (leBytes 0 1)) := by
  rw [readmitGo_of_unit hu hf hg hn, ← hout, ho, if_neg (not_not.mpr rfl), if_neg (not_not.mpr hr), if_pos hp]

theorem readmitGo_of_unit_failed (hp : contentPasses obs g = false) :
    readmitGo ch raw obs = reply (unitFails ch (pb raw 0 0) g) (rspData 0 1 (leBytes 1 1)) := by
  rw [readmitGo_of_unit hu hf hg hn, ← hout, ho, if_neg (not_not.mpr rfl), if_neg (not_not.mpr hr),
    if_neg (ne_true_of_eq_false hp)]

end

/-! ### The statement -/

/-- Settles O46: each command refuses, is answered or waits as the case of its meaning says (logs 95, 96 and 97). -/
theorem testCommands : Obligations.TestCommands := by
  unfold Obligations.TestCommands
  intro s k c
  refine ⟨fun h v ht => ⟨packLoad_of_outside ht, fun h1 h2 ch hch => ⟨packLoad_of_failed ht h1 h2 hch, fun hb =>
    ⟨packLoad_of_good ht h1 h2 hch hb, packLoad_of_bad ht h1 h2 hch hb⟩⟩⟩,
    fun ht ch r hch hr => ⟨scheduleSet_of_going ht hch hr, scheduleSet_of_start ht hch hr⟩, ?now,
    scheduleFence_of_taking, fun ht l hl => fences_buffered ht hl, ?notes, ?readmit⟩
  case now =>
    rintro obs ht g rfl
    have he := testNow_eq (obs := obs) ht
    refine ⟨fun hm hu => ?_, fun hm => ⟨fun hf => ?_, fun hf h => ?_, fun hf hc hu r hr => ⟨fun p hp => ?_, fun hp => ?_⟩⟩⟩
    · rw [he, testNowGo_of_ended hm hu, settle_reply, answered]
    · rw [he, testNowGo_of_fenced hm hf, settle_reply, answered]
    · rw [he, testNowGo_of_held hm hf h, settle_stay, waits]
    · rw [he, testNowGo_of_passed hm hf hc hu hr hp, settle_reply, answered]
    · rw [he, testNowGo_of_going hm hf hc hu hr hp, settle_stay, waits]
  case notes =>
    intro ht l hl
    have hb := notes_buffered ht hl
    refine ⟨fun h0 => ?_, fun n hn => ?_⟩
    · subst h0
      exact hb
    · rwa [nextNote, hn] at hb
  case readmit =>
    rintro obs ht t g n i rfl hg hn rfl
    have he := readmit_eq (obs := obs) ht
    refine ⟨fun hu => ⟨fun hf => ?_, fun hf hc => ?_, fun hf hc p hp => ?_⟩, fun hu hf => ?_, fun hu hf out h0 h1 h2 => ?_⟩
    · rw [he, readmitGo_of_tower_in_service hu hf, settle_reply, answered]
    · rw [he, readmitGo_of_tower_without_clocks hu hf hc, settle_reply, answered]
    · rw [he, readmitGo_of_tower hu hf hc hp, settle_reply, answered]
    · rw [he, readmitGo_of_fenced_tower hu hf, settle_reply, answered]
    have hout : out = unitFenced s.chip (pb c.raw 0 0) g n := eq_byUnit h0 h1 h2
    refine ⟨fun ho => ?_, fun ho hr => ?_, fun ho hr => ⟨fun hp ch c0 c1 c2 => ?_, fun hp ch hch => ?_⟩⟩
    · rw [he, readmitGo_of_unit_in_service hu hf hg hn hout ho, settle_reply, answered]
    · rw [he, readmitGo_of_unit_at_work hu hf hg hn hout ho hr, settle_stay, waits]
    · have hch : ch = unitReturns s.chip (pb c.raw 0 0) g n := eq_byUnit c0 c1 c2
      rw [he, readmitGo_of_unit_passed hu hf hg hn hout ho hr hp, settle_reply, answered, hch]
    · rw [he, readmitGo_of_unit_failed hu hf hg hn hout ho hr hp, settle_reply, answered, hch, unitFails]

end Sys2Proof.TestCommands
end

section
/-! Proofs about the commands of counters, dumps, snapshots and converters (21_observation.md R458, R459, R462, R465;
22_cowslip_sensors.md R480): what each answers, or how it waits, once its checks pass, and the statement
CounterCommands. -/

namespace Sys2Proof.CounterCommands
open Sys2Proof Sys2Proof.Machine Sys2Proof.Claims Sys2Proof.Laws Sys2Proof.ArrayCommands
open Sys2Proof.RegisterBus (disableBlk_of_not_enabled stopBlk_of_not_ready)

variable {s : State} {k : Stream} {c : Cmd}

/-! ### CTR_ACCESS_GRANT (R459) -/

section
variable {ch : Chip} {on : Bool}

theorem setGrant_of_none (ho : (jobOf ch (cmdJob c.raw)).dump = none) :
    setGrant ch c on = (ch, if on then rspOf 0x15 else rspOk) := by
  simp only [setGrant, ho]

theorem setGrant_of_dump {d : JobDump} (ho : (jobOf ch (cmdJob c.raw)).dump = some d) : setGrant ch c on =
    (updJob ch (cmdJob c.raw) fun b => { b with dump := some { d with granted := on } },
      if on then dumpRsp d else rspOk) := by
  simp only [setGrant, ho]

end

theorem accessGrant_eq (ht : Taking s k 0x90 (actRow 0 2) accessChk c) {ch : Chip} {r : Rsp}
    (h : setGrant s.chip c true = (ch, r)) : exec (.ctrAccessGrant k) s = .next (answered s k c ch r) := by
  rw [exec_ctrAccessGrant, execCtrAccessGrant]
  exact runNow_eq ht h

theorem accessRevoke_eq (ht : Taking s k 0x90 (actRow 1 2) accessChk c) {ch : Chip} {r : Rsp}
    (h : setGrant s.chip c false = (ch, r)) : exec (.ctrAccessRevoke k) s = .next (answered s k c ch r) := by
  rw [exec_ctrAccessRevoke, execCtrAccessRevoke]
  exact runNow_eq ht h

/-! ### CTR_DUMP_CFG (R458) -/

section
variable (ht : Taking s k 0x91 (actRow 0 2) (fun raw => ([(0, 1), (4, 5)], badIf (1 < pb raw 0 0) 0 ++
    badIf (decide (pb raw 1 1 = 0 ∨ 128 < pb raw 1 1)) 1 ++ badIf (pb raw 5 4 < 2) 4)) c)
  {jb : Job} (hj : jobOf s.chip (cmdJob c.raw) = jb)
include ht hj

theorem dumpEnable_of_dump (hd : jb.dump.isSome = true) :
    exec (.ctrDumpEnable k) s = .next (answered s k c s.chip (rspOf 0x14)) := by
  subst hj
  rw [exec_ctrDumpEnable, execCtrDumpEnable]
  exact runNow_eq ht (if_pos hd)

variable (hd : jb.dump = none)
include hd

theorem dumpEnable_of_place {da : Nat} {d : JobDump}
    (hdd : d = ⟨da, dumpSlot (pb c.raw 1 1), pb c.raw 1 1, pb c.raw 5 4, 0, false⟩)
    (hp : placeHbm s.chip jb.global jb.tower (dumpSlot (pb c.raw 1 1) * pb c.raw 5 4) = some da) :
    exec (.ctrDumpEnable k) s = .next (answered s k c
      (updJob (setLayer s.chip jb.global da) (cmdJob c.raw) fun b => { b with dump := some d }) (dumpRsp d)) := by
  subst hj hdd
  rw [exec_ctrDumpEnable, execCtrDumpEnable]
  exact runNow_eq ht ((if_neg (by simp [hd])).trans (by simp only [hp]))

theorem dumpEnable_of_no_place
    (hp : placeHbm s.chip jb.global jb.tower (dumpSlot (pb c.raw 1 1) * pb c.raw 5 4) = none) :
    exec (.ctrDumpEnable k) s = .next (answered s k c s.chip (rspOf 0x15)) := by
  subst hj
  rw [exec_ctrDumpEnable, execCtrDumpEnable]
  exact runNow_eq ht ((if_neg (by simp [hd])).trans (by simp only [hp]))

end

/-- The end of a dump is the same as it takes effect and as it is asked again. -/
theorem dumpDisable_eq
    (ht : Taking s k 0x91 (actRow 1 2) (fun _ => ([(0, 0)], [])) c ∨ Waiting s k 0x91 (actRow 1 2) c) :
    exec (.ctrDumpDisable k) s = .next (after s (settle (streamIx k) c (endDump s.chip (cmdJob c.raw)))) := by
  rw [exec_ctrDumpDisable, execCtrDumpDisable]
  rcases ht with ht | hw
  · rw [runCmd_of_taking ht]
  · rw [runCmd_of_waiting hw]

theorem endDump_of_busy {ch : Chip} {j : Nat} (h : dumpBusy ch j = true) : endDump ch j = stay ch [] := if_pos h

theorem endDump_of_free {ch : Chip} {j : Nat} (h : dumpBusy ch j = false) :
    endDump ch j = reply (freeLayers (updJob ch j fun b => { b with dump := none })) rspOk :=
  if_neg (ne_true_of_eq_false h)

/-! ### SNAP_ARM (R462, R465) -/

section
variable (ht : Taking s k 0x92 (actRow 0 3) armChk c)
include ht

theorem snapArm_of_no_place (hd : snapDest s.chip (pb c.raw 21 16) (pb c.raw 31 24) = false) :
    exec (.snapArm k) s = .next (answered s k c s.chip (rspOf 0x1C)) := by
  rw [exec_snapArm, execSnapArm]
  exact runNow_eq ht (if_pos (ne_true_of_eq_false hd))

theorem snapArm_of_place (hd : snapDest s.chip (pb c.raw 21 16) (pb c.raw 31 24) = true) :
    exec (.snapArm k) s = .next (answered s k c
      (updObs s.chip fun o => { o with arm := some ⟨pb c.raw 1 1 == 1, pb c.raw 2 2, pb c.raw 3 3 == 1, pb c.raw 5 4,
        pb c.raw 7 6, pb c.raw 21 16, pb c.raw 31 24⟩, rearmed := true, trigs := [] }) snapRsp) := by
  rw [exec_snapArm, execSnapArm]
  exact runNow_eq ht (if_neg (not_not.mpr hd))

end

theorem snapDisarm_of_taking (ht : Taking s k 0x92 (actRow 1 3) (fun _ => ([(0, 0)], [])) c) :
    exec (.snapDisarm k) s = .next (answered s k c (updObs s.chip fun o => { o with arm := none, trigs := [] }) rspOk) := by
  rw [exec_snapDisarm, execSnapDisarm]
  exact runNow_eq ht rfl

section
variable (ht : Taking s k 0x92 (actRow 2 3) (fun _ => ([(0, 0)], [])) c)
include ht

theorem snapTrigger_of_unarmed (ha : s.chip.obs.arm = none) :
    exec (.snapTriggerNow k) s = .next (answered s k c s.chip (rspOf 0x14)) := by
  rw [exec_snapTriggerNow, execSnapTriggerNow]
  exact runNow_eq ht (by simp only [ha])

variable {m : Arm} (ha : s.chip.obs.arm = some m)
include ha

theorem snapTrigger_of_stopped (hr : obsRuns s.chip = false) :
    exec (.snapTriggerNow k) s = .next (answered s k c s.chip (rspOf 0x14)) := by
  rw [exec_snapTriggerNow, execSnapTriggerNow]
  exact runNow_eq ht (by simp only [ha, hr, Bool.false_eq_true, not_false_eq_true, if_true])

variable (hr : obsRuns s.chip = true)
include hr

theorem snapTrigger_of_running (hs : s.chip.obs.snap.isSome = true) :
    exec (.snapTriggerNow k) s = .next (answered s k c (raise s.chip .obsSnapMissed 0) snapRsp) := by
  rw [exec_snapTriggerNow, execSnapTriggerNow]
  exact runNow_eq ht (by simp only [ha, hr, hs, not_true_eq_false, if_false, if_true])

theorem snapTrigger_of_idle (hs : s.chip.obs.snap = none) :
    exec (.snapTriggerNow k) s = .next (answered s k c (takeSnap s.chip 5 0 m.da) snapRsp) := by
  rw [exec_snapTriggerNow, execSnapTriggerNow]
  exact runNow_eq ht (by
    simp only [ha, hr, hs, Option.isSome_none, Bool.false_eq_true, not_true_eq_false, if_false])

end

/-! ### SENSOR_CFG (R480) -/

theorem islandRuns_disableBlk (ch : Chip) (b : Blk) (u : Nat) (two : Bool) (i : Nat) :
    islandRuns (disableBlk ch b u two) i = islandRuns ch i := by
  unfold disableBlk
  split
  · split <;> rfl
  · rfl
  · rfl

section
variable {ch : Chip} {memo : List Nat} {change : Chip → Cmd → Chip × Rsp} {b : Blk} {u : Nat}
  (hb : snBlk (scConv c.raw) = (b, u))
include hb

theorem snGo_of_held {y : Chip} (hy : y = stopBlk ch b u false)
    (h : islandRuns ch 21 = false ∨ blkGet y b u ≠ .disabled) : snGo ch c memo change = stay ch memo := by
  subst hy
  simp only [snGo, hb]
  exact if_pos (h.imp_left ne_true_of_eq_false)

theorem snGo_of_disabled {y : Chip} (hy : y = stopBlk ch b u false) (hr : islandRuns ch 21 = true)
    (h : blkGet y b u = .disabled) : snGo ch c memo change =
      reply (if memo = [] then (change y c).1 else enableBlk (change y c).1 b u false) (change y c).2 := by
  subst hy
  simp only [snGo, hb]
  exact if_neg (by simp [hr, h])

end

section
variable {a : Nat} {chk : Nat → List (Nat × Nat) × List Nat} {no : Chip → Nat → Option Rsp} {wd : Chip → Nat → Bool}
  {change : Chip → Cmd → Chip × Rsp}

section
variable (ht : Taking s k 0xA0 (actRow a 4) chk c)
include ht

theorem sensorCmd_of_refused {r : Rsp} (hn : no s.chip c.raw = some r) :
    sensorCmd s k a chk no wd change = .next (answered s k c s.chip r) :=
  runCmd_of_start_reply ht (by simp only [hn])

variable (hn : no s.chip c.raw = none)
include hn

theorem sensorCmd_of_no_clock (hr : islandRuns s.chip 21 = false) :
    sensorCmd s k a chk no wd change = .next (answered s k c s.chip (rspOf 0x14)) :=
  runCmd_of_start_reply ht (by simp only [hn, hr, Bool.false_eq_true, not_false_eq_true, if_true])

variable (hr : islandRuns s.chip 21 = true)
include hr

theorem sensorCmd_of_now (hw : wd s.chip c.raw = false) : sensorCmd s k a chk no wd change =
    .next (answered s k c (change s.chip c).1 (change s.chip c).2) :=
  runCmd_of_start_reply ht (by
    simp only [hn, hr, hw, Bool.false_eq_true, not_true_eq_false, not_false_eq_true, if_false, if_true])

variable (hw : wd s.chip c.raw = true) {b : Blk} {u : Nat} (hb : snBlk (scConv c.raw) = (b, u))
include hw hb

/-- A change of WD fields goes by way of STOPPING. -/
theorem sensorCmd_of_change : sensorCmd s k a chk no wd change =
    .next (after s (settle (streamIx k) c (snGo (disableBlk s.chip b u false) c
      (if blkGet s.chip b u = .disabled then [] else [1]) change))) := by
  rw [sensorCmd, runCmd_of_taking ht]
  simp only [hn, hr, hw, hb, not_true_eq_false, if_false]

theorem sensorCmd_of_disabled (hd : blkGet s.chip b u = .disabled) : sensorCmd s k a chk no wd change =
    .next (answered s k c (change s.chip c).1 (change s.chip c).2) := by
  rw [sensorCmd_of_change ht hn hr hw hb, if_pos hd, disableBlk_of_not_enabled _ _ _ _ (by simp [hd]),
    snGo_of_disabled hb (stopBlk_of_not_ready _ _ _ _ (.inl (by simp [hd]))).symm hr hd, settle_reply, answered, if_pos rfl]

variable (hd : blkGet s.chip b u ≠ .disabled) {x y : Chip} (hx : x = disableBlk s.chip b u false)
  (hy : y = stopBlk x b u false)
include hd hx hy

theorem sensorCmd_of_stopping (h : blkGet y b u ≠ .disabled) :
    sensorCmd s k a chk no wd change = .next (waits s k c x [1]) := by
  subst hx
  rw [sensorCmd_of_change ht hn hr hw hb, if_neg hd, snGo_of_held hb hy (.inr h), settle_stay, waits]

theorem sensorCmd_of_stopped (h : blkGet y b u = .disabled) : sensorCmd s k a chk no wd change =
    .next (answered s k c (enableBlk (change y c).1 b u false) (change y c).2) := by
  subst hx
  have hrun : islandRuns (disableBlk s.chip b u false) 21 = true := (islandRuns_disableBlk ..).trans hr
  rw [sensorCmd_of_change ht hn hr hw hb, if_neg hd, snGo_of_disabled hb hy hrun h, settle_reply, answered,
    if_neg (List.cons_ne_nil 1 [])]

end

section
variable (hw : Waiting s k 0xA0 (actRow a 4) c) {b : Blk} {u : Nat} (hb : snBlk (scConv c.raw) = (b, u)) {y : Chip}
  (hy : y = stopBlk s.chip b u false)
include hw hb hy

theorem sensorCmd_again_of_held (h : islandRuns s.chip 21 = false ∨ blkGet y b u ≠ .disabled) :
    sensorCmd s k a chk no wd change = .next (waits s k c s.chip c.memo) :=
  runCmd_of_go_stay hw (snGo_of_held hb hy h)

theorem sensorCmd_again_of_stopped (hr : islandRuns s.chip 21 = true) (h : blkGet y b u = .disabled) :
    sensorCmd s k a chk no wd change = .next (answered s k c
      (if c.memo = [] then (change y c).1 else enableBlk (change y c).1 b u false) (change y c).2) :=
  runCmd_of_go_reply hw (snGo_of_disabled hb hy hr h)

end

/-- Each action of SENSOR_CFG is refused, goes at once or by way of STOPPING. -/
theorem configures_of_sensorCmd {i : Instr} (hi : exec i s = sensorCmd s k a chk no wd change) :
    configures s k c i a chk (no s.chip c.raw) (wd s.chip c.raw) (fun ch => change ch c) := by
  intro b u hb
  simp only [hi]
  refine ⟨fun ht => ⟨fun r => sensorCmd_of_refused ht, sensorCmd_of_no_clock ht, sensorCmd_of_now ht, fun hn hr hw =>
    ⟨sensorCmd_of_disabled ht hn hr hw hb, fun hd x y hx hy => ?_⟩⟩, fun hw y hy => ?_⟩
  · exact ⟨sensorCmd_of_stopping ht hn hr hw hb hd hx hy, sensorCmd_of_stopped ht hn hr hw hb hd hx hy⟩
  · exact ⟨sensorCmd_again_of_held hw hb hy, sensorCmd_again_of_stopped hw hb hy⟩

end

section
variable {ch ch1 : Chip} (h1 : ch1 = freeLayers (putBuffer ch (scConv c.raw) 0 0 false))
include h1

theorem changeBuffer_of_none (hn : pb c.raw 19 16 = 0) : changeBuffer ch c = (ch1, bufferRsp 0) := by
  subst h1
  exact if_pos hn

variable (hn : pb c.raw 19 16 ≠ 0)
include hn

theorem changeBuffer_of_window (hw : pb c.raw 2 2 = 1) : changeBuffer ch c =
    (putBuffer ch1 (scConv c.raw) (pb c.raw 13 8) (pb c.raw 19 16) false, bufferRsp (pb c.raw 13 8)) := by
  subst h1
  exact (if_neg hn).trans (if_pos hw)

variable (hw : pb c.raw 2 2 ≠ 1)
include hw

theorem changeBuffer_of_no_place (hp : placeHbm ch1 false 0xFF (pb c.raw 19 16) = none) :
    changeBuffer ch c = (ch, rspOf 0x15) := by
  subst h1
  exact (if_neg hn).trans ((if_neg hw).trans (by simp only [hp]))

theorem changeBuffer_of_place {da : Nat} (hp : placeHbm ch1 false 0xFF (pb c.raw 19 16) = some da) :
    changeBuffer ch c = (putBuffer ch1 (scConv c.raw) da (pb c.raw 19 16) true, bufferRsp da) := by
  subst h1
  exact (if_neg hn).trans ((if_neg hw).trans (by simp only [hp]))

end

/-! ### The statement -/

/-- Settles O47: each command refuses, is answered or waits as the case of its meaning says (logs 100, 101 and 103). -/
theorem counterCommands : Obligations.CounterCommands := by
  unfold Obligations.CounterCommands
  intro s k c
  refine ⟨?access, ?enable, ?disable, fun ht => ⟨snapArm_of_no_place ht, snapArm_of_place ht⟩, snapDisarm_of_taking,
    fun ht => ⟨snapTrigger_of_unarmed ht, fun m ha => ⟨snapTrigger_of_stopped ht ha, snapTrigger_of_running ht ha,
      snapTrigger_of_idle ht ha⟩⟩, configures_of_sensorCmd (exec_sensorCfgConverter ..),
    configures_of_sensorCmd (exec_sensorCfgSequence ..), configures_of_sensorCmd (exec_sensorCfgBuffer ..),
    configures_of_sensorCmd (exec_sensorCfgAlarm ..), ?buffer⟩
  case access =>
    rintro o rfl
    exact ⟨fun ht => ⟨fun ho => accessGrant_eq ht (setGrant_of_none ho), fun d ho => accessGrant_eq ht (setGrant_of_dump ho)⟩,
      fun ht => ⟨fun ho => accessRevoke_eq ht (setGrant_of_none ho), fun d ho => accessRevoke_eq ht (setGrant_of_dump ho)⟩⟩
  case enable =>
    intro ht jb hj
    refine ⟨dumpEnable_of_dump ht hj, fun hd da n d hn hdd hp => ?_, dumpEnable_of_no_place ht hj⟩
    subst hn
    exact dumpEnable_of_place ht hj hd hdd hp
  case disable =>
    intro ht
    have he := dumpDisable_eq ht
    refine ⟨fun h => ?_, fun h => ?_⟩
    · rw [he, endDump_of_busy h, settle_stay, waits]
    · rw [he, endDump_of_free h, settle_reply, answered]
  case buffer =>
    exact fun ch ch1 h1 => ⟨changeBuffer_of_none h1, changeBuffer_of_window h1, fun hn hw =>
      ⟨changeBuffer_of_no_place h1 hn hw, fun da => changeBuffer_of_place h1 hn hw⟩⟩

end Sys2Proof.CounterCommands
end

section
/-! Proofs about observation (21_observation.md R451 to R453, R460 to R465): cuts, records, monitors, snapshots, the
freeze and the reads of counters, and the statement Observation. -/

namespace Sys2Proof.Observation
open Sys2Proof Sys2Proof.Machine Sys2Proof.Claims Sys2Proof.Laws Sys2Proof.ScalarCore Sys2Proof.RegisterBus

variable {s : State}

/-! ### Cuts and their records (R452, R453) -/

section
variable (hl : live s.chip = true)
include hl

theorem sorrelCut_of_free (hr : obsRuns s.chip = true) (hp : periodOver s.chip = true) (hb : s.chip.obs.cutBusy = false) :
    exec .sorrelCut s = .next (after s (updObs s.chip fun o => { o with
      seq := s.chip.obs.seq + 1, lastCut := thisPeriod s.chip, cutBusy := true
      recs := cutRecords s.chip (s.chip.obs.seq + 1), skipped := false })) :=
  exec_of_live hl (exec_sorrelCut _) (if_pos ⟨hr, hp, ne_true_of_eq_false hb⟩)

theorem sorrelCut_of_other (h : obsRuns s.chip = false ∨ periodOver s.chip = false ∨ s.chip.obs.cutBusy = true) :
    exec .sorrelCut s = .next s := by
  refine exec_of_live hl (exec_sorrelCut _) (if_neg ?_)
  rintro ⟨h1, h2, h3⟩
  simp [h1, h2, h3] at h

theorem cutSkipped_of_busy (hr : obsRuns s.chip = true) (hp : periodOver s.chip = true) (hb : s.chip.obs.cutBusy = true) :
    exec .cutSkipped s = .next (after s (raise
      (updObs s.chip fun o => { o with lastCut := thisPeriod s.chip, skipped := true }) .obsCutSkipped 0)) :=
  exec_of_live hl (exec_cutSkipped _) (if_pos ⟨hr, hp, hb⟩)

theorem cutSkipped_of_other (h : obsRuns s.chip = false ∨ periodOver s.chip = false ∨ s.chip.obs.cutBusy = false) :
    exec .cutSkipped s = .next s := by
  refine exec_of_live hl (exec_cutSkipped _) (if_neg ?_)
  rintro ⟨h1, h2, h3⟩
  simp [h1, h2, h3] at h

theorem recordsWritten_of_busy (hb : s.chip.obs.cutBusy = true) (hi : islandRuns s.chip 24 = true) :
    exec .cutRecordsWritten s = .next (after s (updObs (s.chip.obs.recs.foldl recordWritten s.chip) fun o =>
      { o with cutBusy := false, recs := [], doneSeq := o.seq })) :=
  exec_of_live hl (exec_cutRecordsWritten _) (if_pos ⟨hb, hi⟩)

theorem recordsWritten_of_other (h : s.chip.obs.cutBusy = false ∨ islandRuns s.chip 24 = false) :
    exec .cutRecordsWritten s = .next s := by
  refine exec_of_live hl (exec_cutRecordsWritten _) (if_neg ?_)
  rintro ⟨h1, h2⟩
  simp [h1, h2] at h

/-! ### Snapshots (R462 to R465) -/

section
variable {n : Fin 4} {d : Nat}

section
variable {m : Arm} (ha : s.chip.obs.arm = some m) (hr : obsRuns s.chip = true)
  (ht : s.chip.obs.trigs.contains (n.val + 1, d) = true) (hlow : lowTrig s.chip.obs.trigs = n.val + 1)
include ha hr ht hlow

theorem yarrowTrigger_of_idle (hs : s.chip.obs.snap = none) :
    exec (.yarrowTrigger n d) s = .next (after s (takeSnap s.chip (n.val + 1) d m.da)) := by
  refine exec_of_live hl (exec_yarrowTrigger ..) ?_
  simp only [ha]
  exact (if_neg (by simp only [hr, ht, hlow]; simp)).trans (if_neg (by simp [hs]))

theorem yarrowTrigger_of_running (hs : s.chip.obs.snap.isSome = true) :
    exec (.yarrowTrigger n d) s = .next (after s (raise
      (updObs s.chip fun o => { o with trigs := o.trigs.filter fun x => x != (n.val + 1, d) }) .obsSnapMissed 0)) := by
  refine exec_of_live hl (exec_yarrowTrigger ..) ?_
  simp only [ha]
  exact (if_neg (by simp only [hr, ht, hlow]; simp)).trans (if_pos hs)

end

theorem yarrowTrigger_of_unarmed (ha : s.chip.obs.arm = none) : exec (.yarrowTrigger n d) s = .next s :=
  exec_of_live hl (exec_yarrowTrigger ..) (by simp only [ha])

theorem yarrowTrigger_of_other (h : obsRuns s.chip = false ∨ s.chip.obs.trigs.contains (n.val + 1, d) = false ∨
      lowTrig s.chip.obs.trigs ≠ n.val + 1) : exec (.yarrowTrigger n d) s = .next s := by
  cases ha : s.chip.obs.arm with
  | none => exact yarrowTrigger_of_unarmed hl ha
  | some m =>
    refine exec_of_live hl (exec_yarrowTrigger ..) ?_
    simp only [ha]
    exact if_pos (h.imp ne_true_of_eq_false (Or.imp_left ne_true_of_eq_false))

end

theorem snapshotWritten_of_none (h : s.chip.obs.snap = none) : exec .snapshotRecordWritten s = .next s :=
  exec_of_live hl (exec_snapshotRecordWritten _) (by simp only [h])

theorem snapshotWritten_of_stopped (h : islandRuns s.chip 24 = false) : exec .snapshotRecordWritten s = .next s := by
  cases hs : s.chip.obs.snap with
  | none => exact snapshotWritten_of_none hl hs
  | some x =>
    refine exec_of_live hl (exec_snapshotRecordWritten _) ?_
    simp only [hs, h, Bool.false_eq_true, not_false_eq_true, if_true]

theorem snapshotWritten_of_snap {da : Nat} {bs : List Byte} (hs : s.chip.obs.snap = some (da, bs))
    (hi : islandRuns s.chip 24 = true) : exec .snapshotRecordWritten s =
    .next (after s (health (raise (updObs (streamWrite s.chip da bs) fun o => { o with
      snap := none, arm := if o.rearmed then o.arm else o.arm.filter fun m => m.rearm }) .obsSnapDone 0))) := by
  refine exec_of_live hl (exec_snapshotRecordWritten _) ?_
  simp only [hs, hi, not_true_eq_false, if_false]

/-! ### Counter monitors (R461) -/

section
variable {m : Fin 272} {w : Word} {x : MonWin} (hw : w = monSrc s.chip m.val)
  (hx : x = tget s.chip.obs.mons ⟨0, 0, none⟩ m.val)
include hw hx

theorem monitorWindow_of_other (h : obsRuns s.chip = false ∨ w.getLsbD 31 = false ∨ w.getLsbD 30 = true ∨
      s.chip.us < x.startUs + monWinUs s.chip m.val) : exec (.healthMonitorWindow m) s = .next s := by
  subst hw hx
  exact exec_of_live hl (exec_healthMonitorWindow ..)
    (if_pos (h.imp ne_true_of_eq_false (Or.imp_left ne_true_of_eq_false)))

omit hx in
theorem monitorWindow_of_no_counter (h : monCounter m.val w = none) : exec (.healthMonitorWindow m) s = .next s := by
  subst hw
  refine exec_of_live hl (exec_healthMonitorWindow ..) ?_
  simp only [h]
  exact ite_self _

theorem monitorWindow_of_over (hr : obsRuns s.chip = true) (h31 : w.getLsbD 31 = true) (h30 : w.getLsbD 30 = false)
    (ht : x.startUs + monWinUs s.chip m.val ≤ s.chip.us) {k inc : Nat} (hk : monCounter m.val w = some k)
    (hinc : inc = (cntNow s.chip k + 2 ^ 64 - x.startCnt) % 2 ^ 64) {p : Reg × Nat}
    (hp : p = monReg m.val .obstHmStat .obspHmStat) {ch : Chip}
    (hch : ch = updObs (regPut s.chip p.1 p.2 31 8 (min 0xFFFFFF inc)) (fun o => { o with
      mons := tput o.mons m.val ⟨x.startUs + monWinUs s.chip m.val, cntNow s.chip k, x.firedAt⟩ })) :
    exec (.healthMonitorWindow m) s = .next (after s
      (if monHit (w.getLsbD 29) inc (monThr s.chip m.val).toNat then fireMon ch m.val else ch)) := by
  subst hw hx hch hp hinc
  refine exec_of_live hl (exec_healthMonitorWindow ..) ((if_neg ?_).trans ?_)
  · rintro (h | h | h | h)
    · exact h hr
    · exact h h31
    · exact ne_true_of_eq_false h30 h
    · exact Nat.not_lt.mpr ht h
  · simp only [hk]

end

end

/-! ### The freeze and the reads of counters (R451, R460) -/

theorem obsFreeze_of_onBus (h : OnBus s .obsFreeze 0) (b : Bool) : exec (.obsFreeze b) s =
    .next (after s (regPut (okBus s .obsFreeze 0) .obsFreeze 0 0 0 (b2n b))) := by
  rw [exec_obsFreeze, execObsFreeze, onReg_of_onBus h]

/-- While the counters are frozen none counts. -/
theorem count_of_frozen {ch : Chip} (h : (regGet ch .obsFreeze 0).getLsbD 0 = true) (k n : Nat) : count ch k n = ch :=
  if_neg (by simp [counting, h])

theorem regAddr_obsSel_ne : regAddr .obsSel 0 0 ≠ regAddr .pwrBusMaxstall 0 0 ∧
    regAddr .obsSel 0 0 ≠ regAddr .pwrBusEvent 0 0 := by decide

/-- A crossing leaves the selected counter and its value alone. -/
theorem cntSel_crossing (ch : Chip) (isle : Nat) : cntSel (crossing ch isle) = cntSel ch := by
  have hsel : regGet (crossing ch isle) .obsSel 0 = regGet ch .obsSel 0 := by
    unfold crossing
    split
    · rfl
    · rw [regGet_regPut_other _ regAddr_obsSel_ne.2, regGet_regPut_other _ regAddr_obsSel_ne.1]
      rfl
  obtain ⟨n, rs, h⟩ := crossing_shape ch isle
  have hcnt : (crossing ch isle).cnts = ch.cnts := by rw [h]
  rw [cntSel, cntSel, hsel, hcnt]

theorem obsCntLoRead_of_onBus (h : OnBus s .obsCntLo 0) : ∃ ch, exec .obsCntLoRead s = .next (after s ch) ∧
    ch.obs.cntHi = BitVec.ofNat 32 (cntSel s.chip / 2 ^ 32) ∧
    ch.resp = ⟨.ok, leBytes (cntSel s.chip % 2 ^ 32) 4, false⟩ := by
  have hsel : cntSel (okBus s .obsCntLo 0) = cntSel s.chip := cntSel_crossing s.chip _
  refine ⟨readReg (okBus s .obsCntLo 0) .obsCntLo 0 0, ?_, ?_, ?_⟩
  · rw [exec_obsCntLoRead, execObsCntLoRead, readCmd, onReg_of_onBus h]
  · rw [← hsel]
    rfl
  · rw [← hsel, ← BitVec.toNat_ofNat]
    rfl

/-! ### The statement -/

/-- Settles O49: each command of observation does what the case of its rule says, or nothing (logs 20 and 101). -/
theorem observation : Obligations.Observation := by
  unfold Obligations.Observation
  intro s hl
  refine ⟨fun hr hp => ⟨sorrelCut_of_free hl hr hp, cutSkipped_of_busy hl hr hp⟩, sorrelCut_of_other hl,
    cutSkipped_of_other hl, recordsWritten_of_busy hl, recordsWritten_of_other hl, fun n d => ⟨?trigger, ?noTrigger⟩,
    fun da bs => snapshotWritten_of_snap hl, fun h => h.elim (snapshotWritten_of_none hl) (snapshotWritten_of_stopped hl),
    ?window, ?noWindow, obsFreeze_of_onBus, ?stopped, fun h k n => count_of_frozen h k n, obsCntLoRead_of_onBus⟩
  case trigger =>
    exact fun m ha hr ht hlow => ⟨yarrowTrigger_of_idle hl ha hr ht hlow, yarrowTrigger_of_running hl ha hr ht hlow⟩
  case noTrigger =>
    exact fun h => h.elim (yarrowTrigger_of_unarmed hl) (yarrowTrigger_of_other hl)
  case window =>
    exact fun m k w x p hw hx hp hr h31 h30 ht hk inc hinc ch hch =>
      monitorWindow_of_over hl hw hx hr h31 h30 ht hk hinc hp hch
  case noWindow =>
    rintro m w x hw hx (h | h | h | h | h)
    · exact monitorWindow_of_other hl hw hx (.inl h)
    · exact monitorWindow_of_other hl hw hx (.inr (.inl h))
    · exact monitorWindow_of_other hl hw hx (.inr (.inr (.inl h)))
    · exact monitorWindow_of_other hl hw hx (.inr (.inr (.inr h)))
    · exact monitorWindow_of_no_counter hl hw h
  case stopped =>
    exact fun h => ⟨fun b => access_of_stopped ⟨_, exec_obsFreeze ..⟩ hl h,
      access_of_stopped ⟨fun ch => readReg ch .obsCntLo 0 0, exec_obsCntLoRead s⟩ hl h⟩

end Sys2Proof.Observation
end

section
/-! Proofs about the converters (22_cowslip_sensors.md R467 to R477): their triggers, conversions and references, and the
statement Converters. -/

namespace Sys2Proof.Converters
open Sys2Proof Sys2Proof.Machine Sys2Proof.Claims Sys2Proof.Laws Sys2Proof.ScalarCore

/-! ### The bits reg_now and inj_now (R481) -/

section
variable (ch : Chip) (k : Nat)

/-- A bit that is cleared leaves the other as it was. -/
theorem snBit_clear {b i : Nat} (hb : b = 1 ∨ b = 2) (hi : i = 1 ∨ i = 2) :
    snBit (snPutBit ch k b false) k i = (snBit ch k i && i != b) := by
  simp only [snBit, snPutBit, regPut, regGet_regSet_same, BitVec.getLsbD, b2n, Nat.testBit_eq_decide_div_mod_eq]
  rcases hb with rfl | rfl <;> rcases hi with rfl | rfl <;> simp <;> omega

theorem snBit_clear_if {b i : Nat} (hb : b = 1 ∨ b = 2) (hi : i = 1 ∨ i = 2) (p : Bool) :
    snBit (if p = true then snPutBit ch k b false else ch) k i = (snBit ch k i && !(p && i == b)) := by
  cases p with
  | false => simp
  | true => simp [snBit_clear ch k hb hi, bne]

/-- What SNS_CTRL asks for stays asked for while its run waits behind another. -/
theorem snBit_snBegun {x : Adc} (hx : x = convOf ch k) :
    snBit (snBegun ch k) k 1 = (snBit ch k 1 && x.reg.isSome && !snDoes x false) ∧
      snBit (snBegun ch k) k 2 = (snBit ch k 2 && (x.held.testBit 0 || x.src.testBit 0 && !snDoes x true)) := by
  subst hx
  simp only [snBegun, snBit_clear_if _ _ (.inr rfl) (.inl rfl), snBit_clear_if _ _ (.inr rfl) (.inr rfl),
    snBit_clear_if _ _ (.inl rfl) (.inl rfl), snBit_clear_if _ _ (.inl rfl) (.inr rfl)]
  cases snBit ch k 1 <;> cases snBit ch k 2 <;> simp

end

/-! ### Regular triggers (R472) -/

section
variable {s : State} {k : ConvId} (hl : live s.chip = true)
include hl

theorem regularTrigger_of_software (h : fld (snCfg s.chip k.val) 1 0 = 2) :
    exec (.snsRegularTrigger k) s = .next s :=
  exec_of_live hl (exec_snsRegularTrigger ..) (if_pos h)

theorem regularTrigger_of_other (h : fld (snCfg s.chip k.val) 1 0 ≠ 2) :
    exec (.snsRegularTrigger k) s = .next (after s (snTrigger s.chip k.val)) :=
  exec_of_live hl (exec_snsRegularTrigger ..) (if_neg h)

theorem regNow_of_other (h : fld (snCfg s.chip k.val) 1 0 ≠ 2) : exec (.regNow k) s = .next s :=
  exec_of_live hl (exec_regNow ..) (if_neg h)

theorem regNow_of_software (h : fld (snCfg s.chip k.val) 1 0 = 2) : exec (.regNow k) s =
    .next (after s (snBegun (snTrigger
      (if snOn s.chip k.val && !snSync s.chip k.val && (convOf s.chip k.val).reg.isNone
        then snPutBit s.chip k.val 1 true else s.chip) k.val) k.val)) :=
  exec_of_live hl (exec_regNow ..) (if_pos h)

end

section
variable {ch : Chip} {k : Nat}

theorem snTrigger_of_synchronised (hk : k < 8) (h : (snCfg ch k).getLsbD 3 = true) : snTrigger ch k = ch :=
  if_pos (by simp [snSync, hk, h])

theorem snTrigger_of_own (hk : k < 8) (h : (snCfg ch k).getLsbD 3 = false) : snTrigger ch k = snStart ch k :=
  (if_neg (by simp only [snSync, h, Bool.and_false, Bool.false_eq_true, not_false_eq_true])).trans (if_neg (by omega))

/-- The package converter starts the synchronised ones with its own. -/
theorem snTrigger_of_package : snTrigger ch 8 = if snOn ch 8 then
    ((List.range 8).filter fun i => (snCfg ch i).getLsbD 3).foldl snStart (snStart ch 8) else snStart ch 8 := by
  have hsync : (List.range 8).filter (snSync ch) = (List.range 8).filter fun i => (snCfg ch i).getLsbD 3 :=
    List.filter_congr fun i hi => by simp [snSync, List.mem_range.mp hi]
  refine (if_neg (by simp [snSync])).trans ?_
  simp only [hsync, true_and]

theorem snStart_of_off (h : snOn ch k = false) : snStart ch k = ch := if_pos (ne_true_of_eq_false h)

variable (h : snOn ch k = true)
include h

theorem snStart_of_running (hr : (convOf ch k).reg.isSome = true) :
    snStart ch k = snRaise ch k .snstRegOverrun .snsRegOverrun :=
  (if_neg (not_not.mpr h)).trans (if_pos hr)

theorem snStart_of_idle (hr : (convOf ch k).reg = none) {p : Option SnsPos} (hp : p = (snSeq ch k false 0).head?) :
    snStart ch k = updConv ch k fun x => { x with reg := p, now := if x.now.isNone && x.src == 0 then p else x.now } := by
  subst hp
  exact (if_neg (not_not.mpr h)).trans (if_neg (by simp [hr]))

end

/-! ### Urgent triggers (R473) -/

section
variable {ch : Chip} {k n : Nat} {x : Adc}

theorem snUrgent_of_off (h : snOn ch k = false ∨ n = 0) : snUrgent ch k n = ch := if_pos (h.imp_left ne_true_of_eq_false)

variable (hx : x = convOf ch k) (ho : snOn ch k = true) (hn : n ≠ 0)
include hx ho hn

section
variable (hs : x.src ≠ 0)
include hs

theorem snUrgent_of_held (hh : x.held = 0) : snUrgent ch k n = updConv ch k fun x => { x with held := n } := by
  subst hx
  exact (if_neg (by simp [ho, hn])).trans ((if_pos hs).trans (if_pos hh))

theorem snUrgent_of_overrun (hh : x.held ≠ 0) : snUrgent ch k n = snRaise ch k .snstInjOverrun .snsInjOverrun := by
  subst hx
  exact (if_neg (by simp [ho, hn])).trans ((if_pos hs).trans (if_neg hh))

end

variable (hs : x.src = 0)
include hs

theorem snUrgent_of_no_entry (hp : (snSeq ch k true n).head? = none) : snUrgent ch k n = ch := by
  subst hx
  exact (if_neg (by simp [ho, hn])).trans ((if_neg (not_not.mpr hs)).trans (by simp only [hp]))

theorem snUrgent_of_entry {p : SnsPos} (hp : (snSeq ch k true n).head? = some p) : snUrgent ch k n =
    updConv ch k fun x => { x with src := n, now := if x.now.isNone then some p else x.now } := by
  subst hx
  exact (if_neg (by simp [ho, hn])).trans ((if_neg (not_not.mpr hs)).trans (by simp only [hp]))

end

/-! ### Conversions and references (R467, R469, R474 to R477) -/

section
variable {s : State} {k : ConvId} {obs : ConvObs} (hl : live s.chip = true)
include hl

theorem conversion_of_none (h : (convOf s.chip k.val).now = none) : exec (.snsConversion k obs) s = .next s :=
  exec_of_live hl (exec_snsConversion ..) (by simp only [h])

theorem conversion_of_stopped (h : snMoves s.chip k.val = false) : exec (.snsConversion k obs) s = .next s := by
  cases hn : (convOf s.chip k.val).now with
  | none => exact conversion_of_none hl hn
  | some p =>
    refine exec_of_live hl (exec_snsConversion ..) ?_
    simp only [hn, h, Bool.false_eq_true, not_false_eq_true, if_true]

theorem conversion_of_some {p : SnsPos} {w v : Word} {raw opn diode : Bool} (hn : (convOf s.chip k.val).now = some p)
    (hm : snMoves s.chip k.val = true) (hw : w = snEntry s.chip k.val p.inj p.ent)
    (hraw : raw = !((convOf s.chip k.val).settled.getLsbD (fld w 28 27))) (hopn : opn = snOpen w p.chan obs.code.toNat)
    (hv : v = pack [(0, obs.code.toNat), (14, b2n opn), (15, b2n raw), (31, 1)])
    (hdiode : diode = decide (k.val < 8 ∧ p.chan < 16)) {c1 c2 c3 c4 c5 : Chip} {rec8 : List Byte}
    (h1 : c1 = if k.val < 8 then regSet s.chip .snstLast k.val v p.chan else regSet s.chip .snsLast 0 v p.chan)
    (h2 : c2 = if raw then snRaise c1 k.val .snstUnsettled .snsUnsettled else c1)
    (h3 : c3 = if opn then health (snRaise c2 k.val .snstOpenWire .snsOpenWire) else c2)
    (hrec : rec8 = leBytes (obs.code.toNat + b2n opn * 2 ^ 14 + b2n raw * 2 ^ 15) 2 ++ leBytes p.chan 1 ++
      leBytes (k.val + b2n p.inj * 16 + b2n (fld w 30 29 != 0) * 32 + fld w 28 27 * 64) 1 ++ leBytes (islCycles c3 21) 4)
    (h4 : c4 = sensorMons (snRecord c3 k.val rec8 obs.bufError) k.val p.chan obs.code.toNat)
    (h5 : c5 = snNext (if diode && !p.inj && fld w 30 29 == 0 then snMean c4 k.val p.chan obs.code.toNat else c4) k.val p) :
    exec (.snsConversion k obs) s =
      .next (after s (if diode then snAlarm c5 k.val p.chan obs.code.toNat else c5)) := by
  refine exec_of_live hl (exec_snsConversion ..) ?_
  subst h5 h4 hrec h3 h2 h1 hv hopn hraw hw
  simp only [hn, hm, not_true_eq_false, if_false, ← hdiode, Bool.and_eq_true, Bool.not_eq_true, Bool.not_eq_true',
    beq_iff_eq, and_assoc]

theorem referenceSettled_of_on (r : Fin 3) (h : snOn s.chip k.val = true) : exec (.referenceSettled k r) s =
    .next (after s (updConv s.chip k.val fun x => { x with settled := x.settled ||| BitVec.ofNat 3 (2 ^ r.val) })) :=
  exec_of_live hl (exec_referenceSettled ..) (if_pos h)

theorem referenceSettled_of_off (r : Fin 3) (h : snOn s.chip k.val = false) :
    exec (.referenceSettled k r) s = .next s :=
  exec_of_live hl (exec_referenceSettled ..) (if_neg (ne_true_of_eq_false h))

end

/-! ### The statement -/

/-- Settles O50: triggers, conversions and references do what the case of their rule says, or nothing (logs 115 and 150). -/
theorem converters : Obligations.Converters := by
  unfold Obligations.Converters
  intro s k hl
  refine ⟨fun h => ⟨regularTrigger_of_other hl h, regNow_of_other hl h⟩,
    fun h => ⟨regularTrigger_of_software hl h, regNow_of_software hl h⟩, fun ch x hx => snBit_snBegun ch k.val hx,
    snTrigger_of_synchronised, snTrigger_of_own, fun _ => snTrigger_of_package, snStart_of_off,
    fun h => ⟨snStart_of_running h, fun hr p => snStart_of_idle h hr⟩,
    fun n => exec_of_live hl (exec_snsUrgentTrigger ..) rfl, exec_of_live hl (exec_injNow ..) rfl, ?urgent,
    fun obs h => h.elim (conversion_of_none hl) (conversion_of_stopped hl), ?conversion,
    fun r => ⟨referenceSettled_of_on hl r, referenceSettled_of_off hl r⟩⟩
  case urgent =>
    exact fun ch n x hx => ⟨snUrgent_of_off, fun ho hn => ⟨snUrgent_of_held hx ho hn, snUrgent_of_overrun hx ho hn,
      snUrgent_of_no_entry hx ho hn, fun hs p => snUrgent_of_entry hx ho hn hs⟩⟩
  case conversion =>
    exact fun obs p w v raw opn diode hn hm hw hraw hopn hv hdiode c1 c2 c3 c4 c5 rec8 h1 h2 h3 hrec h4 h5 =>
      conversion_of_some hl hn hm hw hraw hopn hv hdiode h1 h2 h3 hrec h4 h5

end Sys2Proof.Converters
end

section
/-! Proofs about the power manager (23_power_security_management.md R482 to R488, R496, R498): intervals, the bias, steps of
a change, holds and the trip, and the statement PowerManager. -/

namespace Sys2Proof.PowerManager
open Sys2Proof Sys2Proof.Machine Sys2Proof.Claims Sys2Proof.Laws Sys2Proof.ScalarCore

/-! ### A tower's operating point (R482, R484) -/

/-- A change of a tower's point depends on what it makes of the point that stands. -/
theorem updPoint_congr {ch : Chip} {t : Nat} {f g : PTower → PTower} (h : f (pointOf ch t) = g (pointOf ch t)) :
    updPoint ch t f = updPoint ch t g := by
  have h : f (tget ch.sys.pwr.tw pointReset t) = g (tget ch.sys.pwr.tw pointReset t) := h
  simp only [updPoint, updPwr, h]

section
variable {p : PTower} {mv : Nat → Nat}

theorem glide_up (h : p.f < p.goal) (hr : p.ramp = false) : glide p mv = { p with f := p.f + 1 } :=
  (if_neg (by omega)).trans (if_pos ⟨h, ne_true_of_eq_false hr⟩)

theorem glide_of_ramp (h : p.f < p.goal) (hr : p.ramp = true) : glide p mv = p :=
  (if_neg (by omega)).trans (if_neg fun hn => hn.2 hr)

theorem glide_of_reached (h : p.f = p.goal) : glide p mv = p :=
  (if_neg (by omega)).trans (if_neg fun hn => by omega)

section
variable {q : PTower} (h : p.goal < p.f) (hq : q = { p with f := p.f - 1 })
include h hq

theorem glide_down_last (hg : q.f = p.goal) (hh : p.held = false ∨ q.f ≤ 18) : glide p mv = commandMv q (mv q.f) := by
  subst hq
  refine (if_pos h).trans (if_pos ⟨hg, fun ⟨h1, h2⟩ => ?_⟩)
  exact hh.elim (fun h0 => ne_true_of_eq_false h0 h1) fun h0 => Nat.not_lt.mpr h0 h2

theorem glide_down (hg : q.f ≠ p.goal ∨ p.held = true ∧ 18 < q.f) : glide p mv = q := by
  subst hq
  exact (if_pos h).trans (if_neg fun ⟨h1, h2⟩ => hg.elim (fun hn => hn h1) h2)

end
end

/-- A tower's goal moves by at most one code in an interval (R496). -/
theorem nextGoal_within (ch : Chip) (t : Nat) :
    nextGoal ch t ≤ (pointOf ch t).goal + 1 ∧ (pointOf ch t).goal ≤ nextGoal ch t + 1 := by
  unfold nextGoal
  dsimp only
  split
  · omega
  split
  · omega
  split <;> omega

/-- Besides its aim an interval sets only whether the tower is capped. -/
theorem towerInterval_eq (ch : Chip) (nv : NonVol) (t : Nat) : ∃ y, towerInterval ch nv t =
    updPoint (updPoint ch t fun p => aim p (nextGoal ch t) (vfMv nv t (nextGoal ch t))) t fun p =>
      { p with capped := y } :=
  ⟨((pointOf (aimTower ch nv t (nextGoal ch t)) t).capped || decide (capOf ch < ch.sys.pwr.est)) &&
    decide (nextGoal ch t < ceilingOf ch t), by rw [towerInterval, aimTower]; exact updPoint_congr rfl⟩

/-! ### Intervals and the bias (R485, R486) -/

section
variable {s : State} (hl : live s.chip = true)
include hl

theorem powerInterval_of_running (e : Nat) (hr : powerRuns s.chip = true) {c0 c2 : Chip}
    (h0 : c0 = updPwr s.chip (fun p => { p with est := ((e : Int) + p.bias).toNat }))
    (h2 : c2 = gateInterval ((List.range 8).foldl (fun c t => towerInterval c s.nv t) c0)
      ((List.range 8).all fun t => (pointOf c0 t).goal == 18)) : exec (.powerInterval e) s =
    .next (after s (updPwr c2 fun p => { p with
      capMs := p.capMs || cappedTowers c2 != 0, holdMs := p.holdMs || heldTowers c2 != 0 })) := by
  subst h2 h0
  exact exec_of_live hl (exec_powerInterval ..) (if_neg (not_not.mpr hr))

theorem powerInterval_of_stopped (e : Nat) (hr : powerRuns s.chip = false) : exec (.powerInterval e) s = .next s :=
  exec_of_live hl (exec_powerInterval ..) (if_pos (ne_true_of_eq_false hr))

theorem biasCorrect_of_no_figure (hb : s.chip.sys.pwr.boardAt = none) : exec .powerBiasCorrect s = .next s :=
  exec_of_live hl (exec_powerBiasCorrect _) (by simp only [hb])

section
variable {a : Nat} (hb : s.chip.sys.pwr.boardAt = some a)
include hb

theorem biasCorrect_of_held (h : powerRuns s.chip = false ∨ a + 10000 < s.chip.us) :
    exec .powerBiasCorrect s = .next s := by
  refine exec_of_live hl (exec_powerBiasCorrect _) ?_
  simp only [hb]
  exact if_pos (h.imp_left ne_true_of_eq_false)

theorem biasCorrect_of_fresh (hr : powerRuns s.chip = true) (ha : s.chip.us ≤ a + 10000) :
    exec .powerBiasCorrect s = .next (after s (updPwr s.chip fun p => { p with
      bias := p.bias + ((regGet s.chip .pwrTlmBoard 0).toNat / 1000 : Nat) - (p.est : Int) })) := by
  refine exec_of_live hl (exec_powerBiasCorrect _) ?_
  simp only [hb]
  exact if_neg (by simp [hr, ha])

end

theorem biasCorrect_of_stopped (hr : powerRuns s.chip = false) : exec .powerBiasCorrect s = .next s := by
  cases hb : s.chip.sys.pwr.boardAt with
  | none => exact biasCorrect_of_no_figure hl hb
  | some a => exact biasCorrect_of_held hl hb (.inl hr)

/-! ### Steps of a change, holds and the trip (R484, R487, R488) -/

variable {t : TowerId}

theorem freqGlide_of_stopped (hi : islandRuns s.chip 20 = false) : exec (.freqGlide t) s = .next s :=
  exec_of_live hl (exec_freqGlide ..) (if_neg (ne_true_of_eq_false hi))

theorem freqGlide_of_running (hi : islandRuns s.chip 20 = true) {p : PTower} (hp : pointOf s.chip t.val = p)
    {f : PTower → PTower} (hf : glide p (vfMv s.nv t.val) = f p) :
    exec (.freqGlide t) s = .next (after s (updPoint s.chip t.val f)) := by
  subst hp
  exact exec_of_live hl (exec_freqGlide ..) ((if_pos hi).trans (updPoint_congr hf))

theorem rampDone_of_held (h : islandRuns s.chip 20 = false ∨ (pointOf s.chip t.val).ramp = false) (e : Bool) :
    exec (.voltageRampDone t e) s = .next s :=
  exec_of_live hl (exec_voltageRampDone ..) (if_pos (h.symm.imp ne_true_of_eq_false ne_true_of_eq_false))

section
variable (hi : islandRuns s.chip 20 = true) (hr : (pointOf s.chip t.val).ramp = true)
include hi hr

theorem rampDone_of_settled : exec (.voltageRampDone t false) s =
    .next (after s (updPoint s.chip t.val fun p => { p with ramp := false })) :=
  exec_of_live hl (exec_voltageRampDone ..) ((if_neg (by simp [hi, hr])).trans (if_neg Bool.false_ne_true))

/-- After a port error the tower keeps its code, and its old voltage. -/
theorem rampDone_of_error : exec (.voltageRampDone t true) s = .next (after s (health (raise
    (updPoint s.chip t.val fun p => { p with ramp := false, goal := p.f, mv := p.mvOld }) .pwrVrError 0))) :=
  exec_of_live hl (exec_voltageRampDone ..) ((if_neg (by simp [hi, hr])).trans (if_pos rfl))

end

section
variable {p : PTower} (hp : pointOf s.chip t.val = p)
include hp

theorem holdRaise_of_held (h : powerRuns s.chip = false ∨ islandRuns s.chip 21 = false ∨ p.held = true ∨
      p.cooling = false ∨ s.chip.us < p.since + 1000) : exec (.thermalHoldRaise t) s = .next s := by
  subst hp
  refine exec_of_live hl (exec_thermalHoldRaise ..) (if_pos ?_)
  rcases h with h | h | h | h | h <;> simp [h]

variable (hr : powerRuns s.chip = true) (hi : islandRuns s.chip 21 = true) (hh : p.held = false) (hc : p.cooling = true)
  (ht : p.since + 1000 ≤ s.chip.us)
include hr hi hh hc ht

/-- A tower whose hold has been over for a millisecond has cooled, waits for the cap or rises by a code. -/
theorem holdRaise_of_due {ch : Chip} (hch : (if ceilingOf s.chip t.val ≤ p.goal then
        updPoint s.chip t.val fun p => { p with cooling := false }
      else if ¬mayRise s.chip = true then s.chip
      else updPoint (aimTower s.chip s.nv t.val (p.goal + 1)) t.val fun q =>
        { q with since := s.chip.us, cooling := decide (q.goal < ceilingOf s.chip t.val) }) = ch) :
    exec (.thermalHoldRaise t) s = .next (after s ch) := by
  subst hp
  exact exec_of_live hl (exec_thermalHoldRaise ..) ((if_neg (by simp [hr, hi, hh, hc, ht])).trans hch)

theorem holdRaise_of_ceiling (hg : ceilingOf s.chip t.val ≤ p.goal) : exec (.thermalHoldRaise t) s =
    .next (after s (updPoint s.chip t.val fun p => { p with cooling := false })) :=
  holdRaise_of_due hl hp hr hi hh hc ht (if_pos hg)

variable (hg : p.goal < ceilingOf s.chip t.val)
include hg

theorem holdRaise_of_rise (hm : mayRise s.chip = true) : exec (.thermalHoldRaise t) s =
    .next (after s (updPoint (aimTower s.chip s.nv t.val (p.goal + 1)) t.val fun q =>
      { q with since := s.chip.us, cooling := decide (q.goal < ceilingOf s.chip t.val) })) :=
  holdRaise_of_due hl hp hr hi hh hc ht ((if_neg (by omega)).trans (if_neg (not_not.mpr hm)))

theorem holdRaise_of_cap (hm : mayRise s.chip = false) : exec (.thermalHoldRaise t) s = .next s :=
  holdRaise_of_due hl hp hr hi hh hc ht ((if_neg (by omega)).trans (if_pos (ne_true_of_eq_false hm)))

end

theorem thermtrip_stops : ∃ ch, exec (.thermtrip t) s = .next (after s ch) ∧ ch.islRun = 0 ∧ ch.sys.pins.trip = true ∧
    ch.nwl.barOut = 0 ∧ ch.pci.width = 0 ∧ live ch = false ∧ ch.mem = s.chip.mem ∧ ch.regs = s.chip.regs :=
  ⟨_, exec_of_live hl (exec_thermtrip ..) rfl, rfl, rfl, rfl, rfl, by simp [live], rfl, rfl⟩

end

/-! ### The statement -/

/-- Settles O51: intervals, glides, ramps, holds and the trip do what the case of their rule says, or nothing (logs 106,
107 and 108). -/
theorem powerManager : Obligations.PowerManager := by
  unfold Obligations.PowerManager
  intro s t hl
  refine ⟨fun e hr c0 c2 => powerInterval_of_running hl e hr,
    fun hr => ⟨fun e => powerInterval_of_stopped hl e hr, biasCorrect_of_stopped hl hr⟩,
    fun ch nv => towerInterval_eq ch nv t.val, nextGoal_within s.chip t.val, fun a => biasCorrect_of_fresh hl, ?bias,
    rampDone_of_held hl, freqGlide_of_stopped hl, ?steps, ?rise, fun p => holdRaise_of_held hl, thermtrip_stops hl⟩
  case bias =>
    rintro (hb | ⟨a, hb, ha⟩)
    · exact biasCorrect_of_no_figure hl hb
    · exact biasCorrect_of_held hl hb (.inr ha)
  case steps =>
    intro hi p hp
    refine ⟨fun h hr => freqGlide_of_running hl hi hp (glide_up h hr),
      fun h hr => freqGlide_of_running hl hi hp (glide_of_ramp h hr),
      fun h => freqGlide_of_running hl hi hp (glide_of_reached h), fun h q hq => ⟨fun hg hh => ?_, fun hg => ?_⟩, ?_⟩
    · exact freqGlide_of_running hl hi hp (glide_down_last h hq hg hh)
    · exact freqGlide_of_running hl hi hp (glide_down h hq hg)
    · rintro hr
      subst hp
      exact ⟨rampDone_of_settled hl hi hr, rampDone_of_error hl hi hr⟩
  case rise =>
    exact fun hr hi p hp hh hc ht => ⟨holdRaise_of_ceiling hl hp hr hi hh hc ht, holdRaise_of_rise hl hp hr hi hh hc ht,
      holdRaise_of_cap hl hp hr hi hh hc ht⟩

end Sys2Proof.PowerManager
end
